-- ==== Sys2Proof/Word.lean ====
section
/-! DEFINITION. The plain word types of the CZK-3200 model and its sparse tables. -/

namespace Sys2Proof

/-- A 32-bit register word (R445). -/
abbrev Word := BitVec 32

/-- One byte of a memory structure (R4). -/
abbrev Byte := BitVec 8

/-- A spindle S0 to S31 (00_scope, numbered objects). -/
abbrev Sp := Fin 32

/-- A tick input T0 to T15. -/
abbrev Inp := Fin 16

/-- A leaf port 0 to 7. -/
abbrev Port := Fin 8

/-- A sparse table: key and value pairs, keys strictly rising, no entry equal to what an
unlisted key reads as.  Memories, knots, queues and tensors are held so. -/
abbrev Tab (α : Type) := List (Nat × α)

end Sys2Proof
end

