-- ==== Sys2Proof/Syntax.lean ====
section
/-! DEFINITION. The commands of the engine: one constructor of `Instr` for each row of
spec/opcode_table.json, with the operands that the chip, a partner or the passage of time
brings to it. -/

namespace Sys2Proof

/-- What a SECDED check newly found in the rows that a command reads (R482, R483); `k` is the place, among those rows, of the row with
the error. -/
inductive Ecc where
  | ok
  | corrected (k : Nat := 0)
  | uncorrectable (k : Nat := 0)
deriving DecidableEq, Repr

/-- What the check of a Creel cell's row found (R297, R483): an uncorrectable error counts as
one of the data bytes or of the link word. -/
inductive CellEcc where
  | ok | corrected | data | link
deriving DecidableEq, Repr

/-- An expansion operand of a job, A or B (R130). -/
inductive Opnd where
  | a | b
deriving DecidableEq, Repr

/-- An AXI response (R425). -/
inductive AxiResp where
  | okay | slverr | decerr
deriving DecidableEq, Repr

/-- The path of a register access (R445). -/
inductive RegPath where
  | apb | debug
deriving DecidableEq, Repr

/-- What begins a warm reset (R507). -/
inductive WarmCause where
  | pin | flyerSram
deriving DecidableEq, Repr

/-- A power domain that is woken by the engine (R498). -/
inductive WakeDomain where
  | bobbin | distaff | spindle (n : Sp)
deriving DecidableEq, Repr

/-- A row of a patrolled SRAM (R483, memory codes 1 to 7).  A row of the cell pool is a cell's, with its data and its link word (R297):
the constructor says in which of them the error lies. -/
inductive SramRow where
  | spindleStore (n : Sp) (row : Nat)
  | bobbin (bank : Fin 16) (row : Nat)
  | cellData (cell : Nat)
  | cellLink (cell : Nat)
  | whorl (n : Sp) (row : Nat)
  | hankHash (n : Sp) (row : Nat)
  | knot (k : Nat)
  | flyer (row : Nat)
deriving DecidableEq, Repr

/-- A register of a ring in memory: base low, base high, size (R377, R476). -/
inductive RingReg where
  | baseLo | baseHi | size
deriving DecidableEq, Repr

/-- A page that holds a snapshot word (R455). -/
inductive SnapPage where
  | glb | sec | tel
deriving DecidableEq, Repr

/-- AXI burst kinds (R421). -/
inductive Burst where
  | incr | fixed | wrap
deriving DecidableEq, Repr

/-- A slice's end of a segment: the lane, the spindle clocks that the array waited for a Whorl bank and for an accumulator, and what the
check of the Whorl rows read in GATHER found (R149, R168, R483; log 8). -/
structure SegmentEnd where
  lane      : Fin 64
  whorlWait : Nat := 0
  drainWait : Nat := 0
  row       : Ecc := .ok
deriving DecidableEq, Repr

/-- A block matched for the job at a place, and the positions of the block at which the hash head that was read failed its SECDED
check (R220; log 8). -/
structure BlockMatch where
  j   : Nat
  bad : List (Fin 65536) := []
deriving DecidableEq, Repr

/-- A write burst into the queue window of a leaf port's subordinate half (R303, R421). -/
structure PortWrite where
  port    : Port
  queue   : Nat
  /-- Offset within the 4 KiB aperture of the burst's first byte. -/
  offset  : Nat
  burst   : Burst
  /-- AxSIZE. -/
  size    : Nat
  /-- Beats of the burst. -/
  beats   : Nat
  /-- Exclusive access or atomic transaction. -/
  special : Bool
  /-- The strobed bytes in ascending address order, beat by beat. -/
  bytes   : List Byte
  /-- AxID, returned as received (R421). -/
  id      : BitVec 12 := 0
deriving DecidableEq, Repr

/-- A read burst of the queue window (R315, R427). -/
structure PortRead where
  port    : Port
  queue   : Nat
  offset  : Nat
  burst   : Burst
  size    : Nat
  beats   : Nat
  special : Bool
  /-- AxID, returned as received (R421). -/
  id      : BitVec 12 := 0
deriving DecidableEq, Repr

/-- What the ENG_DEBUG instruction does once it is the active instruction (R441). -/
inductive DebugOp where
  | select
  | write (addr : BitVec 23) (data : Word)
  | read (addr : BitVec 23)
  | halt
  | step
  | run
deriving DecidableEq, Repr

/-- A side of the Hank lane (R235). -/
inductive HankSide where
  | enc | dec
deriving DecidableEq, Repr

/-- The commands of the engine: the rows of spec/opcode_table.json in the table's order.
`n` is a spindle and `j` the place of a started job in the spindle's list of started jobs,
counted from 0 in dispatch order.  `waited` is the number of clocks that a wait lasted,
which the clock-level timing decides. -/
inductive Instr where
  | coldReset
  | warmReset (cause : WarmCause)
  | warmQuiesceEnd
  | startDistaffWoken
  | startMapRebuilt
  | startKeysLoaded
  | firmwareMeasured (distaff : Ecc)
  | recoveryLoadDone
  | imageSelected (distaff : Ecc)
  | startImageApplied
  | spindleWakeRequest (n : Sp)
  | wakeStart
  | wakeComplete (d : WakeDomain)
  | spindlePowerOff (n : Sp)
  | distaffPowerOff
  | governorInterval (estimateMw : Nat) (temp : BitVec 16) (fractionUw : Nat)
  | spreadSweepStart
  | scrubVisit (row : SramRow) (found : Ecc) (patrolEnds : Bool)
  | calibrationFold
  | distaffBlockWriteDone (failed : Bool)
  | telemetrySample
  | tickArrive (t : Inp)
  | syntheticTick (t : Inp)
  | maxGapExpiry (t : Inp)
  | closeExpiry (t : Inp)
  | budgetExpiry (t : Inp)
  | shareWindowEnd
  | switchPointReached (n : Sp)
  | contextSaveDone (n : Sp) (ns : Nat)
  | jobResume (n : Sp)
  | contextRestoreDone (n : Sp) (ns : Nat)
  | jobStart (n : Sp)
  | workClaimGrant (n : Sp)
  | completionPost (n : Sp) (j : Nat) (clocks stalled : Nat)
  | dofferAccept
  | recordStepsBegin
  | foldHeaderReadDone (resp : AxiResp) (data : List Byte)
  | foldDestAck (resp : AxiResp)
  | knotBankApply (bank : Fin 16) (row : Ecc)
  | drainLimitExpiry (n : Sp)
  | enableWrite (n : Sp) (on : Bool)
  | hankEnWrite (n : Sp) (on : Bool)
  | plyEnWrite (n : Sp) (on : Bool)
  | ringEnWrite (n : Sp) (on : Bool)
  | spnAbortWrite (n : Sp) (tag : Word)
  | kntCountWrite (path : RegPath) (v : Word)
  | kntThreshWrite (path : RegPath) (v : Word)
  | kntAddWrite (path : RegPath) (v : Word)
  | dofRingConfigWrite (reg : RingReg) (v : Word)
  | dofRingTailWrite (v : Word)
  | glbEvtAckWrite (v : Word)
  | snapshotWrite (path : RegPath) (page : SnapPage) (v : Word)
  | snapshotCaptureDone
  | aliasWrite (addr : BitVec 23) (v : Word)
  | tckPinPolWrite (v : Word)
  | telRingConfigWrite (reg : RingReg) (v : Word)
  | telRingTailWrite (v : Word)
  | registerWrite (path : RegPath) (addr : BitVec 23) (strb : BitVec 4) (data : Word)
  | registerStallLimit
  | tvVote
  | secAttRequest
  | attestReportReady
  | narrowPush (path : RegPath) (count : BitVec 4) (ends : Bool)
  | narrowEnd
  | narrowAbort
  | narrowPop (cell : CellEcc)
  | imageActivate (resp : AxiResp) (copy : List Byte)
  | imageStoreDone
  | rebind
  | keyRoll
  | testUnlock
  | counterReseed
  | scrubPolicy
  | rebindDrainEnd
  | bypass
  | idcode
  | wsBypass
  | wsExtest
  | wsIntest
  | engDebug (op : DebugOp)
  | engMbist
  | engScan
  | portQueueWriteBody (w : PortWrite)
  | portQueueWriteEnd (w : PortWrite)
  | portQueueWriteAbort (w : PortWrite)
  | portQueueRead (r : PortRead) (cell : CellEcc)
  | spindleQueueWrite (n : Sp) (j : Nat)
  | flyerQueueWrite (q : Nat) (bytes : List Byte) (ends : Bool)
  | spindleCellRead (n : Sp) (j : Nat) (cell : CellEcc)
  | cellGrant
  | cellWaitExpiry (q : Nat)
  | staleTimerExpiry (q : Nat)
  | leafReadResponse (p : Port) (id : BitVec 10) (resp : AxiResp) (poisoned rlast : Bool)
      (data : List Byte)
  | leafWriteResponse (p : Port) (id : BitVec 10) (resp : AxiResp) (dataSent : Bool)
  | axiTimeout (p : Port) (id : BitVec 10)
  | fwdCreditGrant (n : Sp)
  | flnkRstEnd (n : Sp)
  | feedWordSend (n : Sp) (j : Nat) (waited : Nat)
  | backWordArrive (n : Sp) (tag : BitVec 2) (count : BitVec 6) (data : List Byte)
  | streamHeaderArrive (n : Sp) (j : Nat) (o : Opnd) (row : Ecc)
  | tileEntryArrive (n : Sp) (j : Nat) (o : Opnd) (row : Ecc)
  | streamSetupDone (n : Sp) (j : Nat) (o : Opnd)
  | tilePayloadArrive (n : Sp) (j : Nat) (o : Opnd) (row : Ecc) (waited : Nat)
  | whorlBankFilled (n : Sp) (j : Nat)
  | plyBankReadDone (n : Sp) (j : Nat) (row : Ecc) (whorlWait drainWait : Nat)
  | accumulatorDrain (n : Sp) (j : Nat)
  | carderSourceRead (n : Sp) (j : Nat) (row : Ecc)
  | scaleChosen (n : Sp) (j : Nat)
  | drafterSourceRead (n : Sp) (j : Nat) (row : Ecc)
  | streamHeaderWriteAck (n : Sp) (j : Nat)
  | groupSlotWriteAck (n : Sp) (j : Nat)
  | groupWaitEnd (n : Sp) (j : Nat)
  | stepSetCommit (n : Sp) (setId : Nat)
  | searchDone (n : Sp) (lane : Fin 64)
  | mergeSegmentDone (n : Sp) (lane : SegmentEnd)
  | sortPassDone (n : Sp) (j : Nat) (o : Opnd)
  | laneStealRequest (n : Sp) (lane : Fin 64)
  | laneStealDecide (n : Sp) (victim : Fin 64)
  | laneStealAnswer (n : Sp) (lane : Fin 64)
  | laneStealRetry (n : Sp) (lane : Fin 64)
  | ringStealRequest (n : Sp)
  | ringStealAnswer (n : Sp)
  | ringStealRetry (n : Sp)
  | ringRecordWriteAck (n : Sp)
  | abandonNotice (n : Sp)
  | partialReduce (n : Sp) (j : Nat) (output : Nat)
  | hankSideGrant (n : Sp) (side : HankSide) (waited : Nat)
  | hankMatchDone (n : Sp) (j : BlockMatch)
  | hankBuildDone (n : Sp) (j : Nat)
  | hankEmitDone (n : Sp) (j : Nat)
  | hankDecodeSetupDone (n : Sp) (j : Nat)
  | hankBlockDecoded (n : Sp) (j : Nat)
  | haloSlotWaitEnd (n : Sp) (j : Nat) (waited : Nat)
  | halfPublishAck (n : Sp) (j : Nat)
  | haloReadyWaitEnd (n : Sp) (j : Nat) (waited : Nat)
  | boxListHeaderArrive (n : Sp) (j : Nat)
  | placementDecision
  | stagedCopyDone (tensor : Nat)
  | tensorFree (tensor : Nat)
  | translationMissFill (n : Sp) (tensor : Nat)
  | supplyRemoved
  | warmResetRelease (heldForRecovery : Bool)
  | flyerCellRead (cell : CellEcc)
  | unlistedOpcodeSubmit
deriving DecidableEq, Repr

end Sys2Proof
end

