-- ==== Sys2Proof/Decode.lean ====
section
/-! DEFINITION. The rows of spec/opcode_table.json give no bits to any command: they are events
and register accesses, told apart by where they come from and not by a word. -/

namespace Sys2Proof

/-- The command that a word spells by the table's bits.  No row has bits, so no word spells
one. -/
def decodeTableWord (_nbits _w : Nat) : Option Instr := none

end Sys2Proof
end

