-- ==== Sys2Proof/Machine/Bits.lean ====
section
/-! DEFINITION. Byte order, bit fields, saturating counts and sparse tables. -/

namespace Sys2Proof.Machine

/-- The `n` low bytes of a number, least significant first (R4). -/
def leBytes : Nat → Nat → List Byte
  | 0, _ => []
  | n + 1, v => BitVec.ofNat 8 v :: leBytes n (v / 256)

/-- The number that bytes spell, least significant first (R4). -/
def leNat : List Byte → Nat
  | [] => 0
  | b :: bs => b.toNat + 256 * leNat bs

/-- `len` bytes from offset `off`; bytes beyond the list read zero. -/
def slice (bs : List Byte) (off len : Nat) : List Byte :=
  let t := (bs.drop off).take len
  t ++ List.replicate (len - t.length) 0

/-- The little-endian field of `len` bytes at offset `off` (R4). -/
def fieldAt (bs : List Byte) (off len : Nat) : Nat := leNat (slice bs off len)

/-- Bits [lo + w - 1 : lo] of a number. -/
def bits (v lo w : Nat) : Nat := v / 2 ^ lo % 2 ^ w

/-- Bit `i` of a number. -/
def bitOf (v i : Nat) : Bool := v / 2 ^ i % 2 == 1

/-- A Bool as a number. -/
def b2n (b : Bool) : Nat := if b then 1 else 0

/-- Two's complement reading of `w` bits. -/
def toSigned (w v : Nat) : Int := if v % 2 ^ w < 2 ^ (w - 1) then (v % 2 ^ w : Nat) else (v % 2 ^ w : Nat) - (2 ^ w : Nat)

/-- A 32-bit word of a number, modulo 2^32. -/
def w32 (n : Nat) : Word := BitVec.ofNat 32 n

/-- A counter that saturates at 0xFFFF_FFFF takes `n` more (R443, R462). -/
def satAdd (w : Word) (n : Nat) : Word := w32 (min (w.toNat + n) 0xFFFFFFFF)

/-- A saturating counter counts one. -/
def satInc (w : Word) : Word := satAdd w 1

/-- Number of items of size `d` that `n` needs. -/
def ceilDiv (n d : Nat) : Nat := (n + d - 1) / d

/-- `n` rounded up to a multiple of `d`. -/
def roundUp (n d : Nat) : Nat := ceilDiv n d * d

/-- A list cut into pieces of `n`, the last possibly shorter; `fuel` bounds the pieces. -/
def chunksAux (n : Nat) : Nat → List α → List (List α)
  | 0, _ => []
  | _ + 1, [] => []
  | fuel + 1, x :: xs => (x :: xs).take n :: chunksAux n fuel ((x :: xs).drop n)

/-- A list cut into pieces of `n`, the last possibly shorter. -/
def chunks (n : Nat) (xs : List α) : List (List α) := chunksAux n xs.length xs

/-- Bytes padded with zeros to a multiple of `n`. -/
def padTo (n : Nat) (bs : List Byte) : List Byte :=
  bs ++ List.replicate (roundUp bs.length n - bs.length) 0

/-- The element at a place replaced. -/
def setAt (xs : List α) (i : Nat) (x : α) : List α := xs.set i x

/-! ## Sparse tables -/

/-- The value at a key, if listed. -/
def Tab.get? (t : Tab α) (k : Nat) : Option α :=
  match t with
  | [] => none
  | (k', v) :: rest => if k' = k then some v else Tab.get? rest k

/-- The value at a key; unlisted keys read as `d`. -/
def Tab.getD (t : Tab α) (k : Nat) (d : α) : α := (Tab.get? t k).getD d

/-- A listed value, placed in key order. -/
def Tab.ins (t : Tab α) (k : Nat) (v : α) : Tab α :=
  match t with
  | [] => [(k, v)]
  | (k', v') :: rest =>
    if k < k' then (k, v) :: (k', v') :: rest
    else if k = k' then (k, v) :: rest
    else (k', v') :: Tab.ins rest k v

/-- A key taken out of the table. -/
def Tab.del (t : Tab α) (k : Nat) : Tab α :=
  match t with
  | [] => []
  | (k', v') :: rest =>
    if k < k' then (k', v') :: rest
    else if k = k' then rest
    else (k', v') :: Tab.del rest k

/-- The value at a key set; a value equal to the default `d` is not listed. -/
def Tab.put [DecidableEq α] (t : Tab α) (d : α) (k : Nat) (v : α) : Tab α :=
  if v = d then Tab.del t k else Tab.ins t k v

/-- Keys strictly rise from above `lo`, and no value is the default. -/
def Tab.okFrom [DecidableEq α] (d : α) (lo : Option Nat) : Tab α → Bool
  | [] => true
  | (k, v) :: rest =>
    (match lo with | none => true | some l => decide (l < k)) && decide (v ≠ d) &&
      Tab.okFrom d (some k) rest

/-- The canonical form of a table with default `d`. -/
def Tab.wf [DecidableEq α] (d : α) (t : Tab α) : Bool := Tab.okFrom d none t

/-! ## Bytes in a store kept as one run from address 0, whose further bytes read zero -/

/-- The canonical form of such a run: it does not end in a zero byte. -/
def trimmed (bs : List Byte) : Bool := bs.getLast? != some 0

/-- The run without the zero bytes at its end. -/
def trimZeros (bs : List Byte) : List Byte := (bs.reverse.dropWhile (· == 0)).reverse

/-! ## Bytes in a sparse memory whose unlisted bytes read zero -/

/-- One byte. -/
def readByte (m : Tab Byte) (a : Nat) : Byte := Tab.getD m a 0

/-- `n` bytes from an address. -/
def readBytes (m : Tab Byte) (a n : Nat) : List Byte := (List.range n).map fun i => readByte m (a + i)

/-- A little-endian number of `n` bytes. -/
def readNat (m : Tab Byte) (a n : Nat) : Nat := leNat (readBytes m a n)

/-- Bytes written from an address on. -/
def writeBytes (m : Tab Byte) (a : Nat) : List Byte → Tab Byte
  | [] => m
  | b :: bs => writeBytes (Tab.put m 0 a b) (a + 1) bs

end Sys2Proof.Machine
end

