-- ==== Sys2Proof/Machine/Numeric.lean ====
section
/-! DEFINITION. The arithmetic of chapter 3: exact numbers, the one narrowing rule, code values,
narrowing into codes, delivery, scale words, Whorl products and accumulators (R71 to R98). -/

namespace Sys2Proof.Machine

/-! ## Exact rationals -/

/-- A rational, not reduced; `den` is above zero. -/
structure Q where
  num : Int
  den : Nat
deriving DecidableEq, Repr

/-- An integer as a rational. -/
def Q.ofInt (i : Int) : Q := ⟨i, 1⟩

def Q.zero : Q := ⟨0, 1⟩

def Q.neg (a : Q) : Q := ⟨-a.num, a.den⟩

def Q.abs (a : Q) : Q := ⟨a.num.natAbs, a.den⟩

def Q.add (a b : Q) : Q :=
  if a.den = b.den then ⟨a.num + b.num, a.den⟩ else ⟨a.num * b.den + b.num * a.den, a.den * b.den⟩

def Q.sub (a b : Q) : Q := a.add b.neg

def Q.mul (a b : Q) : Q := ⟨a.num * b.num, a.den * b.den⟩

/-- The quotient by a rational above zero. -/
def Q.div (a b : Q) : Q := ⟨a.num * b.den, a.den * b.num.toNat⟩

def Q.lt (a b : Q) : Bool := decide (a.num * b.den < b.num * a.den)

def Q.le (a b : Q) : Bool := decide (a.num * b.den ≤ b.num * a.den)

def Q.eq (a b : Q) : Bool := decide (a.num * b.den = b.num * a.den)

def Q.isZero (a : Q) : Bool := a.num == 0

/-- 2^k. -/
def Q.pow2 (k : Int) : Q := if 0 ≤ k then ⟨(2 ^ k.toNat : Nat), 1⟩ else ⟨1, 2 ^ (-k).toNat⟩

def Q.pow (a : Q) (n : Nat) : Q := ⟨a.num ^ n, a.den ^ n⟩

/-! ## Numbers of the form sum of a_i 2^(i/16), which LOG8 values and their sums are (R71) -/

/-- Coefficients at even places. -/
def evens : List Int → List Int
  | [] => []
  | [a] => [a]
  | a :: _ :: rest => a :: evens rest

/-- Coefficients at odd places. -/
def odds (xs : List Int) : List Int := evens (xs.drop 1)

/-- Coefficient-wise sum. -/
def polyAdd : List Int → List Int → List Int
  | [], b => b
  | a, [] => a
  | a :: as, b :: bs => (a + b) :: polyAdd as bs

/-- Multiplication by the root u, where u^n = 2. -/
def polyShift (n : Nat) (xs : List Int) : List Int :=
  let ys := 0 :: xs
  polyAdd (ys.take n) ((ys.drop n).map (2 * ·))

/-- Product modulo u^n = 2. -/
def polyMul (n : Nat) : List Int → List Int → List Int
  | [], _ => List.replicate n 0
  | a :: as, b => polyAdd (b.map (a * ·)) (polyShift n (polyMul n as b))

/-- Sign of a polynomial in t, where t^(2^level) = 2. -/
def polySign : Nat → List Int → Int
  | 0, xs => (xs.headD 0).sign
  | lv + 1, xs =>
    let p := evens xs
    let q := odds xs
    let sp := polySign lv p
    let sq := polySign lv q
    if sq = 0 then sp
    else if sp = 0 then sq
    else if sp = sq then sp
    else
      let n := 2 ^ lv
      sp * polySign lv (polyAdd (polyMul n p p) ((polyShift n (polyMul n q q)).map (- ·)))

/-- An exact real of the engine: a rational, or coefficients of the powers of 2^(1/16) over a
common denominator. -/
inductive Ex where
  | rat (q : Q)
  | log (cs : List Int) (den : Nat)
deriving DecidableEq, Repr

/-- The 16 coefficients and the denominator of an exact real. -/
def Ex.coeffs : Ex → List Int × Nat
  | .rat q => (q.num :: List.replicate 15 0, q.den)
  | .log cs d => (cs, d)

def Ex.sign : Ex → Int
  | .rat q => q.num.sign
  | .log cs _ => polySign 4 cs

def Ex.neg : Ex → Ex
  | .rat q => .rat q.neg
  | .log cs d => .log (cs.map (- ·)) d

def Ex.add (a b : Ex) : Ex :=
  match a, b with
  | .rat p, .rat q => .rat (p.add q)
  | a, b =>
    let (ca, da) := a.coeffs
    let (cb, db) := b.coeffs
    .log (polyAdd (ca.map (· * db)) (cb.map (· * da))) (da * db)

def Ex.mulQ (a : Ex) (q : Q) : Ex :=
  match a with
  | .rat p => .rat (p.mul q)
  | .log cs d => .log (cs.map (· * q.num)) (d * q.den)

def Ex.abs (a : Ex) : Ex := if a.sign < 0 then a.neg else a

/-- Whether the number is at least a rational. -/
def Ex.ge (a : Ex) (q : Q) : Bool := decide (0 ≤ (a.add (.rat q.neg)).sign)

/-- Order against a rational: -1, 0 or 1. -/
def Ex.cmp (a : Ex) (q : Q) : Int := (a.add (.rat q.neg)).sign

/-! ## Rounding -/

/-- floor(log2 q) of a rational above zero. -/
def Q.floorLog2 (q : Q) : Int :=
  let e : Int := (Nat.log2 q.num.toNat : Int) - (Nat.log2 q.den : Int)
  if (Q.pow2 e).le q then e else e - 1

/-- The largest exponent at most `hi` and above `hi - fuel` whose power is at most the number. -/
def searchExp (a : Ex) : Nat → Int → Int
  | 0, hi => hi
  | fuel + 1, hi => if a.ge (Q.pow2 hi) then hi else searchExp a fuel (hi - 1)

/-- floor(log2 a) of an exact real above zero. -/
def Ex.floorLog2 (a : Ex) : Int :=
  match a with
  | .rat q => q.floorLog2
  | .log .. => searchExp a 700 300

/-- The largest number below 2^n, built bit by bit from the top, whose multiple of `unit` is at
most the number. -/
def searchBits (a : Ex) (unit : Q) : Nat → Nat → Nat
  | 0, acc => acc
  | n + 1, acc =>
    let t := acc + 2 ^ n
    searchBits a unit n (if a.ge (unit.mul (Q.ofInt t)) then t else acc)

/-- floor(a / 2^k) of an exact real not below zero, known to lie below 2^40 for a LOG8 sum. -/
def Ex.floorUnits (a : Ex) (k : Int) : Nat :=
  match a with
  | .rat q => let u := q.mul (Q.pow2 (-k)); u.num.toNat / u.den
  | .log .. => searchBits a (Q.pow2 k) 40 0

/-- The nearest multiple of 2^k, in units of 2^k, ties to even, of an exact real not below
zero (R84). -/
def Ex.roundUnits (a : Ex) (k : Int) : Nat :=
  let n := a.floorUnits k
  let c := a.cmp ((Q.ofInt (2 * n + 1)).mul (Q.pow2 (k - 1)))
  if c < 0 then n else if 0 < c then n + 1 else if n % 2 = 0 then n else n + 1

/-- A binary format: significand bits with the hidden one, exponent of the smallest normal,
magnitude code of the largest finite value, of infinity (when it has one) and of the NaN
written, and total width. -/
structure Fmt where
  p : Nat
  emin : Int
  maxCode : Nat
  infCode : Option Nat
  nanCode : Nat
  width : Nat
deriving DecidableEq, Repr

def fmtE4M3 : Fmt := ⟨4, -6, 0x7E, none, 0x7F, 8⟩
def fmtE5M2 : Fmt := ⟨3, -14, 0x7B, some 0x7C, 0x7E, 8⟩
def fmtF16 : Fmt := ⟨11, -14, 0x7BFF, some 0x7C00, 0x7E00, 16⟩
def fmtBF16 : Fmt := ⟨8, -126, 0x7F7F, some 0x7F80, 0x7FC0, 16⟩
def fmtF32 : Fmt := ⟨24, -126, 0x7F7FFFFF, some 0x7F800000, 0x7FC00000, 32⟩

/-- Magnitude code of the value nearest to a number not below zero, with the exponent range
unbounded above (R84): codes beyond `maxCode` go on in the same order. -/
def Fmt.roundMag (f : Fmt) (a : Ex) : Nat :=
  if a.sign ≤ 0 then 0
  else
    let e := max a.floorLog2 f.emin
    let k := e - (f.p - 1 : Nat)
    ((e - f.emin).toNat) * 2 ^ (f.p - 1) + a.roundUnits k

/-- The value of a finite magnitude code. -/
def Fmt.magVal (f : Fmt) (m : Nat) : Q :=
  let h := 2 ^ (f.p - 1)
  let base := f.emin - (f.p - 1 : Nat)
  if m < h then (Q.ofInt m).mul (Q.pow2 base)
  else (Q.ofInt (m % h + h)).mul (Q.pow2 (base + ((m / h : Nat) : Int) - 1))

/-- A value as the engine knows it. -/
inductive Val where
  | nan
  | inf (neg : Bool)
  | fin (x : Ex)
deriving DecidableEq, Repr

/-- The value of a code of a binary format. -/
def Fmt.val (f : Fmt) (c : Nat) : Val :=
  let s := bitOf c (f.width - 1)
  let m := c % 2 ^ (f.width - 1)
  if m ≤ f.maxCode then .fin (.rat (if s then (f.magVal m).neg else f.magVal m))
  else if f.infCode = some m then .inf s
  else .nan

/-- Sign bit set. -/
def Fmt.signed (f : Fmt) (neg : Bool) (m : Nat) : Nat := if neg then m + 2 ^ (f.width - 1) else m

/-- A value rounded as IEEE 754 arithmetic does: overflow gives an infinity; second result:
overflow from a finite value.  A zero result is +0. -/
def Fmt.round (f : Fmt) (v : Val) : Nat × Bool :=
  match v with
  | .nan => (f.nanCode, false)
  | .inf s => (f.signed s (f.infCode.getD f.maxCode), false)
  | .fin x =>
    let m := f.roundMag x.abs
    if m = 0 then (0, false)
    else if m ≤ f.maxCode then (f.signed (x.sign < 0) m, false)
    else (f.signed (x.sign < 0) (f.infCode.getD f.maxCode), true)

/-! ## binary32 -/

/-- The value of a binary32 word. -/
def f32Val (w : Word) : Val := fmtF32.val w.toNat

/-- The rational of a finite binary32 word; zero for others. -/
def f32Q (w : Word) : Q :=
  match f32Val w with
  | .fin (.rat q) => q
  | _ => Q.zero

/-- A binary32 word is finite. -/
def f32Finite (w : Word) : Bool := decide (w.toNat % 2 ^ 31 ≤ 0x7F7FFFFF)

/-- A scale word: positive, finite and normal (R90). -/
def isScale (w : Word) : Bool := decide (0x00800000 ≤ w.toNat ∧ w.toNat ≤ 0x7F7FFFFF)

/-- 1.0. -/
def f32One : Word := 0x3F800000

/-- Nearest binary32 to a number, ties to even (R84). -/
def f32Of (x : Ex) : Word := w32 (fmtF32.round (.fin x)).1

/-- Product of two scale words, rounded once; none when it is no scale word (R91). -/
def scaleMul (a b : Word) : Option Word :=
  let r := f32Of (.rat ((f32Q a).mul (f32Q b)))
  if isScale r then some r else none

/-- The smallest binary32 value not below a rational above zero. -/
def f32Ceil (q : Q) : Word :=
  let w := f32Of (.rat q)
  if (f32Q w).lt q then w + 1 else w

/-! ## Code values (R71 to R82) -/

/-- Code types of R45. -/
def ctWidth (ct : Nat) : Nat :=
  match ct with
  | 0 => 8 | 1 => 4 | 2 => 8 | 3 => 8 | 4 => 4 | 5 => 4 | 6 => 16 | 7 => 16 | _ => 8

/-- CODE_TYPE is allowed in FORMAT (R45). -/
def ctAllowed (fmt ct : Nat) : Bool :=
  match fmt with
  | 1 => decide (ct ≤ 8)
  | 2 => decide (ct ≤ 5)
  | 3 => decide (ct ≤ 7)
  | 4 => ct == 0 || ct == 7
  | _ => false

/-- INT8 or INT4. -/
def isIntCt (ct : Nat) : Bool := ct == 0 || ct == 1

/-- The binary16 codes of Bell-4's magnitudes (R77). -/
def bellMags : List (BitVec 16) := [0x0000, 0x2F2B, 0x3344, 0x3591, 0x37B6, 0x3917, 0x3A89, 0x3C00]

/-- The 16 values of Bell-4 as binary16; code 8 is zero (R77). -/
def bellGrid : List (BitVec 16) := bellMags ++ [0x0000, 0xAF2B, 0xB344, 0xB591, 0xB7B6, 0xB917, 0xBA89, 0xBC00]

/-- The rational of a finite binary16 code. -/
def f16Q (w : BitVec 16) : Q :=
  match fmtF16.val w.toNat with
  | .fin (.rat q) => q
  | _ => Q.zero

/-- Entry c of a grid. -/
def gridVal (g : List (BitVec 16)) (c : Nat) : Q := f16Q (g.getD c 0)

/-- LOG8's value of code c: 2^(c/16 - 15) (R71). -/
def log8Val (c : Nat) : Ex :=
  if c = 0 then .rat Q.zero
  else
    let i := c % 16
    let cs : List Int := (List.range 16).map fun j => if j = i then (2 : Int) ^ (c / 16) else 0
    if i = 0 then .rat ((Q.pow2 (c / 16 : Nat)).mul (Q.pow2 (-15))) else .log cs (2 ^ 15)

/-- c_val of a code; negative zeros read as +0 (R71, R72, R77). -/
def codeVal (ct : Nat) (grid : List (BitVec 16)) (c : Nat) : Val :=
  match ct with
  | 0 => .fin (.rat (Q.ofInt (toSigned 8 c)))
  | 1 => .fin (.rat (Q.ofInt (toSigned 4 c)))
  | 2 => fmtE4M3.val c
  | 3 => fmtE5M2.val c
  | 4 => .fin (.rat (gridVal bellGrid c))
  | 5 => .fin (.rat (gridVal grid c))
  | 6 => fmtBF16.val c
  | 7 => fmtF16.val c
  | _ => .fin (log8Val c)

/-- A value times a scale (R71, R76). -/
def Val.scale (v : Val) (s : Q) : Val :=
  match v with
  | .fin x => .fin (x.mulQ s)
  | v => v

/-- A Bell-4 code 8, which its reader counts (R79). -/
def isBell8 (ct c : Nat) : Bool := ct == 4 && c == 8

/-- An infinity or NaN code, which its reader counts (R76). -/
def isSpecial (ct : Nat) (c : Nat) : Bool :=
  match codeVal ct [] c with
  | .fin _ => false
  | _ => ct == 2 || ct == 3 || ct == 6 || ct == 7

/-! ## Narrowing into codes (R72 to R88) -/

/-- The result of narrowing one element. -/
structure Narrowed where
  code : Nat
  clipped : Bool := false
  nan : Bool := false
deriving DecidableEq, Repr

/-- Narrowing into INT8 or INT4 with largest magnitude `m` (R73). -/
def narrowInt (w m : Nat) (x : Ex) : Narrowed :=
  let r := x.abs.roundUnits 0
  let v := min r m
  ⟨if x.sign < 0 then (2 ^ w - v) % 2 ^ w else v, decide (m < r), false⟩

/-- Narrowing into a floating code (R84, R86, R87). -/
def narrowFmt (f : Fmt) (x : Ex) : Narrowed :=
  let m := f.roundMag x.abs
  if m = 0 then ⟨0, false, false⟩
  else ⟨f.signed (x.sign < 0) (min m f.maxCode), decide (f.maxCode < m), false⟩

/-- The index of the magnitude nearest to `a` among rising rationals, ties to the even index,
from index `i` on. -/
def nearestMag (a : Q) : Nat → List Q → Nat
  | i, m :: n :: rest =>
    let twice := a.add a
    let mid := m.add n
    if twice.lt mid || (twice.eq mid && i % 2 == 0) then i else nearestMag a (i + 1) (n :: rest)
  | i, _ => i

/-- Narrowing into Bell-4 (R78). -/
def narrowBell (x : Q) : Narrowed :=
  let k := nearestMag x.abs 0 (bellMags.map f16Q)
  ⟨if k = 0 then 0 else if x.num < 0 then k + 8 else k, (Q.ofInt 1).lt x.abs, false⟩

/-- The better of two grid codes for `x` (R84: nearer; on a tie the even code, else the lower). -/
def betterCode (g : List (BitVec 16)) (x : Q) (a b : Nat) : Nat :=
  let da := (x.sub (gridVal g a)).abs
  let db := (x.sub (gridVal g b)).abs
  if da.lt db then a
  else if db.lt da then b
  else if a % 2 = b % 2 then min a b
  else if a % 2 = 0 then a else b

/-- Narrowing into a user grid (R82, R86). -/
def narrowGrid (g : List (BitVec 16)) (x : Q) : Narrowed :=
  let c := (List.range 16).foldl (fun best c => betterCode g x best c) 0
  let above := (List.range 16).all fun c => (gridVal g c).lt x
  let below := (List.range 16).all fun c => x.lt (gridVal g c)
  ⟨c, above || below, false⟩

/-- Nearest integer to 16 × log2(x) + 240 for x above zero (R83). -/
def log8K (x : Q) : Int :=
  let base := 16 * x.floorLog2 + 239
  let x32 := x.pow 32
  base + (((List.range 18).filter fun (j : Nat) => (Q.pow2 (2 * (base + 1 + (j : Int)) - 481)).lt x32).length : Nat)

/-- Narrowing into LOG8 (R83, R86). -/
def narrowLog8 (x : Q) : Narrowed :=
  if x.num < 0 then ⟨0, true, false⟩
  else if x.num = 0 then ⟨0, false, false⟩
  else
    let k := log8K x
    if k ≤ 0 then ⟨0, false, false⟩
    else ⟨(min k 255).toNat, decide (255 < k), false⟩

/-- Largest finite code of a code type with a sign: what an infinity is written as (R87). -/
def infCode (ct : Nat) (g : List (BitVec 16)) (neg : Bool) : Nat :=
  match ct with
  | 0 => if neg then 129 else 127
  | 1 => if neg then 9 else 7
  | 2 => fmtE4M3.signed neg fmtE4M3.maxCode
  | 3 => fmtE5M2.signed neg fmtE5M2.maxCode
  | 4 => if neg then 15 else 7
  | 5 =>
    (List.range 16).foldl (fun best c =>
      if (if neg then (gridVal g c).lt (gridVal g best) else (gridVal g best).lt (gridVal g c)) then c else best) 0
  | 6 => fmtBF16.signed neg fmtBF16.maxCode
  | 7 => fmtF16.signed neg fmtF16.maxCode
  | _ => if neg then 0 else 255

/-- The code of a NaN source (R88). -/
def nanCode (ct : Nat) : Nat :=
  match ct with
  | 2 => 0x7F
  | 3 => 0x7E
  | 6 => 0x7FC0
  | 7 => 0x7E00
  | _ => 0

/-- The Drafter narrows a source value under a scale: the exact quotient rounded once (R73 to
R88). -/
def narrow (ct : Nat) (g : List (BitVec 16)) (s : Q) (v : Val) : Narrowed :=
  match v with
  | .nan => ⟨nanCode ct, false, true⟩
  | .inf neg => ⟨infCode ct g neg, true, false⟩
  | .fin (.log ..) => ⟨0, false, false⟩
  | .fin (.rat q) =>
    let x := q.div s
    match ct with
    | 0 => narrowInt 8 127 (.rat x)
    | 1 => narrowInt 4 7 (.rat x)
    | 2 => narrowFmt fmtE4M3 (.rat x)
    | 3 => narrowFmt fmtE5M2 (.rat x)
    | 4 => narrowBell x
    | 5 => narrowGrid g x
    | 6 => narrowFmt fmtBF16 (.rat x)
    | 7 => narrowFmt fmtF16 (.rat x)
    | _ => narrowLog8 x

/-! ## Delivery (R89) -/

/-- An element in a floating delivery format; second result: it was saturated or replaced (R89).  A value that rounds to zero is
+0 (DESIGN CHOICE, log 112). -/
def deliverFmt (f : Fmt) (v : Val) : Nat × Bool :=
  match v with
  | .nan => (f.nanCode, false)
  | .inf s => (f.signed s (f.infCode.getD f.maxCode), f.infCode.isNone)
  | .fin x =>
    let m := f.roundMag x.abs
    if m = 0 then (0, false)
    else (f.signed (x.sign < 0) (min m f.maxCode), decide (f.maxCode < m))

/-! ## Products and sums (R92 to R97) -/

/-- IEEE 754 product; a zero product of finite factors is +0 (R93). -/
def Val.mul (a b : Val) : Val :=
  let neg (v : Val) : Bool := match v with | .inf s => s | .fin x => x.sign < 0 | .nan => false
  let zero (v : Val) : Bool := match v with | .fin x => x.sign == 0 | _ => false
  match a, b with
  | .nan, _ => .nan
  | _, .nan => .nan
  | .fin x, .fin (.rat q) => .fin (x.mulQ q)
  | .fin (.rat q), .fin y => .fin (y.mulQ q)
  | .fin x, .fin y =>
    let (ca, da) := x.coeffs
    let (cb, db) := y.coeffs
    .fin (.log (polyMul 16 ca cb) (da * db))
  | a, b => if zero a || zero b then .nan else .inf (neg a != neg b)

/-- Whorl entry: activation code value times a grid value, rounded once to binary16 (R92). -/
def whorlProduct (a : Val) (g : Q) : BitVec 16 :=
  BitVec.ofNat 16 (fmtF16.round (a.mul (.fin (.rat g)))).1

/-- A lane multiplier's product as binary32, with its overflow (R96). -/
def laneProduct (a b : Val) : Word × Bool :=
  let r := fmtF32.round (a.mul b)
  (w32 r.1, r.2)

/-- A binary16 product as binary32, exactly (R96). -/
def f16to32 (h : BitVec 16) : Word := w32 (fmtF32.round (fmtF16.val h.toNat)).1

/-- A floating addition into a binary32 accumulator, with its overflow (R97). -/
def addF32 (a b : Word) : Word × Bool :=
  match f32Val a, f32Val b with
  | .nan, _ => (0x7FC00000, false)
  | _, .nan => (0x7FC00000, false)
  | .inf s, .inf t => if s = t then (a, false) else (0x7FC00000, false)
  | .inf _, _ => (a, false)
  | _, .inf _ => (b, false)
  | .fin x, .fin y =>
    if a = 0x80000000 ∧ b = 0x80000000 then (a, false)
    else let r := fmtF32.round (.fin (x.add y)); (w32 r.1, r.2)

/-- An integer addition into a 32-bit accumulator, saturating, with its saturation (R95). -/
def addI32 (a : Word) (p : Int) : Word × Bool :=
  let s := a.toInt + p
  if s < -2147483648 then (0x80000000, true)
  else if 2147483647 < s then (0x7FFFFFFF, true)
  else (BitVec.ofInt 32 s, false)

/-! ## Roots and logarithms that calibration and the Carder need -/

/-- floor(2 × log2 q) of a rational above zero (R104). -/
def floor2Log2 (q : Q) : Int := (q.mul q).floorLog2

end Sys2Proof.Machine
end

