-- ==== Sys2Proof/Config.lean ====
section
/-! DEFINITION. What one implementation or one chip fixes and the manual leaves open, and the
free values: constants without a body, about which nothing can be proved. -/

namespace Sys2Proof.Config

/-- The chip's MFR_ID[10:0] tie-off (R442).  Free: belongs to the chip. -/
opaque mfrId : BitVec 11

/-- The dynamic form that the encoder builds for a block with the given literal/length and
distance symbol counts (R225: "This manual does not define that function"): literal/length code
lengths, distance code lengths, lengths of the code-length code, and the code-length symbols with
their repeat counts.  Free; used only where it is a legal form for the counts. -/
opaque dynamicForm : List Nat → List Nat → List Nat × List Nat × List Nat × List (Nat × Nat)

/-- The 64-bit check of a wear-journal entry over its other fields (R491 names no function). -/
opaque journalCheck : List Nat → BitVec 64

/-- Spindle clocks that a job waited for a Hank side which it never got, by a counter the step reads and advances and the
control clocks that passed: no command brings them (R241). -/
opaque sideWait : Nat → Nat → Nat

/-- The bytes of a saved context, by a counter the step reads and advances: R335 gives a slot's place and size
and no layout. -/
opaque contextByte : Nat → BitVec 8

/-- The row of Flyer SRAM in which a read of the Flyer met an uncorrectable error, by a counter the step
reads and advances: WARM_RESET does not name it (R483, R496). -/
opaque flyerRow : Nat → Nat

/-- The levels at the tick pins, bit n for Tn, when a polarity changes, by a counter the step reads and
advances (R438: "The level at the pin itself belongs to the chip"). -/
opaque pinLevels : Nat → BitVec 16

/-- The bytes that stand in an SRAM after memory self-test (R441: "contents are lost"), by a counter
the step reads and advances. -/
opaque lostByte : Nat → BitVec 8

/-- The scale of a clip point P (bits) under a user grid of reach num / den so small that no binary32 value s has
P / s at most the reach: R111 states none (R90 bounds it). -/
opaque scaleBeyond : BitVec 32 → Int → Nat → Nat

end Sys2Proof.Config
end

