-- ==== Sys2Proof/Machine/State.lean ====
section
/-! DEFINITION. The state of the engine: every register, queue, buffer, counter, mode and unit
state that the spec gives it, as plain data, and `State.reset`, the engine as its control
domain comes on.  Each field's docstring ends with (rule; width; reset value). -/

namespace Sys2Proof.Machine

/-! ## Memory structures as data -/

/-- A wait entry of a knot list (R355). -/
structure KnotWait where
  knot   : Nat
  mode   : Nat
  value  : Nat
deriving DecidableEq, Repr

/-- A knot operation (R361). -/
inductive KnotVerb where
  | add | set | setThresh
deriving DecidableEq, Repr

/-- An effect entry of a knot list (R355): `sel` is the WHEN byte. -/
structure KnotEffect where
  knot  : Nat
  verb  : KnotVerb
  sel   : Nat
  value : Nat
deriving DecidableEq, Repr

/-- The shape block (R353). -/
structure ShapeBlk where
  ndim : Nat
  tileRows : Nat
  tileCols : Nat
  tileChans : Nat
  dim0 : Nat
  dim1 : Nat
  dim2 : Nat
  dim3 : Nat
deriving DecidableEq, Repr

/-- The drafting block (R102). -/
structure DraftBlk where
  scaleMode : Nat
  srcType : Nat
  format : Nat
  codeType : Nat
  gridSlot : Nat
  histBase : Int
  tensorClass : Nat
  verify : Bool
  comb : Bool
  group : Bool
  clipTarget : Nat
  clipThresh : Nat
  givenScale : Word
  statsAddr : Nat
  groupAddr : Nat
  groupKnot : Nat
  groupIndex : Nat
  groupCount : Nat
  tensorKind : Nat
deriving DecidableEq, Repr

/-- An expansion block (R130). -/
structure ExpBlk where
  streamAddr : Nat
  foldAddr : Nat
  tileFirst : Nat
  tileRun : Nat
  scaleSrc : Nat
  deliv : Nat
  dest : Nat
deriving DecidableEq, Repr

/-- A match block (R157). -/
structure MatchBlk where
  mode : Nat
  laneSteal : Bool
  ringSteal : Bool
  unsortedA : Bool
  unsortedB : Bool
  nepThresh : Nat
  stealArea : Nat
  stealKnot : Nat
deriving DecidableEq, Repr

/-- A window block (R245). -/
structure WindowBlk where
  kw : Nat
  kh : Nat
  stride : Nat
  replicate : Bool
  channelBlock : Bool
  dil : Nat
  padTop : Nat
  padBottom : Nat
  padLeft : Nat
  padRight : Nat
  outFirst : Nat
  outLines : Nat
  inFirst : Nat
  frameLines : Nat
  ringAbove : Nat
  ringBelow : Nat
  round : Nat
deriving DecidableEq, Repr

/-- A publish block (R256). -/
structure PublishBlk where
  ringAbove : Nat
  ringBelow : Nat
  round : Nat
deriving DecidableEq, Repr

/-- A crop block (R263). -/
structure CropBlk where
  boxAddr : Nat
  boxFirst : Nat
  boxRun : Nat
deriving DecidableEq, Repr

/-- A Hank parameter block (R214). -/
structure HankBlk where
  op : Nat
  blockSize : Nat
  chainDepth : Nat
  srcLen : Nat
  srcAddr : Nat
  dstAddr : Nat
  dstSpace : Nat
  blockFirst : Nat
  blockRun : Nat
deriving DecidableEq, Repr

/-- A job descriptor as the dispatcher reads it (R352). -/
structure Desc where
  tag : Word := 0
  length : Nat := 0
  lock : Bool := false
  step : Bool := false
  notify : Bool := false
  stripe : Nat := 0xFF
  setId : Nat := 0
  setIndex : Nat := 0
  lockSize : Nat := 0
  stepSize : Nat := 0
  srcKind : Nat := 0
  srcTag : Nat := 0
  srcAddr : Nat := 0
  dstAddr : Nat := 0
  dstSpace : Nat := 0
  srcQ : Nat := 0
  outQ : Nat := 0xFFFF
  shape : Option ShapeBlk := none
  draft : Option DraftBlk := none
  expA : Option ExpBlk := none
  expB : Option ExpBlk := none
  mtch : Option MatchBlk := none
  window : Option WindowBlk := none
  publish : Option PublishBlk := none
  crop : Option CropBlk := none
  hank : Option HankBlk := none
  waits : List KnotWait := []
  effects : List KnotEffect := []
deriving DecidableEq, Repr

/-- A Skein header (R36). -/
structure SkeinHdr where
  magic : Nat := 0
  format : Nat := 0
  codeType : Nat := 0
  version : Nat := 0
  ndim : Nat := 0
  flags : Nat := 0
  tileRows : Nat := 0
  tileCols : Nat := 0
  tileChans : Nat := 0
  dim0 : Nat := 0
  dim1 : Nat := 0
  dim2 : Nat := 0
  dim3 : Nat := 0
  elements : Nat := 0
  scale : Word := 0
  absmax : Word := 0
  clipShare : Nat := 0
  histMode : Nat := 0
  gridSlot : Nat := 0
  tableOffset : Nat := 0
  tileCount : Nat := 0
deriving DecidableEq, Repr

/-- A tile table entry (R49). -/
structure TileEntry where
  offset : Nat
  length : Nat
  zero : Bool
deriving DecidableEq, Repr

/-- A coordinate list header (R161). -/
structure ListHdr where
  codeType : Nat
  gridSlot : Nat
  rows : Nat
  extent : Nat
  nnz : Nat
  scale : Word
  ptrOffset : Nat
  idxOffset : Nat
  valOffset : Nat
deriving DecidableEq, Repr

/-- A Hank frame header (R210). -/
structure HankHdr where
  blockSize : Nat
  chainDepth : Nat
  rawLen : Nat
  blockCount : Nat
  tableOffset : Nat
  storedCount : Nat
deriving DecidableEq, Repr

/-- A ring descriptor (R253). -/
structure RingDesc where
  slotAddr : Nat
  spillAddr : Nat
  halfSize : Nat
  spillSize : Nat
  slots : Nat
  lines : Nat
  readyDown : Nat
  readyUp : Nat
  freeDown : Nat
  freeUp : Nat
deriving DecidableEq, Repr

/-- A box of a box list (R264): Q12.4 corners. -/
structure Box where
  x0 : Nat
  y0 : Nat
  x1 : Nat
  y1 : Nat
  outW : Nat
  outH : Nat
  frame : Nat
  tag : Nat
deriving DecidableEq, Repr

/-- A fold record (R125). -/
structure FoldRec where
  producer : Word
  weightScale : Word
  weightStream : Nat
  dest : Nat
  const : Word
  fromHeader : Bool
  useConst : Bool
deriving DecidableEq, Repr

/-! ## The bound configuration (R379 to R392) -/

/-- A client entry (R380). -/
structure ClientE where
  kind : Nat := 0
  unit : Nat := 0
  ports : Nat := 0
  share : Nat := 0
  latUs : Nat := 0
deriving DecidableEq, Repr

/-- A spindle entry (R389). -/
structure SpindleE where
  client : Nat := 0xFFFF
  workBanks : Nat := 0
  ringSteal : Bool := false
  saveAddr : Nat := 0
  bscrAddr : Nat := 0
  bscrSize : Nat := 0
  mscrSize : Nat := 0
  mscrAddr : Nat := 0
deriving DecidableEq, Repr

/-- A bank entry (R390): MODE 0 UNBOUND, 1 FIXED, 2 POOL. -/
structure BankE where
  client : Nat := 0xFFFF
  mode : Nat := 0
deriving DecidableEq, Repr

/-- A queue entry (R294): MODE 0 OFF, 1 JOB, 2 PACKET, 3 STREAM. -/
structure QueueE where
  mode : Nat := 0
  level : Nat := 0
  producer : Nat := 0
  consumer : Nat := 0
  reserve : Nat := 0
  limit : Nat := 0
  cutCells : Nat := 0
  maxPkt : Nat := 0
  staleUs : Nat := 0
  fullWait : Nat := 0
deriving DecidableEq, Repr

/-- A tick entry (R323): SOURCE 0 OFF, 1 PIN, 2 SYNTHETIC. -/
structure TickE where
  source : Nat := 0
  cls : Nat := 0
  stripes : Nat := 0
  lineQ : Nat := 0
  stripeLines : Nat := 0
  frameLines : Nat := 0
  minGapUs : Nat := 0
  maxGapUs : Nat := 0
  closeUs : Nat := 0
  budgetUs : Nat := 0
  synPeriod : Nat := 0
deriving DecidableEq, Repr

/-- A reset-list entry of a plan (R392). -/
structure KnotReset where
  knot : Nat
  count : Word
  thresh : Word
deriving DecidableEq, Repr

/-- A plan (R392) with its lists taken out of the PLAN_DATA section that supplies it;
`section` numbers that section and `sectionLen` is its COUNT (R388, R393 detail 9). -/
structure PlanE where
  resets : List KnotReset := []
  jobs : List (Nat × List Byte) := []
  folds : List FoldRec := []
  sectionId : Nat := 0
  sectionLen : Nat := 0
deriving DecidableEq, Repr

/-- A placement entry (R273). -/
structure PlaceE where
  homeAddr : Nat := 0
  sizeMax : Nat := 0
  reserve : Nat := 0
  hint : Nat := 0
  owner : Nat := 0
  life : Nat := 0
  stage : Bool := false
  client : Nat := 0
  releaseKnot : Nat := 0
  releaseCount : Nat := 0
deriving DecidableEq, Repr

/-- A class entry (R391). -/
structure ClassE where
  codeType : Nat := 0
  gridSlot : Nat := 0
  histBase : Int := 0
  calibrate : Bool := false
  clipTarget : Nat := 0
deriving DecidableEq, Repr

/-- The configuration in force: every section of R387, sparse. -/
structure Cfg where
  clients : Tab ClientE := []
  spindles : Tab SpindleE := []
  banks : Tab BankE := []
  queues : Tab QueueE := []
  queueClients : Tab Nat := []
  ticks : Tab TickE := []
  plans : Tab PlanE := []
  placement : Tab PlaceE := []
  grids : Tab (List (BitVec 16)) := []
  classes : Tab ClassE := []
deriving DecidableEq, Repr

/-! ## The Creel (R294 to R322) -/

/-- A cell (R297): its number in the pool, its data, whose length is VALID, and its flags.  NEXT is the
number of the cell that follows it in its queue's list. -/
structure Cell where
  num : Nat := 0
  data : List Byte := []
  first : Bool := false
  last : Bool := false
  poison : Bool := false
  trunc : Bool := false
deriving DecidableEq, Repr

/-- A packet of a JOB or PACKET queue (R306 to R312). -/
structure Pkt where
  /-- Cells not yet taken by the consumer, oldest first; the last may be partial while open. -/
  cells : List Cell := []
  /-- Cells taken (R309). -/
  taken : Nat := 0
  committed : Bool := false
  visible : Bool := false
  /-- Order in which packets became visible (R313). -/
  visAt : Nat := 0
  /-- The tick input whose release placed this descriptor (R328, R392). -/
  inst : Option Nat := none
  /-- A line held invisible until it commits (R340). -/
  held : Bool := false
  /-- Time at which the packet became visible (R347). -/
  visTime : Nat := 0
  /-- Wait entries of the descriptor that were satisfied while it stood at the head (R359). -/
  latched : List Nat := []
  /-- Highest-ranked G1 or G2 work dispatched ahead of the waiting job, as class and input (R347). -/
  ahead : Option (Nat × Nat) := none
deriving DecidableEq, Repr

/-- How further bytes of a producer are dropped until its next end or abort. -/
inductive DropMode where
  | none
  /-- R311, R312, R428: dropped without counting. -/
  | silent
  /-- R317: dropped and counted in CRL_DISCARD_CNT. -/
  | counted
deriving DecidableEq, Repr

/-- A producer that waits for a cell (R301). -/
structure CellWait where
  since : Nat
  /-- Bytes of the write not yet appended. -/
  rest : List Byte
  /-- The write ends the packet, or flushes the tail. -/
  ends : Bool
  /-- The leaf port whose write is held (R428). -/
  port : Option Port
  /-- Beats of that write, of which its port holds at most 16 (R428). -/
  beats : Nat := 0
  /-- Number of the queue's wait, in the order in which waits began (R301). -/
  turn : Nat := 0
deriving DecidableEq, Repr

/-- A queue's contents (R294 to R320). -/
structure Queue where
  pkts : List Pkt := []
  /-- Visible cells of a STREAM queue (R318). -/
  cells : List Cell := []
  /-- Partial tail cell of a STREAM queue. -/
  tail : List Byte := []
  /-- The cell that the tail's bytes stand in (R299). -/
  tailNum : Nat := 0
  drop : DropMode := .none
  /-- Start of the stale timer (R319). -/
  staleFrom : Option Nat := none
  /-- STALE_QUEUE raised and no read since (R319). -/
  stale : Bool := false
  /-- Producers that wait for a cell, the longest first: one, or one for each leaf port (R301, R303, R428). -/
  waits : List CellWait := []
deriving DecidableEq, Repr

/-- The Creel with its register page (R304, R316, R321). -/
structure Creel where
  /-- Queues that hold anything (R294; 4,096 queues; reset all empty) -/
  queues : Tab Queue := []
  /-- Number of the next wait to begin (R301; -; reset 0) -/
  waitNext : Nat := 0
  /-- Cells of bank b that were never handed out are b + 16 k for k from this on (R299; 16 × 11 bits; reset 0) -/
  fresh : Vector Nat 16 := Vector.replicate 16 0
  /-- Cells given back to each bank, the longest free first (R299; -; reset none) -/
  freed : Vector (List Nat) 16 := Vector.replicate 16 []
  /-- The bank whose turn it is to hand out a cell (R299; 4 bits; reset 0) -/
  bankTurn : Fin 16 := 0
  /-- Stamp of the next packet to become visible (R313; -; reset 0) -/
  visNext : Nat := 0
  /-- Cells lost to the pool by an uncorrectable link word (R483; 16 bits; reset 0) -/
  lost : Nat := 0
  /-- Cells whose row holds an uncorrectable error: of the link word, or of the data (R483; -; reset none) -/
  lostRows : List (Nat × Bool) := []
  /-- Cells whose row holds a corrected error that was not written back (R482; -; reset none) -/
  weakRows : List Nat := []
  /-- Queues of an affected set, which take no packets (R396; -; reset none) -/
  closed : List Nat := []
  /-- CRL_NSEL.QUEUE (R304; 12 bits; reset 0) -/
  nsel : BitVec 12 := 0
  /-- CRL_NDATA_LO (R304; 32 bits; reset 0) -/
  ndataLo : Word := 0
  /-- CRL_NDATA_HI (R304; 32 bits; reset 0) -/
  ndataHi : Word := 0
  /-- CRL_RSEL.QUEUE (R316; 12 bits; reset 0) -/
  rsel : BitVec 12 := 0
  /-- CRL_RTAG.VALID (R316; 1 bit; reset 0) -/
  rtagValid : Bool := false
  /-- CRL_RTAG.LINK (R316; 11 bits; reset 0) -/
  rtagLink : BitVec 11 := 0
  /-- CRL_RDATA0 to CRL_RDATA15, as the cell's bytes (R316; 512 bits; reset 0) -/
  rdata : List Byte := []
  /-- CRL_QSEL.QUEUE (R321; 12 bits; reset 0) -/
  qsel : BitVec 12 := 0
  /-- CRL_REWIND_CNT (R321; 32 bits; reset 0) -/
  rewindCnt : Word := 0
  /-- CRL_POISON_CNT (R321; 32 bits; reset 0) -/
  poisonCnt : Word := 0
  /-- CRL_TRUNC_CNT (R321; 32 bits; reset 0) -/
  truncCnt : Word := 0
  /-- CRL_FULL_CNT (R321; 32 bits; reset 0) -/
  fullCnt : Word := 0
  /-- CRL_STALE_CNT (R321; 32 bits; reset 0) -/
  staleCnt : Word := 0
  /-- CRL_DISCARD_CNT (R321; 32 bits; reset 0) -/
  discardCnt : Word := 0
deriving DecidableEq, Repr

/-! ## Knots (R360 to R363) -/

/-- A knot (R360). -/
structure Knot where
  count : Word := 0
  thresh : Word := 0
deriving DecidableEq, Repr

/-- Issuers of knot operations, in the order of R362. -/
inductive Issuer where
  | tick | doffer | spindle (n : Nat) | reg
deriving DecidableEq, Repr

/-- A knot operation that its bank has not yet applied (R362). -/
structure KnotOp where
  at_ : Nat
  issuer : Issuer
  knot : Nat
  verb : KnotVerb
  value : Word
deriving DecidableEq, Repr

/-- The knot table with its register page (R360 to R363, R377). -/
structure Knots where
  /-- Knots that differ from zero (R360; 65,536 × 64 bits; reset 0) -/
  table : Tab Knot := []
  /-- Operations held by the 16 banks, oldest first (R362; -; reset none) -/
  banks : Vector (List KnotOp) 16 := Vector.replicate 16 []
  /-- KNT_SEL.KNOT (R377; 16 bits; reset 0) -/
  sel : BitVec 16 := 0
  /-- KNT_SAT_CNT (R377; 32 bits; reset 0) -/
  satCnt : Word := 0
  /-- Dispatch clocks told apart so far, which age the operations (R362; the model's own, log 65; reset 0) -/
  clock : Nat := 0
  /-- Issuers that issued in this dispatch clock (R362; the model's own, log 65; reset none) -/
  issued : List Issuer := []
  /-- Banks that applied an operation in this dispatch clock (R362; the model's own, log 65; reset none) -/
  applied : List Nat := []
deriving DecidableEq, Repr

/-! ## Completion records and the Doffer (R364 to R370) -/

/-- What calibration takes from a job's Carder statistics (R485). -/
structure CalSample where
  cls : Nat
  codeType : Nat
  gridSlot : Nat
  histBase : Int
  absmax : Word
  histMode : Nat
  clipShare : Nat
  /-- The job ran in CALIBRATED mode without CAL_FALLBACK (R487). -/
  calibrated : Bool
  /-- The class entry that stood when the job started (R398). -/
  entry : ClassE := {}
deriving DecidableEq, Repr

/-- A completion record (R364), with what the Doffer's steps need of the job (R369). -/
structure CompRec where
  tag : Word
  status : Nat
  fault : Nat
  detail : Nat
  cflags : BitVec 8
  nep : Nat
  where_ : Nat
  spindle : Nat
  setId : Nat
  kclocks : Nat
  bytesOut : Nat
  notify : Bool
  effects : List KnotEffect
  /-- Tick input of the job's instance (R329). -/
  inst : Option Nat
  /-- Time at which the Doffer accepted the record (R329). -/
  acceptedAt : Nat := 0
  /-- Scale chosen through a drafting block (R126). -/
  scale : Option Word
  cal : Option CalSample
deriving DecidableEq, Repr

/-- Where the steps of the current record stand (R369). -/
inductive DofStep where
  /-- A FROM_HEADER fold waits for its header read (R126): the folds not yet evaluated, and
  whether a read of it has failed. -/
  | header (rest : List FoldRec) (failed : Bool)
  /-- All folds are evaluated; DEST writes of the record wait for their acknowledgement. -/
  | dest
deriving DecidableEq, Repr

/-- The Doffer with its register page (R367 to R370, R377). -/
structure Doffer where
  /-- Pending buffers, 16 records for each spindle (R367; -; reset empty) -/
  buffers : Vector (List CompRec) 32 := Vector.replicate 32 []
  /-- Records of skipped jobs that found their spindle's buffer full, each with the spindle, in the order they
  came (R366, R367; -; reset empty) -/
  waiting : List (Nat × CompRec) := []
  /-- Spindle served last (R368; 5 bits; reset: none served, so S0 is first) -/
  lastServed : Nat := 31
  /-- Accepted records that wait for their steps, oldest first, at most 32 (R369; -; reset empty) -/
  accepted : List CompRec := []
  /-- The record whose steps run (R369; -; reset none) -/
  current : Option (CompRec × DofStep) := none
  /-- DOF_RING_BASE_LO.ADDR (R377; 26 bits; reset 0) -/
  baseLo : BitVec 26 := 0
  /-- DOF_RING_BASE_HI.ADDR (R377; 16 bits; reset 0) -/
  baseHi : BitVec 16 := 0
  /-- DOF_RING_SIZE.LOG2 (R377; 5 bits; reset 0) -/
  log2 : BitVec 5 := 0
  /-- DOF_RING_HEAD.INDEX (R377; 16 bits; reset 0) -/
  head : BitVec 16 := 0
  /-- DOF_RING_TAIL.INDEX (R377; 16 bits; reset 0) -/
  tail : BitVec 16 := 0
  /-- RING_FULL raised and no room since (R370; 1 bit; reset 0) -/
  fullRaised : Bool := false
  /-- DOF_ACCEPT_CNT (R377; 32 bits; reset 0) -/
  acceptCnt : Word := 0
  /-- DOF_FULL_STALL (R377; 32 bits; reset 0) -/
  fullStall : Word := 0
  /-- DOF_RING_DROP (R377; 32 bits; reset 0) -/
  dropCnt : Word := 0
deriving DecidableEq, Repr

/-! ## Jobs on a spindle -/

/-- A word for the feed link or for an output queue, with its sideband (R135, R431). -/
structure FeedWord where
  data : List Byte
  bytes : Nat := 0
  tileStart : Bool := false
  lineStart : Bool := false
  padLine : Bool := false
  centreOnly : Bool := false
  boxStart : Bool := false
  member : Nat := 0
  last : Bool := false
  resume : Bool := false
  aux : Nat := 0
deriving DecidableEq, Repr

/-- Where the opening of a stream stands (R138). -/
inductive StrmPhase where
  /-- Not yet begun: another operand opens first. -/
  | idle
  | header
  | entry
  | setup
  | open
deriving DecidableEq, Repr

/-- An operand that a job reads (R130 to R139, R239). -/
structure Strm where
  blk : ExpBlk
  phase : StrmPhase := .idle
  hdr : SkeinHdr := {}
  /-- A coordinate list (R161) in place of a Skein stream. -/
  lst : Option ListHdr := none
  /-- Row pointers of a coordinate list. -/
  ptrs : List Nat := []
  /-- Scale in force (R132). -/
  scale : Word := 0
  /-- Tiles (rows of a list) that the block selects. -/
  first : Nat := 0
  count : Nat := 0
  /-- Entries that have arrived and whose tile is not yet decoded, in the order of their reads (R139). -/
  entries : List TileEntry := []
  /-- Tile reads decoded so far: a tile that is read again counts again (R151, R518). -/
  decoded : Nat := 0
  /-- Decoded tiles of a line (R248): codes, none where absent. -/
  tiles : List (List (Option Nat)) := []
  /-- Decoded tiles that the units behind the decoder hold, by tile number, the last read last. -/
  held : List (Nat × List (Option Nat)) := []
  /-- Places and indices read so far of the list row being read: B's by the probes of its search first (R165, R166). -/
  known : List (Nat × Nat) := []
  /-- The entries of the list row that are used, by place and index, once all are known and their codes are asked for (R165). -/
  rowIdx : Option (List (Nat × Nat)) := none
  /-- Codes of those entries that have arrived. -/
  rowCodes : List Nat := []
  /-- Rows of a sparse operand: index and code of each entry (R164). -/
  rows : List (List (Nat × Nat)) := []
  /-- Rows sorted so far, and passes made over the next one (R170). -/
  sorted : Nat := 0
  passes : Nat := 0
  /-- Frame header when the stream is wrapped (R239). -/
  wrapped : Option HankHdr := none
  /-- Decoded Hank blocks buffered, the most recently used first (R239). -/
  blocks : List (Nat × List Byte) := []
  /-- The block being fetched for an access (its purpose), with its data offset, COMP_LEN and
  STORED once its table entry has arrived. -/
  wblk : Option ((Nat × Nat) × Nat × Option (Nat × Nat)) := none
  /-- Blocks gathered for the accesses that are under way, each with its access. -/
  wgot : List ((Nat × Nat) × Nat × List Byte) := []
  /-- Entries asked for so far, one for each tile read (R139). -/
  asked : Nat := 0
  /-- Payload reads issued so far, ZERO tiles counted with them (R139). -/
  paid : Nat := 0
  /-- A Ply operand, and operand B of a sparse job: the tile reads planned and not yet decoded, each with
  the place in the job's order that needs it (R165, R518). -/
  plan : List (Nat × Nat) := []
  /-- Activation vectors whose reads are planned (R518); of a sparse operand, 1 once its plan is whole. -/
  planVec : Nat := 0
deriving DecidableEq, Repr

/-- The Carder's results for a job (R104 to R107). -/
structure Carder where
  n : Nat := 0
  nans : Nat := 0
  bins : List Nat := List.replicate 64 0
  absmax : Word := 0
deriving DecidableEq, Repr

/-- Where a drafting job stands. -/
inductive DraftPhase where
  /-- The source is carded (and, in one pass, drafted). -/
  | carding
  /-- The group slot is being written (R116). -/
  | slot
  /-- The knot of the scale group is waited for (R116). -/
  | groupWait
  /-- The Drafter's pass of a two-pass job. -/
  | drafting
  /-- All tiles written; the step set or the header's acknowledgement is waited for (R35, R205). -/
  | setWait
  | header
  | done
deriving DecidableEq, Repr

/-- The drafting side of a job (R102 to R124). -/
structure Draft where
  phase : DraftPhase := .carding
  shape : ShapeBlk
  /-- Source bytes held: stored or arriving sources (R114, R203). -/
  src : List Byte := []
  /-- The source has ended: no further byte will arrive. -/
  srcDone : Bool := false
  /-- Elements carded and drafted so far. -/
  carded : Nat := 0
  drafted : Nat := 0
  carder : Carder := {}
  scale : Option Word := none
  calFallback : Bool := false
  grouped : Bool := false
  clipped : Nat := 0
  /-- Codes narrowed so far, in element order (0 where the Comber or R174 dropped one). -/
  codes : List Nat := []
  /-- Tile entries written so far (R35). -/
  entries : List TileEntry := []
  /-- End of the last payload, as a stream offset. -/
  cursor : Nat := 64
  /-- The stream was closed by a short frame (R40). -/
  short : Bool := false
  /-- Lines that the stripe counted, once its frame has closed (R338, R339). -/
  lines : Option Nat := none
  /-- The slots of the scale group have been asked for (R117). -/
  asked : Bool := false
  /-- Accumulators are integers (R94): source words of a Ply job. -/
  plyInt : Bool := false
  /-- Output scale of a Ply job (R148). -/
  plyScale : Word := 0x3F800000
  /-- The knot of the group was incremented (R119). -/
  knotDone : Bool := false
  /-- The zero MAGIC has been written, or waits to be (R35). -/
  zeroed : Bool := false
deriving DecidableEq, Repr

/-- A Whorl bank (R144): one segment of one activation vector. -/
structure WhorlBank where
  vec : Nat
  pair : Nat
  seg : Nat
  /-- Entries: 16 binary16 products in Whorl mode (R92); the code in Direct mode, nothing for an
  absent element. -/
  entries : List (List (BitVec 32))
  /-- Lane groups that have still to read the bank. -/
  groups : List Nat
  /-- The half of the Whorl table that it fills: 512 rows of one entry each (R9, R144). -/
  half : Nat
deriving DecidableEq, Repr

/-- The accumulators of one lane group (R149, R518). -/
structure AccGroup where
  vec : Nat
  group : Nat
  acc : List Word
  full : Bool
deriving DecidableEq, Repr

/-- A dense Ply job's array state (R143 to R152, R518). -/
structure Ply where
  vec : Nat := 0
  pair : Nat := 0
  seg : Nat := 0
  banks : List WhorlBank := []
  accs : List AccGroup := []
  drained : Nat := 0
  /-- Bank reads made: the place in the order of R518. -/
  reads : Nat := 0
deriving DecidableEq, Repr

/-- A segment of a sparse job (R165). -/
structure Seg where
  output : Nat
  row : Nat
  bRow : Nat
  index : Nat
  /-- The row has no entries: the segment reads nothing (R165). -/
  empty : Bool := false
  /-- Record number when the segment was granted around the ring (R182). -/
  record : Option Nat := none
deriving DecidableEq, Repr

/-- A partial sum that a lane holds (R180, R186). -/
structure Partial where
  output : Nat
  acc : Word
deriving DecidableEq, Repr

/-- Where a lane's or a spindle's request to steal stands (R178, R182). -/
inductive StealSt where
  | idle
  /-- Asked the first (right) neighbour, at the given time. -/
  | askedFirst
  | askedSecond
  /-- Both refused; the retry wait runs. -/
  | waiting
deriving DecidableEq, Repr

/-- A thief's reading of the operands of the segment that a lane has taken up (R181). -/
structure SegRead where
  /-- 0 not begun; 1 to 3 tile entries or row pointers, indices, and data of A asked for; 4 to 6 those of B; 7 both at hand. -/
  stage : Nat := 0
  entries : List TileEntry := []
  ptrs : Nat × Nat := (0, 0)
  /-- Places and indices read so far of the list row being read (R165, R166). -/
  known : List (Nat × Nat) := []
  rowA : List (Nat × Nat) := []
  rowB : List (Nat × Nat) := []
  /-- The read failed: the DETAIL of the FAULT record (R183). -/
  fail : Option Nat := none
deriving DecidableEq, Repr

/-- One lane with its slice of the merge unit (R167 to R180). -/
structure Lane where
  unstarted : List Seg := []
  /-- The segment taken up, and whether its search is complete. -/
  cur : Option (Seg × Bool) := none
  /-- The last segment that the lane merged, for R166. -/
  prev : Option Seg := none
  /-- Partials for outputs, owned and not owned. -/
  partials : List Partial := []
  steal : StealSt := .idle
  /-- On a ring thief, the reading of the segment taken up (R181). -/
  read : SegRead := {}
  /-- Requests that reached this lane as a victim: the asking lanes. -/
  asked : List Nat := []
  /-- A grant or refusal on its way to this lane. -/
  answer : Option (List Seg) := none
deriving DecidableEq, Repr

/-- The lanes' common context: the sparse job, own or a ring victim's, whose segments run. -/
structure MergeCtx where
  /-- Spindle and job that own the segments. -/
  owner : Nat
  job : Nat
  gather : Bool
  intMode : Bool
  extent : Nat
  /-- Rows that the operands select, RA and RB (R163). -/
  ra : Nat
  rb : Nat
  /-- The operands as opened, without their data: what a thief reads them by (R181). -/
  opA : Strm
  opB : Strm
  /-- Entries of the rows that this spindle has read, by row (R164). -/
  rowsA : List (List (Nat × Nat))
  rowsB : List (List (Nat × Nat))
  /-- GATHER: B rows in the Whorl's banks of this spindle, each with the half of the table where it begins (R168). -/
  whorl : List (Nat × Nat)
  /-- The ring neighbour that granted the segments to a thief (R182). -/
  giver : Nat
  codeA : Nat
  codeB : Nat
  gridA : List (BitVec 16)
  gridB : List (BitVec 16)
  stealArea : Nat
  stealKnot : Nat
  laneSteal : Bool
  ringSteal : Bool
deriving DecidableEq, Repr

/-- A ring-steal record (R183) that a thief writes and whose write is not acknowledged. -/
structure RingRec where
  owner : Nat
  job : Nat
  record : Nat
  knot : Nat
  /-- Tensor, offset and bytes while the write waits for a translation or a placement decision (R279, R284). -/
  held : Option (Nat × Nat × List Byte) := none
deriving DecidableEq, Repr

/-- The sparse side of a job at its owning spindle (R163, R182 to R187). -/
structure Sparse where
  /-- Output groups opened so far and drained so far (R163). -/
  opened : Nat := 0
  drained : Nat := 0
  /-- Reduced outputs not yet drained. -/
  results : List Partial := []
  /-- Segments merged or voided, of each output: segments still outstanding are counted. -/
  outstanding : Tab Nat := []
  /-- Records granted around the ring (R182), with their outputs. -/
  granted : List (Nat × Nat) := []
  /-- Outputs whose records the owner has asked for (R184). -/
  recAsked : List Nat := []
deriving DecidableEq, Repr

/-- A Hank job (R214 to R238). -/
structure Hank where
  /-- The side is held (R235). -/
  held : Bool := false
  hdr : Option HankHdr := none
  /-- Next block to match, or to decode (counted from BLOCK_FIRST). -/
  next : Nat := 0
  /-- The block in the match stage's output: number and symbols as (literal or length, distance). -/
  matched : Option (Nat × List (Nat × Nat)) := none
  /-- The block in the build stage's output: number, data bytes, STORED. -/
  built : Option (Nat × List Byte × Bool) := none
  entries : List (Nat × Nat × Bool) := []
  cursor : Nat := 64
  stored : Nat := 0
  /-- Blocks of which the decoder's set-up is done (R238). -/
  setups : Nat := 0
  /-- Table entries asked for by a decode job. -/
  asked : Nat := 0
  /-- All parts but the header written; their acknowledgements are waited for. -/
  closing : Bool := false
  /-- The frame header is written, the last part (R226). -/
  headed : Bool := false
deriving DecidableEq, Repr

/-- A halo half that a window job reads (R257, R260). -/
inductive HalfRead where
  /-- The job names no ring here. -/
  | none
  /-- Named, and its FREE knot not yet moved; not yet opened. -/
  | owed (ring : RingDesc)
  /-- The ring holds the spill marker; the header at the spill place is being read (R258). -/
  | spilled (ring : RingDesc)
  /-- Opened: ring, address at which the half stands, and its header. -/
  | opened (ring : RingDesc) (addr : Nat) (hdr : SkeinHdr)
  | released
deriving DecidableEq, Repr

/-- A window job (R245 to R262). -/
structure Window where
  centreOnly : Bool := false
  above : HalfRead := .none
  below : HalfRead := .none
  /-- Tap lines delivered: output line and tap. -/
  line : Nat := 0
  tap : Nat := 0
  /-- The job waits for the READY knot of its upper (true) or lower half. -/
  waiting : Option Bool := none
  /-- When that wait began, until its clocks are counted. -/
  waitFrom : Option Nat := none
  /-- F', once a lower half closed by a short frame has shown it (R262). -/
  shortEnd : Option Nat := none
deriving DecidableEq, Repr

/-- A half that a publisher owes (R255 to R259). -/
structure HalfOut where
  down : Bool
  ring : RingDesc
  /-- The half's stream, once drafted. -/
  bytes : Option (List Byte) := none
  written : Bool := false
  acked : Bool := false
deriving DecidableEq, Repr

/-- A crop job (R263 to R268). -/
structure Crop where
  open_ : Bool := false
  /-- BOX_OFFSET and the number of boxes to deliver, once the list's header has arrived. -/
  list : Option (Nat × Nat) := none
  extrap : Word := 0
  boxes : List Box := []
  /-- Box, and element within the box, formed next. -/
  box : Nat := 0
  elem : Nat := 0
  /-- Elements of the box formed so far, in the delivery format. -/
  part : List Nat := []
  /-- Decoded tiles kept, the most recently used first (R268). -/
  cache : List (Nat × List (Option Nat)) := []
  /-- The tile that the next element needs and that is not kept. -/
  need : Option Nat := none
deriving DecidableEq, Repr

/-- How a job ended (R364, R365). -/
structure Ending where
  status : Nat
  fault : Nat := 0
  detail : Nat := 0
  where_ : Nat := 0
deriving DecidableEq, Repr

/-- Whether a started job runs or stands aside (R333 to R336). -/
inductive JobRun where
  | running
  /-- Switched out: its context rests in its slot. -/
  | saving
  | out
  | restoring
deriving DecidableEq, Repr

/-- A write of a job to a placed tensor that waits for a placement decision (R279, R282). -/
structure HeldWrite where
  tensor : Nat
  offset : Nat
  data : List Byte
  purpose : Nat × Nat
deriving DecidableEq, Repr

/-- A started job (R357 to R359). -/
structure Job where
  id : Nat
  desc : Desc
  level : Nat
  inst : Option Nat
  /-- Time at which the descriptor became visible, for G4 (R347). -/
  visibleAt : Nat := 0
  /-- Highest-ranked G1 or G2 work served ahead of the job, as class and input (R347). -/
  ahead : Option (Nat × Nat) := none
  run : JobRun := .running
  ended : Option Ending := none
  overflow : Bool := false
  spilled : Bool := false
  drift : Bool := false
  nepRaised : Bool := false
  nanRaised : Bool := false
  switched : Bool := false
  nep : Nat := 0
  bytesOut : Nat := 0
  /-- Working banks held, those among them that hold the stored source, and a fixed claim that waits (R277, R288). -/
  banks : List Nat := []
  srcBanks : List Nat := []
  claim : Option Nat := none
  /-- Flexible claims: Bobbin scratch held, memory scratch slices held (R289). -/
  scratch : Bool := false
  slices : List Nat := []
  /-- Where each flexible claim that took scratch space rests: the claim (0 the stored source, 1 the staged halves, 2 + i run i
  of a sorter) and its place (0 the Bobbin scratch region, 1 + i memory slice i) (R170, R289; none). -/
  spots : List (Nat × Nat) := []
  /-- A lockstep set whose last member has not started (R200). -/
  lockWait : Bool := false
  /-- The job has begun its work: its set has started and its claims are granted. -/
  begun : Bool := false
  /-- The next delivered word carries RESUME (R201). -/
  resume : Bool := false
  strA : Option Strm := none
  strB : Option Strm := none
  /-- Delivery words not yet sent (R135), and whether the last has been formed. -/
  words : List FeedWord := []
  allFormed : Bool := false
  /-- Words sent so far, and tiles sent whole (R201). -/
  sent : Nat := 0
  sentTiles : Nat := 0
  draft : Option Draft := none
  ply : Option Ply := none
  sparse : Option Sparse := none
  hank : Option Hank := none
  window : Option Window := none
  crop : Option Crop := none
  halves : List HalfOut := []
  held : List HeldWrite := []
  /-- The queue that the job reads stands inside a packet (R313, R317), and the bytes read of it. -/
  inPacket : Bool := false
  lineBuf : List Byte := []
  /-- The lanes of a sparse job that is switched out (R335). -/
  savedLanes : Option (MergeCtx × Tab Lane) := none
  /-- A member of a step set that has completed as a whole (R205). -/
  setDone : Bool := false
  /-- The job stands where a group has drained or a block has been written (R333). -/
  point : Bool := false
  /-- The user grids of the configuration in force when the job started (R398). -/
  grids : Tab (List (BitVec 16)) := []
  /-- LAT_US of the spindle's client when the job started (R347, R398). -/
  latUs : Nat := 0
  /-- The class entry of a drafting job's TENSOR_CLASS when it started (R398). -/
  cls : ClassE := {}
  /-- When the job began to wait for a side of the Hank lane (R235, R241). -/
  sideFrom : Option Nat := none
  /-- The best winner served ahead of the job at its home port while it had a request there, as `ahead` (class 4 stands for G3, its
  second part then a client) (R347; none). -/
  aheadPort : Option (Nat × Nat) := none
  /-- When the winner on the spindle and the one at the port were served (R347; -; reset 0) -/
  aheadAt : Nat := 0
  aheadPortAt : Nat := 0
deriving DecidableEq, Repr

/-- A transaction of the manager half, waiting or in flight (R14, R422, R426).  `purpose`
says which access of the job it serves. -/
structure Txn where
  job : Nat
  write : Bool
  addr : Nat
  purpose : Nat × Nat
  /-- Slot of an issued transaction, ID bits [6:0]. -/
  slot : Option Nat := none
  issued : Nat := 0
  timedOut : Bool := false
  /-- The job has ended: the response is discarded (R425). -/
  discarded : Bool := false
deriving DecidableEq, Repr

/-- Shared units that use leaf port 0 (R13, R421). -/
inductive SharedUnit where
  | doffer | telemetry | image
deriving DecidableEq, Repr

/-- An access of a shared unit on leaf port 0 (R422, R425): a slot of 64 or more waits to be issued. -/
structure UnitTxn where
  slot : Nat
  unit : SharedUnit
  issued : Nat
  timedOut : Bool := false
  write : Bool := true
  /-- It serves a fold record: the header's read, or a DEST write (R126, R369). -/
  fold : Bool := false
  /-- Address of its 64-byte line. -/
  addr : Nat := 0
deriving DecidableEq, Repr

/-- Feed link n as the engine's side holds it (R430 to R436). -/
structure Link where
  /-- Forward credits granted and not used (R433; 7 bits; reset 0) -/
  fwdCredits : Nat := 0
  /-- Back credits granted and not used (R433; 6 bits; reset 0) -/
  backCredits : Nat := 0
  /-- FLNK_RST is high (R436; 1 bit; reset 0) -/
  rst : Bool := false
  /-- SPN_LINK_STAT.RESYNC (R443; 1 bit; reset 0) -/
  resync : Bool := false
  /-- SPN_LINK_RESYNC_CNT (R443; 32 bits; reset 0) -/
  resyncCnt : Word := 0
  /-- The last forward word with its sideband (R430; 560 bits; reset none) -/
  fwdOut : Option FeedWord := none
  /-- Deliveries begun and not ended, the innermost first (R201; -; reset none) -/
  nest : List Nat := []
  /-- Back words in the engine's buffer, each with its tag, the oldest first (R433; 32 words; reset none) -/
  backBuf : List (Nat × List Byte) := []
deriving DecidableEq, Repr

/-- Counters of chapters 3, 4 and 7 (R99, R123, R208). -/
structure CodeCnt where
  /-- SPN_BELL8_CNT (R99; 32 bits; reset 0) -/
  bell8 : Word := 0
  /-- SPN_SPECIAL_CNT (R99; 32 bits; reset 0) -/
  special : Word := 0
  /-- SPN_NANSRC_CNT (R99; 32 bits; reset 0) -/
  nanSrc : Word := 0
  /-- SPN_DSAT_CNT (R99; 32 bits; reset 0) -/
  dsat : Word := 0
  /-- SPN_CLIP_CNT (R123; 32 bits; reset 0) -/
  clip : Word := 0
  /-- SPN_DRIFT_CNT (R123; 32 bits; reset 0) -/
  drift : Word := 0
  /-- SPN_LAST_SHARE.SHARE (R123; 16 bits; reset 0) -/
  lastShare : BitVec 16 := 0
  /-- SPN_UFLOW_CNT (R208; 32 bits; reset 0) -/
  uflow : Word := 0
  /-- SPN_COMB_DROP (R208; 32 bits; reset 0) -/
  combDrop : Word := 0
  /-- SPN_S24_EXTRA (R189; 32 bits; reset 0) -/
  s24Extra : Word := 0
deriving DecidableEq, Repr

/-- Stall, match, Hank and window counters (R155, R189, R241, R269). -/
structure WorkCnt where
  /-- SPN_LINK_STALL (R155; 32 bits; reset 0) -/
  linkStall : Word := 0
  /-- SPN_SRC_STALL (R155; 32 bits; reset 0) -/
  srcStall : Word := 0
  /-- SPN_WHORL_STALL (R155; 32 bits; reset 0) -/
  whorlStall : Word := 0
  /-- SPN_DRAIN_STALL (R155; 32 bits; reset 0) -/
  drainStall : Word := 0
  /-- SPN_NEP_CNT (R189; 32 bits; reset 0) -/
  nep : Word := 0
  /-- SPN_STEAL_LANE (R189; 32 bits; reset 0) -/
  stealLane : Word := 0
  /-- SPN_STEAL_IN (R189; 32 bits; reset 0) -/
  stealIn : Word := 0
  /-- SPN_STEAL_OUT (R189; 32 bits; reset 0) -/
  stealOut : Word := 0
  /-- SPN_HANK_ENC_BLK (R241; 32 bits; reset 0) -/
  hankEnc : Word := 0
  /-- SPN_HANK_STORED (R241; 32 bits; reset 0) -/
  hankStored : Word := 0
  /-- SPN_HANK_DEC_BLK (R241; 32 bits; reset 0) -/
  hankDec : Word := 0
  /-- SPN_HANK_ERR (R241; 32 bits; reset 0) -/
  hankErr : Word := 0
  /-- SPN_HANK_WAIT (R241; 32 bits; reset 0) -/
  hankWait : Word := 0
  /-- SPN_HALO_WAIT (R269; 32 bits; reset 0) -/
  haloWait : Word := 0
  /-- SPN_SLOT_WAIT (R269; 32 bits; reset 0) -/
  slotWait : Word := 0
  /-- SPN_BOX_BAD (R269; 32 bits; reset 0) -/
  boxBad : Word := 0
  /-- SPN_CROP_MISS (R269; 32 bits; reset 0) -/
  cropMiss : Word := 0
deriving DecidableEq, Repr

/-- Job, placement and switch counters (R292, R350, R376). -/
structure JobCnt where
  /-- SPN_JOB_CNT (R376; 32 bits; reset 0) -/
  jobs : Word := 0
  /-- SPN_FAULT_CNT (R376; 32 bits; reset 0) -/
  faults : Word := 0
  /-- SPN_SPILL_CNT (R292; 32 bits; reset 0) -/
  spill : Word := 0
  /-- SPN_SPILL_KIB (R292; 32 bits; reset 0) -/
  spillKib : Word := 0
  /-- SPN_XLATE_MISS (R292; 32 bits; reset 0) -/
  xlateMiss : Word := 0
  /-- SPN_SWITCH_CNT (R350; 32 bits; reset 0) -/
  switches : Word := 0
  /-- SPN_SWITCH_HELD (R350; 32 bits; reset 0) -/
  switchHeld : Word := 0
  /-- SPN_SWITCH_MAX.NS (R350; 32 bits; reset 0) -/
  switchMax : Word := 0
deriving DecidableEq, Repr

/-- Power state of a domain (R20 to R22, R497 to R499). -/
inductive PwrSt where
  | off | requested | waking | on
deriving DecidableEq, Repr

/-- A spindle with its page (R9, R376, R478). -/
structure Spindle where
  /-- Power domain; GLB_SPN_PWR.ON is 1 while `on` (R467; 1 bit; reset 0, off) -/
  pwr : PwrSt := .off
  /-- SPN_CTL.RING_EN (R376; 1 bit; reset 1) -/
  ringEn : Bool := true
  /-- SPN_CTL.PLY_EN (R376; 1 bit; reset 1) -/
  plyEn : Bool := true
  /-- SPN_CTL.HANK_EN (R376; 1 bit; reset 1) -/
  hankEn : Bool := true
  /-- SPN_CTL.ENABLE (R376; 1 bit; reset 0) -/
  enable : Bool := false
  /-- SPN_DRAIN.LIMIT_US (R376; 16 bits; reset 0x01F4) -/
  limitUs : BitVec 16 := 0x01F4
  /-- Time at which ENABLE was cleared, while the drain runs (R371; -; reset none) -/
  drainFrom : Option Nat := none
  /-- Time at which HANK_EN was cleared, while its drain runs (R372; -; reset none) -/
  drainHank : Option Nat := none
  /-- Time at which PLY_EN was cleared, while its drain runs (R372; -; reset none) -/
  drainPly : Option Nat := none
  /-- Time at which RING_EN was cleared, while its drain runs (R372; -; reset none) -/
  drainRing : Option Nat := none
  /-- SPN_CLK_GRANT.STEPS (R155; 6 bits; reset 0x20) -/
  steps : Nat := 32
  /-- Since when the spindle has had nothing to do (R497; -; reset 0) -/
  quietFrom : Nat := 0
  /-- Since when SPN_STAT.DRAINED has been 1 (R497; -; reset 0) -/
  drainedFrom : Nat := 0
  /-- Started jobs, switched-out jobs included, in dispatch order (R358; at most 8; reset none) -/
  jobs : List Job := []
  /-- Step sets that failed, with the members still to come (R204; -; reset none) -/
  failedSets : Tab Nat := []
  /-- Members of step sets that left their queues without starting, by SET_ID (R204; the model's own, log 121; reset none) -/
  goneSets : Tab Nat := []
  /-- Number of the next job started, to tell jobs apart (the model's own; -; reset 0) -/
  jobNext : Nat := 0
  /-- The waiting head whose held switch was counted: its queue and its place in visibility order (R334; -; reset none) -/
  heldCounted : Option (Nat × Nat) := none
  /-- Transactions of the fetch unit (R14; 128 in flight; reset none) -/
  txns : List Txn := []
  /-- Translation cache: tensors, the most recently filled first (R284; 16 tensors; reset none) -/
  xlate : List Nat := []
  /-- Tensors whose translation an access of the spindle missed and waits for (R284; -; reset none) -/
  xlateWait : List Nat := []
  /-- Spindle store bytes that placement has written (R9; 352 KiB; reset 0) -/
  store : Tab Byte := []
  /-- Hank generation counter (R219; 16 bits; reset 0) -/
  hankGen : BitVec 16 := 0
  /-- Hank hash heads, GEN and POS (R218; 4,096 × 32 bits; reset 0) -/
  hankHeads : Tab Word := []
  /-- The encoder's link ring, by position mod W (R218; 32,768 × 16 bits; reset 0) -/
  hankLinks : Tab Nat := []
  /-- Lanes that hold anything (R167; 64; reset empty) -/
  lanes : Tab Lane := []
  /-- The sparse job that the lanes work for (R157; -; reset none) -/
  merge : Option MergeCtx := none
  /-- Ring stealing: where the spindle's own request stands (R182; -; reset idle) -/
  ringSteal : StealSt := .idle
  /-- The answer on its way: the victim's context and granted segments, none when refused (R182; -; reset none) -/
  ringAnswer : Option (Option (MergeCtx × List Seg)) := none
  /-- Ring records written and not acknowledged (R183; -; reset none) -/
  ringRecs : List RingRec := []
  /-- Abandon notices on their way to this spindle: owner and job (R185; -; reset none) -/
  abandons : List (Nat × Nat) := []
  /-- Feed link (R430; -; reset as `Link`) -/
  link : Link := {}
  /-- Code counters (R99, R123; -; reset 0) -/
  code : CodeCnt := {}
  /-- Work counters (R155, R189, R241, R269; -; reset 0) -/
  work : WorkCnt := {}
  /-- Job counters (R292, R350, R376; -; reset 0) -/
  cnt : JobCnt := {}
  /-- Bytes delivered and source bytes read since the last SAMPLE (R495; -; reset 0) -/
  delivered : Nat := 0
  srcRead : Nat := 0
deriving DecidableEq, Repr

/-! ## Events and the global page -/

/-- The events of the catalogue (R516) with what the owning chapter says they carry. -/
inductive Event where
  | clipDrift (n : Nat) (tag : Word)
  | nanSource (n : Nat) (tag : Word)
  | accOverflow (n : Nat) (tag : Word)
  | nepThresh (n : Nat) (tag : Word)
  | spill (n : Nat) (reason : Nat)
  | staleQueue (q : Nat)
  | queueFull (q : Nat)
  | ringFull
  | knotSat (k : Nat)
  | frameShort (t : Nat) (lines : Nat)
  | frameLong (t : Nat)
  | tickEarly (t : Nat)
  | tickLost (t : Nat)
  | deadlineMiss (t : Nat)
  | budgetOver (t : Nat)
  | guaranteeYield (winRank loseRank winId loseId : Nat)
  | imageReject (detail : Nat)
  | imageFallback
  | imageNone
  | cmdReject (result : Nat)
  | cmdLockout
  | protoViolation (code : Nat)
  | unitBusError (unit : SharedUnit)
  | sramCeHigh (mem : Nat)
  | sramUe (mem : Nat)
  | distaffWear
  | thermalHigh
  | govFloor
deriving DecidableEq, Repr

/-- A PROTO_LOG entry (R435; 16 bytes). -/
structure PlogE where
  time : Nat
  code : Nat
  source : Nat
  repeats : Nat
  info : Nat
deriving DecidableEq, Repr

/-- A triplicated field: its three copies (R453). -/
structure Tv (w : Nat) where
  c0 : BitVec w
  c1 : BitVec w
  c2 : BitVec w
deriving DecidableEq, Repr

/-- A snapshot word with its snapshot (R457, R462). -/
structure Snap where
  /-- VALID (R462; 1 bit; reset 0) -/
  valid : Bool := false
  /-- GEN (R462; 4 bits; reset 0) -/
  gen : BitVec 4 := 0
  /-- TARGET, byte offset bits [15:2] (R462; 14 bits; reset 0) -/
  target : BitVec 14 := 0
  /-- The captured words (R457; -; reset none) -/
  words : List Word := []
deriving DecidableEq, Repr

/-- A register access that holds PREADY low (R448). -/
inductive StallKind where
  /-- A knot operation that its bank has not applied. -/
  | knot (op : KnotOp)
  /-- A narrow push that waits for a cell: queue, bytes still to append, END. -/
  | push (q : Nat) (bytes : List Byte) (ends : Bool)
  /-- A capture (R457). -/
  | capture (page : SnapPage)
deriving DecidableEq, Repr

/-- A stalled access (R448, R449). -/
structure Stall where
  path : RegPath
  addr : BitVec 23
  since : Nat
  kind : StallKind
deriving DecidableEq, Repr

/-- A register access that arrived while another stalled: its path, the clock in which it arrived, and the command that makes it
(R447). -/
structure HeldAccess where
  path : RegPath
  since : Nat
  cmd : Instr
deriving DecidableEq, Repr

/-- The register port and the global page (R400, R443, R462, R467). -/
structure Glb where
  /-- GLB_RST_CAUSE.KIND (R467; 2 bits; reset 0) -/
  rstKind : BitVec 2 := 0
  /-- GLB_RST_CAUSE.WARM_CNT (R467; 16 bits; reset 0) -/
  warmCnt : BitVec 16 := 0
  /-- GLB_IMG_STAT.REJECT (R400; 8 bits; reset 0) -/
  imgReject : BitVec 8 := 0
  /-- GLB_IMG_STAT.PARTIAL (R400; 1 bit; reset 0) -/
  imgPartial : Bool := false
  /-- GLB_IMG_STAT.COPY (R400; 2 bits; reset 3) -/
  imgCopy : BitVec 2 := 3
  /-- GLB_IMG_SEQ (R400; 64 bits; reset 0) -/
  imgSeq : BitVec 64 := 0
  /-- GLB_PART_SEQ (R400; 64 bits; reset 0) -/
  partSeq : BitVec 64 := 0
  /-- GLB_REBIND_US (R400; 32 bits; reset 0) -/
  rebindUs : Word := 0
  /-- GLB_REJECT_CNT (R400; 32 bits; reset 0) -/
  rejectCnt : Word := 0
  /-- GLB_AXI_ATTR.PROT (R443; 3 bits; reset 2) -/
  axiProt : BitVec 3 := 2
  /-- GLB_AXI_ATTR.CACHE (R443; 4 bits; reset 3) -/
  axiCache : BitVec 4 := 3
  /-- GLB_AXI_TIMEOUT.US (R443; 16 bits; reset 0x03E8) -/
  axiTimeoutUs : BitVec 16 := 0x03E8
  /-- GLB_BUS_ERR_CNT (R443; 32 bits; reset 0) -/
  busErrCnt : Word := 0
  /-- GLB_IRQ_MASK0.GROUPS (R443; 12 bits; reset 0x800) -/
  irqMask0 : BitVec 12 := 0x800
  /-- GLB_IRQ_MASK1.GROUPS (R443; 12 bits; reset 0) -/
  irqMask1 : BitVec 12 := 0
  /-- GLB_IRQ_MASK2.GROUPS (R443; 12 bits; reset 0) -/
  irqMask2 : BitVec 12 := 0
  /-- GLB_IRQ_MASK3.GROUPS (R443; 12 bits; reset 0) -/
  irqMask3 : BitVec 12 := 0
  /-- GLB_EVT_SEL.GROUP (R443; 4 bits; reset 0) -/
  evtSel : BitVec 4 := 0
  /-- GLB_EVT_RAISED of each group (R443; 12 × 32 bits; reset 0) -/
  raised : Vector Word 12 := Vector.replicate 12 0
  /-- GLB_EVT_ACK of each group (R443; 12 × 32 bits; reset 0) -/
  ack : Vector Word 12 := Vector.replicate 12 0
  /-- The PROTO_LOG ring, newest first (R435; 64 × 128 bits; reset empty, kept by a warm reset) -/
  plog : List PlogE := []
  /-- GLB_PLOG_CNT (R443; 32 bits; reset 0, kept by a warm reset) -/
  plogCnt : Word := 0
  /-- GLB_PLOG_SEL.INDEX (R443; 6 bits; reset 0) -/
  plogSel : BitVec 6 := 0
  /-- GLB_REG_ERR (R462; 32 bits; reset 0) -/
  regErr : Word := 0
  /-- GLB_REG_ERR_CNT (R462; 32 bits; reset 0) -/
  regErrCnt : Word := 0
  /-- GLB_TV_REPAIR_CNT (R462; 32 bits; reset 0) -/
  tvRepairCnt : Word := 0
  /-- GLB_TV_LAST.ADDR (R462; 23 bits; reset 0) -/
  tvLast : BitVec 23 := 0
  /-- GLB_PWR_CAP.CAP, three copies (R467; 3 × 16 bits; reset 0x36B0) -/
  pwrCap : Tv 16 := ⟨0x36B0, 0x36B0, 0x36B0⟩
  /-- GLB_SPREAD.DEPTH, three copies (R467; 3 × 4 bits; reset 4) -/
  spread : Tv 4 := ⟨4, 4, 4⟩
  /-- GLB_WAKE_GAP.NS, three copies (R467; 3 × 16 bits; reset 0x0032) -/
  wakeGap : Tv 16 := ⟨0x32, 0x32, 0x32⟩
  /-- GLB_SNAP (R462; 32 bits; reset 0) -/
  snap : Snap := {}
  /-- The access that stalls (R448; -; reset none) -/
  stall : Option Stall := none
  /-- Accesses that wait behind it, in the order in which they are served (R447; -; reset none) -/
  waiting : List HeldAccess := []
  /-- Captures that go on after their access has ended at the stall limit (R449, R457; -; reset none) -/
  captures : List SnapPage := []
  /-- PSLVERR of the last register access (R434, R449; 1 bit; reset 0) -/
  pslverr : Bool := false
deriving DecidableEq, Repr

/-! ## Ticks (R323 to R350) -/

/-- A plan instance (R328, R329). -/
structure Instance where
  /-- Tick time (R325). -/
  start : Nat
  /-- Jobs placed by the release, and records of them accepted. -/
  jobs : Nat
  accepted : Nat
  /-- BUDGET_OVER raised (R343). -/
  overBudget : Bool := false
  /-- Class of a job served ahead of a waiting job of the instance, with its input and
  spindle: the highest-ranked, last served (R347). -/
  servedAhead : Option (Nat × Nat × Nat) := none
deriving DecidableEq, Repr

/-- The frame of the last accepted tick (R337 to R340). -/
structure Frame where
  open_ : Bool := false
  counts : List Nat := []
  /-- FRAME_LONG raised for the frame. -/
  long : Bool := false
deriving DecidableEq, Repr

/-- A tick input (R325, R349). -/
structure Tick where
  /-- Time of the last accepted tick (R326; -; reset none) -/
  lastTick : Option Nat := none
  /-- TCK_ISTAT.LOST (R349; 1 bit; reset 0) -/
  lost : Bool := false
  /-- The running instance; TCK_ISTAT.RUNNING and OVER (R349; -; reset none) -/
  inst : Option Instance := none
  /-- The frame (R337; -; reset closed) -/
  frame : Frame := {}
  /-- Ticks accepted whose release a rebind holds, the oldest first (R397; -; reset none) -/
  heldTicks : List Nat := []
  /-- A tick accepted in this control clock, settled at the clock's end (R330, R344; 1 bit; reset 0) -/
  due : Bool := false
  /-- TICK_LOST raised in this control clock: the deadline is settled at the clock's end (R342, R344; 1 bit; reset 0) -/
  lostDue : Bool := false
  /-- CLOSE_US passes in this control clock: the frame closes at the clock's end (R338; 1 bit; reset 0) -/
  closeDue : Bool := false
  /-- BUDGET_US passes in this control clock (R343, R344; 1 bit; reset 0) -/
  budgetDue : Bool := false
  /-- Time of the next synthetic tick (R325; -; reset none) -/
  synNext : Option Nat := none
  /-- TCK_TICK_CNT (R349; 32 bits; reset 0) -/
  tickCnt : Word := 0
  /-- TCK_EARLY_CNT (R349; 32 bits; reset 0) -/
  earlyCnt : Word := 0
  /-- TCK_MISS_CNT (R349; 32 bits; reset 0) -/
  missCnt : Word := 0
  /-- TCK_OVER_CNT (R349; 32 bits; reset 0) -/
  overCnt : Word := 0
  /-- TCK_SHORT_CNT (R349; 32 bits; reset 0) -/
  shortCnt : Word := 0
  /-- TCK_LONG_CNT (R349; 32 bits; reset 0) -/
  longCnt : Word := 0
  /-- TCK_DROP_LINES (R349; 32 bits; reset 0) -/
  dropLines : Word := 0
  /-- TCK_LAST_LINES (R349; 32 bits; reset 0) -/
  lastLines : Word := 0
  /-- TCK_LAST_RUN (R349; 32 bits; reset 0) -/
  lastRun : Word := 0
  /-- TCK_MAX_RUN (R349; 32 bits; reset 0) -/
  maxRun : Word := 0
deriving DecidableEq, Repr

/-- The tick unit with its page (R349). -/
structure TickUnit where
  /-- The 16 inputs (R323; -; reset as `Tick`) -/
  inputs : Vector Tick 16 := Vector.replicate 16 {}
  /-- TCK_SEL.INPUT (R349; 4 bits; reset 0) -/
  sel : BitVec 4 := 0
  /-- TCK_PIN_POL.POL (R443; 16 bits; reset 0) -/
  pinPol : BitVec 16 := 0
  /-- Filtered level of each input, after inversion (R438; 16 bits; reset 0) -/
  level : BitVec 16 := 0
  /-- TCK_YIELD_CNT (R349; 32 bits; reset 0) -/
  yieldCnt : Word := 0
  /-- Time of the last GUARANTEE_YIELD raised for each loser, by 65,536 × rank + input or client (R348; -; reset none) -/
  lastYields : Tab Nat := []
deriving DecidableEq, Repr

/-! ## Placement (R273 to R287) -/

/-- Where a tensor rests (R278 to R287).  Granules are of 4 KiB, counted from the start of
the spindle pool and of the Bobbin store. -/
structure Tensor where
  placed : Bool := false
  /-- Spindle part: first granule and granules. -/
  sPart : Option (Nat × Nat) := none
  /-- Bobbin part: first granule and granules. -/
  bPart : Option (Nat × Nat) := none
  /-- Highest offset written plus 1 (R285). -/
  high : Nat := 0
  lastLen : Nat := 0
  lost : Bool := false
  /-- The staged copy is not yet acknowledged (R280). -/
  staging : Bool := false
  /-- Spindle and job whose read placed the staged tensor (R280). -/
  stager : Nat × Nat := (0, 0)
  /-- A free waits for the jobs that hold the tensor open (R286). -/
  freeWaits : Bool := false
  /-- The last on-chip part has ended and the tensor continues at its home (R282). -/
  toHome : Bool := false
  /-- The tick input whose plan placed it (R285). -/
  inst : Option Nat := none
  /-- The entry that a rebind replaced, which the jobs that hold the tensor open keep (R398). -/
  entry : Option PlaceE := none
  /-- Job that made the staged tensor's placing read (R290). -/
  stagerTag : Word := 0
deriving DecidableEq, Repr

/-- A request to the allocator or the Flyer (R279). -/
structure PlaceReq where
  spindle : Nat
  job : Nat
  tensor : Nat
  /-- The end that the write must reach; `none` for a staged read. -/
  upTo : Option Nat
  /-- The staged read that waits: its purpose, offset and length (R278, R280). -/
  read : Option ((Nat × Nat) × Nat × Nat) := none
  /-- When the request arrived (R279). -/
  at_ : Nat := 0
deriving DecidableEq, Repr

/-! ## Images and rebinding (R379 to R400) -/

/-- The parts of the engine that a rebind affects (R395). -/
structure Affected where
  spindles : List Nat := []
  banks : List Nat := []
  queues : List Nat := []
  inputs : List Nat := []
deriving DecidableEq, Repr

/-- Where an activation stands (R394 to R396). -/
inductive ActStage where
  /-- The FULL copy is being written to the Distaff (R394). -/
  | storing (region : Nat) (copy : List Byte)
  | pending
  /-- Steps 1 and 2 of R396 run. -/
  | draining (since : Nat)
deriving DecidableEq, Repr

/-- An activation or a REBIND on its way (R394, R414). -/
structure Activation where
  stage : ActStage
  full : Bool
  /-- A REBIND command: changes neither GLB_PART_SEQ nor the stored copies. -/
  command : Bool
  seq : BitVec 64
  copy : Nat
  boundary : Nat
  drainUs : Nat
  newCfg : Cfg
  affected : Affected
deriving DecidableEq, Repr

/-! ## The Distaff (R19, R490 to R493) -/

/-- A wear-journal entry (R491). -/
structure JournalE where
  seq : Nat
  logical : Nat
  physical : Nat
  erases : Nat
  check : BitVec 64
deriving DecidableEq, Repr

/-- A block write on its way (R490): region 0 firmware, 1 image A, 2 image B; block within
it, and its new content. -/
structure DistaffWrite where
  region : Nat
  block : Nat
  data : List Byte
deriving DecidableEq, Repr

/-- The Distaff array and controller (R19, R490 to R493).  A region's bytes beyond its list
read zero, and its list does not end in a zero byte. -/
structure Distaff where
  /-- Firmware region (R19; 768 KiB; reset: kept, empty when never written) -/
  fw : List Byte := []
  /-- Image region A (R19; 1,024 KiB; reset: kept) -/
  imgA : List Byte := []
  /-- Image region B (R19; 1,024 KiB; reset: kept) -/
  imgB : List Byte := []
  /-- Power domain (R498; -; reset off) -/
  pwr : PwrSt := .off
  /-- Last access (R497; -; reset 0) -/
  lastAccess : Nat := 0
  /-- Block map: logical block to physical block, where it differs from the identity (R490; -; reset: kept) -/
  map : Tab Nat := []
  /-- Erase counts of the 1,024 physical blocks (R491; -; reset: kept) -/
  erases : Tab Nat := []
  /-- Spare physical blocks (R19, R490; 240; reset: kept) -/
  spares : List Nat := []
  /-- Retired physical blocks (R493; -; reset: kept) -/
  retired : List Nat := []
  /-- The wear journal (R491; 256 KiB; reset: kept) -/
  journal : List JournalE := []
  /-- Block writes made since the last comparison of erase counts (R492; 8 bits; reset: kept) -/
  sinceLevel : Nat := 0
  /-- Block writes on their way (R490; -; reset none) -/
  writes : List DistaffWrite := []
  /-- Blocks written or moved within other commands whose result has not been reported, the oldest first: logical and physical number
  (R493; -; reset none) -/
  recent : List (Nat × Nat) := []
  /-- A write failed for want of a spare (R493; 1 bit; reset 0) -/
  writeFailed : Bool := false
deriving DecidableEq, Repr

/-! ## Background work (R479 to R496) -/

/-- The scrub policy (R484). -/
structure ScrubPol where
  patrolMs : Nat := 1000
  minShare : Nat := 2
  maxShare : Nat := 32
  ceLimit : Nat := 64
  rewrite : Bool := true
deriving DecidableEq, Repr

/-- The scrubber (R480 to R484). -/
structure Scrub where
  /-- Scrub policy, GLB_SCRUB_POL0 to 3 (R484; 128 bits; reset the default policy) -/
  pol : ScrubPol := {}
  /-- Corrected errors found by the running patrol, by memory code and unit (R482; -; reset 0) -/
  found : Tab Nat := []
  /-- SRAM_CE_HIGH raised in the running patrol, by memory code and unit (R482; -; reset none) -/
  high : List Nat := []
  /-- Corrected errors since the last SAMPLE (R495; 32 bits; reset 0) -/
  ceDelta : Nat := 0
  /-- The row that the patrol visits next, by memory code and unit (R480; -; reset 0) -/
  next : Tab Nat := []
  /-- Rows of a store or a Whorl table that hold an uncorrectable error: memory code, unit and row (R483; -; reset none) -/
  lost : List (Nat × Nat × Nat) := []
  /-- Rows that hold a corrected error which was not written back (R482; -; reset none) -/
  weak : List (Nat × Nat × Nat) := []
deriving DecidableEq, Repr

/-- A class's calibration (R486 to R488). -/
structure Calib where
  a : Int
  d : Option Int
  o : Int
  /-- TEL_CAL_STAT.SAMPLES (R476; 16 bits; reset 0) -/
  samples : BitVec 16
  /-- TEL_CAL_SCALE (R476; 32 bits; reset 0) -/
  scale : Word
deriving DecidableEq, Repr

/-- The telemetry writer, measurements and page (R476, R494 to R496). -/
structure Tel where
  /-- TEL_PERIOD.US (R476; 16 bits; reset 0x03E8) -/
  periodUs : BitVec 16 := 0x03E8
  /-- TEL_RING_BASE_LO.ADDR (R476; 26 bits; reset 0) -/
  baseLo : BitVec 26 := 0
  /-- TEL_RING_BASE_HI.ADDR (R476; 16 bits; reset 0) -/
  baseHi : BitVec 16 := 0
  /-- TEL_RING_SIZE.LOG2 (R476; 5 bits; reset 0) -/
  log2 : BitVec 5 := 0
  /-- TEL_RING_HEAD.OFFSET (R476; 24 bits; reset 0) -/
  head : BitVec 24 := 0
  /-- TEL_RING_TAIL.OFFSET (R476; 24 bits; reset 0) -/
  tail : BitVec 24 := 0
  /-- TEL_RING_DROP (R476; 32 bits; reset 0) -/
  dropCnt : Word := 0
  /-- SEQ of the next entry (R494; 16 bits; reset 0) -/
  seq : BitVec 16 := 0
  /-- TEL_TEMP.PEAK (R476; 16 bits; reset 0x8000, kept by a warm reset) -/
  peak : BitVec 16 := 0x8000
  /-- TEL_TEMP.NOW (R476; 16 bits; reset 0) -/
  temp : BitVec 16 := 0
  /-- TEL_POWER.MW (R476; 16 bits; reset 0) -/
  mw : BitVec 16 := 0
  /-- Energy used, in pJ, of which TEL_ENERGY.UJ shows the whole µJ (R476, R501; 64 bits of µJ; reset 0, kept by a warm reset) -/
  energy : Nat := 0
  /-- TEL_CAL_SEL.CLASS (R476; 6 bits; reset 0) -/
  calSel : BitVec 6 := 0
  /-- Calibrations of the classes that hold one (R486; 64; reset none) -/
  cal : List (Nat × Calib) := []
  /-- Folds accepted and not yet made (R485; -; reset none) -/
  calQueue : List CalSample := []
  /-- TEL_SNAP (R462; 32 bits; reset 0) -/
  snap : Snap := {}
  /-- Time of the last SAMPLE (R495; -; reset 0) -/
  lastSample : Nat := 0
  /-- Energy, yields and SPILL events at the last SAMPLE (R495; -; reset 0) -/
  lastEnergy : Nat := 0
  lastYield : Word := 0
  lastSpill : Word := 0
  /-- NEP and stall sums of each spindle at the last SAMPLE (R495; -; reset 0) -/
  lastNep : Vector Word 32 := Vector.replicate 32 0
  lastStall : Vector Nat 32 := Vector.replicate 32 0
deriving DecidableEq, Repr

/-! ## Ports, power, test access -/

/-- What a client did at a port in the running share window (R424). -/
structure ShareAcc where
  bytes : Nat := 0
  /-- A request waited in every clock of the window so far. -/
  always : Bool := false
deriving DecidableEq, Repr

/-- What a leaf port issued for a client or for a shared unit: 64 bytes, when, and the rank of the work (R347, R424). -/
structure PortCharge where
  issued : Nat
  client : Option Nat := none
  unit : Option SharedUnit := none
  rank : Option (Nat × Nat) := none
deriving DecidableEq, Repr

/-- A leaf port (R421 to R429). -/
structure LeafPort where
  /-- Answer to the last write or read of the subordinate half (R421; -; reset none) -/
  resp : Option AxiResp := none
  /-- ID of the write served last, which its answer returns as received (R421; 12 bits; reset 0) -/
  bid : BitVec 12 := 0
  /-- ID of the read served last (R421; 12 bits; reset 0) -/
  rid : BitVec 12 := 0
  /-- Data and RUSER of the last read (R427; -; reset none) -/
  rdata : List Byte := []
  ruser : BitVec 11 := 0
  /-- Share window accounts, by client (R424; -; reset none) -/
  share : Tab ShareAcc := []
  /-- Bytes that the port issued in the window (R424; -; reset 0) -/
  issued : Nat := 0
  /-- Highest-ranked winner served in the window: its class and input (R347; -; reset none) -/
  winner : Option (Nat × Nat) := none
  /-- When that winner was served (R347; -; reset 0) -/
  winnerAt : Nat := 0
  /-- Charges of a window that has begun before SHARE_WINDOW_END of the one before it came (R424; -; reset none) -/
  later : List PortCharge := []
  /-- Shared units found beyond their tier 1 budget in the window (R479; 3 bits; reset none) -/
  unitSpent : List SharedUnit := []
  /-- Bytes that each shared unit issued in the window: Doffer 0, telemetry writer 1, Flyer 2 (R479; -; reset none) -/
  unitBytes : Tab Nat := []
  /-- The shared unit that the port served last among those that waited (R423; 2 bits; DESIGN CHOICE 2, log 95) -/
  unitLast : Nat := 2
  /-- Writes of the subordinate half that wait behind one that holds for a cell, oldest first (R421, R428; -; reset none) -/
  writes : List PortWrite := []
deriving DecidableEq, Repr

/-- Where the engine stands between supply and service (R507 to R514). -/
inductive Phase where
  | unsupplied
  /-- A warm reset quiesces the engine (R508). -/
  | quiesce
  /-- The state is reset and ENG_WRST_N is still low. -/
  | held
  | s1Distaff
  | s2Map
  | s3Keys
  | s4Firmware
  | s5Select
  | s6Apply
  /-- The recovery load is open (R513). -/
  | recovery
  | running
deriving DecidableEq, Repr

/-- Power, clocks, wakes and the governor (R497 to R504). -/
structure Power where
  /-- Phase of reset and start (R510; -; reset step 1) -/
  phase : Phase := .s1Distaff
  /-- ENG_WRST_N was held low for at least 1 ms (R513; 1 bit; reset 0) -/
  recoveryAsked : Bool := false
  /-- ENG_WRST_N is low (R507, R510; 1 bit; reset 0) -/
  pinLow : Bool := false
  /-- When the running quiesce began (R508; -; reset 0) -/
  quiesceFrom : Nat := 0
  /-- The register port answers (R510; 1 bit; reset 0) -/
  regPort : Bool := false
  /-- Bobbin domain (R498; -; reset off) -/
  bobbin : PwrSt := .off
  /-- Wakes requested and not started, each with the clock of its request, in the order in which they start (R499; -; reset: the
  Distaff's, of step 1) -/
  wakes : List (WakeDomain × Nat) := [(.distaff, 0)]
  /-- Start of the last wake (R499; -; reset none) -/
  lastWake : Option Nat := none
  /-- Domains whose wake runs, with its start (R498; -; reset none) -/
  waking : List (WakeDomain × Nat) := []
  /-- THERMAL_HIGH armed (R503; 1 bit; reset 1) -/
  thermalArmed : Bool := true
  /-- GOV_FLOOR armed (R503; 1 bit; reset 1) -/
  floorArmed : Bool := true
  /-- Depth of the running spread sweep (R504; 4 bits; reset 4) -/
  sweepDepth : BitVec 4 := 4
deriving DecidableEq, Repr

/-- The Flyer (R15, R404, R441). -/
structure Flyer where
  /-- Flyer SRAM, from address 0, without the zero bytes at its end (R18; 1 MiB; reset 0) -/
  sram : List Byte := []
  /-- The Flyer runs firmware, from this entry (R404; -; reset none) -/
  entry : Option Nat := none
  /-- Halted through ENG_DEBUG (R441; 1 bit; reset 0) -/
  halted : Bool := false
  /-- Bytes of the cell that the Flyer read last, or of the load that the boot ROM is reading (R313, R514; -; reset none) -/
  received : List Byte := []
  /-- The recovery load discards up to the next END (R514; 1 bit; reset 0) -/
  discard : Bool := false
  /-- The END of the load has come (R514; 1 bit; reset 0) -/
  ended : Bool := false
  /-- ENDs that flushed no tail, each by the number of unread cells that stand before it (R514; -; reset none) -/
  ends : List Nat := []
deriving DecidableEq, Repr

/-- Test access instructions (R441). -/
inductive TapInstr where
  | bypass | idcode | wsBypass | wsExtest | wsIntest | engDebug | engMbist | engScan
deriving DecidableEq, Repr

/-- The test access ports (R441). -/
structure Tap where
  /-- Active instruction of the 1149.1 port (R441; -; reset IDCODE, IEEE 1149.1) -/
  active : TapInstr := .idcode
  /-- Active instruction of the 1500 port (R441; -; reset WS_BYPASS, IEEE 1500) -/
  wsActive : TapInstr := .wsBypass
  /-- The value that the selected data register captured (R441, R442; 32 bits; reset 0) -/
  capture : Word := 0
  /-- The core is isolated by WS_EXTEST (R441; 1 bit; reset 0) -/
  isolated : Bool := false
  /-- ERR status of the debug path (R449; 1 bit; reset 0) -/
  debugErr : Bool := false
deriving DecidableEq, Repr

/-! ## The security unit (R402 to R420) -/

/-- The Keys region of the Distaff (R402). -/
structure Keys where
  /-- ATT (R402; 256 bits; reset: kept) -/
  att : List Byte := []
  /-- CMD (R402; 256 bits; reset: kept) -/
  cmd : List Byte := []
  /-- CMD's generation (R402; 16 bits; reset: kept) -/
  cmdGen : BitVec 16 := 0
  /-- CMD_NEXT with its generation, or empty (R402; 272 bits; reset: kept) -/
  cmdNext : Option (List Byte × BitVec 16) := none
  /-- IMG (R402; 256 bits; reset: kept) -/
  img : List Byte := []
  /-- IMG's generation (R402; 16 bits; reset: kept) -/
  imgGen : BitVec 16 := 0
  /-- IMG_NEXT with its generation, or empty (R402; 272 bits; reset: kept) -/
  imgNext : Option (List Byte × BitVec 16) := none
  /-- COUNTER (R402; 64 bits; reset: kept) -/
  counter : BitVec 64 := 0
deriving DecidableEq, Repr

/-- The security unit with the security page and the Flyer mailbox page (R402 to R420). -/
structure Security where
  /-- Keys region (R402; -; reset: kept) -/
  keys : Keys := {}
  /-- The key registers are loaded (R402; 1 bit; reset 0) -/
  loaded : Bool := false
  /-- The key registers were cleared by opening SCAN (R416; 1 bit; reset 0) -/
  cleared : Bool := false
  /-- SEC_BOOT.DETAIL (R419; 8 bits; reset 0) -/
  bootDetail : BitVec 8 := 0
  /-- SEC_BOOT.FW_BAD (R419; 1 bit; reset 0) -/
  fwBad : Bool := false
  /-- SEC_BOOT.MEAS_VALID (R419; 1 bit; reset 0) -/
  measValid : Bool := false
  /-- SEC_MEAS, as its 48 bytes; all zero while empty (R419; 384 bits; reset 0) -/
  meas : List Byte := []
  /-- SEC_NONCE0 to SEC_NONCE3 (R419; 4 × 32 bits; reset 0) -/
  nonce : Vector Word 4 := Vector.replicate 4 0
  /-- A request is being formed, or held until the keys are loaded (R407; 1 bit; reset 0) -/
  attBusy : Bool := false
  /-- The nonce of the latest request (R407; 128 bits; reset none) -/
  attNonce : List Byte := []
  /-- SEC_ATT_STAT.VALID (R419; 1 bit; reset 0) -/
  attValid : Bool := false
  /-- SEC_REPORT0 to SEC_REPORT31, as bytes (R419; 1,024 bits; reset 0) -/
  report : List Byte := []
  /-- SEC_TEST.SCOPE: DEBUG, MBIST, SCAN (R419; 3 bits; reset 0) -/
  scope : BitVec 3 := 0
  /-- SEC_CMD_REJ_CNT (R419; 32 bits; reset 0) -/
  rejCnt : Word := 0
  /-- SEC_TEST_DENY_CNT (R443; 32 bits; reset 0) -/
  denyCnt : Word := 0
  /-- SEC_SNAP (R462; 32 bits; reset 0) -/
  snap : Snap := {}
  /-- MBX_CMD0 to MBX_CMD63 (R419; 64 × 32 bits; reset 0) -/
  mbx : Vector Word 64 := Vector.replicate 64 0
  /-- MBX_CMD_STAT.BUSY (R419; 1 bit; reset 0) -/
  busy : Bool := false
  /-- The frame that the last GO copied into the security unit (R470; 256 bytes; reset none) -/
  cmd : List Byte := []
  /-- The frame in handling has passed checks 1 to 5 (R411, R412; 1 bit; reset 0) -/
  passed : Bool := false
  /-- MBX_CMD_STAT.LOCKED (R419; 1 bit; reset 0) -/
  locked : Bool := false
  /-- MBX_CMD_STAT.FAIL_RUN (R419; 2 bits; reset 0) -/
  failRun : Nat := 0
  /-- MBX_CMD_STAT.DETAIL (R419; 8 bits; reset 0) -/
  detail : BitVec 8 := 0
  /-- MBX_CMD_STAT.RESULT (R419; 8 bits; reset 0) -/
  result : BitVec 8 := 0
deriving DecidableEq, Repr

/-! ## The engine -/

/-- Everything of the engine outside the security unit. -/
structure Engine where
  /-- Control clocks since the control domain came on, TEL_UPTIME (R476; 64 bits; reset 0, kept by a warm reset) -/
  now : Nat := 0
  /-- Free values drawn so far: the model's own counter (log 3; -; reset 0) -/
  freeCtr : Nat := 0
  /-- Every event raised, the newest first: the model's own trace (log 4; -; reset none) -/
  events : List Event := []
  /-- Power, clocks and start (R497 to R510; -; reset as `Power`) -/
  power : Power := {}
  /-- Register port and global page (R400, R443, R462, R467; -; reset as `Glb`) -/
  glb : Glb := {}
  /-- The 32 spindles (R9; -; reset as `Spindle`) -/
  spindles : Vector Spindle 32 := Vector.replicate 32 {}
  /-- The Creel (R294; -; reset as `Creel`) -/
  creel : Creel := {}
  /-- Knot table (R360; -; reset as `Knots`) -/
  knots : Knots := {}
  /-- The Doffer (R367; -; reset as `Doffer`) -/
  doffer : Doffer := {}
  /-- The tick unit (R323; -; reset as `TickUnit`) -/
  ticks : TickUnit := {}
  /-- The bound configuration, none while no image is bound (R385; -; reset none) -/
  cfg : Option Cfg := none
  /-- When the bound image activated (R348, R424; -; reset 0) -/
  activatedAt : Nat := 0
  /-- Start of the running share window, when it is later than `activatedAt` (R424; -; reset 0) -/
  shareFrom : Nat := 0
  /-- The image that the start sequence selected: its copy (R384; -; reset none) -/
  selected : Option Nat := none
  /-- SEQs of partials applied since start (R393 detail 2; -; reset none) -/
  partials : List Nat := []
  /-- PLAN_DATA sections numbered so far (R388; -; reset 0) -/
  sectionNext : Nat := 0
  /-- The activation on its way (R394; -; reset none) -/
  act : Option Activation := none
  /-- Tensors that differ from an unplaced one (R278; 4,096; reset unplaced) -/
  tensors : Tab Tensor := []
  /-- Requests for placement decisions, in arrival order (R279; -; reset none) -/
  placeReqs : List PlaceReq := []
  /-- Chip memory as the engine last saw or wrote it (R271; 2^48 bytes; log 5) -/
  mem : Tab Byte := []
  /-- Bobbin store (R15; 8 MiB; reset 0, log 6) -/
  bobbin : Tab Byte := []
  /-- Distaff (R19; 4 MiB; kept) -/
  distaff : Distaff := {}
  /-- Flyer (R15; -; reset as `Flyer`) -/
  flyer : Flyer := {}
  /-- Scrubber (R480; -; reset as `Scrub`) -/
  scrub : Scrub := {}
  /-- Telemetry (R476; -; reset as `Tel`) -/
  tel : Tel := {}
  /-- Leaf ports (R421; 8; reset as `LeafPort`) -/
  ports : Vector LeafPort 8 := Vector.replicate 8 {}
  /-- Writes of the shared units on leaf port 0 that wait or are outstanding (R421, R422; 64 outstanding; reset none) -/
  unitTxns : List UnitTxn := []
  /-- Test access (R441; -; reset as `Tap`) -/
  tap : Tap := {}
deriving DecidableEq, Repr

/-- The whole machine: the commands that wait, the security unit and the rest of the engine. -/
structure State where
  /-- Commands that wait, first in, first out (the model's own; -; reset empty) -/
  pending : List Instr := []
  /-- The security unit (R402; -; reset as `Security`) -/
  sec : Security := {}
  /-- The engine (R15; -; reset as `Engine`) -/
  eng : Engine := {}
deriving DecidableEq, Repr

/-- Why a step stops with a fault.  No command of this block does: every fault of R516 is a
job's or a unit's, and it is the command's effect on the state. -/
inductive Fault where
  /-- Raised by no command: the closed type needs an inhabitant.  Safe. -/
  | none
deriving DecidableEq, Repr

/-- Why a step refuses a command. -/
inductive Refusal where
  /-- Raised by an arm of `exec` whose command has no meaning yet.  Safe: the model stops. -/
  | notModelled (mnemonic : String)
deriving DecidableEq, Repr

/-- The engine as its control domain comes on (R507): every field at the value its docstring
states; the Distaff's contents are those of log 2. -/
def State.reset : State where
  pending := []
  sec := { keys := { att := List.replicate 32 0, cmd := List.replicate 32 0,
                     img := List.replicate 32 0 } }
  eng := { distaff := { spares := (List.range 240).map (· + 784) } }

end Sys2Proof.Machine
end

