-- ==== Sys2Proof/Machine/Flags.lean ====
section
/-! DEFINITION. Raising events, event groups, and the interrupt outputs (R439, R440, R516). -/

namespace Sys2Proof.Machine

/-- The counted group of an event (R439, R516). -/
def Event.group : Event → Fin 12
  | .clipDrift .. | .nanSource .. | .accOverflow .. | .nepThresh .. => 2
  | .spill .. => 3
  | .staleQueue .. | .queueFull .. | .ringFull | .knotSat .. => 4
  | .frameShort .. | .frameLong .. | .tickEarly .. | .tickLost .. => 5
  | .deadlineMiss .. | .budgetOver .. | .guaranteeYield .. => 6
  | .imageReject .. | .imageFallback | .imageNone => 7
  | .cmdReject .. | .cmdLockout => 8
  | .protoViolation .. | .unitBusError .. => 9
  | .sramCeHigh .. | .sramUe .. | .distaffWear | .thermalHigh | .govFloor => 10

/-- The two level groups, RING and BOOT (R439). -/
def levelGroup (g : Fin 12) : Bool := g == 0 || g == 11

/-- One more event counted in a group, modulo 2^32 (R440). -/
def Glb.count (gl : Glb) (g : Fin 12) : Glb :=
  { gl with raised := gl.raised.set g (gl.raised[g] + 1) }

/-- An event is raised: recorded, and counted in its group (R440). -/
def Engine.raise (e : Engine) (ev : Event) : Engine :=
  { e with events := ev :: e.events, glb := e.glb.count ev.group }

/-- Raise when a condition holds. -/
def Engine.raiseIf (e : Engine) (c : Bool) (ev : Event) : Engine := if c then e.raise ev else e

/-- A record with STATUS FAULT or ABORTED was accepted (R439, group JOB_FAULT). -/
def Engine.countJobFault (e : Engine) : Engine := { e with glb := e.glb.count 1 }

/-- A group is pending (R439). -/
def groupPending (s : State) (g : Fin 12) : Bool :=
  if g == 0 then s.eng.doffer.head != s.eng.doffer.tail
  else if g == 11 then s.sec.fwBad
  else s.eng.glb.raised[g] != s.eng.glb.ack[g]

/-- GLB_IRQ_STAT.PENDING (R443). -/
def pendingGroups (s : State) : BitVec 12 :=
  BitVec.ofNat 12 ((List.finRange 12).foldl (fun a g => a + (if groupPending s g then 2 ^ g.val else 0)) 0)

/-- The mask of an interrupt output (R443). -/
def irqMask (gl : Glb) (n : Nat) : BitVec 12 :=
  match n with
  | 0 => gl.irqMask0
  | 1 => gl.irqMask1
  | 2 => gl.irqMask2
  | _ => gl.irqMask3

/-- The level of INT_OUTn (R440). -/
def intOut (s : State) (n : Nat) : Bool := (pendingGroups s &&& irqMask s.eng.glb n) != 0

/-- GLB_IRQ_STAT.LINES, bit n for INT_OUTn (R443). -/
def irqLines (s : State) : BitVec 4 :=
  BitVec.ofNat 4 ((List.range 4).foldl (fun a n => a + b2n (intOut s n) * 2 ^ n) 0)

end Sys2Proof.Machine
end

