-- ==== Sys2Proof/Machine/Ops.lean ====
section
/-! DEFINITION. Named operations over the engine's state that every family uses: access to the
spindles, time, PROTO_LOG, telemetry entries, votes, configuration look-ups and addresses. -/

namespace Sys2Proof.Machine

/-! ## The shape of a command's effect -/

/-- The engine outside the security unit replaced by its image under `f`. -/
def State.onEng (s : State) (f : Engine → Engine) : State := { s with eng := f s.eng }

/-- The security unit replaced by its image under `f`. -/
def State.onSec (s : State) (f : Security → Security) : State := { s with sec := f s.sec }

/-- The outcome of a command that answers a next state. -/
def done (s : State) : Host.Outcome State Fault Refusal := .next s

/-! ## Spindles -/

/-- Spindle n. -/
def Engine.sp (e : Engine) (n : Sp) : Spindle := e.spindles[n]

/-- Spindle n replaced by its image under `f`. -/
def Engine.modSp (e : Engine) (n : Sp) (f : Spindle → Spindle) : Engine :=
  { e with spindles := e.spindles.set n (f e.spindles[n]) }

/-- A spindle number read from a structure in memory. -/
def spOf (n : Nat) : Sp := ⟨n % 32, Nat.mod_lt _ (by decide)⟩

/-- A tick input number read from a structure in memory. -/
def inpOf (t : Nat) : Inp := ⟨t % 16, Nat.mod_lt _ (by decide)⟩

/-- The home leaf port of spindle n (R13). -/
def homePort (n : Sp) : Port := ⟨n.val / 4, by omega⟩

/-- Tick input t. -/
def Engine.tick (e : Engine) (t : Inp) : Tick := e.ticks.inputs[t]

/-- Tick input t replaced by its image under `f`. -/
def Engine.modTick (e : Engine) (t : Inp) (f : Tick → Tick) : Engine :=
  { e with ticks := { e.ticks with inputs := e.ticks.inputs.set t (f e.ticks.inputs[t]) } }

/-- Leaf port p replaced by its image under `f`. -/
def Engine.modPort (e : Engine) (p : Port) (f : LeafPort → LeafPort) : Engine :=
  { e with ports := e.ports.set p (f e.ports[p]) }

/-- Whether the engine serves jobs, queues and ticks: started and not isolated by WS_EXTEST
(R441, R508). -/
def Engine.live (e : Engine) : Bool :=
  (e.power.phase == .running || e.power.phase == .recovery) && !e.tap.isolated

/-- The control and Creel domains are on and no reset is under way (R508, R510). -/
def Engine.up (e : Engine) : Bool :=
  !(e.power.phase == .unsupplied || e.power.phase == .quiesce || e.power.phase == .held)

/-- An image is bound and the engine serves it (R384). -/
def Engine.bound (e : Engine) : Option Cfg := if e.power.phase == .running && !e.tap.isolated then e.cfg else none

/-! ## Time -/

/-- Control clocks in a µs (R23). -/
def usClocks (us : Nat) : Nat := us * 400

/-- µs that a number of control clocks lasts, rounded down. -/
def clocksUs (c : Nat) : Nat := c / 400

/-- Whether `us` µs have passed since a time. -/
def Engine.passedUs (e : Engine) (since us : Nat) : Bool := decide (since + usClocks us ≤ e.now)

/-- Whether a number of ns has passed since a time: a control clock lasts 2.5 ns. -/
def Engine.passedNs (e : Engine) (since ns : Nat) : Bool := decide (2 * ns ≤ 5 * (e.now - since))

/-- A free value is drawn: its number, and the engine with the counter advanced. -/
def Engine.draw (e : Engine) : Nat × Engine := (e.freeCtr, { e with freeCtr := e.freeCtr + 1 })

/-! ## Votes (R453, R454) -/

/-- Bitwise majority. -/
def Tv.vote (t : Tv w) : BitVec w := (t.c0 &&& t.c1) ||| (t.c0 &&& t.c2) ||| (t.c1 &&& t.c2)

/-- All three copies written. -/
def Tv.all (v : BitVec w) : Tv w := ⟨v, v, v⟩

/-- The copies agree. -/
def Tv.agrees (t : Tv w) : Bool := t.c0 == t.c1 && t.c1 == t.c2

/-- Every copy rewritten to the majority. -/
def Tv.repair (t : Tv w) : Tv w := Tv.all t.vote

/-- GLB_PWR_CAP.CAP as it acts: a value outside its range acts as the reset value (R467). -/
def Glb.cap (g : Glb) : Nat :=
  let v := g.pwrCap.vote.toNat
  if 1000 ≤ v ∧ v ≤ 14000 then v else 14000

/-- GLB_SPREAD.DEPTH as it acts (R467). -/
def Glb.depth (g : Glb) : BitVec 4 := if g.spread.vote.toNat ≤ 12 then g.spread.vote else 4

/-- GLB_WAKE_GAP.NS as it acts (R467). -/
def Glb.gapNs (g : Glb) : Nat :=
  let v := g.wakeGap.vote.toNat
  if 50 ≤ v ∧ v ≤ 10000 then v else 50

/-! ## PROTO_LOG (R434, R435) -/

/-- SOURCE kinds of R435. -/
def srcManager (p : Nat) : Nat := p
def srcSubordinate (p : Nat) : Nat := 32 + p
def srcFeedFwd (n : Nat) : Nat := 64 + n
def srcFeedBack (n : Nat) : Nat := 96 + n
def srcRegister (path : Nat) : Nat := 128 + path

/-- A partner violation is logged, or merged into the last entry (R435). -/
def Engine.violation (e : Engine) (code source info : Nat) : Engine :=
  let fresh (e : Engine) : Engine :=
    let g := e.glb
    { e with glb := { g with plog := ((⟨e.now, code, source, 0, info⟩ : PlogE) :: g.plog).take 64, plogCnt := g.plogCnt + 1 } }.raise (.protoViolation code)
  match e.glb.plog with
  | last :: rest =>
    if last.code = code ∧ last.source = source ∧ e.now - last.time ≤ usClocks 1 then
      { e with glb := { e.glb with plog := { last with repeats := min (last.repeats + 1) 0xFFFF } :: rest } }
    else fresh e
  | [] => fresh e

/-- The 16 bytes of a PROTO_LOG entry (R435). -/
def PlogE.toBytes (p : PlogE) : List Byte :=
  leBytes 8 p.time ++ leBytes 1 p.code ++ leBytes 1 p.source ++ leBytes 2 p.repeats ++ leBytes 4 p.info

/-- A shared unit's transaction fails (R425). -/
def Engine.unitBusError (e : Engine) (unit : SharedUnit) : Engine :=
  { e with glb := { e.glb with busErrCnt := satInc e.glb.busErrCnt } }.raise (.unitBusError unit)

/-- The lowest slot that no transaction of the shared units uses. -/
def freeUnitSlot (ts : List UnitTxn) : Nat :=
  ((List.range (ts.length + 1)).find? fun i => !ts.any fun t => t.slot == i).getD ts.length

/-- Lines of 64 bytes that a run of bytes touches (R421). -/
def lineCount (a len : Nat) : Nat := if len = 0 then 0 else (a + len - 1) / 64 - a / 64 + 1

/-- No new access is issued: a warm reset quiesces the engine, or WS_EXTEST isolates its core (R441, R508 step 3). -/
def Engine.quiescing (e : Engine) : Bool := e.power.phase == .quiesce || e.tap.isolated

/-- The control and Creel domains are on, and the core is not isolated (R441, R508). -/
def Engine.coreUp (e : Engine) : Bool := e.up && !e.tap.isolated

/-! ## Shared units on leaf port 0 (R13, R421 to R423, R479) -/

/-- The manager halves take responses: the engine is supplied and not isolated. -/
def Engine.portsUp (e : Engine) : Bool := e.power.phase != .unsupplied && !e.tap.isolated

/-- Start of the running share window. -/
def Engine.windowStart (e : Engine) : Nat := max e.shareFrom e.activatedAt

/-- Transactions of spindle `n` that are out and were issued in the running window. -/
def Engine.issuedNow (e : Engine) (n : Sp) : Nat :=
  ((e.sp n).txns.filter fun t => t.slot.isSome && decide (e.windowStart ≤ t.issued)).length

/-- Bytes that a port has issued in the running window so far, the shared units' on port 0 among them. -/
def Engine.portBytes (e : Engine) (p : Port) : Nat :=
  e.ports[p].issued + 64 * (((List.finRange 32).filter fun n => homePort n == p).map e.issuedNow).sum +
    (if p = 0 then 64 * (e.unitTxns.filter fun t => decide (t.slot < 64 ∧ e.windowStart ≤ t.issued)).length else 0)

/-- Number of a shared unit in the port's accounts. -/
def SharedUnit.index : SharedUnit → Nat
  | .doffer => 0
  | .telemetry => 1
  | .image => 2

/-- Tier 1 share of a unit, in 1,024ths of the port's bytes per share window (R479). -/
def SharedUnit.share : SharedUnit → Nat
  | .doffer => 40
  | .telemetry => 8
  | .image => 16

/-- Bytes that a shared unit has issued in the running window so far, those of transactions still out among them. -/
def Engine.unitIssued (e : Engine) (u : SharedUnit) : Nat :=
  Tab.getD e.ports[(0 : Port)].unitBytes u.index 0 +
    64 * (e.unitTxns.filter fun t => t.unit == u && decide (t.slot < 64 ∧ e.windowStart ≤ t.issued)).length

/-- A unit has issued more than its tier 1 share of what the port has issued so far in the running window (R479; log 95). -/
def Engine.unitOver (e : Engine) (u : SharedUnit) : Bool := decide (u.share * e.portBytes 0 < 1024 * e.unitIssued u)

/-- A unit has used its tier 1 budget: for the rest of the window it is served at tier 5 (R479). -/
def Engine.unitBeyond (e : Engine) (u : SharedUnit) : Bool := e.ports[(0 : Port)].unitSpent.contains u || e.unitOver u

/-- Units found beyond their budget stay so until the window ends (R479). -/
def Engine.latchUnits (e : Engine) : Engine :=
  let now := [SharedUnit.doffer, .telemetry, .image].filter fun u => e.unitBeyond u
  if now = e.ports[(0 : Port)].unitSpent then e else e.modPort 0 fun q => { q with unitSpent := now }

/-- Place of a unit in the rotation that starts after the one served last (R423). -/
def turnFrom (last k n : Nat) : Nat := (k + n - (last + 1) % n) % n

/-- The waiting transaction that the port serves next: of the first tier, in rotating order, then in order of asking (R423). -/
def Engine.nextUnit (e : Engine) : Option UnitTxn :=
  let key (t : UnitTxn) : Nat := 3 * b2n (e.unitBeyond t.unit) + turnFrom e.ports[(0 : Port)].unitLast t.unit.index 3
  e.unitTxns.foldl (fun best t =>
    if t.slot < 64 then best
    else match best with
      | some b => if key t < key b then some t else best
      | none => some t) none

/-- The better of a winner held and one served at another time: the higher rank, and among equals the one served last (R347). -/
def laterWinner (old : Option (Nat × Nat)) (oldAt : Nat) (new : Nat × Nat) (newAt : Nat) : Bool :=
  match old with
  | some o => decide (new.1 < o.1 ∨ (new.1 = o.1 ∧ oldAt ≤ newAt))
  | none => true

/-- A charge enters the accounts of the window it belongs to (R424, R479). -/
def LeafPort.enter (q : LeafPort) (c : PortCharge) : LeafPort :=
  let q1 := match c.client with
    | some k => let a := Tab.getD q.share k {}
                { q with share := Tab.put q.share {} k { a with bytes := a.bytes + 64 } }
    | none => q
  let q2 := match c.unit with
    | some u => { q1 with unitBytes := Tab.put q1.unitBytes 0 u.index (Tab.getD q1.unitBytes u.index 0 + 64) }
    | none => q1
  let q3 := match c.rank with
    | some r => if laterWinner q2.winner q2.winnerAt r c.issued then { q2 with winner := some r, winnerAt := c.issued } else q2
    | none => q2
  { q3 with issued := q3.issued + 64 }

/-- The end of the running share window, which lasts 10 µs (R424). -/
def Engine.windowEnd (e : Engine) : Nat := e.windowStart + usClocks 10

/-- An access that leaves its slot is charged: to the running window, or to a later one whose time has begun (R424). -/
def Engine.chargePort (e : Engine) (p : Port) (c : PortCharge) : Engine :=
  if c.issued < e.windowStart then e
  else e.modPort p fun q => if c.issued < e.windowEnd then q.enter c else { q with later := q.later ++ [c] }

/-- The charge of a shared unit's access. -/
def UnitTxn.charge (t : UnitTxn) : PortCharge := { issued := t.issued, unit := some t.unit }

/-- A shared unit's slot is free again: a waiting transaction takes it (R421, R423). -/
def Engine.unitFree (e : Engine) (t : UnitTxn) : Engine :=
  let e1 := (e.chargePort 0 t.charge).latchUnits
  let e2 := { e1 with unitTxns := e1.unitTxns.filter fun u => u.slot != t.slot }
  if e.quiescing then e2
  else
    match e2.nextUnit with
    | some w =>
      { e2.modPort 0 (fun q => { q with unitLast := w.unit.index }) with
        unitTxns := e2.unitTxns.map fun u => if u.slot = w.slot then { u with slot := t.slot, issued := e.now } else u }
    | none => e2

/-- A shared unit asks leaf port 0 for transactions, one for each line; a unit that is then beyond its budget stays so (R13, R421,
R422, R479). -/
def Engine.unitIssue (e : Engine) (unit : SharedUnit) (write fold : Bool) (a len : Nat) : Engine :=
  if e.quiescing then e
  else ({ e with unitTxns := (List.range (lineCount a len)).foldl (fun ts i =>
      ts ++ [{ slot := freeUnitSlot ts, unit := unit, issued := e.now, write := write, fold := fold,
               addr := (a / 64 + i) * 64 % 2 ^ 48 }]) e.unitTxns } : Engine).latchUnits

/-- A shared unit writes bytes to memory through leaf port 0 (R13). -/
def Engine.unitWrite (e : Engine) (unit : SharedUnit) (a : Nat) (bs : List Byte) : Engine :=
  if e.quiescing then e else { e with mem := writeBytes e.mem a bs }.unitIssue unit true false a bs.length

/-! ## Telemetry entries (R494, R476, R477) -/

/-- TEL_ENERGY.UJ (R476, R501). -/
def Tel.energyUj (t : Tel) : Nat := t.energy / 1000000

/-- Size of the telemetry ring; none while it is disabled (R476). -/
def Tel.ringSize (t : Tel) : Option Nat :=
  if 12 ≤ t.log2.toNat ∧ t.log2.toNat ≤ 24 then some (2 ^ t.log2.toNat) else none

/-- Base address of the telemetry ring. -/
def Tel.base (t : Tel) : Nat := t.baseLo.toNat * 64 + t.baseHi.toNat * 2 ^ 32

/-- An entry of `len` bytes placed at `head` would reach the tail (R494, R477). -/
def reachesTail (size head tail len : Nat) : Bool :=
  decide (size ≤ tail) ||
    (if head < tail then decide (tail ≤ head + len) else decide (size + tail ≤ head + len))

/-- An entry's bytes: header and body (R494). -/
def telBytes (ty seq now : Nat) (body : List Byte) : List Byte :=
  leBytes 1 ty ++ leBytes 1 ((8 + body.length) / 8) ++ leBytes 2 seq ++ leBytes 4 (clocksUs now) ++ body

/-- One entry at the head, which it fits before; dropped and counted when it would reach the
tail. -/
def Engine.telPlace (e : Engine) (ty : Nat) (body : List Byte) (size : Nat) : Engine :=
  let t := e.tel
  let len := 8 + body.length
  let head := t.head.toNat
  let t' := { t with seq := t.seq + 1 }
  if reachesTail size head t.tail.toNat len then
    { e with tel := { t' with dropCnt := satInc t.dropCnt } }
  else
    { e.unitWrite .telemetry (t.base + head) (telBytes ty t.seq.toNat e.now body)
      with tel := { t' with head := BitVec.ofNat 24 ((head + len) % size) } }

/-- An entry goes into the telemetry ring, behind a PAD entry when it would not fit before the
ring's end; a disabled ring counts it as dropped (R494, R476). -/
def Engine.telEntry (e : Engine) (ty : Nat) (body : List Byte) : Engine :=
  match e.tel.ringSize with
  | none => { e with tel := { e.tel with seq := e.tel.seq + 1, dropCnt := satInc e.tel.dropCnt } }
  | some size =>
    let room := size - e.tel.head.toNat
    if room < 8 + body.length then
      let e1 := e.telPlace 0 (List.replicate (room - 8) 0) size
      if e1.tel.dropCnt = e.tel.dropCnt ∧ e1.tel.head = 0 then e1.telPlace ty body size
      else { e with tel := { e.tel with seq := e.tel.seq + 1, dropCnt := satInc e.tel.dropCnt } }
    else e.telPlace ty body size

/-- An uncorrectable row: the ECC entry, and SRAM_UE when `ue` (R483, R496). -/
def Engine.eccEntry (e : Engine) (code unit row : Nat) (ue : Bool) : Engine :=
  (e.telEntry 4 (leBytes 1 code ++ leBytes 1 unit ++ [0, 0] ++ leBytes 4 row)).raiseIf ue (.sramUe code)

/-- A corrected error counts in the next sample's CE field (R482). -/
def Engine.eccCorrected (e : Engine) : Engine :=
  { e with scrub := { e.scrub with ceDelta := min (e.scrub.ceDelta + 1) 0xFFFFFFFF } }

/-! ### Rows of the stores and of the Whorl tables (R482, R483) -/

/-- A row of an SRAM: memory code, unit and row (R483, R496). -/
abbrev RowAt := Nat × Nat × Nat

/-- The rows are replaced whole: what was wrong with them is gone (R483). -/
def Scrub.rewritten (s : Scrub) (p : RowAt → Bool) : Scrub :=
  { s with lost := s.lost.filter fun r => !p r, weak := s.weak.filter fun r => !p r }

/-- A row is found to hold an uncorrectable error, and stays so until a write replaces it (R483). -/
def Scrub.lose (s : Scrub) (r : RowAt) : Scrub :=
  { s with lost := if s.lost.contains r then s.lost else s.lost ++ [r], weak := s.weak.filter fun x => x != r }

/-- A row's error was corrected in the data returned; with REWRITE 0 the row keeps it (R482). -/
def Scrub.correct (s : Scrub) (r : RowAt) : Scrub :=
  { s with weak := if s.pol.rewrite then s.weak.filter fun x => x != r else if s.weak.contains r then s.weak else s.weak ++ [r] }

/-- The row, among those that a read takes, that has an uncorrectable error: one that is known, or the one newly found (R483). -/
def Scrub.unreadable (s : Scrub) (rows : List RowAt) (found : Ecc) : Option RowAt :=
  match rows.find? fun r => s.lost.contains r with
  | some r => some r
  | none => match found with | .uncorrectable k => rows[min k (rows.length - 1)]? | _ => none

/-- The rows, among those that a read takes, whose errors the read corrects (R482). -/
def Scrub.correctable (s : Scrub) (rows : List RowAt) (found : Ecc) : List RowAt :=
  let old := rows.filter fun r => s.weak.contains r
  match found with
  | .corrected k => old ++ ((rows[min k (rows.length - 1)]?).toList.filter fun r => !old.contains r)
  | _ => old

/-- Rows of a spindle's Whorl table, from the start of a half on: an entry is a row (R9, R18, R144). -/
def whorlRows (n : Sp) (half len : Nat) : List RowAt := (List.range len).map fun i => (4, n.val, (512 * half + i) % 1024)

/-- The fill unit has written `halves` halves of a Whorl table, from one on (R144, R168, R483). -/
def Engine.whorlFilled (e : Engine) (n : Sp) (half halves : Nat) : Engine :=
  { e with scrub := e.scrub.rewritten fun r => r.1 == 4 && r.2.1 == n.val && (List.range halves).any fun i => r.2.2 / 512 == (half + i) % 2 }

/-- A foreground read of rows: whether one cannot be read, which writes an ECC entry; otherwise errors are corrected and counted (R482,
R483). -/
def Engine.readRows (e : Engine) (rows : List RowAt) (found : Ecc) (ue : Bool) : Engine × Bool :=
  match e.scrub.unreadable rows found with
  | some r => ({ e with scrub := e.scrub.lose r }.eccEntry r.1 r.2.1 r.2.2 ue, true)
  | none => ((e.scrub.correctable rows found).foldl (fun e r => { e with scrub := e.scrub.correct r }.eccCorrected) e, false)

/-! ## The bound configuration -/

/-- Client of spindle n; 0xFFFF when unbound (R389). -/
def Cfg.clientOf (c : Cfg) (n : Nat) : Nat := (Tab.getD c.spindles n {}).client

/-- Queue entry of q (R294). -/
def Cfg.queue (c : Cfg) (q : Nat) : QueueE := Tab.getD c.queues q {}

/-- Client of queue q (R387 names it in the queue entry's section). -/
def Cfg.queueClient (c : Cfg) (q : Nat) : Nat := Tab.getD c.queueClients q 0xFFFF

/-- Tick entry of t (R323). -/
def Cfg.tick (c : Cfg) (t : Nat) : TickE := Tab.getD c.ticks t {}

/-- Bank entry of b (R390). -/
def Cfg.bank (c : Cfg) (b : Nat) : BankE := Tab.getD c.banks b {}

/-- The configuration in force; an empty one while no image is bound. -/
def Engine.conf (e : Engine) : Cfg := e.cfg.getD {}

/-- The 16 values of a user grid (R80). -/
def Cfg.grid (c : Cfg) (slot : Nat) : List (BitVec 16) := Tab.getD c.grids slot []

/-! ## Shares of clients at a leaf port (R423, R424) -/

/-- Bytes issued for a client at a port in the running window so far, those of transactions still out among them. -/
def Engine.clientBytes (e : Engine) (p : Port) (c : Nat) : Nat :=
  (Tab.getD e.ports[p].share c {}).bytes +
    64 * (((List.finRange 32).filter fun n => homePort n == p && e.conf.clientOf n.val == c).map e.issuedNow).sum

/-- A client has been served below its share so far in the running window (R423, R424). -/
def Engine.belowShare (e : Engine) (p : Port) (c : Nat) : Bool :=
  match e.conf.clients.find? fun k => k.1 == c with
  | some (_, k) => k.kind != 0 && bitOf k.ports p.val && decide (e.clientBytes p c * 1024 < k.share * e.portBytes p)
  | none => false

end Sys2Proof.Machine
end

