-- ==== Sys2Proof/Machine/Skein.lean ====
section
/-! DEFINITION. Skein streams: headers, tile tables and the four tile layouts, read and written
(R30 to R70), and coordinate lists (R161, R162). -/

namespace Sys2Proof.Machine

/-! ## Headers -/

def magicSkein : Nat := 0x4E454B53
def magicList : Nat := 0x54534C43
def magicHank : Nat := 0x4B4E4148

/-- The fields of a Skein header (R36). -/
def SkeinHdr.parse (b : List Byte) : SkeinHdr where
  magic := fieldAt b 0x00 4
  format := fieldAt b 0x04 1
  codeType := fieldAt b 0x05 1
  version := fieldAt b 0x06 1
  ndim := fieldAt b 0x07 1
  flags := fieldAt b 0x08 2
  tileRows := fieldAt b 0x0A 1
  tileCols := fieldAt b 0x0B 1
  tileChans := fieldAt b 0x0C 2
  dim0 := fieldAt b 0x10 4
  dim1 := fieldAt b 0x14 4
  dim2 := fieldAt b 0x18 4
  dim3 := fieldAt b 0x1C 4
  elements := fieldAt b 0x20 8
  scale := w32 (fieldAt b 0x28 4)
  absmax := w32 (fieldAt b 0x2C 4)
  clipShare := fieldAt b 0x30 2
  histMode := fieldAt b 0x32 1
  gridSlot := fieldAt b 0x33 1
  tableOffset := fieldAt b 0x34 4
  tileCount := fieldAt b 0x38 4

/-- A Skein header as 64 bytes (R36); reserved fields are zero (R5). -/
def SkeinHdr.toBytes (h : SkeinHdr) : List Byte :=
  leBytes 4 h.magic ++ leBytes 1 h.format ++ leBytes 1 h.codeType ++ leBytes 1 h.version ++
  leBytes 1 h.ndim ++ leBytes 2 h.flags ++ leBytes 1 h.tileRows ++ leBytes 1 h.tileCols ++
  leBytes 2 h.tileChans ++ leBytes 2 0 ++ leBytes 4 h.dim0 ++ leBytes 4 h.dim1 ++ leBytes 4 h.dim2 ++
  leBytes 4 h.dim3 ++ leBytes 8 h.elements ++ leBytes 4 h.scale.toNat ++ leBytes 4 h.absmax.toNat ++
  leBytes 2 h.clipShare ++ leBytes 1 h.histMode ++ leBytes 1 h.gridSlot ++ leBytes 4 h.tableOffset ++
  leBytes 4 h.tileCount ++ leBytes 4 0

/-- Tiles along the first three dimensions (R47). -/
def SkeinHdr.nT0 (h : SkeinHdr) : Nat := ceilDiv h.dim0 h.tileChans
def SkeinHdr.nT1 (h : SkeinHdr) : Nat := ceilDiv h.dim1 h.tileCols
def SkeinHdr.nT2 (h : SkeinHdr) : Nat := ceilDiv h.dim2 h.tileRows

/-- Tiles of a stream (R47). -/
def SkeinHdr.tiles (h : SkeinHdr) : Nat := h.nT0 * h.nT1 * h.nT2 * h.dim3

/-- The dimensions agree with NDIM (R37). -/
def dimsOk (ndim d0 d1 d2 d3 : Nat) : Bool :=
  decide (1 ≤ ndim ∧ ndim ≤ 4 ∧ 1 ≤ d0 ∧ 1 ≤ d1 ∧ 1 ≤ d2 ∧ 1 ≤ d3 ∧
    (2 ≤ ndim ∨ d1 = 1) ∧ (3 ≤ ndim ∨ d2 = 1) ∧ (4 ≤ ndim ∨ d3 = 1) ∧ d0 * d1 * d2 * d3 < 2 ^ 48)

/-- The tile extents lie within their ranges and meet the format's rules (R36, R53, R62). -/
def extentsOk (fmt chans cols rows d0 d1 : Nat) : Bool :=
  decide (1 ≤ rows ∧ rows ≤ 64 ∧ 1 ≤ cols ∧ cols ≤ 64 ∧ 1 ≤ chans ∧ chans ≤ 256 ∧
    (fmt = 2 → d0 % 4 = 0 ∧ chans % 4 = 0) ∧
    (fmt = 4 → chans = 64 ∧ cols = 64 ∧ rows = 1 ∧ d0 % 8 = 0 ∧ d1 % 8 = 0))

/-- GRID_SLOT names a loaded grid (R46, R81). -/
def gridLoaded (gs : Tab (List (BitVec 16))) (slot : Nat) : Bool := decide (slot < 8) && (Tab.get? gs slot).isSome

/-- The header passes every check made at stream open (R67). -/
def SkeinHdr.ok (gs : Tab (List (BitVec 16))) (h : SkeinHdr) : Bool :=
  decide (h.magic = magicSkein ∧ h.version = 1) && ctAllowed h.format h.codeType &&
  dimsOk h.ndim h.dim0 h.dim1 h.dim2 h.dim3 && h.elements == h.dim0 * h.dim1 * h.dim2 * h.dim3 &&
  extentsOk h.format h.tileChans h.tileCols h.tileRows h.dim0 h.dim1 &&
  isScale h.scale && (h.codeType != 5 || gridLoaded gs h.gridSlot) &&
  decide (h.tableOffset % 8 = 0 ∧ 64 ≤ h.tableOffset ∧ h.tileCount = h.tiles ∧
    h.tableOffset + 8 * h.tileCount ≤ 0xFFFFFFFF)

/-- The grid of a stream's code type. -/
def gridOf (gs : Tab (List (BitVec 16))) (ct slot : Nat) : List (BitVec 16) :=
  if ct = 4 then bellGrid else if ct = 5 then Tab.getD gs slot [] else []

/-! ## Tiles -/

/-- Place of tile t along each dimension (R48). -/
def SkeinHdr.tilePos (h : SkeinHdr) (t : Nat) : Nat × Nat × Nat × Nat :=
  (t % h.nT0, t / h.nT0 % h.nT1, t / (h.nT0 * h.nT1) % h.nT2, t / (h.nT0 * h.nT1 * h.nT2))

/-- Extents of tile t: c0, c1, c2 (R48). -/
def SkeinHdr.tileExt (h : SkeinHdr) (t : Nat) : Nat × Nat × Nat :=
  let (i0, i1, i2, _) := h.tilePos t
  (min h.tileChans (h.dim0 - i0 * h.tileChans), min h.tileCols (h.dim1 - i1 * h.tileCols),
   min h.tileRows (h.dim2 - i2 * h.tileRows))

/-- Elements of tile t. -/
def SkeinHdr.tileLen (h : SkeinHdr) (t : Nat) : Nat :=
  let (c0, c1, c2) := h.tileExt t
  c0 * c1 * c2

/-- Tile and local number of element (d0, d1, d2, d3) (R48). -/
def SkeinHdr.locate (h : SkeinHdr) (d0 d1 d2 d3 : Nat) : Nat × Nat :=
  let t := ((d3 * h.nT2 + d2 / h.tileRows) * h.nT1 + d1 / h.tileCols) * h.nT0 + d0 / h.tileChans
  let (c0, c1, _) := h.tileExt t
  (t, (d2 % h.tileRows * c1 + d1 % h.tileCols) * c0 + d0 % h.tileChans)

/-- Numbers, counted over the whole tensor with DIM0 fastest, of the elements of tile t in local
order (R48). -/
def SkeinHdr.tileElems (h : SkeinHdr) (t : Nat) : List Nat :=
  let (i0, i1, i2, i3) := h.tilePos t
  let (c0, c1, c2) := h.tileExt t
  (List.range (c0 * c1 * c2)).map fun l =>
    let d0 := i0 * h.tileChans + l % c0
    let d1 := i1 * h.tileCols + l / c0 % c1
    let d2 := i2 * h.tileRows + l / (c0 * c1)
    ((i3 * h.dim2 + d2) * h.dim1 + d1) * h.dim0 + d0

/-- The fields of a tile table entry (R49). -/
def TileEntry.parse (b : List Byte) : TileEntry :=
  ⟨fieldAt b 0 4, fieldAt b 4 3, bitOf (fieldAt b 7 1) 0⟩

/-- A tile table entry as 8 bytes (R49). -/
def TileEntry.toBytes (e : TileEntry) : List Byte := leBytes 4 e.offset ++ leBytes 3 e.length ++ leBytes 1 (b2n e.zero)

/-- Bytes of the position section of G groups (R56). -/
def posBytes (g : Nat) : Nat := roundUp (ceilDiv g 2) 8

/-- Exact or largest LENGTH of a tile of n elements with extents c0, c1 (R52, R56, R61, R64).  R64 gives no figure
for the bound of an SK-BB tile at first use: the model takes the map and every block inside the cut tile
(DESIGN CHOICE, log 92). -/
def lengthOk (fmt w n c0 c1 len : Nat) : Bool :=
  match fmt with
  | 1 => len == ceilDiv (n * w) 8
  | 2 => len == posBytes (n / 4) + ceilDiv (2 * (n / 4) * w) 8
  | 3 => decide (len ≤ 34 * ceilDiv n 256 + ceilDiv (n * w) 8 + ceilDiv n 256)
  | _ => decide (len ≤ 8 + 8 * w * ((c0 / 8) * (c1 / 8)))

/-- A tile table entry passes the checks of its first use (R67). -/
def TileEntry.ok (h : SkeinHdr) (t : Nat) (e : TileEntry) : Bool :=
  if e.zero then e.offset == 0 && e.length == 0
  else
    let (c0, c1, c2) := h.tileExt t
    decide (e.offset % 64 = 0 ∧ 64 ≤ e.offset ∧ e.offset + e.length ≤ 0xFFFFFFFF) &&
      lengthOk h.format (ctWidth h.codeType) (c0 * c1 * c2) c0 c1 e.length

/-- `n` codes of width w from packed bytes (R52). -/
def unpackCodes (w n : Nat) (bs : List Byte) : List Nat :=
  if w = 4 then ((bs.flatMap fun b => [b.toNat % 16, b.toNat / 16]).take n)
  else if w = 8 then (bs.take n).map (·.toNat)
  else ((chunks 2 bs).map leNat).take n

/-- Codes of width w packed into bytes (R52). -/
def packCodes (w : Nat) (cs : List Nat) : List Byte :=
  if w = 4 then (chunks 2 cs).map fun p => BitVec.ofNat 8 (p.headD 0 % 16 + 16 * ((p.getD 1 0) % 16))
  else if w = 8 then cs.map fun c => BitVec.ofNat 8 c
  else cs.flatMap fun c => leBytes 2 c

/-- Both positions of a position code, when it is valid (R54). -/
def posOf (c : Nat) : Option (Nat × Nat) :=
  let p := c % 4
  let q := c / 4 % 4
  if p < q ∧ c < 16 then some (p, q) else none

/-- The elements of an SK-S24 tile; none when a position code is not valid (R54, R56). -/
def decodeS24 (w n : Nat) (bs : List Byte) : Option (List (Option Nat)) :=
  let g := n / 4
  let vals := chunks 2 (unpackCodes w (2 * g) (bs.drop (posBytes g)))
  (List.zip (unpackCodes 4 g bs) vals).foldr (fun (pc, v) acc =>
    match posOf pc, acc with
    | some (p, q), some rest =>
      some (((List.range 4).map fun i => if i = p then some (v.headD 0) else if i = q then some (v.getD 1 0) else none) ++ rest)
    | _, _ => none) (some [])

/-- The 16 presence bits of a word mask. -/
def maskBits (m : Nat) : List Bool := (List.range 16).map fun i => bitOf m i

/-- Codes put at the present places. -/
def placeCodes : List Bool → List Nat → List (Option Nat)
  | [], _ => []
  | true :: ms, c :: cs => some c :: placeCodes ms cs
  | true :: ms, [] => some 0 :: placeCodes ms []
  | false :: ms, cs => none :: placeCodes ms cs

/-- One chunk of an SK-HB tile of `n` elements, at most 256: its elements and its length; none
where the masks contradict the tile (R58, R60). -/
def decodeChunk (w n : Nat) (bs : List Byte) : Option (List (Option Nat) × Nat) :=
  let l2 := fieldAt bs 0 2
  let words := ceilDiv n 16
  let k := ((maskBits l2).filter id).length
  let masks := (List.range k).map fun i => fieldAt bs (2 + 2 * i) 2
  let present := placeCodes (maskBits l2) masks
  let bitsAll := present.flatMap fun m => match m with | some m => maskBits m | none => List.replicate 16 false
  let count := (bitsAll.filter id).length
  if 2 ^ words ≤ l2 then none
  else if masks.any (· == 0) then none
  else if (bitsAll.drop n).any id then none
  else
    let body := 2 + 2 * k
    let len := body + ceilDiv (count * w) 8
    some (placeCodes (bitsAll.take n) (unpackCodes w count (bs.drop body)), roundUp len 2)

/-- The elements of an SK-HB tile and its computed length (R57 to R60); `fuel` bounds the
chunks. -/
def decodeHB (w : Nat) : Nat → Nat → List Byte → Option (List (Option Nat) × Nat)
  | 0, _, _ => some ([], 0)
  | fuel + 1, n, bs =>
    if n = 0 then some ([], 0)
    else
      match decodeChunk w (min n 256) bs with
      | none => none
      | some (xs, len) =>
        match decodeHB w fuel (n - 256) (bs.drop len) with
        | none => none
        | some (ys, l) => some (xs ++ ys, len + l)

/-- The elements of an SK-BB tile and its computed length; none when a block outside the tile is
present (R63, R64). -/
def decodeBB (w c0 c1 : Nat) (bs : List Byte) : Option (List (Option Nat) × Nat) :=
  let map := fieldAt bs 0 8
  let inside (b : Nat) : Bool := decide (b % 8 * 8 < c0 ∧ b / 8 * 8 < c1)
  let blocks := (List.range 64).filter fun b => bitOf map b
  if blocks.any (fun b => !inside b) then none
  else
    let size := 8 * w
    let code (e0 e1 : Nat) : Option Nat :=
      let b := 8 * (e1 / 8) + e0 / 8
      if bitOf map b then
        let i := (blocks.filter (· < b)).length
        (unpackCodes w 64 (slice bs (8 + i * size) size))[8 * (e1 % 8) + e0 % 8]?
      else none
    some ((List.range (c0 * c1)).map fun l => code (l % c0) (l / c0), 8 + size * blocks.length)

/-- A tile's elements in local order, as codes, absent where a sparse format marks them so; or
the SLUB detail of the failed check (R50 to R64, R172).  A ZERO tile of SK-S24 holds no position codes, and so no entries (DESIGN CHOICE,
log 133). -/
def decodeTile (h : SkeinHdr) (t : Nat) (e : TileEntry) (bs : List Byte) : Except Nat (List (Option Nat)) :=
  let (c0, c1, c2) := h.tileExt t
  let n := c0 * c1 * c2
  let w := ctWidth h.codeType
  if e.zero then .ok (List.replicate n none)
  else
    match h.format with
    | 1 => .ok ((unpackCodes w n bs).map some)
    | 2 => match decodeS24 w n bs with | some xs => .ok xs | none => .error 1
    | 3 =>
      match decodeHB w (ceilDiv n 256) n bs with
      | some (xs, len) => if len = e.length then .ok xs else .error 2
      | none => .error 2
    | _ =>
      match decodeBB w c0 c1 bs with
      | some (xs, len) => if len = e.length then .ok xs else .error 3
      | none => .error 3

/-! ## Writing tiles -/

/-- The two positions and codes that a group of four codes is written with, at most two of them
not zero (R55). -/
def groupSlots (g : List Nat) : Nat × Nat × Nat × Nat :=
  let nz := (List.range 4).filter fun i => g.getD i 0 != 0
  match nz with
  | [] => (0, 1, 0, 0)
  | [p] => if p = 0 then (0, 1, g.getD 0 0, 0) else (0, p, 0, g.getD p 0)
  | p :: q :: _ => (p, q, g.getD p 0, g.getD q 0)

/-- An SK-S24 payload (R56). -/
def encodeS24 (w : Nat) (cs : List Nat) : List Byte :=
  let gs := (chunks 4 cs).map groupSlots
  let pos := packCodes 4 (gs.map fun (p, q, _, _) => p + 4 * q)
  slice pos 0 (posBytes gs.length) ++ packCodes w (gs.flatMap fun (_, _, a, b) => [a, b])

/-- One chunk of an SK-HB payload (R58, R59). -/
def encodeChunk (w : Nat) (cs : List Nat) : List Byte :=
  let words := chunks 16 cs
  let mask (ws : List Nat) : Nat := (List.range ws.length).foldl (fun a i => a + b2n (ws.getD i 0 != 0) * 2 ^ i) 0
  let masks := words.map mask
  let l2 := (List.range masks.length).foldl (fun a i => a + b2n (masks.getD i 0 != 0) * 2 ^ i) 0
  padTo 2 (leBytes 2 l2 ++ ((masks.filter (· != 0)).flatMap fun m => leBytes 2 m) ++ packCodes w (cs.filter (· != 0)))

/-- An SK-BB payload (R63, R64). -/
def encodeBB (w c0 c1 : Nat) (cs : List Nat) : List Byte :=
  let a := cs.toArray
  let block (b : Nat) : List Nat :=
    (List.range 64).map fun p => a.getD ((b / 8 * 8 + p / 8) * c0 + (b % 8 * 8 + p % 8)) 0
  let blocks := (List.range 64).filter fun b =>
    decide (b % 8 * 8 < c0 ∧ b / 8 * 8 < c1) && (block b).any (· != 0)
  leBytes 8 (blocks.foldl (fun acc b => acc + 2 ^ b) 0) ++ blocks.flatMap fun b => packCodes w (block b)

/-- A tile's payload from its codes in local order; none for a ZERO tile (R50). -/
def encodeTile (fmt ct c0 c1 : Nat) (cs : List Nat) : Option (List Byte) :=
  let w := ctWidth ct
  if cs.all (· == 0) then none
  else some (match fmt with
    | 1 => packCodes w cs
    | 2 => encodeS24 w cs
    | 3 => (chunks 256 cs).flatMap (encodeChunk w)
    | _ => encodeBB w c0 c1 cs)

/-! ## Coordinate lists (R161, R162) -/

/-- The fields of a coordinate list header (R161). -/
def ListHdr.parse (b : List Byte) : ListHdr where
  codeType := fieldAt b 0x04 1
  gridSlot := fieldAt b 0x06 1
  rows := fieldAt b 0x08 4
  extent := fieldAt b 0x0C 4
  nnz := fieldAt b 0x10 4
  scale := w32 (fieldAt b 0x14 4)
  ptrOffset := fieldAt b 0x18 4
  idxOffset := fieldAt b 0x1C 4
  valOffset := fieldAt b 0x20 4

/-- The header passes the checks of R162; `version` is its VERSION byte.  A GRID_SLOT beside another CODE_TYPE
than 0x05 is not looked at (DEDUCED, log 93). -/
def ListHdr.ok (gs : Tab (List (BitVec 16))) (version : Nat) (h : ListHdr) : Bool :=
  version == 1 && decide (h.codeType ≤ 7) && (h.codeType != 5 || gridLoaded gs h.gridSlot) &&
  decide (1 ≤ h.rows ∧ 1 ≤ h.extent) && isScale h.scale &&
  decide (h.ptrOffset % 8 = 0 ∧ 64 ≤ h.ptrOffset ∧ h.idxOffset % 64 = 0 ∧ 64 ≤ h.idxOffset ∧
    h.valOffset % 64 = 0 ∧ 64 ≤ h.valOffset ∧
    h.ptrOffset + 4 * (h.rows + 1) ≤ 2 ^ 32 ∧ h.idxOffset + 4 * h.nnz ≤ 2 ^ 32 ∧
    h.valOffset + ceilDiv (h.nnz * ctWidth h.codeType) 8 ≤ 2 ^ 32)

/-- The row pointers start at zero, never descend and end at NNZ (R172, detail 4). -/
def ptrsOk (nnz : Nat) (ps : List Nat) : Bool :=
  ps.head? == some 0 && ps.getLast? == some nnz && (List.zip ps (ps.drop 1)).all fun (a, b) => decide (a ≤ b)

/-- Indices ascend strictly (R172, detail 5). -/
def ascending (xs : List Nat) : Bool := (List.zip xs (xs.drop 1)).all fun (a, b) => decide (a < b)

end Sys2Proof.Machine
end

