-- ==== Sys2Proof/Machine/Operands.lean ====
section
/-! DEFINITION. Operand forms: the job descriptor and its blocks (R352 to R356), the four address
forms (R271), and the structures that jobs read from memory. -/

namespace Sys2Proof.Machine

/-! ## Addresses (R271) -/

/-- An address by its form. -/
inductive Addr where
  | mem (a : Nat)
  | bobbin (a : Nat)
  | placed (tensor off : Nat)
  | bad
deriving DecidableEq, Repr

/-- The form that bits [63:62] select (R271). -/
def Addr.parse (v : Nat) : Addr :=
  match bits v 62 2 with
  | 0 => if bits v 48 14 = 0 then .mem (bits v 0 48) else .bad
  | 1 => if bits v 23 39 = 0 then .bobbin (bits v 0 23) else .bad
  | 3 => if bits v 60 2 = 0 ∧ bits v 32 16 = 0 then .placed (bits v 48 12) (bits v 0 32) else .bad
  | _ => .bad

/-- An address moved by a number of bytes. -/
def Addr.plus (a : Addr) (n : Nat) : Addr :=
  match a with
  | .mem x => .mem (x + n)
  | .bobbin x => .bobbin (x + n)
  | .placed t o => .placed t (o + n)
  | .bad => .bad

/-! ## Blocks of a descriptor -/

/-- The shape block (R353). -/
def ShapeBlk.parse (b : List Byte) : ShapeBlk where
  ndim := fieldAt b 0 1
  tileRows := fieldAt b 1 1
  tileCols := fieldAt b 2 1
  tileChans := fieldAt b 4 2
  dim0 := fieldAt b 8 4
  dim1 := fieldAt b 12 4
  dim2 := fieldAt b 16 4
  dim3 := fieldAt b 20 4

/-- Elements of a shape. -/
def ShapeBlk.elements (s : ShapeBlk) : Nat := s.dim0 * s.dim1 * s.dim2 * s.dim3

/-- The drafting block (R102). -/
def DraftBlk.parse (b : List Byte) : DraftBlk where
  scaleMode := fieldAt b 0x00 1
  srcType := fieldAt b 0x01 1
  format := fieldAt b 0x02 1
  codeType := fieldAt b 0x03 1
  gridSlot := fieldAt b 0x04 1
  histBase := toSigned 8 (fieldAt b 0x05 1)
  tensorClass := fieldAt b 0x06 1
  verify := bitOf (fieldAt b 0x07 1) 0
  comb := bitOf (fieldAt b 0x07 1) 1
  group := bitOf (fieldAt b 0x07 1) 2
  clipTarget := fieldAt b 0x08 2
  clipThresh := fieldAt b 0x0A 2
  givenScale := w32 (fieldAt b 0x0C 4)
  statsAddr := fieldAt b 0x10 8
  groupAddr := fieldAt b 0x18 8
  groupKnot := fieldAt b 0x20 2
  groupIndex := fieldAt b 0x22 1
  groupCount := fieldAt b 0x23 1
  tensorKind := fieldAt b 0x24 1

/-- An expansion block (R130). -/
def ExpBlk.parse (b : List Byte) : ExpBlk where
  streamAddr := fieldAt b 0x00 8
  foldAddr := fieldAt b 0x08 8
  tileFirst := fieldAt b 0x10 4
  tileRun := fieldAt b 0x14 4
  scaleSrc := fieldAt b 0x18 1
  deliv := fieldAt b 0x19 1
  dest := fieldAt b 0x1A 1

/-- The match block (R157). -/
def MatchBlk.parse (b : List Byte) : MatchBlk where
  mode := fieldAt b 0x00 1
  laneSteal := bitOf (fieldAt b 0x01 1) 0
  ringSteal := bitOf (fieldAt b 0x01 1) 1
  unsortedA := bitOf (fieldAt b 0x01 1) 2
  unsortedB := bitOf (fieldAt b 0x01 1) 3
  nepThresh := fieldAt b 0x04 4
  stealArea := fieldAt b 0x08 8
  stealKnot := fieldAt b 0x10 2

/-- The window block (R245). -/
def WindowBlk.parse (b : List Byte) : WindowBlk where
  kw := fieldAt b 0x00 1
  kh := fieldAt b 0x01 1
  stride := fieldAt b 0x02 1
  replicate := bitOf (fieldAt b 0x03 1) 0
  channelBlock := bitOf (fieldAt b 0x03 1) 1
  dil := fieldAt b 0x04 2
  padTop := fieldAt b 0x08 2
  padBottom := fieldAt b 0x0A 2
  padLeft := fieldAt b 0x0C 2
  padRight := fieldAt b 0x0E 2
  outFirst := fieldAt b 0x10 4
  outLines := fieldAt b 0x14 4
  inFirst := fieldAt b 0x18 4
  frameLines := fieldAt b 0x1C 4
  ringAbove := fieldAt b 0x20 8
  ringBelow := fieldAt b 0x28 8
  round := fieldAt b 0x30 4

/-- The publish block (R256). -/
def PublishBlk.parse (b : List Byte) : PublishBlk := ⟨fieldAt b 0 8, fieldAt b 8 8, fieldAt b 16 4⟩

/-- The crop block (R263). -/
def CropBlk.parse (b : List Byte) : CropBlk := ⟨fieldAt b 0 8, fieldAt b 8 4, fieldAt b 12 4⟩

/-- The Hank parameter block (R214). -/
def HankBlk.parse (b : List Byte) : HankBlk where
  op := fieldAt b 0x00 1
  blockSize := fieldAt b 0x01 1
  chainDepth := fieldAt b 0x02 1
  srcLen := fieldAt b 0x04 4
  srcAddr := fieldAt b 0x08 8
  dstAddr := fieldAt b 0x10 8
  dstSpace := fieldAt b 0x18 4
  blockFirst := fieldAt b 0x1C 4
  blockRun := fieldAt b 0x20 4

/-- A wait entry (R355). -/
def KnotWait.parse (b : List Byte) : KnotWait := ⟨fieldAt b 0 2, fieldAt b 2 1, fieldAt b 4 4⟩

/-- An effect entry whose OP is valid (R355). -/
def KnotEffect.parse (b : List Byte) : KnotEffect :=
  ⟨fieldAt b 0 2, (match fieldAt b 2 1 with | 0 => .add | 1 => .set | _ => .setThresh), fieldAt b 3 1, fieldAt b 4 4⟩

/-- A block of a descriptor: none when its OFF_ field is zero. -/
def blockAt (b : List Byte) (offField len : Nat) (f : List Byte → α) : Option α :=
  let o := fieldAt b offField 1
  if o = 0 then none else some (f (slice b (8 * o) len))

/-- A job descriptor from its packet's bytes (R352). -/
def Desc.parse (b : List Byte) : Desc :=
  let jf := fieldAt b 0x06 1
  let ko := 8 * fieldAt b 0x31 1
  let nw := fieldAt b 0x32 1
  let ne := fieldAt b 0x33 1
  { tag := w32 (fieldAt b 0x00 4)
    length := fieldAt b 0x04 2
    lock := bitOf jf 0
    step := bitOf jf 1
    notify := bitOf jf 2
    stripe := fieldAt b 0x07 1
    setId := fieldAt b 0x08 2
    setIndex := fieldAt b 0x0A 1
    lockSize := fieldAt b 0x0B 1
    stepSize := fieldAt b 0x0C 1
    srcKind := fieldAt b 0x0D 1
    srcTag := fieldAt b 0x0E 1
    srcAddr := fieldAt b 0x10 8
    dstAddr := fieldAt b 0x18 8
    dstSpace := fieldAt b 0x20 4
    srcQ := fieldAt b 0x24 2
    outQ := fieldAt b 0x26 2
    shape := blockAt b 0x28 32 ShapeBlk.parse
    draft := blockAt b 0x29 48 DraftBlk.parse
    expA := blockAt b 0x2A 32 ExpBlk.parse
    expB := blockAt b 0x2B 32 ExpBlk.parse
    mtch := blockAt b 0x2C 32 MatchBlk.parse
    window := blockAt b 0x2D 64 WindowBlk.parse
    publish := blockAt b 0x2E 32 PublishBlk.parse
    crop := blockAt b 0x2F 32 CropBlk.parse
    hank := blockAt b 0x30 48 HankBlk.parse
    waits := (List.range nw).map fun i => KnotWait.parse (slice b (ko + 8 * i) 8)
    effects := (List.range ne).map fun i => KnotEffect.parse (slice b (ko + 8 * nw + 8 * i) 8) }

/-! ## Forms of a job (R354) -/

/-- The job forms of R354. -/
inductive JobForm where
  | feed | window | crop | ply | sparse | drafting | hank
deriving DecidableEq, Repr

/-- The form that the blocks and SRC_KIND make, if R354 lists it. -/
def Desc.form (d : Desc) : Option JobForm :=
  match d.expA.isSome, d.expB.isSome, d.mtch.isSome, d.window.isSome, d.publish.isSome, d.crop.isSome,
        d.hank.isSome, d.draft.isSome, d.shape.isSome with
  | true, false, false, false, false, false, false, false, false => if d.srcKind = 0 then some .feed else none
  | true, false, false, true, false, false, false, false, false => if d.srcKind = 0 then some .window else none
  | true, false, false, false, false, true, false, false, false => if d.srcKind = 0 then some .crop else none
  | true, true, false, false, false, false, false, true, true => if d.srcKind = 3 then some .ply else none
  | true, true, true, false, false, false, false, true, true => if d.srcKind = 3 then some .sparse else none
  | false, false, false, false, _, false, false, true, true =>
    if d.srcKind = 1 ∨ d.srcKind = 2 ∨ d.srcKind = 4 then some .drafting else none
  | false, false, false, false, false, false, true, false, false => if d.srcKind = 0 then some .hank else none
  | _, _, _, _, _, _, _, _, _ => none

/-- The DEST that R354 names for operand A (true) or B of a form. -/
def JobForm.dest (f : JobForm) (isA : Bool) : Nat :=
  match f with
  | .ply => if isA then 1 else 2
  | .sparse => 3
  | _ => 0

/-- The job delivers into the feed link or OUT_Q. -/
def Desc.feeds (d : Desc) : Bool :=
  (match d.expA with | some e => e.dest == 0 | none => false) ||
  (match d.expB with | some e => e.dest == 0 | none => false)

/-- Spans (offset, length) of the blocks and the knot list that a descriptor names (R352, R356
detail 2). -/
def descSpans (b : List Byte) : List (Nat × Nat) :=
  let blocks := [(0x28, 32), (0x29, 48), (0x2A, 32), (0x2B, 32), (0x2C, 32), (0x2D, 64), (0x2E, 32), (0x2F, 32), (0x30, 48)]
  let kn := 8 * (fieldAt b 0x32 1 + fieldAt b 0x33 1)
  (blocks.filterMap fun (f, l) => if fieldAt b f 1 = 0 then none else some (8 * fieldAt b f 1, l)) ++
    (if kn = 0 then [] else [(8 * fieldAt b 0x31 1, kn)])

/-- Spans pairwise disjoint. -/
def disjoint : List (Nat × Nat) → Bool
  | [] => true
  | (o, l) :: rest => (rest.all fun (o', l') => decide (o + l ≤ o' ∨ o' + l' ≤ o)) && disjoint rest

/-- Detail 1: LENGTH (R356). -/
def descOk1 (b : List Byte) : Bool :=
  let n := fieldAt b 4 2
  decide (n % 8 = 0 ∧ 64 ≤ n ∧ n ≤ 512 ∧ n = b.length)

/-- Detail 2: blocks lie inside LENGTH, at or above 64, and overlap nothing (R356). -/
def descOk2 (b : List Byte) : Bool :=
  let sp := descSpans b
  (sp.all fun (o, l) => decide (64 ≤ o ∧ o + l ≤ fieldAt b 4 2)) && disjoint sp

/-- Detail 3: the knot list's counts, MODE, OP and WHEN (R356). -/
def descOk3 (b : List Byte) : Bool :=
  let nw := fieldAt b 0x32 1
  let ne := fieldAt b 0x33 1
  let ko := 8 * fieldAt b 0x31 1
  decide (nw ≤ 4 ∧ ne ≤ 8) &&
  ((List.range nw).all fun i => decide (fieldAt b (ko + 8 * i + 2) 1 ≤ 1)) &&
  ((List.range ne).all fun i => decide (fieldAt b (ko + 8 * (nw + i) + 2) 1 ≤ 2 ∧ fieldAt b (ko + 8 * (nw + i) + 3) 1 < 16))

/-- Detail 5 without the agreement of the members: LOCK_SIZE, STEP_SIZE and SET_INDEX (R356). -/
def Desc.setOk (d : Desc) : Bool :=
  (if d.lock then decide (2 ≤ d.lockSize ∧ d.lockSize ≤ 4 ∧ d.setIndex < d.lockSize) else d.lockSize == 0 && d.setIndex == 0) &&
  (if d.step then decide (2 ≤ d.stepSize ∧ d.stepSize ≤ 8) else d.stepSize == 0)

/-- Two jobs of one SET_ID, both members of a set, agree in the fields that detail 5 names: STEP_SIZE in all, LOCK_SIZE among
lockstep members, whose SET_INDEX values differ (R204, R356; DEDUCED, log 60). -/
def Desc.agrees (a b : Desc) : Bool :=
  let member (d : Desc) : Bool := d.lock || d.step
  a.setId != b.setId || !member a || !member b ||
    (a.stepSize == b.stepSize && (!(a.lock && b.lock) || (a.lockSize == b.lockSize && a.setIndex != b.setIndex)))

/-! ## Other structures -/

/-- A fold record (R125). -/
def FoldRec.parse (b : List Byte) : FoldRec where
  producer := w32 (fieldAt b 0x00 4)
  weightScale := w32 (fieldAt b 0x04 4)
  weightStream := fieldAt b 0x08 8
  dest := fieldAt b 0x10 8
  const := w32 (fieldAt b 0x18 4)
  fromHeader := bitOf (fieldAt b 0x1C 1) 0
  useConst := bitOf (fieldAt b 0x1C 1) 1

/-- A ring descriptor (R253). -/
def RingDesc.parse (b : List Byte) : RingDesc where
  slotAddr := fieldAt b 0x00 8
  spillAddr := fieldAt b 0x08 8
  halfSize := fieldAt b 0x10 4
  spillSize := fieldAt b 0x14 4
  slots := fieldAt b 0x18 1
  lines := fieldAt b 0x1A 2
  readyDown := fieldAt b 0x1C 2
  readyUp := fieldAt b 0x1E 2
  freeDown := fieldAt b 0x20 2
  freeUp := fieldAt b 0x22 2

/-- A Hank frame header (R210). -/
def HankHdr.parse (b : List Byte) : HankHdr where
  blockSize := fieldAt b 0x05 1
  chainDepth := fieldAt b 0x06 1
  rawLen := fieldAt b 0x08 4
  blockCount := fieldAt b 0x0C 4
  tableOffset := fieldAt b 0x10 4
  storedCount := fieldAt b 0x14 4

/-- A Hank frame header as 64 bytes (R210). -/
def HankHdr.toBytes (h : HankHdr) : List Byte :=
  leBytes 4 magicHank ++ leBytes 1 1 ++ leBytes 1 h.blockSize ++ leBytes 1 h.chainDepth ++ leBytes 1 0 ++
  leBytes 4 h.rawLen ++ leBytes 4 h.blockCount ++ leBytes 4 h.tableOffset ++ leBytes 4 h.storedCount ++ leBytes 40 0

/-- The block size in bytes (R210). -/
def hankB (code : Nat) : Nat := if code = 0 then 4096 else 65536

/-- Length of block b (R211). -/
def HankHdr.blockLen (h : HankHdr) (b : Nat) : Nat :=
  if b + 1 = h.blockCount then h.rawLen - (h.blockCount - 1) * hankB h.blockSize else hankB h.blockSize

/-- Frame-open checks on the header's bytes: the HANK_BAD_CODE detail that fails, if any (R232; detail 2 for a TABLE_OFFSET below 64
is DEDUCED, log 114). -/
def hankOpenError (b : List Byte) : Option Nat :=
  let h := HankHdr.parse b
  if fieldAt b 0 4 ≠ magicHank ∨ fieldAt b 4 1 ≠ 1 ∨ 1 < h.blockSize ∨ h.rawLen = 0 then some 1
  else if h.blockCount ≠ ceilDiv h.rawLen (hankB h.blockSize) ∨ h.tableOffset % 8 ≠ 0 ∨ h.tableOffset < 64 ∨
      2 ^ 32 < h.tableOffset + 8 * h.blockCount then some 2
  else none

/-- A box of a box list (R264). -/
def Box.parse (b : List Byte) : Box :=
  ⟨fieldAt b 0 2, fieldAt b 2 2, fieldAt b 4 2, fieldAt b 6 2, fieldAt b 8 1, fieldAt b 9 1, fieldAt b 10 2, fieldAt b 12 4⟩

end Sys2Proof.Machine
end

