-- ==== Sys2Proof/Machine/HankCodec.lean ====
section
/-! DEFINITION. The Hank codec over one block: match finding, coding and decoding of RFC 1951
data (R217 to R234). -/

namespace Sys2Proof.Machine

/-! ## RFC 1951 tables -/

/-- Length symbols with base and extra bits. -/
def lengthTable : List (Nat × Nat × Nat) :=
  [(257, 3, 0), (258, 4, 0), (259, 5, 0), (260, 6, 0), (261, 7, 0), (262, 8, 0), (263, 9, 0), (264, 10, 0),
   (265, 11, 1), (266, 13, 1), (267, 15, 1), (268, 17, 1), (269, 19, 2), (270, 23, 2), (271, 27, 2), (272, 31, 2),
   (273, 35, 3), (274, 43, 3), (275, 51, 3), (276, 59, 3), (277, 67, 4), (278, 83, 4), (279, 99, 4), (280, 115, 4),
   (281, 131, 5), (282, 163, 5), (283, 195, 5), (284, 227, 5), (285, 258, 0)]

/-- Distance symbols with base and extra bits. -/
def distTable : List (Nat × Nat × Nat) :=
  [(0, 1, 0), (1, 2, 0), (2, 3, 0), (3, 4, 0), (4, 5, 1), (5, 7, 1), (6, 9, 2), (7, 13, 2), (8, 17, 3), (9, 25, 3),
   (10, 33, 4), (11, 49, 4), (12, 65, 5), (13, 97, 5), (14, 129, 6), (15, 193, 6), (16, 257, 7), (17, 385, 7),
   (18, 513, 8), (19, 769, 8), (20, 1025, 9), (21, 1537, 9), (22, 2049, 10), (23, 3073, 10), (24, 4097, 11),
   (25, 6145, 11), (26, 8193, 12), (27, 12289, 12), (28, 16385, 13), (29, 24577, 13)]

/-- Symbol, extra bits and their value of a length or distance: the last row whose base is at
most the value. -/
def symFor (tbl : List (Nat × Nat × Nat)) (v : Nat) : Nat × Nat × Nat :=
  tbl.foldl (fun best (s, b, x) => if b ≤ v then (s, x, v - b) else best) (0, 0, 0)

/-- Order of the code-length code's lengths in a dynamic header. -/
def clOrder : List Nat := [16, 17, 18, 0, 8, 7, 9, 6, 10, 5, 11, 4, 12, 3, 13, 2, 14, 1, 15]

/-- Lengths of the fixed literal/length code. -/
def fixedLit : List Nat :=
  List.replicate 144 8 ++ List.replicate 112 9 ++ List.replicate 24 7 ++ List.replicate 8 8

/-- Lengths of the fixed distance code. -/
def fixedDist : List Nat := List.replicate 32 5

/-! ## Canonical codes -/

/-- Number of symbols of a length. -/
def lenCount (ls : List Nat) (l : Nat) : Nat := (ls.filter (· == l)).length

/-- Sum of 2^(15 - length) over the symbols that have a code. -/
def kraft (ls : List Nat) : Nat := (ls.map fun l => if l = 0 then 0 else 2 ^ (15 - l)).sum

/-- A code is complete, or has exactly one symbol, of length 1 (R231). -/
def codeLegal (ls : List Nat) : Bool :=
  kraft ls == 2 ^ 15 || ((ls.filter (· != 0)) == [1])

/-- First code of each length from 1 to 15. -/
def firstCode (ls : List Nat) : Nat → Nat
  | 0 => 0
  | l + 1 => if l = 0 then 0 else (firstCode ls l + lenCount ls l) * 2

/-- The code of a symbol. -/
def codeOf (ls : List Nat) (sym : Nat) : Nat :=
  let l := ls.getD sym 0
  firstCode ls l + ((ls.take sym).filter (· == l)).length

/-- A code's bits, most significant first. -/
def codeBits (l c : Nat) : List Bool := (List.range l).map fun i => bitOf c (l - 1 - i)

/-- A number's low bits, least significant first. -/
def lowBits (n v : Nat) : List Bool := (List.range n).map fun i => bitOf v i

/-- Bits packed into bytes, the first bit lowest. -/
def packBits (bs : List Bool) : List Byte :=
  (chunks 8 bs).map fun c => BitVec.ofNat 8 ((List.range c.length).foldl (fun a i => a + b2n (c.getD i false) * 2 ^ i) 0)

/-! ## Match finding (R217 to R221) -/

/-- The hash of the three bytes at a position (R217). -/
def hankHash (d : Array Nat) (p : Nat) : Nat :=
  ((d.getD p 0 * 16) ^^^ (d.getD (p + 1) 0 * 4) ^^^ d.getD (p + 2) 0) % 4096

/-- A head is valid for a position; one that fails its SECDED check there is read as invalid (R220). -/
def headValid (d : Array Nat) (bad : List Nat) (gen : Nat) (head p h : Nat) : Bool :=
  let pos := head % 65536
  decide (head / 65536 = gen ∧ pos < p) && hankHash d pos == h && !bad.contains p

/-- Position p inserted: link and head (R219). -/
def hankInsert (d : Array Nat) (bad : List Nat) (w gen p : Nat) (heads links : Array Nat) : Array Nat × Array Nat :=
  if p + 3 ≤ d.size then
    let h := hankHash d p
    let head := heads.getD h 0
    let link := if headValid d bad gen head p h then head % 65536 else p
    (heads.setIfInBounds h (gen * 65536 + p), links.setIfInBounds (p % w) link)
  else (heads, links)

/-- Positions p to p + n - 1 inserted. -/
def hankInsertN (d : Array Nat) (bad : List Nat) (w gen : Nat) : Nat → Nat → Array Nat → Array Nat → Array Nat × Array Nat
  | 0, _, heads, links => (heads, links)
  | n + 1, p, heads, links =>
    let (h', l') := hankInsert d bad w gen p heads links
    hankInsertN d bad w gen n (p + 1) h' l'

/-- Length of the common prefix at two positions, at most the fuel. -/
def prefixLen (d : Array Nat) (c p : Nat) : Nat → Nat → Nat
  | 0, n => n
  | f + 1, n => if d.getD (c + n) 0 = d.getD (p + n) 0 then prefixLen d c p f (n + 1) else n

/-- The walk of R221: candidates left, candidate, best so far. -/
def bestMatch (d : Array Nat) (w : Nat) (links : Array Nat) (p h : Nat) : Nat → Nat → Nat × Nat → Nat × Nat
  | 0, _, best => best
  | f + 1, c, best =>
    if 32768 < p - c then best
    else if hankHash d c ≠ h then best
    else
      let cap := min 258 (d.size - p)
      let n := prefixLen d c p cap 0
      let best' := if best.1 < n then (n, p - c) else best
      if best'.1 = cap then best'
      else
        let next := links.getD (c % w) 0
        if c ≤ next then best' else bestMatch d w links p h f next best'

/-- The block's symbols from position p on: (literal, 0) or (length, distance) (R221). -/
def hankSymbols (d : Array Nat) (bad : List Nat) (w depth gen : Nat) :
    Nat → Nat → Array Nat → Array Nat → List (Nat × Nat) × Array Nat × Array Nat
  | 0, _, heads, links => ([], heads, links)
  | fuel + 1, p, heads, links =>
    if d.size ≤ p then ([], heads, links)
    else
      let h := hankHash d p
      let head := heads.getD h 0
      let m := if p + 3 ≤ d.size ∧ headValid d bad gen head p h then bestMatch d w links p h depth (head % 65536) (0, 0) else (0, 0)
      let n := if 3 ≤ m.1 then m.1 else 1
      let sym := if 3 ≤ m.1 then m else (d.getD p 0, 0)
      let (h', l') := hankInsertN d bad w gen n p heads links
      let (rest, hs) := hankSymbols d bad w depth gen fuel (p + n) h' l'
      (sym :: rest, hs)

/-- Content of a table of `n` entries as it stands in the state. -/
def tabArray (n : Nat) (f : Nat → Nat) : Array Nat := ((List.range n).map f).toArray

/-- The entries of a table that differ from zero. -/
def arrayTab (n : Nat) (a : Array Nat) (f : Nat → α) : Tab α :=
  (List.range n).filterMap fun i => let v := a.getD i 0; if v = 0 then none else some (i, f v)

/-- A block matched under a generation, with the heads and the link ring as the spindle holds them and the positions at which the head
read fails its SECDED check: its symbols, and both tables afterwards (R217 to R221). -/
def hankMatch (blockSize depth gen : Nat) (heads : Tab Word) (links : Tab Nat) (bad : List Nat) (data : List Byte) :
    List (Nat × Nat) × Tab Word × Tab Nat :=
  let d := (data.map (·.toNat)).toArray
  let w := if blockSize = 0 then 4096 else 32768
  let r := hankSymbols d bad w (if depth = 0 then 8 else depth) gen (data.length + 1) 0 (tabArray 4096 fun i => (Tab.getD heads i 0).toNat)
    (tabArray w fun i => Tab.getD links i 0)
  (r.1, arrayTab 4096 r.2.1 w32, arrayTab w r.2.2 id)

/-! ## Coding (R223 to R225) -/

/-- The literal/length symbol of a block symbol. -/
def litSym (s : Nat × Nat) : Nat := if s.2 = 0 then s.1 else (symFor lengthTable s.1).1

/-- Bits of a block's symbols and its end under given code lengths. -/
def symbolBits (lit dist : List Nat) (syms : List (Nat × Nat)) : List Bool :=
  (syms.flatMap fun s =>
    let code (ls : List Nat) (y : Nat) := codeBits (ls.getD y 0) (codeOf ls y)
    if s.2 = 0 then code lit s.1
    else
      let (ly, lx, lv) := symFor lengthTable s.1
      let (dy, dx, dv) := symFor distTable s.2
      code lit ly ++ lowBits lx lv ++ code dist dy ++ lowBits dx dv) ++ codeBits (lit.getD 256 0) (codeOf lit 256)

/-- The fixed form (R223). -/
def fixedForm (syms : List (Nat × Nat)) : List Bool := [true, true, false] ++ symbolBits fixedLit fixedDist syms

/-- Counts of the symbols 0 to n - 1. -/
def countsOf (n : Nat) (ys : List Nat) : List Nat := (List.range n).map fun i => (ys.filter (· == i)).length

/-- The code lengths that a list of code-length symbols spells (RFC 1951); none when a repeat has
no previous length. -/
def expandLens : List (Nat × Nat) → List Nat → Option (List Nat)
  | [], acc => some acc
  | (s, r) :: rest, acc =>
    if s ≤ 15 then expandLens rest (acc ++ [s])
    else if s = 16 then
      match acc.getLast? with
      | some p => if 3 ≤ r ∧ r ≤ 6 then expandLens rest (acc ++ List.replicate r p) else none
      | none => none
    else if s = 17 then (if 3 ≤ r ∧ r ≤ 10 then expandLens rest (acc ++ List.replicate r 0) else none)
    else if s = 18 then (if 11 ≤ r ∧ r ≤ 138 then expandLens rest (acc ++ List.replicate r 0) else none)
    else none

/-- A dynamic form is legal for the counts (R223, R225, R231). -/
def dynLegal (litC distC : List Nat) (f : List Nat × List Nat × List Nat × List (Nat × Nat)) : Bool :=
  let (lit, dist, cl, ops) := f
  decide (257 ≤ lit.length ∧ lit.length ≤ 286 ∧ 1 ≤ dist.length ∧ dist.length ≤ 30 ∧ cl.length = 19) &&
  lit.all (fun l => decide (l ≤ 15)) && dist.all (fun l => decide (l ≤ 15)) && cl.all (fun l => decide (l ≤ 7)) &&
  codeLegal lit && codeLegal cl && (lit.getD 256 0 != 0) &&
  (if distC.all (· == 0) then dist == [0] else codeLegal dist) &&
  (if (distC.filter (· != 0)).length = 1 then (List.range 30).all fun i => distC.getD i 0 == 0 || dist.getD i 0 == 1 else true) &&
  ((List.range 286).all fun i => litC.getD i 0 == 0 || lit.getD i 0 != 0) &&
  ((List.range 30).all fun i => distC.getD i 0 == 0 || dist.getD i 0 != 0) &&
  ops.all (fun (s, _) => decide (s ≤ 18) && cl.getD s 0 != 0) &&
  expandLens ops [] == some (lit ++ dist)

/-- Lengths of a complete code over the symbols with a count, as flat as can be. -/
def flatLens (cs : List Nat) : List Nat :=
  let n := (cs.filter (· != 0)).length
  let k := if n ≤ 1 then 1 else Nat.log2 (n - 1) + 1
  let short := 2 ^ k - n
  (cs.foldl (fun (acc, seen) c =>
    if c = 0 then (acc ++ [0], seen) else (acc ++ [if n ≤ 1 then 1 else if seen < short then k - 1 else k], seen + 1))
    (([] : List Nat), 0)).1

/-- A flat legal dynamic form, in place of one that is not legal. -/
def flatForm (litC distC : List Nat) : List Nat × List Nat × List Nat × List (Nat × Nat) :=
  let lit := flatLens litC
  let distAll := flatLens distC
  let dist := if distC.all (· == 0) then [0] else distAll
  let lens := lit ++ dist
  let cl := flatLens (countsOf 19 lens)
  (lit, dist, cl, lens.map fun l => (l, 1))

/-- The dynamic form that the encoder builds (R225): the free one where it is legal. -/
def dynForm (litC distC : List Nat) : List Nat × List Nat × List Nat × List (Nat × Nat) :=
  let f := Config.dynamicForm litC distC
  if dynLegal litC distC f then f else flatForm litC distC

/-- The bits of a dynamic block. -/
def dynamicBits (syms : List (Nat × Nat)) : List Bool :=
  let litC := countsOf 286 (256 :: syms.map litSym)
  let distC := countsOf 30 (syms.filterMap fun s => if s.2 = 0 then none else some (symFor distTable s.2).1)
  let (lit, dist, cl, ops) := dynForm litC distC
  let sent := (List.range 19).foldl (fun m i => if cl.getD (clOrder.getD i 0) 0 = 0 then m else i + 1) 4
  [true, false, true] ++ lowBits 5 (lit.length - 257) ++ lowBits 5 (dist.length - 1) ++ lowBits 4 (sent - 4) ++
  ((clOrder.take sent).flatMap fun s => lowBits 3 (cl.getD s 0)) ++
  (ops.flatMap fun (s, r) =>
    codeBits (cl.getD s 0) (codeOf cl s) ++
      (if s = 16 then lowBits 2 (r - 3) else if s = 17 then lowBits 3 (r - 3) else if s = 18 then lowBits 7 (r - 11) else [])) ++
  symbolBits lit dist syms

/-- One stored RFC 1951 block. -/
def storedBlock (final : Bool) (bs : List Byte) : List Byte :=
  BitVec.ofNat 8 (b2n final) :: (leBytes 2 bs.length ++ leBytes 2 (65535 - bs.length) ++ bs)

/-- The stored form of a block (R224). -/
def storedForm (bs : List Byte) : List Byte :=
  if bs.length ≤ 32768 then storedBlock true bs
  else storedBlock false (bs.take 32768) ++ storedBlock true (bs.drop 32768)

/-- A block coded from its symbols: data and whether it is stored (R223). -/
def hankBuild (data : List Byte) (syms : List (Nat × Nat)) : List Byte × Bool :=
  let f := fixedForm syms
  let d := dynamicBits syms
  let best := if f.length ≤ d.length then f else d
  let stored := storedForm data
  if stored.length < ceilDiv best.length 8 then (stored, true) else (packBits best, false)

/-! ## Decoding (R231 to R234) -/

/-- A decoder failure: fault code and detail (R232). -/
abbrev HankErr := Nat × Nat

def badCode (d : Nat) : HankErr := (0x0A, d)
def distBeyond : HankErr := (0x0B, 0)
def lenOverrun : HankErr := (0x0C, 0)

/-- The decoder's input: bytes, and the position of the next bit. -/
structure BitIn where
  data : Array Nat
  pos : Nat

/-- The next `n` bits, least significant first; past COMP_LEN they fail (R232). -/
def BitIn.read (i : BitIn) (n : Nat) : Except HankErr (Nat × BitIn) :=
  if 8 * i.data.size < i.pos + n then .error lenOverrun
  else
    .ok ((List.range n).foldl (fun a k => a + i.data.getD ((i.pos + k) / 8) 0 / 2 ^ ((i.pos + k) % 8) % 2 * 2 ^ k) 0,
         { i with pos := i.pos + n })

/-- A code's tables: count of each length, and symbols in code order. -/
structure DecTab where
  counts : Array Nat
  syms : Array Nat
  single : Bool
  empty : Bool

/-- Tables of a code with given lengths. -/
def DecTab.of (ls : List Nat) : DecTab where
  counts := ((List.range 16).map fun l => if l = 0 then 0 else lenCount ls l).toArray
  syms := ((List.range 15).flatMap fun l => (List.range ls.length).filter fun s => ls.getD s 0 == l + 1).toArray
  single := (ls.filter (· != 0)) == [1]
  empty := ls.all (· == 0)

/-- A symbol read bit by bit; `err` for a value that the code does not assign. -/
def DecTab.sym (t : DecTab) (err : HankErr) : Nat → Nat → Nat → Nat → Nat → BitIn → Except HankErr (Nat × BitIn)
  | 0, _, _, _, _, _ => .error err
  | fuel + 1, l, code, first, index, i =>
    match i.read 1 with
    | .error e => .error e
    | .ok (b, i') =>
      let code' := code * 2 + b
      let n := t.counts.getD l 0
      if code' < first + n then .ok (t.syms.getD (index + (code' - first)) 0, i')
      else if t.single || t.empty then .error err
      else DecTab.sym t err fuel (l + 1) code' ((first + n) * 2) (index + n) i'

/-- A symbol of a code. -/
def DecTab.next (t : DecTab) (err : HankErr) (i : BitIn) : Except HankErr (Nat × BitIn) := t.sym err 15 1 0 0 0 i

/-- A copy of `n` bytes from distance `d`. -/
def copyBytes (d : Nat) : Nat → Array Nat → Array Nat
  | 0, out => out
  | n + 1, out => copyBytes d n (out.push (out.getD (out.size - d) 0))

/-- The symbols of one compressed RFC 1951 block (R232, R233). -/
def decodeSyms (lit dist : DecTab) (len : Nat) : Nat → BitIn → Array Nat → Except HankErr (BitIn × Array Nat)
  | 0, _, _ => .error lenOverrun
  | fuel + 1, i, out =>
    match lit.next (badCode 8) i with
    | .error e => .error e
    | .ok (s, i) =>
      if s < 256 then
        if out.size < len then decodeSyms lit dist len fuel i (out.push s) else .error lenOverrun
      else if s = 256 then .ok (i, out)
      else
        match lengthTable.find? (fun r => r.1 == s) with
        | none => .error (badCode 8)
        | some (_, lb, lx) =>
          match i.read lx with
          | .error e => .error e
          | .ok (lv, i) =>
            match dist.next (badCode 8) i with
            | .error e => .error e
            | .ok (ds, i) =>
              match distTable.find? (fun r => r.1 == ds) with
              | none => .error (badCode 8)
              | some (_, db, dx) =>
                match i.read dx with
                | .error e => .error e
                | .ok (dv, i) =>
                  if out.size < db + dv then .error distBeyond
                  else if len < out.size + (lb + lv) then .error lenOverrun
                  else decodeSyms lit dist len fuel i (copyBytes (db + dv) (lb + lv) out)

/-- The code lengths of a dynamic header (R232 detail 7). -/
def readLens (cl : DecTab) (total : Nat) : Nat → BitIn → List Nat → Except HankErr (List Nat × BitIn)
  | 0, _, _ => .error (badCode 7)
  | fuel + 1, i, acc =>
    if acc.length = total then .ok (acc.reverse, i)
    else
      match cl.next (badCode 7) i with
      | .error e => .error e
      | .ok (s, i) =>
        if s ≤ 15 then readLens cl total fuel i (s :: acc)
        else if s = 16 ∧ acc = [] then .error (badCode 7)
        else
          let (w, base) := if s = 16 then (2, 3) else if s = 17 then (3, 3) else (7, 11)
          match i.read w with
          | .error e => .error e
          | .ok (r, i) =>
            if total < acc.length + (base + r) then .error (badCode 7)
            else readLens cl total fuel i (List.replicate (base + r) (if s = 16 then acc.headD 0 else 0) ++ acc)

/-- The codes of a dynamic block (R231, R232 detail 7). -/
def readDynamic (i : BitIn) : Except HankErr (DecTab × DecTab × BitIn) := do
  let (hlit, i) ← i.read 5
  if 286 < hlit + 257 then throw (badCode 7)
  let (hdist, i) ← i.read 5
  if 30 < hdist + 1 then throw (badCode 7)
  let (hclen, i) ← i.read 4
  let (clv, i) ← i.read (3 * (hclen + 4))
  let cl := (List.range 19).map fun s =>
    match clOrder.findIdx? (· == s) with
    | some k => if k < hclen + 4 then clv / 2 ^ (3 * k) % 8 else 0
    | none => 0
  if !codeLegal cl then throw (badCode 7)
  let (lens, i) ← readLens (DecTab.of cl) (hlit + 257 + hdist + 1) 400 i []
  let lit := lens.take (hlit + 257)
  let dist := lens.drop (hlit + 257)
  if !codeLegal lit || !(codeLegal dist || dist.all (· == 0)) || lit.getD 256 0 == 0 then throw (badCode 7)
  return (DecTab.of lit, DecTab.of dist, i)

/-- A stored RFC 1951 block (R232 detail 6). -/
def decodeStored (len : Nat) (i : BitIn) (out : Array Nat) : Except HankErr (BitIn × Array Nat) := do
  let i := { i with pos := roundUp i.pos 8 }
  let (n, i) ← i.read 16
  let (m, i) ← i.read 16
  if n + m ≠ 65535 then throw (badCode 6)
  let room := i.data.size - i.pos / 8
  if min n room + out.size > len ∨ room < n then throw lenOverrun
  return ({ i with pos := i.pos + 8 * n },
          (List.range n).foldl (fun o k => o.push (i.data.getD (i.pos / 8 + k) 0)) out)

/-- The RFC 1951 blocks of a Hank block, up to the final one (R213, R232). -/
def decodeBlocks (len : Nat) : Nat → BitIn → Array Nat → Except HankErr (Array Nat)
  | 0, _, _ => .error lenOverrun
  | fuel + 1, i, out => do
    let (fin, i) ← i.read 1
    let (ty, i) ← i.read 2
    if ty = 3 then throw (badCode 5)
    let (i, out) ← (if ty = 0 then decodeStored len i out
      else if ty = 1 then decodeSyms (DecTab.of fixedLit) (DecTab.of fixedDist) len (8 * i.data.size + 1) i out
      else do
        let (lit, dist, i) ← readDynamic i
        decodeSyms lit dist len (8 * i.data.size + 1) i out)
    if fin = 1 then
      if out.size = len ∧ ceilDiv i.pos 8 = i.data.size then return out else throw (badCode 9)
    else decodeBlocks len fuel i out

/-- A block's data decoded to its `len` bytes, or the first failure met (R213, R233). -/
def hankDecode (len : Nat) (data : List Byte) : Except HankErr (List Byte) :=
  match decodeBlocks len (8 * data.length + 1) ⟨(data.map (·.toNat)).toArray, 0⟩ #[] with
  | .ok out => .ok (out.toList.map (BitVec.ofNat 8))
  | .error e => .error e

/-- The table entry of a block passes its first-use check (R232 detail 4). -/
def hankEntryOk (offset compLen : Nat) : Bool :=
  decide (offset % 16 = 0 ∧ 64 ≤ offset ∧ 1 ≤ compLen ∧ offset + compLen ≤ 2 ^ 32)

end Sys2Proof.Machine
end

