-- ==== Sys2Proof/Machine/Creel.lean ====
section
/-! DEFINITION. The Creel's queues and cells: packing, space, visibility, rewinding, poisoning,
reading and the stale timer (R294 to R322). -/

namespace Sys2Proof.Machine

/-! ## Space (R300, R301) -/

/-- Cells that a queue holds (R300). -/
def Queue.cellCount (q : Queue) : Nat :=
  (q.pkts.map fun p => p.cells.length).sum + q.cells.length + (if q.tail.isEmpty then 0 else 1)

/-- The queue holds no byte, visible or not (R319). -/
def Queue.isEmpty (q : Queue) : Bool := q.cellCount == 0

/-- Queue n. -/
def Creel.q (c : Creel) (n : Nat) : Queue := Tab.getD c.queues n {}

/-- Cells in use. -/
def Creel.used (c : Creel) : Nat := (c.queues.map fun e => e.2.cellCount).sum

/-- CRL_FREE.CELLS: free cells, reserves included (R321); lost cells are missing (R483). -/
def Creel.freeCells (c : Creel) : Nat := 32768 - c.used - c.lost

/-- The sum of all reserves (R300). -/
def Cfg.reserved (cfg : Cfg) : Nat := (cfg.queues.map fun e => e.2.reserve).sum

/-- CRL_SHARED_FREE.CELLS: free cells of the shared part (R300). -/
def Creel.sharedFree (cfg : Cfg) (c : Creel) : Nat :=
  32768 - cfg.reserved - (c.queues.map fun e => e.2.cellCount - (cfg.queue e.1).reserve).sum - c.lost

/-- Shared cells that a waiting queue still needs and may hold (R301). -/
def Queue.owed (cfg : Cfg) (n : Nat) (q : Queue) : Nat :=
  match q.waits with
  | w :: _ =>
    if (cfg.queue n).reserve ≤ q.cellCount then min (ceilDiv w.rest.length 64) ((cfg.queue n).limit - q.cellCount) else 0
  | [] => 0

/-- Shared cells that belong to queues that began to wait before queue n's need arose (R301). -/
def Creel.owedBefore (cfg : Cfg) (c : Creel) (n : Nat) : Nat :=
  let mine := match (c.q n).waits with | w :: _ => w.turn | [] => c.waitNext
  (c.queues.map fun e => match e.2.waits with
    | w :: _ => if w.turn < mine then e.2.owed cfg e.1 else 0
    | [] => 0).sum

/-- A producer that needs a cell of the queue now would wait; free shared cells go to the queues that
wait for them first (R301). -/
def Creel.mustWait (cfg : Cfg) (c : Creel) (n : Nat) : Bool :=
  let held := (c.q n).cellCount
  let e := cfg.queue n
  decide (e.limit ≤ held) || (decide (e.reserve ≤ held) && decide (c.sharedFree cfg ≤ c.owedBefore cfg n))

/-- Largest packet in cells (R294). -/
def QueueE.maxCells (e : QueueE) : Nat := if e.maxPkt = 0 then e.limit else e.maxPkt

/-! ## Cell numbers (R297, R299) -/

/-- Numbers of the cells that a queue holds. -/
def Queue.nums (q : Queue) : List Nat :=
  (q.pkts.flatMap fun p => p.cells.map fun x => x.num) ++ (q.cells.map fun x => x.num) ++ (if q.tail.isEmpty then [] else [q.tailNum])

/-- A cell goes back to the free list, behind the free cells of its bank, bank c mod 16 (R299). -/
def Creel.giveBack (c : Creel) (k : Nat) : Creel :=
  let b : Fin 16 := ⟨k % 16, Nat.mod_lt _ (by decide)⟩
  { c with freed := c.freed.set b (c.freed[b] ++ [k]) }

/-- A bank holds a free cell. -/
def Creel.bankFree (c : Creel) (b : Fin 16) : Bool := decide (c.fresh[b] < 2048) || !c.freed[b].isEmpty

/-- The row of a cell is replaced whole: what was wrong with it is gone (R483). -/
def Creel.rewritten (c : Creel) (k : Nat) : Creel :=
  { c with lostRows := c.lostRows.filter fun r => r.1 != k, weakRows := c.weakRows.filter fun r => r != k }

/-- The free list hands out a cell of the next bank that holds one, in rotating bank order; within a bank the
cell that has been free longest, a new engine's in ascending number (R299; the order within a bank is log 42's
DESIGN CHOICE). -/
def Creel.handOut (c : Creel) : Nat × Creel :=
  match ((List.finRange 16).map fun i => c.bankTurn + i).find? fun b => c.bankFree b with
  | none => (0, c)
  | some b =>
    let c1 := { c with bankTurn := b + 1 }
    if c.fresh[b] < 2048 then (b.val + 16 * c.fresh[b], ({ c1 with fresh := c.fresh.set b (c.fresh[b] + 1) } : Creel).rewritten (b.val + 16 * c.fresh[b]))
    else (c.freed[b].headD 0, ({ c1 with freed := c.freed.set b (c.freed[b].drop 1) } : Creel).rewritten (c.freed[b].headD 0))

/-- Cells of the free list take the content of new cells, in order (R297, R299). -/
def Creel.number (c : Creel) (cs : List Cell) : List Cell × Creel :=
  cs.foldl (fun (a : List Cell × Creel) x =>
    let k := a.2.handOut
    (a.1 ++ [{ x with num := k.1 }], k.2)) ([], c)

/-- A queue replaced by its image; the stale timer starts when the queue becomes non-empty (R319). -/
def Creel.put (c : Creel) (now n : Nat) (q' : Queue) : Creel :=
  let q : Queue := { q' with staleFrom := if q'.isEmpty then none else if (c.q n).isEmpty then some now else q'.staleFrom }
  { c with queues := Tab.put c.queues {} n q }

/-- A queue changed; cells that it no longer holds are free (R299). -/
def Creel.upd (c : Creel) (now n : Nat) (f : Queue → Queue) : Creel :=
  let q' := f (c.q n)
  let left := q'.nums
  (((c.q n).nums.filter fun k => !left.contains k).foldl Creel.giveBack c).put now n q'

/-- A wait of the queue's producer begins (R301). -/
def Creel.beginWait (c : Creel) (now n : Nat) (w : CellWait) : Creel :=
  { c.upd now n (fun x => { x with waits := x.waits ++ [{ w with turn := c.waitNext }] }) with waitNext := c.waitNext + 1 }

/-- The queue's longest wait ends. -/
def Creel.stopWait (c : Creel) (now n : Nat) : Creel := c.upd now n fun x => { x with waits := x.waits.drop 1 }

/-- The queue's longest wait goes on with the bytes that are left; the time without a cell starts anew when it was granted one (R302). -/
def Creel.keepWait (c : Creel) (now n : Nat) (rest : List Byte) : Creel :=
  c.upd now n fun x => match x.waits with
    | w :: ws => { x with waits := { w with rest := rest, since := if rest.length < w.rest.length then now else w.since } :: ws }
    | [] => x

/-! ## Packets -/

/-- The open packet of a queue: the last, while it has not committed. -/
def Queue.openPkt (q : Queue) : Option Pkt :=
  match q.pkts.getLast? with
  | some p => if p.committed then none else some p
  | none => none

/-- The last packet replaced. -/
def Queue.setLast (q : Queue) (p : Pkt) : Queue := { q with pkts := q.pkts.dropLast ++ [p] }

/-- The last cell of a packet replaced. -/
def Pkt.setLastCell (p : Pkt) (f : Cell → Cell) : Pkt :=
  match p.cells.getLast? with
  | some x => { p with cells := p.cells.dropLast ++ [f x] }
  | none => p

/-- Full cells of a packet, cells already taken included. -/
def Pkt.fullCells (p : Pkt) : Nat := p.taken + (p.cells.filter fun x => x.data.length == 64).length

/-- The last packet of a queue becomes visible unless it is visible or held (R306, R310). -/
def Creel.show_ (c : Creel) (now n : Nat) : Creel :=
  match (c.q n).pkts.getLast? with
  | some p =>
    if p.visible || p.held then c
    else { c.upd now n (fun q => q.setLast { p with visible := true, visAt := c.visNext, visTime := now })
           with visNext := c.visNext + 1 }
  | none => c

/-- A cut-through packet whose first CUT_CELLS cells are full becomes visible (R310). -/
def Creel.cutThrough (cfg : Cfg) (c : Creel) (now n : Nat) : Creel :=
  let cut := (cfg.queue n).cutCells
  match (c.q n).openPkt with
  | some p => if cut ≠ 0 ∧ cut ≤ p.fullCells then c.show_ now n else c
  | none => c

/-- How an append ended. -/
inductive AppendEnd where
  | all
  /-- A cell is needed and none may be taken: the bytes left (R301). -/
  | wait (rest : List Byte)
  /-- The packet needs more than MAX_PKT cells (R312). -/
  | tooLong
deriving DecidableEq, Repr

/-- Bytes appended to the open packet, or to a new one that is `held` or not (R298, R300, R312). -/
def Creel.appendPkt (cfg : Cfg) (now n : Nat) (held : Bool) (inst : Option Nat) :
    Nat → Creel → List Byte → Creel × AppendEnd
  | 0, c, _ => (c, .all)
  | _ + 1, c, [] => (c, .all)
  | fuel + 1, c, b :: bs =>
    let fresh : Cell := { data := (b :: bs).take 64 }
    match (c.q n).openPkt with
    | none =>
      if c.mustWait cfg n then (c, .wait (b :: bs))
      else
        let k := c.handOut
        let p : Pkt := { cells := [{ fresh with first := true, num := k.1 }], held := held, inst := inst }
        Creel.appendPkt cfg now n held inst fuel
          (k.2.upd now n fun q => { q with pkts := q.pkts ++ [p] }) ((b :: bs).drop 64)
    | some p =>
      let have_ := (p.cells.getLast?.map fun x => x.data.length).getD 64
      if have_ < 64 then
        Creel.appendPkt cfg now n held inst fuel
          (c.upd now n fun q => q.setLast (p.setLastCell fun x => { x with data := x.data ++ (b :: bs).take (64 - have_) }))
          ((b :: bs).drop (64 - have_))
      else if (cfg.queue n).maxCells ≤ p.taken + p.cells.length then (c, .tooLong)
      else if c.mustWait cfg n then (c, .wait (b :: bs))
      else
        let k := c.handOut
        Creel.appendPkt cfg now n held inst fuel
          (k.2.upd now n fun q => q.setLast { p with cells := p.cells ++ [{ fresh with num := k.1 }] }) ((b :: bs).drop 64)

/-- Bytes appended to a STREAM queue: full cells become visible at once (R318). -/
def Creel.appendStream (cfg : Cfg) (now n : Nat) : Nat → Creel → List Byte → Creel × AppendEnd
  | 0, c, _ => (c, .all)
  | _ + 1, c, [] => (c, .all)
  | fuel + 1, c, b :: bs =>
    let t := (c.q n).tail
    if t.isEmpty && c.mustWait cfg n then (c, .wait (b :: bs))
    else
      let t' := t ++ (b :: bs).take (64 - t.length)
      let k := if t.isEmpty then c.handOut else ((c.q n).tailNum, c)
      Creel.appendStream cfg now n fuel
        (k.2.upd now n fun q =>
          if t'.length < 64 then { q with tail := t', tailNum := k.1 }
          else { q with tail := [], tailNum := 0, cells := q.cells ++ [{ data := t', num := k.1 }] })
        ((b :: bs).drop (64 - t.length))

/-- Bytes appended to a queue by its MODE; dropped bytes are counted where R317 says so. -/
def Creel.append (cfg : Cfg) (c : Creel) (now n : Nat) (held : Bool) (bs : List Byte) : Creel × AppendEnd :=
  match (c.q n).drop with
  | .silent => (c, .all)
  | .counted => ({ c with discardCnt := satAdd c.discardCnt bs.length }, .all)
  | .none =>
    if (cfg.queue n).mode = 3 then Creel.appendStream cfg now n (bs.length + 1) c bs
    else
      let r := Creel.appendPkt cfg now n held none (bs.length + 1) c bs
      (r.1.cutThrough cfg now n, r.2)

/-- The open packet ends at its last cell, with the given flags (R306, R311, R312). -/
def Creel.close (c : Creel) (now n : Nat) (poison trunc : Bool) : Creel :=
  match (c.q n).openPkt with
  | some p =>
    let p' := p.setLastCell fun x => { x with last := true, poison := poison, trunc := trunc }
    (c.upd now n fun q => q.setLast { p' with committed := true, held := false }).show_ now n
  | none => c

/-- The last packet of a queue removed; its cells are free. -/
def Creel.dropLast (c : Creel) (now n : Nat) : Creel :=
  c.upd now n fun q => { q with pkts := q.pkts.dropLast }

/-- A stream's partial tail becomes visible with LAST (R318). -/
def Creel.flush (c : Creel) (now n : Nat) : Creel :=
  c.upd now n fun q =>
    if q.tail.isEmpty then q else
      { q with tail := [], tailNum := 0, cells := q.cells ++ [{ data := q.tail, last := true, num := q.tailNum }] }

/-- How further bytes of the producer are treated until its next end or abort. -/
def Creel.setDrop (c : Creel) (now n : Nat) (d : DropMode) : Creel := c.upd now n fun q => { q with drop := d }

/-- The open packet turns bad: rewound when none of its cells was taken, else poisoned (R309,
R311); a stream loses its partial tail (R318). -/
def Creel.bad (cfg : Cfg) (c : Creel) (now n : Nat) : Creel :=
  if (cfg.queue n).mode = 3 then
    if (c.q n).tail.isEmpty then c
    else { c.upd now n (fun q => { q with tail := [], tailNum := 0 }) with rewindCnt := satInc c.rewindCnt }
  else
    match (c.q n).openPkt with
    | some p =>
      if p.taken = 0 then { c.dropLast now n with rewindCnt := satInc c.rewindCnt }
      else { c.close now n true false with poisonCnt := satInc c.poisonCnt }
    | none => c

/-! ## Reading (R310, R313 to R317) -/

/-- The next cell that a consumer may read (R310, R318). -/
def Queue.next? (q : Queue) : Option Cell :=
  match q.cells with
  | x :: _ => some x
  | [] =>
    match q.pkts with
    | p :: _ =>
      if p.visible && !p.held then
        match p.cells with
        | x :: rest => if p.committed || (x.data.length == 64 && !rest.isEmpty) then some x else none
        | [] => none
      else none
    | [] => none

/-- The queue holds a visible cell (R321). -/
def Queue.visible (q : Queue) : Bool :=
  !q.cells.isEmpty || (match q.pkts with | p :: _ => p.visible && !p.held | [] => false)

/-- The next cell is taken and freed: the stale timer restarts (R314, R319). -/
def Creel.take (c : Creel) (now n : Nat) : Creel :=
  c.upd now n fun q =>
    let q' : Queue :=
      match q.cells with
      | _ :: rest => { q with cells := rest }
      | [] =>
        match q.pkts with
        | p :: ps =>
          let rest := p.cells.drop 1
          if p.committed && rest.isEmpty then { q with pkts := ps }
          else { q with pkts := { p with cells := rest, taken := p.taken + 1 } :: ps }
        | [] => q
    { q' with stale := false, staleFrom := some now }

/-- A whole packet is taken from the head, as a dispatcher does (R357). -/
def Creel.takePkt (c : Creel) (now n : Nat) : Creel :=
  c.upd now n fun q => { q with pkts := q.pkts.drop 1, stale := false, staleFrom := some now }

/-- A consumer gives up the rest of the packet that it reads (R317). -/
def Creel.giveUp (c : Creel) (now n : Nat) : Creel :=
  match (c.q n).pkts with
  | p :: ps => c.upd now n fun q => { q with pkts := ps, drop := if p.committed then q.drop else .counted }
  | [] => c

/-- The link word of the next cell cannot be read: the queue is cut there, and its later cells
are lost to the pool (R483). -/
def Creel.cut (c : Creel) (now n : Nat) : Creel :=
  let q := c.q n
  let open_ := q.openPkt.isSome
  { (c.put now n { q with pkts := [], cells := [], tail := [], tailNum := 0, drop := if open_ then .silent else q.drop }).giveBack
      (q.nums.headD 0)
    with lost := c.lost + (q.cellCount - 1) }

/-- Bits [26:16] of a cell's link word (R297): TRUNC, POISON, LAST, FIRST and VALID. -/
def Cell.link (x : Cell) : BitVec 11 :=
  BitVec.ofNat 11 (b2n x.trunc * 1024 + b2n x.poison * 512 + b2n x.last * 256 + b2n x.first * 128 + x.data.length)

/-- A cell's link word: its bits [26:16], and the number of the next cell of its queue in NEXT, zero after the
queue's last (R297; the NEXT of a last cell is log 42's DESIGN CHOICE). -/
def Queue.linkWord (q : Queue) (place : Nat) : Word :=
  let cells := (q.pkts.flatMap fun p => p.cells) ++ q.cells
  let bits := match cells[place]? with | some x => x.link | none => BitVec.ofNat 11 q.tail.length
  BitVec.ofNat 32 (bits.toNat * 65536 + q.nums.getD (place + 1) 0)

/-- The free list: the numbers of the free cells in the order in which they are handed out (R297, R299). -/
def Creel.freeList : Nat → Creel → List Nat
  | 0, _ => []
  | fuel + 1, c => if (List.finRange 16).any c.bankFree then let k := c.handOut; k.1 :: freeList fuel k.2 else []

/-- The link word of a free cell: NEXT is the number of the next cell of the free list, zero for its last (R297; the other bits zero:
log 42's DESIGN CHOICE). -/
def Creel.freeLink (c : Creel) (k : Nat) : Word := BitVec.ofNat 32 (((c.freeList 32768).dropWhile (· != k)).getD 1 0)

/-- The link word of a cell: that of its place in the queue that holds it, else a free cell's (R297). -/
def Creel.linkOf (c : Creel) (k : Nat) : Word :=
  match c.queues.findSome? fun q => (q.2.nums.idxOf? k).map fun place => q.2.linkWord place with
  | some w => w
  | none => c.freeLink k

/-- Number of the cell at a place of a queue, 0 the next to be read. -/
def Creel.numAt (c : Creel) (n place : Nat) : Nat := (c.q n).nums.getD place 0

/-- A cell's 64 bytes, zeros after its valid bytes (R298). -/
def Cell.bytes (x : Cell) : List Byte := slice x.data 0 64

/-! ## Choosing (R313) -/

/-- The bytes of a packet's cells. -/
def Pkt.bytes (p : Pkt) : List Byte := (p.cells.map fun x => x.data).flatten

/-- A head packet: queue, level, stamp and packet. -/
structure Head where
  queue : Nat
  level : Nat
  pkt : Pkt
deriving DecidableEq, Repr

/-- `a` is chosen before `b`: level, then order of visibility, then queue number (R313). -/
def Head.before (a b : Head) : Bool :=
  if a.level ≠ b.level then decide (a.level < b.level)
  else if a.pkt.visAt ≠ b.pkt.visAt then decide (a.pkt.visAt < b.pkt.visAt)
  else decide (a.queue < b.queue)

/-- A head placed in the order of choice. -/
def insertHead (h : Head) : List Head → List Head
  | [] => [h]
  | x :: xs => if x.before h then x :: insertHead h xs else h :: x :: xs

/-- The committed, visible head packets of the queues with the given mode and consumer, in the
order of choice. -/
def Creel.heads (cfg : Cfg) (c : Creel) (mode consumer : Nat) : List Head :=
  c.queues.foldl (fun acc e =>
    let qe := cfg.queue e.1
    if qe.mode = mode ∧ qe.consumer = consumer then
      match e.2.pkts with
      | p :: _ => if p.visible && !p.held && p.committed then insertHead ⟨e.1, qe.level, p⟩ acc else acc
      | [] => acc
    else acc) []

end Sys2Proof.Machine
end

