-- ==== Sys2Proof/Machine/Knots.lean ====
section
/-! DEFINITION. The knot table: operations held by its banks, their application, and the waits of
job descriptors (R355, R359 to R363). -/

namespace Sys2Proof.Machine

/-- Knot k. -/
def Engine.knot (e : Engine) (k : Nat) : Knot := Tab.getD e.knots.table k {}

/-- Knot k replaced. -/
def Engine.setKnot (e : Engine) (k : Nat) (v : Knot) : Engine :=
  { e with knots := { e.knots with table := Tab.put e.knots.table {} k v } }

/-- The bank of a knot (R362). -/
def knotBank (k : Nat) : Fin 16 := ⟨k % 16, Nat.mod_lt _ (by decide)⟩

/-- The dispatch clock in which an issuer's operation reaches its bank: a later one when the issuer has issued in this one
(R362; how dispatch clocks are told apart is log 65's DESIGN CHOICE). -/
def Knots.issueClock (k : Knots) (who : Issuer) : Knots :=
  if k.issued.contains who then { k with clock := k.clock + 1, issued := [who], applied := [] }
  else { k with issued := who :: k.issued }

/-- The dispatch clock in which a bank applies an operation: a later one when the bank has applied one in this
one (R362; log 65). -/
def Knots.applyClock (k : Knots) (b : Nat) : Knots :=
  if k.applied.contains b then { k with clock := k.clock + 1, issued := [], applied := [b] }
  else { k with applied := b :: k.applied }

/-- A control clock has passed, and dispatch clocks with it. -/
def Knots.nextClock (k : Knots) : Knots := { k with clock := k.clock + 1, issued := [], applied := [] }

/-- An operation reaches its bank; its age is the dispatch clock (R362). -/
def Engine.knotIssue (e : Engine) (who : Issuer) (k : Nat) (verb : KnotVerb) (v : Word) : Engine :=
  let b := knotBank k
  let ks := e.knots.issueClock who
  { e with knots := { ks with banks := ks.banks.set b (ks.banks[b] ++ [⟨ks.clock, who, k % 65536, verb, v⟩]) } }

/-- Order of issuers whose operations reach a bank together (R362). -/
def Issuer.rank : Issuer → Nat
  | .tick => 0
  | .doffer => 1
  | .spindle n => 2 + n
  | .reg => 64

/-- `a` is older than `b`: by dispatch clock, then by issuer (R362). -/
def KnotOp.older (a b : KnotOp) : Bool :=
  decide (a.at_ < b.at_) || (a.at_ == b.at_ && decide (a.issuer.rank < b.issuer.rank))

/-- The oldest operation of a bank, and the others. -/
def pickOldest : List KnotOp → Option (KnotOp × List KnotOp)
  | [] => none
  | x :: xs =>
    match pickOldest xs with
    | none => some (x, [])
    | some (o, rest) => if o.older x then some (o, x :: rest) else some (x, xs)

/-- A knot after an operation, and whether an ADD saturated (R361). -/
def Knot.apply (k : Knot) (verb : KnotVerb) (v : Word) : Knot × Bool :=
  match verb with
  | .add =>
    let s := k.count.toNat + v.toNat
    ({ k with count := w32 (min s 0xFFFFFFFF) }, decide (0xFFFFFFFF < s))
  | .set => ({ k with count := v }, false)
  | .setThresh => ({ k with thresh := v }, false)

/-- An operation applied to the table, with KNOT_SAT (R361). -/
def Engine.applyKnot (e : Engine) (k : Nat) (verb : KnotVerb) (v : Word) : Engine :=
  let r := (e.knot k).apply verb v
  let e1 := e.setKnot k r.1
  if r.2 then { e1 with knots := { e1.knots with satCnt := satInc e1.knots.satCnt } }.raise (.knotSat k) else e1

/-- A knot whose row is uncorrectable (R361, R483). -/
def Engine.repairKnot (e : Engine) (k : Nat) : Engine :=
  (e.setKnot k { count := 0, thresh := 0xFFFFFFFF }).eccEntry 6 (k % 16) (k / 16) true

/-- A wait entry holds now (R355). -/
def Engine.waitHolds (e : Engine) (w : KnotWait) : Bool :=
  let k := e.knot w.knot
  if w.mode = 0 then decide (w.value ≤ k.count.toNat) else decide (k.thresh.toNat ≤ k.count.toNat)

/-- The wait entries of a descriptor that hold now or held before (R359). -/
def Engine.latchedNow (e : Engine) (p : Pkt) : List Nat :=
  let ws := (Desc.parse p.bytes).waits
  (List.range ws.length).filter fun i =>
    p.latched.contains i || (match ws[i]? with | some w => e.waitHolds w | none => false)

/-- The waits of every head descriptor are evaluated, and those that hold stay satisfied (R359,
R363). -/
def Engine.relatch (e : Engine) : Engine :=
  let cfg := e.conf
  let f (q : Nat × Queue) : Nat × Queue :=
    if (cfg.queue q.1).mode = 1 then
      match q.2.pkts with
      | p :: ps =>
        if p.visible && p.committed && descOk3 p.bytes then (q.1, { q.2 with pkts := { p with latched := e.latchedNow p } :: ps })
        else q
      | [] => q
    else q
  { e with creel := { e.creel with queues := e.creel.queues.map f } }

end Sys2Proof.Machine
end

