-- ==== Sys2Proof/Machine/Place.lean ====
section
/-! DEFINITION. Placement: levels, pools, parts of tensors, placing, growing and freeing (R271 to
R292). -/

namespace Sys2Proof.Machine

/-- A place that holds bytes. -/
inductive Loc where
  | store (n : Sp) (a : Nat)
  | bobbin (a : Nat)
  | mem (a : Nat)
deriving DecidableEq, Repr

/-- Memory code, unit and row of a place, when it lies in an SRAM (R483). -/
def Loc.sram : Loc → Option RowAt
  | .store n a => some (1, n.val, a / 64)
  | .bobbin a => some (2, a / 524288, a % 524288 / 64)
  | .mem _ => none

/-- A place is the first byte of a row. -/
def Loc.rowStart : Loc → Bool
  | .store _ a => a % 64 == 0
  | .bobbin a => a % 64 == 0
  | .mem _ => false

/-- One byte at a place. -/
def Engine.byteAt (e : Engine) : Loc → Byte
  | .store n a => readByte (e.sp n).store a
  | .bobbin a => readByte e.bobbin a
  | .mem a => readByte e.mem a

/-- One byte written at a place. -/
def Engine.putByte (e : Engine) (l : Loc) (b : Byte) : Engine :=
  match l with
  | .store n a => e.modSp n fun s => { s with store := Tab.put s.store 0 a b }
  | .bobbin a => { e with bobbin := Tab.put e.bobbin 0 a b }
  | .mem a => { e with mem := Tab.put e.mem 0 a b }

/-! ## Levels and pools (R274 to R277) -/

/-- Levels: 0 spindle store, 1 Bobbin store, 2 memory (R290). -/
def PlaceE.levels (p : PlaceE) : List Nat :=
  match p.hint with
  | 0 => if p.owner = 0xFF then [1, 2] else [0, 1, 2]
  | 1 => [0, 2]
  | 2 => [1, 2]
  | _ => [2]

/-- The level after one in a tensor's order. -/
def PlaceE.nextLevel (p : PlaceE) (lv : Nat) : Nat := (p.levels.find? (fun x => decide (lv < x))).getD 2

/-- Placement entry of a tensor. -/
def Cfg.place (c : Cfg) (t : Nat) : PlaceE := Tab.getD c.placement t {}

/-- Tensor t. -/
def Engine.tensor (e : Engine) (t : Nat) : Tensor := Tab.getD e.tensors t {}

/-- Placement of a tensor: the entry that jobs which hold it open have read, else the bound image's (R398). -/
def Engine.placeE (e : Engine) (t : Nat) : PlaceE := (e.tensor t).entry.getD (e.conf.place t)

/-- Tensor t replaced by its image. -/
def Engine.modTensor (e : Engine) (t : Nat) (f : Tensor → Tensor) : Engine :=
  { e with tensors := Tab.put e.tensors {} t (f (e.tensor t)) }

/-- WORK_BANKS of a spindle (R277). -/
def Cfg.workBanks (c : Cfg) (n : Nat) : Nat := (Tab.getD c.spindles n {}).workBanks

/-- Granules of a spindle's pool (R277). -/
def Cfg.poolSize (c : Cfg) (n : Nat) : Nat := 8 * (11 - c.workBanks n)

/-- A granule of a run is g. -/
def inRun (g : Nat) (r : Option (Nat × Nat)) : Bool :=
  match r with
  | some (a, l) => decide (a ≤ g ∧ g < a + l)
  | none => false

/-- Granule g of spindle n's pool is held by a tensor. -/
def Engine.storeHeld (e : Engine) (n g : Nat) : Bool :=
  e.tensors.any fun (t, x) => (x.entry.getD (e.conf.place t)).owner == n && inRun g x.sPart

/-- Granule g of the Bobbin store is held by a tensor. -/
def Engine.bobbinHeld (e : Engine) (g : Nat) : Bool := e.tensors.any fun (_, x) => inRun g x.bPart

/-- Granule g of the Bobbin store lies in a POOL bank of the client (R277): 128 granules a bank. -/
def Cfg.inBobbinPool (c : Cfg) (client g : Nat) : Bool :=
  let b := c.bank (g / 128)
  decide (g < 2048) && b.mode == 2 && b.client == client

/-- Granule g lies in the pool that a tensor uses at a level (R277). -/
def Engine.inPool (e : Engine) (p : PlaceE) (lv g : Nat) : Bool :=
  if lv = 0 then decide (g < e.conf.poolSize p.owner) else e.conf.inBobbinPool p.client g

/-- Granule g is free in the pool that a tensor uses at a level. -/
def Engine.granuleFree (e : Engine) (p : PlaceE) (lv g : Nat) : Bool :=
  e.inPool p lv g && !(if lv = 0 then e.storeHeld p.owner g else e.bobbinHeld g)

/-- `n` granules from g on are free. -/
def Engine.runFree (e : Engine) (p : PlaceE) (lv g n : Nat) : Bool := (List.range n).all fun i => e.granuleFree p lv (g + i)

/-- The lowest-addressed run of `n` free granules at a level (R278); one of no granule stands at the pool's first
(DEDUCED, log 90). -/
def Engine.findRun (e : Engine) (p : PlaceE) (lv n : Nat) : Option Nat :=
  (List.range 2048).find? fun g => e.inPool p lv g && e.runFree p lv g n

/-- SPN_POOL_FREE.GRANULES (R292). -/
def Engine.poolFree (e : Engine) (n : Nat) : Nat :=
  ((List.range (e.conf.poolSize n)).filter fun g => !e.storeHeld n g).length

/-! ## Where an offset rests (R281) -/

/-- End of the on-chip parts. -/
def Tensor.onChip (x : Tensor) : Nat := 4096 * ((x.sPart.map (·.2)).getD 0 + (x.bPart.map (·.2)).getD 0)

/-- End of the spindle part. -/
def Tensor.splitS (x : Tensor) : Nat := 4096 * (x.sPart.map (·.2)).getD 0

/-- Level at which an offset rests. -/
def Tensor.levelOf (x : Tensor) (off : Nat) : Nat :=
  if off < x.splitS then 0 else if off < x.onChip then 1 else 2

/-- The place of an offset of a tensor (R281). -/
def Engine.tensorLoc (e : Engine) (t off : Nat) : Loc :=
  let p := e.placeE t
  let x := e.tensor t
  match x.levelOf off with
  | 0 => .store (spOf p.owner) (4096 * (x.sPart.map (·.1)).getD 0 + off)
  | 1 => .bobbin (4096 * (x.bPart.map (·.1)).getD 0 + (off - x.splitS))
  | _ => .mem (p.homeAddr + off)

/-- The place of an address of a job. -/
def Engine.loc (e : Engine) : Addr → Loc
  | .mem a => .mem a
  | .bobbin a => .bobbin a
  | .placed t o => e.tensorLoc t o
  | .bad => .mem 0

/-- `n` bytes at an address. -/
def Engine.readAt (e : Engine) (a : Addr) (n : Nat) : List Byte := (List.range n).map fun i => e.byteAt (e.loc (a.plus i))

/-- A little-endian field at an address. -/
def Engine.natAt (e : Engine) (a : Addr) (n : Nat) : Nat := leNat (e.readAt a n)

/-- Bytes put at an address, each at its place. -/
def Engine.putAll (e : Engine) (a : Addr) : List Byte → Engine
  | [] => e
  | b :: bs => (e.putByte (e.loc a) b).putAll (a.plus 1) bs

/-- The rows of the stores that a run of bytes touches, or those that it covers whole. -/
def Engine.sramRows (e : Engine) (a : Addr) (n : Nat) (whole : Bool) : List RowAt :=
  (List.range n).filterMap fun i =>
    let l := e.loc (a.plus i)
    if if whole then l.rowStart && decide (i + 64 ≤ n) else l.rowStart || i == 0 then l.sram else none

/-- No row is known to have an error. -/
def Scrub.clean (s : Scrub) : Bool := s.lost.isEmpty && s.weak.isEmpty

/-- Bytes written at an address; a row that the write covers whole holds no error after it (R483). -/
def Engine.writeAt (e : Engine) (a : Addr) (bs : List Byte) : Engine :=
  let e1 := e.putAll a bs
  if e.scrub.clean then e1
  else let rows := e.sramRows a bs.length true; { e1 with scrub := e1.scrub.rewritten fun r => rows.contains r }

/-- The check of the rows of the stores that a read takes (R482, R483). -/
def Engine.readSram (e : Engine) (a : Addr) (n : Nat) (found : Ecc) : Engine × Bool :=
  if e.scrub.clean && found == .ok then (e, false) else e.readRows (e.sramRows a n false) found false

/-- The lines of 64 bytes in memory that a run of bytes touches (R421). -/
def Engine.memLines (e : Engine) (a : Addr) (n : Nat) : List Nat :=
  ((List.range n).foldl (fun acc i =>
    match e.loc (a.plus i) with
    | .mem x => if acc.head? = some (x / 64 * 64) then acc else (x / 64 * 64) :: acc
    | _ => acc) []).reverse

/-- A rebinding has passed its boundary and affects the bank, while the spindle is unaffected (R399). -/
def Engine.bankAway (e : Engine) (n : Sp) (b : Nat) : Bool :=
  match e.act with
  | some a => (match a.stage with | .draining _ => a.affected.banks.contains b && !a.affected.spindles.contains n.val | _ => false)
  | none => false

/-- Place faults of one byte address that a job of spindle n uses: PLACE_ADDR, PLACE_OWNER and,
for a read, PLACE_LOST (R271, R272, R275, R287, R388). -/
def Engine.placeFaultAt (e : Engine) (n : Sp) (write : Bool) : Addr → Option (Nat × Nat)
  | .mem _ => none
  | .bad => some (0x11, 1)
  | .bobbin a =>
    let b := e.conf.bank (a / 524288)
    if b.mode = 1 ∧ b.client = e.conf.clientOf n ∧ !e.bankAway n (a / 524288) then none else some (0x11, 2)
  | .placed t _ =>
    let p := e.placeE t
    if p.sizeMax = 0 then some (0x11, 1)
    else if p.owner ≠ 0xFF ∧ p.owner ≠ n.val then some (0x12, 0)
    else if !write && (e.tensor t).lost then some (0x13, 0)
    else none

/-- First addresses of the pieces of a span, one in each Bobbin bank that it touches (R272). -/
def spanStarts (a : Addr) (len : Nat) : List Addr :=
  match a with
  | .bobbin x => (List.range ((x + len - 1) / 524288 - x / 524288)).foldl (fun acc i => acc ++ [.bobbin ((x / 524288 + 1 + i) * 524288)]) [a]
  | _ => [a, a.plus (len - 1)]

/-- Place faults of a span of bytes, the first that a byte of it meets. -/
def Engine.placeFault (e : Engine) (n : Sp) (write : Bool) (a : Addr) (len : Nat) : Option (Nat × Nat) :=
  (spanStarts a len).findSome? fun b => e.placeFaultAt n write b

/-! ## Placing and growing (R278 to R283) -/

/-- SPILL with its record (R290). -/
def Engine.spill (e : Engine) (n : Sp) (tensor reason from_ to_ at_ : Nat) (tag : Word) : Engine :=
  let e1 := e.telEntry 2 (leBytes 2 tensor ++ leBytes 1 reason ++ leBytes 1 n.val ++ leBytes 1 from_ ++ leBytes 1 to_ ++
    leBytes 2 0 ++ leBytes 4 at_ ++ leBytes 4 tag.toNat)
  (e1.modSp n fun s => { s with cnt := { s.cnt with spill := satInc s.cnt.spill } }).raise (.spill n.val reason)

/-- The level and run that R278's procedure finds for `need` granules. -/
def Engine.choosePlace (e : Engine) (p : PlaceE) (need : Nat) : List Nat → Nat × Option (Nat × Nat)
  | [] => (2, none)
  | lv :: rest =>
    if lv = 2 then (2, none)
    else
      match e.findRun p lv need with
      | some g => (lv, some (g, need))
      | none => e.choosePlace p need rest

/-- A tensor placed for a job of spindle n; second result: SPILL was raised (R278). -/
def Engine.placeTensor (e : Engine) (n : Sp) (tag : Word) (inst : Option Nat) (t : Nat) : Engine × Bool :=
  let p := e.placeE t
  let x := e.tensor t
  let need := ceilDiv (max p.reserve x.lastLen) 4096
  let (lv, run) := e.choosePlace p need p.levels
  let e1 := e.modTensor t fun x =>
    { x with placed := true, lost := false, high := 0, inst := inst,
             sPart := if lv = 0 then run else none, bPart := if lv = 1 then run else none }
  let first := p.levels.headD 2
  if first = lv then (e1, false) else (e1.spill n t 2 first lv 0 tag, true)

/-- One repetition of steps 1 and 2 of R282; second result: SPILL was raised. -/
def Engine.growOnce (e : Engine) (n : Sp) (tag : Word) (t : Nat) : Engine × Bool :=
  let p := e.placeE t
  let x := e.tensor t
  let g := max 1 (ceilDiv p.reserve 16384)
  let lv := if x.bPart.isSome then 1 else 0
  let part := if lv = 1 then x.bPart else x.sPart
  match part with
  | none => (e, false)
  | some (a, l) =>
    let more := ((List.range g).find? fun i => !e.granuleFree p lv (a + l + i)).getD g
    if 0 < more then
      (e.modTensor t fun x => if lv = 1 then { x with bPart := some (a, l + more) } else { x with sPart := some (a, l + more) }, false)
    else
      let at_ := x.onChip
      let nx := p.nextLevel lv
      let run := if nx = 1 then e.findRun p 1 g else none
      let to_ := if run.isSome then 1 else 2
      (match run with
       | some s => (e.modTensor t fun x => { x with bPart := some (s, g) }).spill n t 1 lv to_ at_ tag
       | none => (e.modTensor t fun x => { x with toHome := true }).spill n t 1 lv 2 at_ tag, true)

/-- A tensor continues at its home beyond its parts: it has no on-chip part, or has spilled to
memory. -/
def Engine.homeBound (e : Engine) (t : Nat) : Bool :=
  let x := e.tensor t
  x.toHome || (x.sPart.isNone && x.bPart.isNone)

/-- A write of a placed tensor up to `upTo` is covered: it lies in the on-chip parts, or the tensor's last
part has given way to its home. -/
def Engine.covered (e : Engine) (t upTo : Nat) : Bool :=
  let x := e.tensor t
  x.placed && (e.homeBound t || decide (upTo ≤ x.onChip))

/-- Growth repeated until the write is covered or goes to the home (R282); second result:
SPILL was raised. -/
def Engine.grow (e : Engine) (n : Sp) (tag : Word) (t upTo : Nat) : Nat → Bool → Engine × Bool
  | 0, sp => (e, sp)
  | fuel + 1, sp =>
    if e.homeBound t ∨ upTo ≤ (e.tensor t).onChip then (e, sp)
    else
      let r := e.growOnce n tag t
      r.1.grow n tag t upTo fuel (sp || r.2)

/-! ## Freeing (R285 to R287) -/

/-- A tensor is freed: its granules are released, and it is unplaced (R285). -/
def Engine.freeNow (e : Engine) (t : Nat) : Engine :=
  e.modTensor t fun x => { lastLen := if x.placed || decide (0 < x.high) then x.high else x.lastLen, lost := x.lost }

/-- On-chip parts of the tensors that satisfy `p` are discarded, and the tensors are LOST (R287). -/
def Engine.loseWhere (e : Engine) (p : Nat → Tensor → Bool) : Engine :=
  let lose (x : Tensor) : Tensor := { lastLen := x.lastLen, high := x.high, entry := x.entry, freeWaits := x.freeWaits, lost := true }
  { e with tensors := e.tensors.map fun k => if p k.1 k.2 then (k.1, lose k.2) else k }

/-- A tensor rests in part in the pool of spindle n. -/
def Engine.restsOn (e : Engine) (n : Sp) (t : Nat) (x : Tensor) : Bool :=
  (x.entry.getD (e.conf.place t)).owner == n.val && x.sPart.isSome

end Sys2Proof.Machine
end

