-- ==== Sys2Proof/Machine/Jobs.lean ====
section
/-! DEFINITION. Started jobs: finding them, their transactions and accesses, the end of a job and
the duties that come before its record (R14, R70, R119, R204, R259, R282, R366, R373, R375). -/

namespace Sys2Proof.Machine

/-! ## Purposes of accesses -/

/-- Purposes of a job's accesses: kinds below 32 are reads, kinds from 32 on are writes. -/
def pHeader (o : Opnd) : Nat × Nat := (match o with | .a => 0 | .b => 1, 0)
def pFold (o : Opnd) : Nat × Nat := (match o with | .a => 2 | .b => 3, 0)
def pEntry (o : Opnd) (t : Nat) : Nat × Nat := (match o with | .a => 4 | .b => 5, t)
def pPayload (o : Opnd) (t : Nat) : Nat × Nat := (match o with | .a => 6 | .b => 7, t)
def pPtrs (o : Opnd) : Nat × Nat := (match o with | .a => 8 | .b => 9, 0)
def pCarder (i : Nat) : Nat × Nat := (10, i)
def pSlots : Nat × Nat := (11, 0)
def pBoxes : Nat × Nat := (12, 0)
def pHankHdr : Nat × Nat := (13, 0)
def pHankEntry (i : Nat) : Nat × Nat := (14, i)
def pHankData (i : Nat) : Nat × Nat := (15, i)
def pHalf (i : Nat) : Nat × Nat := (16, i)
def pStage (t : Nat) : Nat × Nat := (17, t)
def wStream : Nat × Nat := (32, 0)
def wStats : Nat × Nat := (33, 0)
def wHeader : Nat × Nat := (34, 0)
def wSlot : Nat × Nat := (35, 0)
def wHalf (i : Nat) : Nat × Nat := (36, i)
def wHank : Nat × Nat := (37, 0)
def wHankHdr : Nat × Nat := (38, 0)
def wRecord (i : Nat) : Nat × Nat := (39, i)

/-- Bytes of a flexible claim that go to scratch space, and their reading back (R289). -/
def wScratch (kind : Nat) : Nat × Nat := (40, kind)

/-- Reading a scratch place back. -/
def pScratch (kind : Nat) : Nat × Nat := (22, kind)

/-! ## Finding jobs -/

/-- The started job at place j of spindle n. -/
def Engine.job? (e : Engine) (n : Sp) (j : Nat) : Option Job := (e.sp n).jobs[j]?

/-- The started job of spindle n with a number. -/
def Engine.jobId? (e : Engine) (n : Sp) (id : Nat) : Option Job := (e.sp n).jobs.find? fun x => x.id == id

/-- A job has not ended. -/
def Engine.jobLive (e : Engine) (n : Sp) (id : Nat) : Bool := match e.jobId? n id with | some x => x.ended.isNone | none => false

/-- The job with a number replaced by its image. -/
def Engine.modJob (e : Engine) (n : Sp) (id : Nat) (f : Job → Job) : Engine :=
  e.modSp n fun s => { s with jobs := s.jobs.map fun x => if x.id = id then f x else x }

/-- A job that does its work now: it runs, has not ended, its set has started and its fixed claim
is granted (R200, R288, R333). -/
def Job.acts (x : Job) : Bool := x.run == .running && x.ended.isNone && !x.lockWait && x.claim.isNone

/-- What a command of a working job of spindle n does; without such a job it does not come
about. -/
def Engine.withJob (e : Engine) (n : Sp) (j : Nat) (f : Job → Engine) : Engine :=
  match e.job? n j with
  | some x => if e.live && x.acts then f x else e
  | none => e

/-- The tensors that a descriptor names: the job holds them open until it ends (R286). -/
def Desc.tensors (d : Desc) : List Nat :=
  let exp (x : Option ExpBlk) : List Nat := match x with | some b => [b.streamAddr, b.foldAddr] | none => []
  let addrs := exp d.expA ++ exp d.expB ++ (if d.srcKind = 1 then [d.srcAddr] else []) ++
    (match d.draft with | some b => [d.dstAddr, b.statsAddr] ++ (if b.group then [b.groupAddr] else []) | none => []) ++
    (match d.mtch with | some b => if b.ringSteal then [b.stealArea] else [] | none => []) ++
    (match d.crop with | some b => [b.boxAddr] | none => []) ++
    (match d.hank with | some b => [b.srcAddr, b.dstAddr] | none => [])
  addrs.filterMap fun a => match Addr.parse a with | .placed t _ => some t | _ => none

/-- A started job that has not ended holds the tensor open (R286). -/
def Engine.heldOpen (e : Engine) (t : Nat) : Bool :=
  e.spindles.toList.any fun s => s.jobs.any fun x => x.ended.isNone && x.desc.tensors.contains t

/-- The LIFE of a tensor ends: it is freed, or its free waits while a job holds it open; a LOST tensor's LAST_LEN is
recorded too (R285, R286). -/
def Engine.endLife (e : Engine) (t : Nat) : Engine :=
  if !(e.tensor t).placed && (e.tensor t).high == 0 then e
  else if e.heldOpen t then e.modTensor t fun x => { x with freeWaits := true }
  else e.freeNow t

/-! ## Transactions (R14, R422) -/

/-- Class and input of the instance that a transaction's job belongs to (R345). -/
def Engine.txnRank (e : Engine) (n : Sp) (t : Txn) : Option (Nat × Nat) :=
  match e.jobId? n t.job with
  | some x => x.inst.map fun i => ((e.conf.tick i).cls, i)
  | none => none

/-- Tier of R423 of a spindle's request: 2, 3 by class, 4 below its client's share, 5. -/
def Engine.txnTier (e : Engine) (n : Sp) (t : Txn) : Nat :=
  match e.txnRank n t with
  | some (c, _) => 2 + c
  | none => if e.belowShare (homePort n) (e.conf.clientOf n.val) then 6 else 7

/-- The waiting transaction of least tier, the oldest of them. -/
def firstTier (tier : Txn → Nat) : List Txn → Option Txn
  | [] => none
  | t :: ts =>
    match firstTier tier ts with
    | none => if t.slot.isNone then some t else none
    | some u => if t.slot.isNone && decide (tier t ≤ tier u) then some t else some u

/-- A transaction takes a slot at its place in the list. -/
def giveSlot (now i : Nat) (w : Txn) : List Txn → List Txn
  | [] => []
  | t :: ts => if t = w then { t with slot := some i, issued := now } :: ts else t :: giveSlot now i w ts

/-- Waiting transactions take the lowest free slots, those of the first tier first (R14, R423). -/
def assignSlots (now : Nat) (tier : Txn → Nat) : Nat → List Txn → List Txn
  | 0, ts => ts
  | fuel + 1, ts =>
    match (List.range 128).find? fun i => !ts.any fun t => t.slot == some i, firstTier tier ts with
    | some i, some w => assignSlots now tier fuel (giveSlot now i w ts)
    | _, _ => ts

/-- Transactions are issued while a slot is free (R14); none while a warm reset quiesces the engine (R508).  The one address per NoC clock
of R423 is timing (DESIGN CHOICE, log 140). -/
def Engine.pump (e : Engine) (n : Sp) : Engine :=
  if e.quiescing then e else e.modSp n fun s => { s with txns := assignSlots e.now (e.txnTier n) 128 s.txns }

/-- Transactions of a job for the given lines. -/
def Engine.issue (e : Engine) (n : Sp) (id : Nat) (write : Bool) (purpose : Nat × Nat) (lines : List Nat) : Engine :=
  if lines.isEmpty then e
  else (e.modSp n fun s =>
    { s with txns := s.txns ++ lines.map fun a => ({ job := id, write := write, addr := a, purpose := purpose } : Txn) }).pump n

/-- A job has a transaction of a purpose that is not answered. -/
def Spindle.waits (s : Spindle) (id : Nat) (write : Bool) (kind : Nat) : Bool :=
  s.txns.any fun t => t.job == id && t.write == write && t.purpose.1 == kind && !t.discarded

/-- A job has an unanswered transaction of exactly this purpose. -/
def Spindle.waitsFor (s : Spindle) (id : Nat) (purpose : Nat × Nat) : Bool :=
  s.txns.any fun t => t.job == id && t.purpose == purpose && !t.discarded

/-- A job has a write that is not acknowledged, or is held for a placement decision. -/
def Engine.writesOut (e : Engine) (n : Sp) (x : Job) (kinds : List Nat) : Bool :=
  (kinds.any fun k => (e.sp n).waits x.id true k) || x.held.any fun h => kinds.contains h.purpose.1

/-! ## Writes -/

/-- A tensor part lies below its first choice at an offset (R292). -/
def Engine.belowFirst (e : Engine) (a : Addr) : Bool :=
  match a with
  | .placed t off => (e.tensor t).placed && decide (((e.placeE t).levels.headD 2) < (e.tensor t).levelOf off)
  | _ => false

/-- Bytes of a write go to their place: the tensor's length and SPN_SPILL_KIB follow (R285, R292). -/
def Engine.putBytes (e : Engine) (n : Sp) (a : Addr) (data : List Byte) : Engine :=
  let below := ((List.range data.length).filter fun i => e.belowFirst (a.plus i)).length
  let e1 := e.writeAt a data
  let e2 := match a with
    | .placed t off => e1.modTensor t fun x => { x with high := max x.high (off + data.length) }
    | _ => e1
  e2.modSp n fun s => { s with cnt := { s.cnt with spillKib := satAdd s.cnt.spillKib (ceilDiv below 1024) } }

/-- Bytes of a job go to their place: BYTES_OUT and the transactions follow.  The MAGIC that a header write writes
again counts once (R364). -/
def Engine.putJob (e : Engine) (n : Sp) (id : Nat) (purpose : Nat × Nat) (a : Addr) (data : List Byte) : Engine :=
  let lines := e.memLines a data.length
  let again := if purpose = wHeader ∨ purpose = wHankHdr then 4 else 0
  ((e.putBytes n a data).modJob n id fun x => { x with bytesOut := x.bytesOut + data.length - again }).issue n id true purpose lines

/-- A tensor is made ready for a write up to `upTo` at once: it is placed when it is not, and grown until the write is covered
(R278, R282); second result: SPILL was raised. -/
def Engine.makeRoom (e : Engine) (n : Sp) (tag : Word) (inst : Option Nat) (t upTo : Nat) : Engine × Bool :=
  let p1 := if (e.tensor t).placed then (e, false) else e.placeTensor n tag inst t
  p1.1.grow n tag t upTo (upTo + 2) p1.2

/-- Fault of a write of a span: place faults, and for a placed tensor SIZE_MAX (R271 to R287, R283). -/
def Engine.writeFault (e : Engine) (n : Sp) (a : Addr) (len : Nat) : Option (Nat × Nat) :=
  match e.placeFault n true a len with
  | some f => some f
  | none =>
    match a with
    | .placed t off => if (e.placeE t).sizeMax < off + len then some (0x16, 2) else none
    | _ => none

/-- An access of a spindle looks a tensor's parts up in its translation cache; a miss waits for its fill (R284). -/
def Engine.lookUp (e : Engine) (n : Sp) (t : Nat) : Engine :=
  if (e.sp n).xlate.contains t || (e.sp n).xlateWait.contains t then e
  else e.modSp n fun s => { s with xlateWait := s.xlateWait ++ [t] }

/-- Held writes of a job to a tensor go on in order: a write waits for the translation and, while the tensor does not cover it, for
a placement decision (R278, R279, R282, R284). -/
def Engine.pushHeld (e : Engine) (n : Sp) (id t : Nat) : Nat → Engine
  | 0 => e
  | fuel + 1 =>
    match e.jobId? n id with
    | none => e
    | some x =>
      match x.held.find? fun h => h.tensor == t with
      | none => e
      | some h =>
        let upTo := h.offset + h.data.length
        if (e.sp n).xlateWait.contains t then e
        else if e.covered t upTo then
          ((e.modJob n id fun x => { x with held := x.held.erase h }).putJob n id h.purpose (.placed t h.offset) h.data).pushHeld n id t fuel
        else if e.placeReqs.any fun r => r.spindle == n.val && r.job == id && r.tensor == t && r.upTo.isSome then e
        else { e with placeReqs := e.placeReqs ++ [{ spindle := n.val, job := id, tensor := t, upTo := some upTo, at_ := e.now }] }

/-- The held writes of a job to a tensor go on. -/
def Engine.releaseHeld (e : Engine) (n : Sp) (id t : Nat) : Engine :=
  match e.jobId? n id with
  | some x => e.pushHeld n id t (x.held.length + 1)
  | none => e

/-- The translation of an address is at hand, and no staged copy is awaited (R280, R284). -/
def Engine.translated (e : Engine) (n : Sp) (a : Addr) : Bool :=
  match a with
  | .placed t _ =>
    !(e.sp n).xlateWait.contains t && !(e.tensor t).staging && (!(e.placeE t).stage || (e.tensor t).placed)
  | _ => true

/-- An access to an address: one to a placed tensor looks up its parts (R284). -/
def Engine.lookAt (e : Engine) (n : Sp) (a : Addr) : Engine := match a with | .placed t _ => e.lookUp n t | _ => e

/-- A write of a job to an address that has been checked, a duty of a job that has ended among them: at a placed tensor it waits for
its translation and a placement decision (R278, R279, R284). -/
def Engine.putDuty (e : Engine) (n : Sp) (id : Nat) (purpose : Nat × Nat) (a : Addr) (data : List Byte) : Engine :=
  match a with
  | .placed t off => ((e.lookUp n t).modJob n id fun x => { x with held := x.held ++ [⟨t, off, data, purpose⟩] }).releaseHeld n id t
  | _ => e.putJob n id purpose a data

/-- The writes that an ended job still holds are made at once, with room for them: when the engine takes the tensors' places away, at a
rebinding and at the loss of a disabled spindle's store, no duty is left waiting (DESIGN CHOICE, log 96). -/
def Engine.flushHeld (e : Engine) (n : Sp) (id : Nat) : Engine :=
  match e.jobId? n id with
  | none => e
  | some x => x.held.foldl (fun e h =>
      let r := e.makeRoom n x.desc.tag x.inst h.tensor (h.offset + h.data.length)
      let e1 := if r.2 then r.1.modJob n id fun x => { x with spilled := true } else r.1
      e1.putJob n id h.purpose (.placed h.tensor h.offset) h.data)
    ({ (e.modJob n id fun x => { x with held := [] }) with placeReqs := e.placeReqs.filter fun r => !(r.spindle == n.val && r.job == id) })

/-- A half of a ring in the order of its round (R254): address of the half, and of its spill
place. -/
def RingDesc.halfAddr (r : RingDesc) (round : Nat) (down : Bool) : Nat :=
  r.slotAddr + 2 * r.halfSize * (round % max r.slots 1) + (if down then 0 else r.halfSize)
def RingDesc.spillPlace (r : RingDesc) (round : Nat) (down : Bool) : Nat :=
  r.spillAddr + (2 * (round % max r.slots 1) + (if down then 0 else 1)) * r.spillSize

/-- HIST_MODE: the fullest of bins 1 to 62, the lowest of them on a tie, 0 when all are empty (R107). -/
def Carder.mode (c : Carder) : Nat :=
  (List.range 62).foldl (fun best i =>
    let here := c.bins.getD (i + 1) 0
    if 0 < here ∧ (best = 0 ∨ c.bins.getD best 0 < here) then i + 1 else best) 0

/-- The Carder record (R124); a group slot when `slot`. -/
def carderBytes (b : DraftBlk) (c : Carder) (scale : Word) (clipped share : Nat) (void_ fallback grouped : Bool) : List Byte :=
  leBytes 8 c.n ++ leBytes 8 c.nans ++ leBytes 8 clipped ++ leBytes 4 c.absmax.toNat ++ leBytes 4 scale.toNat ++
  leBytes 2 share ++ leBytes 1 c.mode ++ leBytes 1 (BitVec.ofInt 8 b.histBase).toNat ++ leBytes 1 b.scaleMode ++
  leBytes 1 b.codeType ++ leBytes 1 b.tensorClass ++ leBytes 1 (b2n void_ + 2 * b2n fallback + 4 * b2n grouped) ++
  leBytes 1 b.gridSlot ++ leBytes 1 (if b.group then b.groupCount else 0) ++ leBytes 2 b.clipTarget ++ leBytes 20 0 ++
  (List.range 64).flatMap fun i => leBytes 8 (c.bins.getD i 0 % 2 ^ 48)

/-- The address of a member's group slot (R116); a GROUP_ADDR that is no multiple of 64 is taken as it is (log 110). -/
def DraftBlk.slotAddr (b : DraftBlk) (i : Nat) : Addr := (Addr.parse b.groupAddr).plus (576 * i)

/-! ## The end of a job -/

/-- The packet that a job writes into OUT_Q is bad, and bytes of it that were being dropped end with it (R308, R317, R373). -/
def Engine.badOut (e : Engine) (x : Job) : Engine :=
  if x.desc.feeds && x.desc.outQ != 0xFFFF && decide (0 < x.sent) &&
      !(x.allFormed && x.words.isEmpty && (e.creel.q x.desc.outQ).waits.isEmpty) then
    { e with creel := ((e.creel.stopWait e.now x.desc.outQ).bad e.conf e.now x.desc.outQ).setDrop e.now x.desc.outQ .none }
  else e

/-- A job that stops inside a packet gives up its rest (R317). -/
def Engine.giveUpIn (e : Engine) (x : Job) : Engine :=
  if x.inPacket then { e with creel := e.creel.giveUp e.now x.desc.srcQ } else e

/-- The transactions of a job that ends: those not issued are dropped, the others discarded (R425); the
copy of a staged tensor goes on, because every reader waits for it (R280). -/
def Engine.dropTxns (e : Engine) (n : Sp) (id : Nat) : Engine :=
  e.modSp n fun s => { s with txns := s.txns.filterMap fun t =>
    if t.job = id ∧ (t.write ∨ t.purpose.1 ≠ 17) then (if t.slot.isNone then none else some { t with discarded := true }) else some t }

/-- A job of a scale group that stops before it counted writes its slot void (R119). -/
def Engine.voidSlot (e : Engine) (n : Sp) (x : Job) : Engine :=
  match x.desc.draft with
  | some b =>
    let already := match x.draft with | some d => d.knotDone | none => false
    if b.group && !already then
      let d0 := x.draft.getD { shape := x.desc.shape.getD (ShapeBlk.parse []) }
      let e1 := e.modJob n x.id fun x => { x with draft := some { d0 with phase := .slot } }
      if (e.writeFault n (b.slotAddr b.groupIndex) 576).isSome then e1
      else e1.putDuty n x.id wSlot (b.slotAddr b.groupIndex) (carderBytes b {} 0 0 0 true false false)
    else e
  | none => e

/-- A ring descriptor that a job names: none when its address field is zero. -/
def Engine.ring (e : Engine) (a : Nat) : Option RingDesc :=
  if a = 0 then none else some (RingDesc.parse (e.readAt (Addr.parse a) 64))

/-- The place fault of a ring descriptor that a job names (R271, R272). -/
def Engine.ringFault (e : Engine) (n : Sp) (a : Nat) : Option (Nat × Nat) :=
  if a = 0 then none else e.placeFault n false (Addr.parse a) 64

/-- The FREE knot of a half. -/
def RingDesc.free (r : RingDesc) (down : Bool) : Nat := if down then r.freeDown else r.freeUp

/-- The READY knot of a half. -/
def RingDesc.ready (r : RingDesc) (down : Bool) : Nat := if down then r.readyDown else r.readyUp

/-- A reader releases a half that it has not yet released (R257, R259). -/
def Engine.releaseHalf (e : Engine) (n : Sp) (h : HalfRead) (down : Bool) : Engine :=
  match h with
  | .owed r => e.knotIssue (.spindle n.val) (r.free down) .add 1
  | .spilled r => e.knotIssue (.spindle n.val) (r.free down) .add 1
  | .opened r _ _ => e.knotIssue (.spindle n.val) (r.free down) .add 1
  | _ => e

/-- The ring duties of a job that stops (R259): halves that it reads are released, and those that
it owes become a MAGIC of zero. -/
def Engine.ringDuties (e : Engine) (n : Sp) (x : Job) : Engine :=
  let e1 := match x.window with
    | some w => (e.releaseHalf n w.above true).releaseHalf n w.below false
    | none => e
  e1.modJob n x.id fun x =>
    { x with window := x.window.map fun w => { w with above := .released, below := .released, waiting := none, waitFrom := none }
             halves := x.halves.map fun h => if h.acked then h else { h with bytes := some [0, 0, 0, 0], written := false } }

/-- The lanes drop the segments of a job that stops, and its thieves are told (R185). -/
def Engine.stopSparse (e : Engine) (n : Sp) (id : Nat) : Engine :=
  let tell (m : Nat) (s : Spindle) : Spindle :=
    let mine (c : MergeCtx) : Bool := c.owner == n.val && c.job == id
    let held := match s.merge with | some c => mine c | none => false
    let coming := match s.ringAnswer with | some (some (c, _)) => mine c | _ => false
    if m = n.val then (if held then { s with merge := none, lanes := [] } else s)
    else if held || coming then { s with abandons := s.abandons ++ [(n.val, id)] } else s
  { e with spindles := e.spindles.mapFinIdx fun i s _ => tell i s }

/-- The zero of an output's MAGIC still waits for a translation or a placement decision. -/
def Job.zeroHeld (x : Job) (p : Nat × Nat) (a : Addr) : Bool :=
  x.held.any fun h => h.purpose == p && Addr.placed h.tensor h.offset == a && h.data == [0, 0, 0, 0]

/-- A job that does not complete leaves the MAGIC of its output at zero: one that has asked for its header's write writes the zero
again, a zero that waits is written, and a member of a step set that has written nothing yet writes it, unless its own fault is one of
those after which it writes nothing (R35, R205, R227, R293). -/
def Engine.zeroMagic (e : Engine) (n : Sp) (en : Ending) (x : Job) : Engine :=
  let put (e : Engine) (p : Nat × Nat) (a : Addr) : Engine :=
    if (e.writeFault n a 4).isSome then e else e.putDuty n x.id p a [0, 0, 0, 0]
  match x.draft, x.hank with
  | some d, _ =>
    let a := Addr.parse x.desc.dstAddr
    if d.phase = .header ∨ d.phase = .done then put e wHeader a
    else if x.desc.step && (x.zeroHeld wStream a || (!d.zeroed && !(en.status == 1 && [0x11, 0x12, 0x13, 0x14].contains en.fault))) then put e wStream a
    else e
  | none, some h =>
    (match x.desc.hank with
     | some b =>
       let a := Addr.parse b.dstAddr
       if h.headed then put e wHankHdr a else if x.zeroHeld wHank a then put e wHank a else e
     | none => e)
  | none, none => e

/-- SPN_HANK_WAIT counts the spindle clocks that a job waited for a side that it never got (R235, R241): a free value,
because no command brings them (log 97). -/
def Engine.endSideWait (e : Engine) (n : Sp) (x : Job) : Engine :=
  match x.sideFrom with
  | some since =>
    let d := e.draw
    (d.2.modSp n fun s => { s with work := { s.work with hankWait := satAdd s.work.hankWait (Config.sideWait d.1 (e.now - since)) } }).modJob
      n x.id fun x => { x with sideFrom := none }
  | none => e

/-- SPN_HALO_WAIT counts the spindle clocks that a reader waited for a READY knot that it did not see reached (R257): a free value,
because no command brings them (log 97). -/
def Engine.endHaloWait (e : Engine) (n : Sp) (x : Job) : Engine :=
  match x.window.bind fun w => w.waitFrom with
  | some since =>
    let d := e.draw
    d.2.modSp n fun s => { s with work := { s.work with haloWait := satAdd s.work.haloWait (Config.sideWait d.1 (e.now - since)) } }
  | none => e

/-- Placed parts of an aborted job on its spindle, which is disabled, become LOST (R287, R373). -/
def Engine.loseParts (e : Engine) (n : Sp) (en : Ending) (x : Job) : Engine :=
  if en.status = 2 && !(e.sp n).enable then (e.flushHeld n x.id).loseWhere fun t k => x.desc.tensors.contains t && e.restsOn n t k else e

/-- Back words that wait in the buffer for a job that stops are dropped, as words whose tag no running job takes (R433, R434). -/
def Engine.dropBack (e : Engine) (n : Sp) (x : Job) : Engine :=
  if x.desc.srcKind = 2 then
    ((e.sp n).link.backBuf.filter fun w => w.1 == x.desc.srcTag).foldl (fun e w =>
      (e.violation 0x22 (srcFeedBack n.val) w.1).modSp n fun s =>
        { s with link := { s.link with backBuf := s.link.backBuf.erase w, backCredits := s.link.backCredits + 1 } }) e
  else e

/-- A job ends by fault or abort, its own step alone: it stops as R70 and R373 lay down, and its
duties remain (R366).  A job of a step set that has ended well and is not posted is aborted with its set (R204). -/
def Engine.stopOne (e : Engine) (n : Sp) (en : Ending) (x : Job) : Engine :=
  match x.ended with
  | some old =>
    if x.desc.step && old.status == 0 then
      ((e.dropTxns n x.id).modJob n x.id fun x => { x with ended := some en, setDone := false }).zeroMagic n en x |>.loseParts n en x
    else e
  | none =>
    let e1 := (e.badOut x).giveUpIn x
    let e2 := e1.dropTxns n x.id
    let e3 := ({ e2 with placeReqs := e2.placeReqs.filter fun r => !(r.spindle == n.val && r.job == x.id) }).endSideWait n x |>.endHaloWait n x
    let e4 := e3.modJob n x.id fun x =>
      { x with ended := some en, words := [], held := [], claim := none, lockWait := false, banks := [], slices := [],
               scratch := false, spots := [], ply := none, run := .running, inPacket := false,
               hank := x.hank.map fun h => { h with held := false } }
    let e5 := (e4.modSp n fun s => { s with link := { s.link with nest := s.link.nest.filter (· != x.id) } }).dropBack n x
    (((e5.voidSlot n x).ringDuties n x).stopSparse n x.id).zeroMagic n en x |>.loseParts n en x

/-- Members of a step set that leave their queues without starting are counted, so that no later set of the same SET_ID is taken for this
one (R204; log 121). -/
def Engine.memberGone (e : Engine) (n : Sp) (d : Desc) : Engine :=
  if !d.step then e
  else e.modSp n fun s =>
    match Tab.get? s.failedSets d.setId with
    | some k => { s with failedSets := Tab.put s.failedSets 0 d.setId (k - 1) }
    | none =>
      let k := Tab.getD s.goneSets d.setId 0 + 1
      { s with goneSets := Tab.put s.goneSets 0 d.setId (if k < d.stepSize then k else 0) }

/-- The other jobs of a step set of which one failed end with JOB_ABORTED, detail 3; members still
to come are remembered (R204). -/
def Engine.stopSetOf (e : Engine) (n : Sp) (d : Desc) (id : Option Nat) : Engine :=
  if d.step then
    let here := (e.sp n).jobs.filter fun y => y.desc.step && y.desc.setId == d.setId
    let others := here.filter fun y => id != some y.id
    let e1 := others.foldl (fun e y => e.stopOne n ⟨2, 0x17, 3, 0⟩ y) e
    if (Tab.get? (e.sp n).failedSets d.setId).isSome then e1
    else e1.modSp n fun s =>
      { s with failedSets := Tab.put s.failedSets 0 d.setId (d.stepSize - others.length - 1 - Tab.getD s.goneSets d.setId 0)
               goneSets := Tab.put s.goneSets 0 d.setId 0 }
  else e

/-- The step set of a started job that failed stops. -/
def Engine.stopSet (e : Engine) (n : Sp) (x : Job) : Engine := e.stopSetOf n x.desc (some x.id)

/-- Every member of a job's step set has started and ended well. -/
def Engine.setWhole (e : Engine) (n : Sp) (x : Job) : Bool :=
  let members := (e.sp n).jobs.filter fun y => y.desc.step && y.desc.setId == x.desc.setId
  members.length == x.desc.stepSize && members.all fun y => match y.ended with | some z => z.status == 0 | none => false

/-- A started job may still be aborted: it has not ended, or it is a member of a step set that ended well and whose set is not whole, so
that it has not completed (R204, R205). -/
def Engine.abortable (e : Engine) (n : Sp) (x : Job) : Bool :=
  match x.ended with
  | none => true
  | some z => z.status == 0 && x.desc.step && !x.setDone && !e.setWhole n x

/-- A job of spindle n ends by a fault of its own. -/
def Engine.stopJob (e : Engine) (n : Sp) (id : Nat) (en : Ending) : Engine :=
  match e.jobId? n id with
  | some x => if x.ended.isSome then e else (e.stopOne n en x).stopSet n x
  | none => e

/-- A job faults: fault code, detail and WHERE (R364, R365). -/
def Engine.fault (e : Engine) (n : Sp) (id : Nat) (code detail where_ : Nat) : Engine :=
  e.stopJob n id ⟨1, code, detail, where_⟩

/-- The members of a lockstep set fault together, each with the same fault, and the other jobs of their step set stop (R200, R204). -/
def Engine.faultSet (e : Engine) (ms : List (Sp × Job)) (code detail : Nat) : Engine :=
  let e1 := ms.foldl (fun e p =>
    match e.jobId? p.1 p.2.id with
    | some y => if y.ended.isSome then e else e.stopOne p.1 ⟨1, code, detail, 0⟩ y
    | none => e) e
  ms.foldl (fun e p => e.stopSetOf p.1 p.2.desc (some p.2.id)) e1

/-- A job is aborted with JOB_ABORTED, and with it its step set (R204, R373). -/
def Engine.abort (e : Engine) (n : Sp) (id : Nat) (detail : Nat) : Engine :=
  match e.jobId? n id with
  | some x => if e.abortable n x then (e.stopOne n ⟨2, 0x17, detail, 0⟩ x).stopSet n x else e
  | none => e

/-- A job ends without fault: its work and its writes are done. -/
def Engine.finish (e : Engine) (n : Sp) (id : Nat) : Engine :=
  let e0 := match e.jobId? n id with | some x => e.endSideWait n x | none => e
  e0.modJob n id fun x =>
    { x with ended := some ⟨0, 0, 0, 0⟩, banks := [], slices := [], scratch := false, spots := []
             hank := x.hank.map fun h => { h with held := false } }

/-- A started ingest job of a stripe without lines ends with STATUS SKIPPED (R339, R366); a member of a scale group then writes its void slot
as one that is aborted (R119 does not name it; DESIGN CHOICE, log 130). -/
def Engine.skipStarted (e : Engine) (n : Sp) (id : Nat) : Engine := e.stopJob n id ⟨3, 0, 0, 0⟩

/-- Every started job of spindle n that satisfies `p` is aborted, unless it has completed. -/
def Engine.abortWhere (e : Engine) (n : Sp) (detail : Nat) (p : Job → Bool) : Engine :=
  ((e.sp n).jobs.filter fun x => e.abortable n x && p x).foldl (fun e x => e.abort n x.id detail) e

/-! ## Working space (R288, R289) -/

/-- Working banks of spindle n that no job holds: banks 11 − WORK_BANKS to 10 are working banks (R277, R288). -/
def Engine.freeBanks (e : Engine) (n : Sp) : List Nat :=
  ((List.range (e.conf.workBanks n)).map fun i => 11 - e.conf.workBanks n + i).filter fun b => !(e.sp n).jobs.any fun x => x.banks.contains b

/-- A claim takes the lowest free banks (log 118). -/
def Engine.takeBanks (e : Engine) (n : Sp) (id k : Nat) : Engine :=
  let bs := (e.freeBanks n).take k
  e.modJob n id fun x => { x with banks := x.banks ++ bs }

/-- A job has still to read the header or the row pointers that give the size of a fixed claim of its start: the frame of a Hank decode,
the stream or list of an operand, the tile of a crop (R170, R236, R268, R288; DEDUCED, log 118). -/
def Job.claimsAhead (x : Job) : Bool :=
  let early (s : Option Strm) : Bool := match s with | some s => s.phase == .idle || s.phase == .header | none => false
  let sorts (s : Option Strm) (u : Bool) : Bool := match s with | some s => u && s.phase == .entry | none => false
  let frame := match x.desc.hank, x.hank with | some b, some h => b.op != 0 && h.held && h.hdr.isNone | _, _ => false
  let side := match x.hank with | some h => h.held | none => true
  let sorted := match x.desc.mtch with | some m => sorts x.strA m.unsortedA || sorts x.strB m.unsortedB | none => false
  x.acts && side && (frame || early x.strA || early x.strB || sorted)

/-- A job dispatched before a given one waits for a fixed claim, or has one still to make: claims are granted in dispatch order (R288). -/
def Engine.claimBehind (e : Engine) (n : Sp) (id : Nat) : Bool :=
  (e.sp n).jobs.any fun y => decide (y.id < id) && y.ended.isNone && (y.claim.isSome || y.claimsAhead)

/-- A fixed claim of a job: a fault beyond WORK_BANKS, with what the job itself holds (log 118); granted; or made to wait in its turn
(R288). -/
def Engine.claimFixed (e : Engine) (n : Sp) (id k : Nat) : Engine :=
  let own := match e.jobId? n id with | some x => x.banks.length | none => 0
  if k = 0 then e
  else if e.conf.workBanks n < own + k then e.fault n id 0x14 0 0
  else if e.claimBehind n id ∨ (e.freeBanks n).length < k then e.modJob n id fun x => { x with claim := some k }
  else e.takeBanks n id k

/-- Where a flexible claim rests in scratch space, if it does. -/
def Job.spot (x : Job) (kind : Nat) : Option Nat := (x.spots.find? fun p => p.1 == kind).map (·.2)

/-- Address of an offset within scratch place `p`: the Bobbin scratch region or a memory slice (R289). -/
def Engine.scratchAddr (e : Engine) (n : Sp) (p off : Nat) : Addr :=
  let c := Tab.getD e.conf.spindles n {}
  if p = 0 then (Addr.parse c.bscrAddr).plus off else .mem (c.mscrAddr + (p - 1) * (c.mscrSize / 4) + off)

/-- Bytes that scratch place `p` holds. -/
def Engine.scratchRoom (e : Engine) (n : Sp) (p : Nat) : Nat :=
  let c := Tab.getD e.conf.spindles n {}
  if p = 0 then c.bscrSize else c.mscrSize / 4

/-- A claim of a kind takes a scratch place; SPILL with reason 3 (R289). -/
def Engine.takeSpot (e : Engine) (n : Sp) (id kind bytes p : Nat) : Engine :=
  let tag := match e.jobId? n id with | some x => x.desc.tag | none => 0
  (e.modJob n id fun x =>
    { x with scratch := x.scratch || p == 0, slices := if p = 0 then x.slices else x.slices ++ [p - 1]
             spots := x.spots ++ [(kind, p)], spilled := true }).spill n 0xFFFF 3 0 (if p = 0 then 1 else 2) bytes tag

/-- A claim of `bytes` takes the lowest free slice of the memory scratch area; a claim larger than a slice, or with no slice free, faults
with JOB_OUT_FULL.  A claim that already has its place keeps it, if the place is large enough (R289). -/
def Engine.claimSlice (e : Engine) (n : Sp) (id kind bytes : Nat) : Engine :=
  match (e.jobId? n id).bind fun x => x.spot kind with
  | some p => if bytes ≤ e.scratchRoom n p then e else e.fault n id 0x16 3 0
  | none =>
    if (Tab.getD e.conf.spindles n {}).mscrSize / 4 < bytes then e.fault n id 0x16 3 0
    else
      match (List.range 4).find? fun i => !(e.sp n).jobs.any fun x => x.slices.contains i with
      | some i => e.takeSpot n id kind bytes (i + 1)
      | none => e.fault n id 0x16 3 0

/-- A claim of `bytes` outside the working banks: the Bobbin scratch region if it is large enough and free, otherwise a slice (R289). -/
def Engine.claimScratch (e : Engine) (n : Sp) (id kind bytes : Nat) : Engine :=
  let c := Tab.getD e.conf.spindles n {}
  if ((e.jobId? n id).bind fun x => x.spot kind).isNone && c.bscrAddr != 0 && decide (bytes ≤ c.bscrSize) &&
      !(e.sp n).jobs.any (fun x => x.scratch) then e.takeSpot n id kind bytes 0
  else e.claimSlice n id kind bytes

/-- Bytes of a claim that rests in scratch space are written there; a memory slice takes them through the leaf port (R289). -/
def Engine.putScratch (e : Engine) (n : Sp) (id kind off : Nat) (bs : List Byte) : Engine :=
  match (e.jobId? n id).bind fun x => x.spot kind with
  | some p =>
    let a := e.scratchAddr n p off
    (e.writeAt a bs).issue n id true (wScratch kind) (e.memLines a bs.length)
  | none => e

/-- A flexible claim of a number of bytes, of one kind (R288, R289). -/
def Engine.claimFlexible (e : Engine) (n : Sp) (id kind bytes : Nat) : Engine :=
  if bytes = 0 then e
  else if ceilDiv bytes 32768 ≤ (e.freeBanks n).length then
    let bs := (e.freeBanks n).take (ceilDiv bytes 32768)
    (e.takeBanks n id (ceilDiv bytes 32768)).modJob n id fun x => if kind = 0 then { x with srcBanks := bs } else x
  else e.claimScratch n id kind bytes

/-! ## Checked accesses -/

/-- A write of a job (R271 to R284, R375 detail 2): it may fault, wait for its translation or a placement decision,
or be made. -/
def Engine.jobWrite (e : Engine) (n : Sp) (id : Nat) (purpose : Nat × Nat) (a : Addr) (data : List Byte) : Engine :=
  match e.jobId? n id with
  | none => e
  | some x =>
    if x.ended.isSome || data.isEmpty then e
    else
      match e.writeFault n a data.length with
      | some (f, d) => e.fault n id f d 0
      | none => e.putDuty n id purpose a data

/-- A read of a job is issued: it may fault, ask for a staged placement, or send its
transactions (R278, R284, R425). -/
def Engine.jobRead (e : Engine) (n : Sp) (id : Nat) (purpose : Nat × Nat) (a : Addr) (len : Nat) : Engine :=
  match e.jobId? n id with
  | none => e
  | some x =>
    if x.ended.isSome || len == 0 then e
    else
      match e.placeFault n false a len with
      | some (f, d) => e.fault n id f d 0
      | none =>
        match a with
        | .placed t off =>
          let e1 := e.lookUp n t
          if (e.placeE t).stage && !(e.tensor t).placed then
            { e1 with placeReqs := e1.placeReqs ++ [{ spindle := n.val, job := id, tensor := t, upTo := none, read := some (purpose, off, len), at_ := e.now }] }
          else e1.issue n id false purpose (e.memLines a len)
        | _ => e.issue n id false purpose (e.memLines a len)

/-- Where a read of a job stands. -/
inductive Arrival where
  | wait
  /-- A fault code and detail, with WHERE when it is not the caller's (R364). -/
  | bad (code detail : Nat) (where_ : Option Nat := none)
  | bytes (bs : List Byte)
deriving DecidableEq, Repr

/-- The memory code of the store that an address lies in. -/
def Engine.storeCode (e : Engine) (a : Addr) : Nat := match (e.loc a).sram with | some r => r.1 | none => 0

/-- The data of a read of a job once every transaction of its purpose is answered, with the check
of the rows it lies in (R287, R482, R483). -/
def Engine.arrive (e : Engine) (n : Sp) (x : Job) (purpose : Nat × Nat) (a : Addr) (len : Nat) (row : Ecc) :
    Engine × Arrival :=
  if (e.sp n).waitsFor x.id purpose || !e.translated n a then (e, .wait)
  else
    match e.placeFault n false a len with
    | some (f, d) => (e, .bad f d)
    | none =>
      let r := e.readSram a len row
      if r.2 then (r.1, .bad 0x19 (e.storeCode a)) else (r.1, .bytes (e.readAt a len))

/-- The effect of an arrival on a job: nothing, a fault, or what its data does. -/
def Engine.onArrive (r : Engine × Arrival) (n : Sp) (x : Job) (where_ : Nat) (f : Engine → List Byte → Engine) : Engine :=
  match r.2 with
  | .wait => r.1
  | .bad code d w => r.1.fault n x.id code d (w.getD where_)
  | .bytes bs => f r.1 bs

/-! ## Placement answers (R278 to R282) -/

/-- A staged read placed the tensor: its parts are to receive the bytes of home, which the fetch unit of
the job reads through its home leaf port (R280).  A copy that will leave bytes at home sets SPILLED for the job (R290). -/
def Engine.beginStage (e : Engine) (n : Sp) (id t : Nat) (tag : Word) : Engine :=
  let x := e.tensor t
  if x.sPart.isNone && x.bPart.isNone then e
  else
    let p := e.placeE t
    let e1 := (e.modTensor t fun x => { x with staging := true, stager := (n.val, id), stagerTag := tag }).issue n id false (pStage t)
      ((List.range (ceilDiv (min x.onChip p.sizeMax) 64)).map fun i => p.homeAddr + 64 * i)
    if x.onChip < p.sizeMax then e1.modJob n id fun x => { x with spilled := true } else e1

/-- The bytes of a staged read that rest at home are asked for once the tensor is placed (R280). -/
def Engine.readStaged (e : Engine) (r : PlaceReq) : Engine :=
  match r.read with
  | some (purpose, off, len) => e.issue (spOf r.spindle) r.job false purpose (e.memLines (.placed r.tensor off) len)
  | none => e

/-- The number under which the transactions and requests of a thief's records stand: no job has it. -/
def thiefJob : Nat := 2 ^ 64

/-- The records of a thief that wait go on in order: each waits for its translation and, while the tensor does not cover it, for a
placement decision (R183, R278, R279, R282, R284). -/
def Engine.pushRecords (e : Engine) (n : Sp) (t : Nat) : Nat → Engine
  | 0 => e
  | fuel + 1 =>
    match (e.sp n).ringRecs.find? fun r => match r.held with | some h => h.1 == t | none => false with
    | some ⟨o, j, k, knot, some (_, off, bs)⟩ =>
      if (e.sp n).xlateWait.contains t then e
      else if e.covered t (off + bs.length) then
        ((e.modSp n fun s => { s with ringRecs := s.ringRecs.map fun r =>
            if r = ⟨o, j, k, knot, some (t, off, bs)⟩ then { r with held := none } else r }).putJob n thiefJob (wRecord k)
          (.placed t off) bs).pushRecords n t fuel
      else if e.placeReqs.any fun r => r.spindle == n.val && r.job == thiefJob && r.tensor == t then e
      else { e with placeReqs := e.placeReqs ++ [{ spindle := n.val, job := thiefJob, tensor := t, upTo := some (off + bs.length), at_ := e.now }] }
    | _ => e

/-- The records of a thief that wait for a tensor go on. -/
def Engine.releaseRecords (e : Engine) (n : Sp) (t : Nat) : Engine := e.pushRecords n t ((e.sp n).ringRecs.length + 1)

/-- A record's tensor gets room for it, as a write of the job that granted the segment: the SPILL names that job and its spindle, and
its record carries SPILLED (R183, R275, R290, R292). -/
def Engine.roomForRecord (e : Engine) (r : RingRec) (t upTo : Nat) : Engine :=
  let o := spOf r.owner
  match e.jobId? o r.job with
  | some x =>
    let p := e.makeRoom o x.desc.tag x.inst t upTo
    if p.2 then p.1.modJob o x.id fun x => { x with spilled := true } else p.1
  | none => (e.makeRoom o 0 none t upTo).1

/-- Records that wait for a place are written at once, with room for them, at a rebinding (log 96). -/
def Engine.flushRecords (e : Engine) (n : Sp) (p : RingRec → Bool) : Engine :=
  (e.sp n).ringRecs.foldl (fun e r =>
    match r.held with
    | some (t, off, bs) =>
      if p r then
        ((e.roomForRecord r t (off + bs.length)).modSp n fun s => { s with ringRecs := s.ringRecs.map fun q =>
          if q = r then { q with held := none } else q }).putJob n thiefJob (wRecord r.record) (.placed t off) bs
      else e
    | none => e) e

/-- The request of a thief's record is answered (R279, R282). -/
def Engine.answerRecord (e : Engine) (r : PlaceReq) : Engine :=
  let n := spOf r.spindle
  match (e.sp n).ringRecs.find? fun q => match q.held with | some h => h.1 == r.tensor | none => false, r.upTo with
  | some q, some u => (e.roomForRecord q r.tensor u).releaseRecords n r.tensor
  | _, _ => e

/-- A request is answered: the tensor is placed when it is not, grown until the write is covered,
and the writes that waited proceed (R278, R279, R282). -/
def Engine.answerPlace (e : Engine) (r : PlaceReq) : Engine :=
  let n := spOf r.spindle
  if r.job = thiefJob then e.answerRecord r
  else
  match e.jobId? n r.job with
  | none => e
  | some x =>
    let p2 := match r.upTo with
      | some u => e.makeRoom n x.desc.tag x.inst r.tensor u
      | none =>
        if (e.tensor r.tensor).placed then (e, false)
        else
          let p := e.placeTensor n x.desc.tag x.inst r.tensor
          (p.1.beginStage n r.job r.tensor x.desc.tag, p.2)
    let e3 := if p2.2 then p2.1.modJob n r.job fun x => { x with spilled := true } else p2.1
    (e3.releaseHeld n r.job r.tensor).readStaged r

end Sys2Proof.Machine
end

