-- ==== Sys2Proof/Machine/Expand.lean ====
section
/-! DEFINITION. Reading streams: wrapped streams, header and entry checks, opening in order, and
the formation of delivery words (R67, R130 to R142, R158 to R162, R239). -/

namespace Sys2Proof.Machine

/-! ## Operands of a job -/

/-- The stream state of operand o. -/
def Job.strm (x : Job) : Opnd → Option Strm
  | .a => x.strA
  | .b => x.strB

/-- The stream state of operand o replaced by its image. -/
def Job.modStrm (x : Job) (o : Opnd) (f : Strm → Strm) : Job :=
  match o with
  | .a => { x with strA := x.strA.map f }
  | .b => { x with strB := x.strB.map f }

/-- The stream state of an operand of a job replaced by its image. -/
def Engine.modStrm (e : Engine) (n : Sp) (id : Nat) (o : Opnd) (f : Strm → Strm) : Engine :=
  e.modJob n id fun x => x.modStrm o f

/-- The address of an operand's stream. -/
def Strm.addr (s : Strm) : Addr := Addr.parse s.blk.streamAddr

/-- The form of a started job. -/
def Job.form (x : Job) : JobForm := x.desc.form.getD .hank

/-- Operands in the order in which they open (R138). -/
def Job.openOrder (x : Job) : List Opnd := if x.form = .ply then [.b, .a] else [.a, .b]

/-- The operand is the second of the job to open. -/
def Job.isSecond (x : Job) (o : Opnd) : Bool :=
  match x.form with
  | .ply => o == .a
  | .sparse => o == .b
  | _ => false

/-- The other operand. -/
def otherOpnd : Opnd → Opnd
  | .a => .b
  | .b => .a

/-! ## Wrapped streams (R239) -/

/-- Buffers of decoded blocks that an operand has: two, or one when both operands are wrapped. -/
def Job.bufferCount (x : Job) : Nat :=
  let w (s : Option Strm) : Bool := match s with | some s => s.wrapped.isSome | none => false
  if w x.strA && w x.strB then 1 else 2

/-- The bytes [off, off + len) of the source, from whole decoded blocks of size B. -/
def gather (bsize off len : Nat) (bs : List (Nat × List Byte)) : List Byte :=
  let b0 := off / bsize
  let all := (List.range ((off + len - 1) / bsize + 1 - b0)).flatMap fun i =>
    slice (((bs.find? fun p => p.1 == b0 + i).map (·.2)).getD []) 0 bsize
  slice all (off % bsize) len

/-- A decoder failure counts, and faults the job at its block (R232, R241). -/
def Engine.hankErr (e : Engine) (n : Sp) (code detail b : Nat) : Engine × Arrival :=
  (e.modSp n fun s => { s with work := { s.work with hankErr := satInc s.work.hankErr } }, .bad code detail (some b))

/-- The next move of a read of a wrapped stream that lacks block b: its table entry is asked for
or has arrived, or its data has arrived and is decoded into a buffer. -/
def Engine.fetchBlock (e : Engine) (n : Sp) (x : Job) (o : Opnd) (s : Strm) (h : HankHdr) (purpose : Nat × Nat)
    (b : Nat) (row : Ecc) : Engine × Arrival :=
  let base := s.addr
  let entryAddr := base.plus (h.tableOffset + 8 * b)
  match s.wblk with
  | none =>
    ((e.modStrm n x.id o fun s => { s with wblk := some (purpose, b, none) }).jobRead n x.id purpose entryAddr 8, .wait)
  | some (p, b', none) =>
    if p ≠ purpose ∨ b' ≠ b then (e, .wait)
    else
      let r := e.arrive n x purpose entryAddr 8 row
      match r.2 with
      | .bytes bs =>
        let off := fieldAt bs 0 4
        let len := fieldAt bs 4 3
        if hankEntryOk off len then
          ((r.1.modStrm n x.id o fun s => { s with wblk := some (purpose, b, some (off, len)) }).jobRead n x.id purpose (base.plus off) len, .wait)
        else r.1.hankErr n 0x0A 4 b
      | a => (r.1, a)
  | some (p, b', some (off, len)) =>
    if p ≠ purpose ∨ b' ≠ b then (e, .wait)
    else
      let r := e.arrive n x purpose (base.plus off) len row
      match r.2 with
      | .bytes bs =>
        match hankDecode (h.blockLen b) bs with
        | .ok out =>
          let e1 := r.1.modStrm n x.id o fun s =>
            { s with wblk := none, wgot := s.wgot ++ [(purpose, b, out)]
                     blocks := ((b, out) :: s.blocks.filter fun p => p.1 != b).take x.bufferCount }
          (e1.modSp n fun s => { s with work := { s.work with hankDec := satInc s.work.hankDec } }, .wait)
        | .error (f, d) => r.1.hankErr n f d b
      | a => (r.1, a)

/-- The blocks that an access needs, in order, as far as they are at hand: a buffered block decodes nothing, and its buffer is then the
one used last; second result: the first block that must be decoded (R239). -/
def Strm.useBuffers (purpose : Nat × Nat) : List Nat → Strm → Strm × Option Nat
  | [], s => (s, none)
  | b :: bs, s =>
    if s.wgot.any fun p => p.1 == purpose && p.2.1 == b then s.useBuffers purpose bs
    else
      match s.blocks.find? fun p => p.1 == b with
      | some p => ({ s with wgot := s.wgot ++ [(purpose, p)], blocks := p :: s.blocks.filter fun q => q.1 != b } : Strm).useBuffers purpose bs
      | none => (s, some b)

/-- A read of a wrapped stream: the blocks that it touches are taken from the buffers or decoded, in order, one by one.  `beyond` is the
fault of bytes at or beyond RAW_LEN (R239). -/
def Engine.wrappedRead (e : Engine) (n : Sp) (x : Job) (o : Opnd) (s : Strm) (h : HankHdr) (purpose : Nat × Nat)
    (off len beyond : Nat) (row : Ecc) : Engine × Arrival :=
  let bsize := hankB h.blockSize
  if h.rawLen < off + len then (e, .bad beyond 0)
  else if !(match x.hank with | some k => k.held | none => false) then (e, .wait)
  else
    let need := (List.range ((off + len - 1) / bsize + 1 - off / bsize)).map (· + off / bsize)
    let r := s.useBuffers purpose need
    let e1 := e.modStrm n x.id o fun _ => r.1
    match r.2 with
    | some b => e1.fetchBlock n x o r.1 h purpose b row
    | none =>
      (e1.modStrm n x.id o fun s => { s with wgot := s.wgot.filter fun p => p.1 != purpose },
       .bytes (gather bsize off len ((r.1.wgot.filter fun p => p.1 == purpose).map (·.2))))

/-- Bytes of an operand's stream at an offset, wrapped or not, once they have arrived. -/
def Engine.strmRead (e : Engine) (n : Sp) (x : Job) (o : Opnd) (purpose : Nat × Nat) (off len beyond : Nat) (row : Ecc) :
    Engine × Arrival :=
  match x.strm o with
  | none => (e, .wait)
  | some s =>
    match s.wrapped with
    | some h => e.wrappedRead n x o s h purpose off len beyond row
    | none => e.arrive n x purpose (s.addr.plus off) len row

/-- The read of a part of an operand's stream is issued; a wrapped stream fetches its blocks when
they are needed. -/
def Engine.strmAsk (e : Engine) (n : Sp) (x : Job) (o : Opnd) (purpose : Nat × Nat) (off len : Nat) : Engine :=
  match x.strm o with
  | none => e
  | some s => if s.wrapped.isSome then e else e.jobRead n x.id purpose (s.addr.plus off) len

/-! ## Opening (R131, R132, R138) -/

/-- The first operand that is not open begins to open, when the one before it is open: STREAM_ADDR
is checked, and the header and a folded word are read (R138; one at a time per job: DEDUCED, log 113). -/
def Engine.openNext (e : Engine) (n : Sp) (id : Nat) : Engine :=
  match e.jobId? n id with
  | none => e
  | some x =>
    let here := x.openOrder.filter fun o => (x.strm o).isSome
    let ph (o : Opnd) : StrmPhase := match x.strm o with | some s => s.phase | none => .open
    match here.find? fun o => ph o != .open with
    | some o =>
      match x.strm o with
      | some s =>
        if s.phase != .idle then e
        else if s.blk.streamAddr % 64 ≠ 0 then e.fault n id 0x08 0 0
        else
          let e1 := (e.modStrm n id o fun s => { s with phase := .header }).jobRead n id (pHeader o) s.addr 64
          if s.blk.scaleSrc = 1 then e1.jobRead n id (pFold o) (Addr.parse s.blk.foldAddr) 4 else e1
      | none => e
    | none => e

/-- Tiles of a stream, or rows of a list. -/
def Strm.total (s : Strm) : Nat := match s.lst with | some l => l.rows | none => s.hdr.tileCount

/-- Tiles of one row of a Skein operand (R163). -/
def Strm.rowTiles (s : Strm) : Nat := ceilDiv s.hdr.dim0 s.hdr.tileChans

/-- X: DIM0, or EXTENT of a list (R158). -/
def Strm.extent (s : Strm) : Nat := match s.lst with | some l => l.extent | none => s.hdr.dim0

/-- Code type and grid slot of an operand. -/
def Strm.ct (s : Strm) : Nat := match s.lst with | some l => l.codeType | none => s.hdr.codeType
def Strm.slot (s : Strm) : Nat := match s.lst with | some l => l.gridSlot | none => s.hdr.gridSlot

/-- Rows that an operand of a sparse job selects (R163). -/
def Strm.rowCount (s : Strm) : Nat := match s.lst with | some _ => s.count | none => s.count / max 1 s.rowTiles

/-- The tile columns (i1) that the selected tiles cover, ascending, each with the (i2, i3) of the first selected
tile that covers it (R131; DEDUCED, log 94). -/
def Strm.colPlaces (s : Strm) : List (Nat × Nat × Nat) :=
  let places := (List.range s.count).map fun i => (s.hdr.tilePos (s.first + i)).2
  (List.range s.hdr.nT1).filterMap fun i1 => places.find? fun p => p.1 == i1

/-- Positions of tile column i1 along DIM1. -/
def SkeinHdr.colWidth (h : SkeinHdr) (i1 : Nat) : Nat := min h.tileCols (h.dim1 - i1 * h.tileCols)

/-- Positions along DIM1 that the selected tiles cover (R131). -/
def Strm.cols (s : Strm) : Nat := (s.colPlaces.map fun p => s.hdr.colWidth p.1).sum

/-- Positions (d1, d2, d3) that the selected tiles cover (R131). -/
def Strm.positions (s : Strm) : Nat :=
  let h := s.hdr
  let keys := ((List.range s.count).map fun i => (h.tilePos (s.first + i)).2).eraseDups
  (keys.map fun (i1, i2, _) => min h.tileCols (h.dim1 - i1 * h.tileCols) * min h.tileRows (h.dim2 - i2 * h.tileRows)).sum

/-- Delivery formats that R133 defines. -/
def delivOk (d : Nat) : Bool := d ≤ 3 || d == 6 || d == 7 || d == 10

/-- The checks of an expansion block that its own stream decides (R131, third step; R159). -/
def blockOk (x : Job) (o : Opnd) (s : Strm) : Bool :=
  let b := s.blk
  let form := x.form
  decide (b.scaleSrc ≤ 2 ∧ b.dest ≤ 3 ∧ b.dest = form.dest (o == .a)) && (b.dest != 0 || delivOk b.deliv) &&
  decide (b.tileFirst < s.total ∧ b.tileFirst + b.tileRun ≤ s.total) &&
  (form != .ply || o == .a || s.hdr.format == 1 || s.hdr.format == 2) &&
  (form != .sparse ||
    (match x.desc.mtch with
     | none => false
     | some m =>
       let unsorted := match o with | .a => m.unsortedA | .b => m.unsortedB
       let sparseKind := s.lst.isSome || s.hdr.format == 2 || s.hdr.format == 3
       let denseKind := s.lst.isNone && (s.hdr.format == 1 || s.hdr.format == 3) && decide (s.extent ≤ 1024)
       decide (m.mode ≤ 1) && (if o == .b && m.mode == 1 then denseKind else sparseKind) &&
       (s.lst.isSome || (s.hdr.tileCols == 1 && s.hdr.tileRows == 1 &&
         decide (b.tileFirst % s.rowTiles = 0 ∧ b.tileRun % s.rowTiles = 0))) &&
       (!unsorted || (s.lst.isSome && ctWidth s.ct != 16)) &&
       (!m.ringSteal || (m.stealArea != 0 && m.stealArea % 64 == 0))))

/-- Activation code types that the Whorl admits (R92). -/
def whorlCt (ct : Nat) : Bool := ct ≤ 3 || ct == 7

/-- The checks that both operands of a Ply or sparse job decide (R131, R159). -/
def pairOk (x : Job) (a b : Strm) : Bool :=
  let outs := match x.desc.shape with | some s => s.elements | none => 0
  match x.form with
  | .ply =>
    (!(b.ct == 4 || b.ct == 5) || whorlCt a.ct) && a.hdr.dim0 == b.hdr.dim0 && outs == b.cols * a.positions
  | .sparse => a.extent == b.extent && outs == a.rowCount * b.rowCount
  | _ => true

/-! ## Lockstep sets (R156, R200) -/

/-- The members of a lockstep set on spindle n (R200). -/
def Engine.lockSet (e : Engine) (n : Sp) (x : Job) : List Job :=
  (e.sp n).jobs.filter fun y => y.desc.lock && y.desc.setId == x.desc.setId && y.ended.isNone

/-- The header of a job's operand A has passed its checks. -/
def Job.headerIn (x : Job) : Bool :=
  match x.strA with
  | some s => s.phase == .entry || s.phase == .setup || s.phase == .open
  | none => true

/-- Two members of a lockstep set agree in shape and selection (R200). -/
def lockAgree (x y : Job) : Bool :=
  match x.strA, y.strA with
  | some s, some t =>
    decide (s.hdr.dim0 = t.hdr.dim0 ∧ s.hdr.dim1 = t.hdr.dim1 ∧ s.hdr.dim2 = t.hdr.dim2 ∧ s.hdr.dim3 = t.hdr.dim3 ∧
      s.hdr.tileChans = t.hdr.tileChans ∧ s.hdr.tileCols = t.hdr.tileCols ∧ s.hdr.tileRows = t.hdr.tileRows ∧
      s.blk.tileFirst = t.blk.tileFirst ∧ s.count = t.count)
  | _, _ => true

/-- Every member of a job's lockstep set has had its header pass, so that the set may deliver (R156, R200). -/
def Engine.lockOpen (e : Engine) (n : Sp) (x : Job) : Bool := !x.desc.lock || (e.lockSet n x).all Job.headerIn

/-! ## Tile reads in order (R139, R142, R151, R165, R518) -/

/-- Lane groups of 64 outputs. -/
def laneGroups (outs : Nat) : Nat := ceilDiv outs 64

/-- Reduction segments of at most 512 elements (R144). -/
def segCount (dim0 : Nat) : Nat := ceilDiv dim0 512

/-- Pairs of lane groups (R518). -/
def pairCount (groups : Nat) : Nat := ceilDiv groups 2

/-- The bank reads of one activation vector in order, as segment and lane group (R518). -/
def plySteps (segs groups : Nat) : List (Nat × Nat) :=
  if segs ≤ 1 then (List.range groups).map fun g => (0, g)
  else (List.range (pairCount groups)).flatMap fun p => (List.range segs).flatMap fun s =>
    ([2 * p, 2 * p + 1].filter (· < groups)).map fun g => (s, g)

/-- Weight tiles that a bank read of segment `seg` for lane group `g` takes: those of one tile column before the next's (R151; DESIGN
CHOICE, log 132). -/
def Strm.stepTiles (w : Strm) (seg g : Nat) : List Nat :=
  let h := w.hdr
  let i0s := (List.range h.nT0).filter fun i0 =>
    decide (i0 * h.tileChans < min h.dim0 (512 * (seg + 1)) ∧ 512 * seg < (i0 + 1) * h.tileChans)
  let spans := w.colPlaces.foldl (fun (acc : Nat × List (Nat × Nat × Nat)) p =>
    let k := h.colWidth p.1
    (acc.1 + k, if acc.1 < 64 * (g + 1) ∧ 64 * g < acc.1 + k then acc.2 ++ [p] else acc.2)) (0, [])
  (spans.2.flatMap fun p => i0s.map fun i0 => ((p.2.2 * h.nT2 + p.2.1) * h.nT1 + p.1) * h.nT0 + i0).filter fun t =>
    decide (w.first ≤ t ∧ t < w.first + w.count)

/-- The last two of a list. -/
def lastTwo (xs : List α) : List α := xs.drop (xs.length - 2)

/-- The tiles that are read for steps numbered from `key` on, when the last two tiles read are held (R151). -/
def weightReads : Nat → List Nat → List (List Nat) → List (Nat × Nat)
  | _, _, [] => []
  | key, held, ts :: rest =>
    let r := ts.foldl (fun (acc : List Nat × List (Nat × Nat)) t =>
      if acc.1.contains t then acc else (lastTwo (acc.1 ++ [t]), acc.2 ++ [(key, t)])) (held, [])
    r.2 ++ weightReads (key + 1) r.1 rest

/-- Runs of selected tiles that share (d1, d2, d3) outside DIM0: position, first tile, tiles, and vectors. -/
def Strm.vecRuns (s : Strm) : List ((Nat × Nat × Nat) × Nat × Nat × Nat) :=
  let h := s.hdr
  let ts := (List.range s.count).map (· + s.first)
  ((ts.map fun t => (h.tilePos t).2).eraseDups).map fun p =>
    let mine := ts.filter fun t => (h.tilePos t).2 == p
    (p, mine.headD 0, mine.length, h.colWidth p.1 * min h.tileRows (h.dim2 - p.2.1 * h.tileRows))

/-- The run of activation vector v, and the vector's number within it. -/
def runOf : List ((Nat × Nat × Nat) × Nat × Nat × Nat) → Nat → Option ((Nat × Nat × Nat) × Nat × Nat × Nat) 
  | [], _ => none
  | r :: rest, v => if v < r.2.2.2 then some (r.1, r.2.1, r.2.2.1, v) else runOf rest (v - r.2.2.2)

/-- The fills of an activation vector from pair `pair` on are numbered `pairs * v + pair`: one number when the vector
has one segment (R518). -/
def fillKey (segs groups v pair : Nat) : Nat := if segs ≤ 1 then v else pairCount groups * v + pair

/-- The activation tiles read for vector v: its run's at the run's first vector, which serve all vectors that they hold, and again for each
pair after the first when the vector has more than one segment (R518; that a tile of several vectors is read once for its run: DESIGN
CHOICE, log 131). -/
def Strm.actReads (a : Strm) (segs groups v : Nat) : List (Nat × Nat) :=
  match runOf a.vecRuns v with
  | none => []
  | some (_, t0, k, i) =>
    let tiles := (List.range k).map (· + t0)
    let of_ (pair : Nat) : List (Nat × Nat) := tiles.map fun t => (fillKey segs groups v pair, t)
    (if i = 0 then of_ 0 else []) ++ (if segs ≤ 1 then [] else (List.range (pairCount groups - 1)).flatMap fun p => of_ (p + 1))

/-- The reads of an operand of a Ply job planned on: through vector v, and so far that the tile being decoded has four after it, as long as
there are vectors (R139). -/
def Strm.planTo (s : Strm) (isAct : Bool) (segs groups v vecs : Nat) : Nat → Strm
  | 0 => s
  | fuel + 1 =>
    if (v < s.planVec ∧ 5 ≤ s.plan.length) ∨ vecs ≤ s.planVec then s
    else
      let more := if isAct then (s.actReads segs groups s.planVec).drop (b2n (s.planVec == 0))
        else
          let steps := plySteps segs groups
          let known := lastTwo ((s.held.map (·.1)) ++ s.plan.map (·.2))
          weightReads (s.planVec * steps.length) known (steps.map fun p => s.stepTiles p.1 p.2)
      Strm.planTo { s with plan := s.plan ++ more, planVec := s.planVec + 1 } isAct segs groups v vecs fuel

/-- The tile reads of the operand follow a plan. -/
def Job.planned (x : Job) (o : Opnd) : Bool := x.form == .ply || (x.form == .sparse && o == .b)

/-- The tile of the read that is `i` places after the reads decoded. -/
def Job.readTile (x : Job) (o : Opnd) (s : Strm) (i : Nat) : Option Nat :=
  if x.planned o then s.plan[i]?.map (·.2)
  else if s.decoded + i < s.count then some (s.first + s.decoded + i) else none

/-- The members of a job's lockstep set on its spindle, or the job alone (R200). -/
def Engine.deliverSet (e : Engine) (n : Sp) (x : Job) : List Job :=
  if x.desc.lock then (e.sp n).jobs.filter fun y => y.desc.lock && y.desc.setId == x.desc.setId && y.ended.isNone else [x]

/-- A running job whose delivery has begun its work and has not ended. -/
def Job.delivers (x : Job) : Bool := x.acts && x.desc.feeds

/-- Among the members of a lockstep set, the next to deliver: fewest tiles sent, then member order
(R201). -/
def nextMember (xs : List Job) : Option Job :=
  xs.foldl (fun best x => match best with
    | none => some x
    | some b => if x.sentTiles < b.sentTiles ∨ (x.sentTiles = b.sentTiles ∧ x.desc.setIndex < b.desc.setIndex) then some x else some b) none

/-- A delivery has begun: a word is sent, or, on the feed link, the first word of its lockstep set is. -/
def Link.begun (l : Link) (x : Job) : Bool := decide (0 < x.sent) || (x.desc.outQ == 0xFFFF && l.nest.contains x.id)

/-- A job may begin its delivery on the feed link: every delivery begun there and now switched out belongs to a job of a higher LEVEL
that started before it, which is one that it switched out (R201, R333). -/
def nests (l : Link) (here : List Job) (x : Job) : Bool :=
  here.all fun a => !l.begun a || a.run == .running || (decide (x.level < a.level) && decide (a.id < x.id))

/-- The job whose word goes next to a queue or to the feed link: one delivery at a time, nested on the link; of a lockstep set, once
every member's header has passed, the member whose tile is next (R156, R200, R201). -/
def Engine.turn (e : Engine) (n : Sp) (outQ : Nat) : Option Job :=
  let here := (e.sp n).jobs.filter fun x => x.desc.feeds && x.ended.isNone && x.desc.outQ == outQ && !x.lockWait
  let runs (x : Job) : Bool := x.run == .running
  let l := (e.sp n).link
  let next := match here.find? fun x => l.begun x && (runs x || outQ != 0xFFFF) with
    | some x => some x
    | none => here.find? fun x => runs x && (outQ != 0xFFFF || nests l here x)
  match next with
  | none => none
  | some x =>
    if !e.lockOpen n x then none
    else if x.desc.lock && outQ == 0xFFFF then nextMember (here.filter fun y => y.desc.lock && y.desc.setId == x.desc.setId)
    else if x.delivers then some x
    else none

/-- The job has its turn into a sink. -/
def Engine.hasTurn (e : Engine) (n : Sp) (x : Job) (outQ : Nat) : Bool :=
  match e.turn n outQ with
  | some y => y.id == x.id
  | none => false

/-- Delivery words wait for the link or the queue to take them, or for the delivery before them, so that the decoder reads no further
source (R142, R201). -/
def Engine.heldBack (e : Engine) (n : Sp) (x : Job) : Bool :=
  !x.words.isEmpty &&
  (!e.hasTurn n x x.desc.outQ ||
    (if x.desc.outQ = 0xFFFF then (e.sp n).link.fwdCredits == 0 else !(e.creel.q x.desc.outQ).waits.isEmpty))

/-- The payload of the next tile whose entry has arrived is asked for. -/
def Engine.askPayload (e : Engine) (n : Sp) (id : Nat) (o : Opnd) : Engine :=
  match e.jobId? n id with
  | none => e
  | some x =>
    match x.strm o with
    | none => e
    | some s =>
      match s.entries[s.paid - s.decoded]?, x.readTile o s (s.paid - s.decoded) with
      | some en, some t =>
        let e1 := e.modStrm n id o fun s => { s with paid := s.paid + 1 }
        if en.zero || !en.ok s.hdr t then e1 else e1.strmAsk n x o (pPayload o s.paid) en.offset en.length
      | _, _ => e

/-- The next tile table entry is asked for, up to four tiles ahead of the tile being decoded (R139). -/
def Engine.askEntry (e : Engine) (n : Sp) (id : Nat) (o : Opnd) : Engine :=
  match e.jobId? n id with
  | none => e
  | some x =>
    match x.strm o with
    | none => e
    | some s =>
      if s.lst.isSome || x.ended.isSome then e
      else if s.asked = s.decoded + s.entries.length ∧ s.asked < s.decoded + 5 then
        match x.readTile o s (s.asked - s.decoded) with
        | some t =>
          (e.modStrm n id o fun s => { s with asked := s.asked + 1 }).strmAsk n x o (pEntry o s.asked) (s.hdr.tableOffset + 8 * t) 8
        | none => e
      else e

/-- The fetch unit reads an operand on: payloads of entries that have passed, then the next entry.  B of a sparse job is only opened until A's
ranges are known (R142, R165). -/
def Engine.readOn (e : Engine) (n : Sp) (id : Nat) (o : Opnd) : Engine :=
  match e.jobId? n id with
  | none => e
  | some x =>
    let early := x.form == .sparse && o == .b && (match x.strB with | some s => s.planVec == 0 | none => false)
    if e.heldBack n x || x.ended.isSome then e
    else if early then e.askEntry n id o
    else ((List.range 5).foldl (fun e _ => e.askPayload n id o) e).askEntry n id o

/-! ## Delivery words (R133 to R135) -/

/-- An element in an integer delivery format; second result: counted in SPN_DSAT_CNT (R134). -/
def deliverInt (w : Nat) (lo hi : Int) (v : Val) : Nat × Bool :=
  let enc (i : Int) : Nat := (i % (2 ^ w : Nat)).toNat
  match v with
  | .nan => (0, true)
  | .inf neg => (enc (if neg then lo else hi), true)
  | .fin x =>
    let m : Int := x.abs.roundUnits 0
    let r := if x.sign < 0 then -m else m
    if r < lo then (enc lo, true) else if hi < r then (enc hi, true) else (enc r, false)

/-- Bits of an element in a delivery format (R133). -/
def delivWidth (d : Nat) : Nat := if d = 1 then 4 else if d = 6 ∨ d = 7 then 16 else if d = 10 then 32 else 8

/-- A value in a delivery format; second result: saturated or replaced (R89, R134). -/
def deliverVal (d : Nat) (v : Val) : Nat × Bool :=
  match d with
  | 0 => deliverInt 8 (-128) 127 v
  | 1 => deliverInt 4 (-8) 7 v
  | 2 => deliverFmt fmtE4M3 v
  | 3 => deliverFmt fmtE5M2 v
  | 6 => deliverFmt fmtBF16 v
  | 7 => deliverFmt fmtF16 v
  | _ => deliverFmt fmtF32 v

/-- Elements of a delivery format packed into bytes (R133, R52). -/
def packDeliv (d : Nat) (es : List Nat) : List Byte :=
  if d = 10 then es.flatMap (leBytes 4) else packCodes (delivWidth d) es

/-- Bytes cut into delivery words; a word of no byte when there is none (R135). -/
def wordsOf (bs : List Byte) : List FeedWord :=
  (chunks 64 bs).map fun c => { data := slice c 0 64, bytes := c.length }

/-- The first word of a list replaced by its image. -/
def onFirst (f : FeedWord → FeedWord) : List FeedWord → List FeedWord
  | [] => []
  | w :: ws => f w :: ws

/-- The value of an element: its code value under the scale in force (R71, R132). -/
def elemVal (ct : Nat) (grid : List (BitVec 16)) (scale : Word) (c : Option Nat) : Val :=
  match c with
  | none => .fin (.rat Q.zero)
  | some c => (codeVal ct grid c).scale (f32Q scale)

/-- Codes that a reader counts in a tile: Bell-4 code 8, and infinities and NaNs (R76, R79). -/
def readCounts (ct : Nat) (cs : List (Option Nat)) : Nat × Nat :=
  cs.foldl (fun acc c => match c with
    | some c => (acc.1 + b2n (isBell8 ct c), acc.2 + b2n (isSpecial ct c))
    | none => acc) (0, 0)

/-- Codes read are counted in SPN_BELL8_CNT and SPN_SPECIAL_CNT (R76, R79; which reads count: DESIGN CHOICE, logs 78 and 100). -/
def Engine.countCodes (e : Engine) (n : Sp) (c : Nat × Nat) : Engine :=
  e.modSp n fun s => { s with code := { s.code with bell8 := satAdd s.code.bell8 c.1, special := satAdd s.code.special c.2 } }

/-- Elements saturated on delivery are counted in SPN_DSAT_CNT. -/
def Engine.countSat (e : Engine) (n : Sp) (k : Nat) : Engine :=
  e.modSp n fun s => { s with code := { s.code with dsat := satAdd s.code.dsat k } }

/-- Values delivered in a format: the bytes, and the elements counted as saturated. -/
def deliverAll (d : Nat) (vs : List Val) : List Byte × Nat :=
  let r := vs.map (deliverVal d)
  (packDeliv d (r.map (·.1)), (r.filter (·.2)).length)

/-- A decoded tile of a feed job becomes delivery words; the last tile's last word carries LAST
(R135, R431). -/
def Engine.feedTile (e : Engine) (n : Sp) (x : Job) (s : Strm) (cs : List (Option Nat)) : Engine :=
  let r := deliverAll s.blk.deliv (cs.map (elemVal s.ct (gridOf x.grids s.ct s.slot) s.scale))
  let ws := onFirst (fun w => { w with tileStart := true }) (wordsOf r.1)
  let fin := s.decoded + 1 == s.count
  let ws := if fin then (onFirst (fun w => { w with last := true }) ws.reverse).reverse else ws
  (e.modJob n x.id fun x => { x with words := x.words ++ ws, allFormed := fin }).countSat n r.2

/-- Source bytes and waiting clocks of a payload are counted (R142, R495). -/
def Engine.countSource (e : Engine) (n : Sp) (len waited : Nat) : Engine :=
  e.modSp n fun s => { s with srcRead := s.srcRead + len, work := { s.work with srcStall := satAdd s.work.srcStall waited } }

end Sys2Proof.Machine
end

