-- ==== Sys2Proof/Machine/Window.lean ====
section
/-! DEFINITION. Window operands: input lines of output lines, halo halves as their readers take
them, padding, and the centre-only case (R243 to R262). -/

namespace Sys2Proof.Machine

/-! ## The window block (R245 to R247, R251) -/

/-- The fields of a window block lie in their ranges (R245, R247). -/
def WindowBlk.ok (w : WindowBlk) : Bool :=
  decide (1 ≤ w.kw ∧ w.kw ≤ 15 ∧ 1 ≤ w.kh ∧ w.kh ≤ 15 ∧ 1 ≤ w.stride ∧ w.stride ≤ 8 ∧ 1 ≤ w.dil ∧ w.dil ≤ 4096 ∧
    1 ≤ w.outLines) && !(w.replicate && decide (1 < w.dil))

/-- The operand of a window or crop job: SK-D or SK-HB with TILE_ROWS 1 (R247, R263). -/
def windowOperand (h : SkeinHdr) : Bool := (h.format == 1 || h.format == 3) && h.tileRows == 1

/-- The stream was closed by a short frame (R38). -/
def SkeinHdr.short (h : SkeinHdr) : Bool := bitOf h.flags 1

/-- F': the lines of the frame as far as the job's own stream and the lower half, once opened, show
(R246, R262; how a job learns F': DESIGN CHOICE, log 135). -/
def frameEnd (b : WindowBlk) (h : SkeinHdr) (w : Window) : Nat :=
  if h.short then b.inFirst + h.dim2 else w.shortEnd.getD b.frameLines

/-- What an input line is (R246). -/
inductive LineKind where
  | pad
  | own (line : Nat)
  /-- Lines above the own stream's first line, counted up from it: 1 is the nearest. -/
  | upper (dist : Nat)
  /-- Lines below the own stream's end, counted down from it: 0 is the nearest. -/
  | lower (dist : Nat)
deriving DecidableEq, Repr

/-- The kind of a line inside the frame. -/
def insideKind (b : WindowBlk) (h : SkeinHdr) (iy : Nat) : LineKind :=
  if iy < b.inFirst then .upper (b.inFirst - iy)
  else if iy < b.inFirst + h.dim2 then .own (iy - b.inFirst)
  else .lower (iy - (b.inFirst + h.dim2))

/-- The kind of the line that tap ky of output line oy reads; under REPLICATE a padding line is the
frame's first or last line (R246, R250). -/
def lineKind (b : WindowBlk) (h : SkeinHdr) (w : Window) (oy ky : Nat) : LineKind :=
  let f := frameEnd b h w
  let p := oy * b.stride + ky * b.dil
  if p < b.padTop then (if b.replicate then insideKind b h 0 else .pad)
  else if f ≤ p - b.padTop then (if b.replicate then insideKind b h (f - 1) else .pad)
  else insideKind b h (p - b.padTop)

/-- Taps that the job delivers for each output line: KH, or the centre alone (R248, R251). -/
def WindowBlk.taps (b : WindowBlk) (w : Window) : Nat := if w.centreOnly then 1 else b.kh

/-- The kind of the line of the job's tap `tap` of its output line `line`. -/
def tapKind (b : WindowBlk) (h : SkeinHdr) (w : Window) (line tap : Nat) : LineKind :=
  lineKind b h w (b.outFirst + line) (if w.centreOnly then b.padTop / b.dil else tap)

/-- The kinds of all tap lines from a place on. -/
def kindsFrom (b : WindowBlk) (h : SkeinHdr) (w : Window) (line tap : Nat) : List LineKind :=
  (List.range b.outLines).flatMap fun l =>
    (List.range (b.taps w)).filterMap fun t =>
      if l < line ∨ (l = line ∧ t < tap) then none else some (tapKind b h w l t)

/-- A job is centre-only (R251).  The frame's last output line, which has no formula there: DESIGN CHOICE, log 137. -/
def centreOnly (b : WindowBlk) (h : SkeinHdr) : Bool :=
  let f := frameEnd b h {}
  let centre (pad k : Nat) : Bool := pad % b.dil == 0 && decide (pad / b.dil < k)
  let span := b.dil * (b.kh - 1) + 1
  let cHi := (f + b.padTop + b.padBottom - span) / b.stride * b.stride
  centre b.padTop b.kh && centre b.padLeft b.kw &&
    (b.kh ≤ 1 || decide (cHi < b.dil ∧ f ≤ b.dil)) && (b.kw ≤ 1 || decide (h.dim1 - 1 < b.dil))

/-- Needs of halo lines beyond the rings that the job names (R247). -/
def haloMissing (ks : List LineKind) (above below : Option RingDesc) : Bool :=
  ks.any fun k =>
    match k with
    | .upper d => match above with | none => true | some r => decide (r.lines < d)
    | .lower d => match below with | none => true | some r => decide (r.lines ≤ d)
    | _ => false

/-! ## Halves (R257 to R260) -/

/-- The half of a side. -/
def Window.half (w : Window) (above : Bool) : HalfRead := if above then w.above else w.below

/-- The half of a side replaced. -/
def Window.setHalf (w : Window) (above : Bool) (h : HalfRead) : Window :=
  if above then { w with above := h } else { w with below := h }

/-- Halves that no later tap line needs are released (R257). -/
def Engine.releaseUnneeded (e : Engine) (n : Sp) (x : Job) (b : WindowBlk) (h : SkeinHdr) (w : Window) : Engine :=
  let ks := if w.centreOnly then [] else kindsFrom b h w w.line w.tap
  let needs (above : Bool) : Bool := ks.any fun k => match k with | .upper _ => above | .lower _ => !above | _ => false
  let one (e : Engine) (above : Bool) : Engine :=
    if needs above then e
    else
      (e.releaseHalf n (w.half above) above).modJob n x.id fun x =>
        { x with window := x.window.map fun w => match w.half above with | .none => w | _ => w.setHalf above .released }
  one (one e true) false

/-- Where the lines of a kind are read: header, base address, and the line within the stream; none
for padding, and for a halo line that its half lacks (R262). -/
inductive LineSrc where
  | padding
  | own (line : Nat)
  | half (hdr : SkeinHdr) (base : Addr) (line : Nat)
  | notOpen (above : Bool)

/-- The source of a line (R253, R260, R262). -/
def lineSrc (w : Window) : LineKind → LineSrc
  | .pad => .padding
  | .own l => .own l
  | .upper d =>
    match w.above with
    | .opened _ a h => if d ≤ h.dim2 then .half h (Addr.parse a) (h.dim2 - d) else .padding
    | _ => .notOpen true
  | .lower d =>
    match w.below with
    | .opened _ a h => if d < h.dim2 then .half h (Addr.parse a) d else .padding
    | _ => .notOpen false

/-- First tile and number of tiles of a line of a stream with TILE_ROWS 1. -/
def lineTiles (h : SkeinHdr) (frame line : Nat) : Nat × Nat := ((frame * h.nT2 + line) * h.nT1 * h.nT0, h.nT0 * h.nT1)

/-- Places of a line's tiles in the order in which the decoder takes them: in table order, or channel tile by channel tile
under CHANNEL_BLOCK (R244). -/
def lineOrder (b : WindowBlk) (h : SkeinHdr) : List Nat :=
  if b.channelBlock then (List.range h.nT0).flatMap fun i0 => (List.range h.nT1).map fun i1 => i1 * h.nT0 + i0
  else List.range (h.nT0 * h.nT1)

/-- The frame along DIM3 that TILE_FIRST selects (DEDUCED, log 23). -/
def Strm.frame (s : Strm) : Nat := (s.hdr.tilePos s.first).2.2.2

/-! ## Forming tap lines (R248 to R250) -/

/-- The value of an element of a decoded line: column and channel, from its tiles. -/
def lineElem (h : SkeinHdr) (tiles : List (List (Option Nat))) (col chan : Nat) : Option Nat :=
  let i0 := chan / h.tileChans
  let i1 := col / h.tileCols
  let c0 := min h.tileChans (h.dim0 - i0 * h.tileChans)
  ((tiles.getD (i1 * h.nT0 + i0) []).getD ((col % h.tileCols) * c0 + chan % h.tileChans) none)

/-- The elements of a tap line that is not a padding line, in delivery order: none is zero
(R244, R248 to R250). -/
def tapElems (b : WindowBlk) (centre : Bool) (h : SkeinHdr) (tiles : List (List (Option Nat))) : List (Option Nat) :=
  let w := h.dim1
  let left := if centre then 0 else b.padLeft
  let right := if centre then 0 else b.padRight
  let at_ (i chan : Nat) : Option Nat :=
    if i < left then (if b.replicate then lineElem h tiles 0 chan else none)
    else if left + w ≤ i then (if b.replicate then lineElem h tiles (w - 1) chan else none)
    else lineElem h tiles (i - left) chan
  let cols := left + w + right
  if b.channelBlock then
    (List.range h.nT0).flatMap fun t =>
      (List.range cols).flatMap fun i =>
        (List.range (min h.tileChans (h.dim0 - t * h.tileChans))).map fun c => at_ i (t * h.tileChans + c)
  else (List.range cols).flatMap fun i => (List.range h.dim0).map fun c => at_ i c

/-- The tap line at the job's place is done: its words are queued and the place moves on; the last
tap line's last word carries LAST. -/
def Engine.putTap (e : Engine) (n : Sp) (id : Nat) (b : WindowBlk) (ws : List FeedWord) : Engine :=
  e.modJob n id fun x =>
    match x.window with
    | none => x
    | some w =>
      let tap' := w.tap + 1
      let w' := if tap' < b.taps w then { w with tap := tap' } else { w with tap := 0, line := w.line + 1 }
      let fin := w'.line == b.outLines
      let ws := if w.tap = 0 then onFirst (fun f => { f with lineStart := true }) ws else ws
      let ws := if w.centreOnly && w.line == 0 && w.tap == 0 then onFirst (fun f => { f with centreOnly := true }) ws else ws
      let all := x.words ++ ws
      let all := if fin then (onFirst (fun f => { f with last := true }) all.reverse).reverse else all
      { x with window := some w', words := all, allFormed := fin }

/-- A tap line is done, and halves that no later one needs are released (R248, R257). -/
def Engine.tapDone (e : Engine) (n : Sp) (id : Nat) (b : WindowBlk) (h : SkeinHdr) (ws : List FeedWord) : Engine :=
  let e1 := e.putTap n id b ws
  match e1.jobId? n id with
  | some x => (match x.window with | some w => e1.releaseUnneeded n x b h w | none => e1)
  | none => e1

/-- The delivery word of a padding line (R249). -/
def padWord : FeedWord := { data := List.replicate 64 0, padLine := true }

/-- The stream that the tap line of an output line and tap is read from: header, first tile of the line, scale (R260: under HEADER each
line is scaled by its own stream), and the half's base if any. -/
def lineAt (x : Job) (line tap : Nat) : Option (SkeinHdr × Nat × Word × Option Addr) :=
  match x.window, x.strA, x.desc.window with
  | some w, some s, some b =>
    match lineSrc w (tapKind b s.hdr w line tap) with
    | .own l => some (s.hdr, (lineTiles s.hdr s.frame l).1, s.scale, none)
    | .half h base l => some (h, (lineTiles h 0 l).1, if s.blk.scaleSrc = 0 then h.scale else s.scale, some base)
    | _ => none
  | _, _, _ => none

/-- Output line and tap of the k-th tap line from a place on that is read; none where a half must be opened first, or the job ends. -/
def readLine (b : WindowBlk) (h : SkeinHdr) (w : Window) : Nat → Nat → Nat → Nat → Option (Nat × Nat)
  | 0, _, _, _ => none
  | fuel + 1, k, line, tap =>
    let next := if tap + 1 < b.taps w then (line, tap + 1) else (line + 1, 0)
    if b.outLines ≤ line then none
    else
      match lineSrc w (tapKind b h w line tap) with
      | .padding => readLine b h w fuel k next.1 next.2
      | .notOpen _ => none
      | _ => if k = 0 then some (line, tap) else readLine b h w fuel (k - 1) next.1 next.2

/-- The tile that read i of the job takes: its line's stream, as `lineAt` gives it, and its place in the line.  Every line that is read
has the same number of tiles, for a half agrees with the job's own stream (R139, R260). -/
def Job.lineTile (x : Job) (i : Nat) : Option ((SkeinHdr × Nat × Word × Option Addr) × Nat) :=
  match x.window, x.strA, x.desc.window with
  | some w, some s, some b =>
    let k := max 1 (s.hdr.nT0 * s.hdr.nT1)
    let rel := i - (s.decoded - s.tiles.length)
    match readLine b s.hdr w (b.outLines * b.taps w + 1) (rel / k) w.line w.tap with
    | some p => (lineAt x p.1 p.2).map fun c => (c, c.2.1 + (lineOrder b c.1).getD (rel % k) 0)
    | none => none
  | _, _, _ => none

/-- A read of the stream whose line the job reads now. -/
def Engine.lineRead (e : Engine) (n : Sp) (x : Job) (base : Option Addr) (purpose : Nat × Nat) (off len : Nat) (row : Ecc) :
    Engine × Arrival :=
  match base with
  | some a => e.arrive n x purpose (a.plus off) len row
  | none => e.strmRead n x .a purpose off len 0x03 row

/-- A read of the stream whose line the job reads now is issued. -/
def Engine.lineAsk (e : Engine) (n : Sp) (x : Job) (base : Option Addr) (purpose : Nat × Nat) (off len : Nat) : Engine :=
  match base with
  | some a => e.jobRead n x.id purpose (a.plus off) len
  | none => e.strmAsk n x .a purpose off len

/-- The fetch unit reads the tap lines on, tile by tile in the decoder's order: payloads of tiles whose entries have passed, and
entries up to four tiles ahead of the one being decoded, of the lines that follow too (R139, R244). -/
def Engine.lineOn (e : Engine) (n : Sp) (id : Nat) : Nat → Engine
  | 0 => e
  | fuel + 1 =>
    match e.jobId? n id with
    | none => e
    | some x =>
      match x.strA with
      | none => e
      | some s =>
        if x.ended.isSome || e.heldBack n x then e
        else
          match s.entries[s.paid - s.decoded]?, x.lineTile s.paid with
          | some en, some (c, _) =>
            let e1 := e.modStrm n id .a fun s => { s with paid := s.paid + 1 }
            (if en.zero then e1 else e1.lineAsk n x c.2.2.2 (pPayload .a s.paid) en.offset en.length).lineOn n id fuel
          | _, _ =>
            if s.asked = s.decoded + s.entries.length ∧ s.asked < s.decoded + 5 then
              match x.lineTile s.asked with
              | some (c, t) =>
                (e.modStrm n id .a fun s => { s with asked := s.asked + 1 }).lineAsk n x c.2.2.2 (pEntry .a s.asked) (c.1.tableOffset + 8 * t) 8
              | none => e
            else e

/-- Reads of a job that nothing will take are dropped: those not issued go, the others are discarded (R426). -/
def Engine.dropReads (e : Engine) (n : Sp) (id : Nat) (purpose : Nat × Nat) : Engine :=
  e.modSp n fun s => { s with txns := s.txns.filterMap fun t =>
    if t.job = id ∧ t.purpose = purpose then (if t.slot.isNone then none else some { t with discarded := true }) else some t }

/-- The job moves to its next tap line: padding lines are formed without reading, the reads of the
next other line are issued, or the wait for a half begins (R249, R250, R257).  Under REPLICATE too, a line inside the frame that a half
lacks is a pad-line word (R262; DESIGN CHOICE, log 136). -/
def Engine.windowNext (e : Engine) (n : Sp) (id : Nat) : Nat → Engine
  | 0 => e
  | fuel + 1 =>
    match e.jobId? n id with
    | none => e
    | some x =>
      match x.window, x.strA, x.desc.window with
      | some w, some s, some b =>
        if x.ended.isSome then e
        else if x.allFormed then (if x.words.isEmpty then e.finish n id else e)
        else
          match lineSrc w (tapKind b s.hdr w w.line w.tap) with
          | .padding => (e.tapDone n id b s.hdr (if w.centreOnly then [] else [padWord])).windowNext n id fuel
          | .notOpen above => e.modJob n id fun x => { x with window := x.window.map fun w => { w with waiting := some above, waitFrom := some e.now } }
          | _ => e.lineOn n id 6
      | _, _, _ => e

/-- Set-up has ended: the entry and the payload of TILE_FIRST, read during set-up, serve the job's first read if that is their tile, and
are dropped otherwise.  Their tile is checked at its first use (R67, R139; that a job may drop them: DEDUCED, log 124). -/
def Engine.windowFirst (e : Engine) (n : Sp) (id : Nat) (b : WindowBlk) : Engine :=
  match e.jobId? n id with
  | none => e
  | some x =>
    match x.strA with
    | none => e
    | some s =>
      let go (e : Engine) : Engine := e.windowNext n id (b.outLines * b.kh + 1)
      match x.lineTile 0, s.entries with
      | some (c, t), en :: _ =>
        if c.2.2.2.isNone && t == s.first then (if en.ok s.hdr t then go e else e.fault n id 0x03 0 t)
        else go ((e.dropReads n id (pPayload .a 0)).modStrm n id .a fun s => { s with entries := [], asked := 0, paid := 0 })
      | _, _ => go ((e.dropReads n id (pPayload .a 0)).modStrm n id .a fun s => { s with entries := [], asked := 0, paid := 0 })

/-- The next table entry of the tap lines arrives and is checked (R67, R139). -/
def Engine.windowEntries (e : Engine) (n : Sp) (x : Job) (row : Ecc) : Engine :=
  match x.strA with
  | some s =>
    let i := s.decoded + s.entries.length
    if s.asked ≤ i then e
    else
      match x.lineTile i with
      | some (c, tile) =>
        Engine.onArrive (e.lineRead n x c.2.2.2 (pEntry .a i) (c.1.tableOffset + 8 * tile) 8 row) n x tile fun e bs =>
          let en := TileEntry.parse bs
          if en.ok c.1 tile then (e.modStrm n x.id .a fun s => { s with entries := s.entries ++ [en] }).lineOn n x.id 6
          else e.fault n x.id 0x03 0 tile
      | none => e
  | none => e

/-- The elements of a tap line, from its tiles in the decoder's order (R244, R248 to R250). -/
def tapLine (b : WindowBlk) (centre : Bool) (h : SkeinHdr) (tiles : List (List (Option Nat))) : List (Option Nat) :=
  let order := lineOrder b h
  tapElems b centre h ((List.range order.length).map fun o => tiles.getD (order.idxOf o) [])

/-- The next tile of the current tap line arrives and is decoded; with the last, the tap line is
delivered (R248, R257).  While finished words are held back nothing is decoded (R142). -/
def Engine.windowPayload (e : Engine) (n : Sp) (x : Job) (row : Ecc) (waited : Nat) : Engine :=
  match x.window, x.strA, x.desc.window with
  | some w, some s, some b =>
    match s.entries, x.lineTile s.decoded with
    | en :: rest, some ((h, _, scale, base), tile) =>
      if s.paid ≤ s.decoded || e.heldBack n x then e
      else
        let r : Engine × Arrival :=
          if en.zero then (e, .bytes []) else e.lineRead n x base (pPayload .a s.decoded) en.offset en.length row
        Engine.onArrive r n x tile fun e bs =>
          match decodeTile h tile en bs with
          | .error d => e.fault n x.id 0x04 d tile
          | .ok cs =>
            let e1 := (e.countSource n en.length waited).countCodes n (readCounts h.codeType cs)
            let tiles := s.tiles ++ [cs]
            let whole := decide (h.nT0 * h.nT1 ≤ tiles.length)
            let e2 := e1.modStrm n x.id .a fun s => { s with tiles := if whole then [] else tiles, decoded := s.decoded + 1, entries := rest }
            if !whole then e2.lineOn n x.id 6
            else
              let els := tapLine b w.centreOnly h tiles
              let r := deliverAll s.blk.deliv (els.map (elemVal h.codeType (gridOf x.grids h.codeType h.gridSlot) scale))
              ((e2.countSat n r.2).tapDone n x.id b s.hdr (wordsOf r.1)).windowNext n x.id (b.outLines * b.kh + 1)
    | _, _ => e
  | _, _, _ => e

/-- The window job's stream is open: its operand and halo needs are checked, the centre-only case
is decided, and halves that it does not need are released (R247, R251, R257).  A centre-only job reads no ring, so
that its centre lines must be its own (DEDUCED, log 82). -/
def Engine.windowOpen (e : Engine) (n : Sp) (x : Job) (b : WindowBlk) (h : SkeinHdr) : Engine :=
  let old := x.window.getD {}
  let ring (r : HalfRead) : Option RingDesc := match r with | .owed r => some r | _ => none
  let w : Window := { old with centreOnly := centreOnly b h }
  let e1 := e.modJob n x.id fun x => { x with window := some w }
  let rings := if w.centreOnly then (none, none) else (ring w.above, ring w.below)
  if !windowOperand h || haloMissing (kindsFrom b h w 0 0) rings.1 rings.2 then e1.fault n x.id 0x0E 0 0
  else e1.releaseUnneeded n x b h w

/-- A reader opens a half: its stream is opened with the checks of R67, and checked against the reader's own stream; a
SHORT lower half ends the frame (R67, R260, R262).  R260's detail 1 comes first, because the header check reads no other
stream's MAGIC; then R67's checks, then R260's others (DESIGN CHOICE, log 99). -/
def Engine.openHalf (e : Engine) (n : Sp) (x : Job) (above : Bool) (r : RingDesc) (addr : Nat) (hb : List Byte) : Engine :=
  match x.window, x.strA, x.desc.window with
  | some _, some s, some b =>
    let h := SkeinHdr.parse hb
    let o := s.hdr
    if h.magic ≠ magicSkein then e.fault n x.id 0x0F 1 0
    else if !h.ok x.grids then e.fault n x.id 0x02 0 0
    else if !decide (h.codeType = o.codeType ∧ h.dim0 = o.dim0 ∧ h.dim1 = o.dim1 ∧ h.tileChans = o.tileChans ∧ h.tileCols = o.tileCols)
    then e.fault n x.id 0x0F 2 0
    else if s.blk.scaleSrc = 2 ∧ h.scale ≠ o.scale then e.fault n x.id 0x0F 3 0
    else
      let put (w : Window) : Window :=
        { w.setHalf above (.opened r addr h) with
          waiting := none, waitFrom := none, shortEnd := if !above && h.short then some (b.inFirst + o.dim2 + h.dim2) else w.shortEnd }
      (e.modJob n x.id fun x => { x with window := x.window.map put }).windowNext n x.id (b.outLines * b.kh + 1)
  | _, _, _ => e

/-- The magic of a spill marker (R258). -/
def magicSpill : Nat := 0x4C505348

/-- The reader of a half whose READY knot has reached r + 1 reads its header, at the spill place
when the marker stands in the ring (R257, R258). -/
def Engine.readyHalf (e : Engine) (n : Sp) (x : Job) : Engine :=
  match x.window, x.desc.window with
  | some w, some b =>
    match w.waiting with
    | none => e
    | some above =>
      let go (r : RingDesc) : Engine :=
        if (e.knot (r.ready above)).count.toNat < b.round + 1 then e
        else
          let addr := r.halfAddr b.round above
          match e.placeFault n false (Addr.parse addr) 64 with
          | some (f, d) => e.fault n x.id f d 0
          | none =>
            let hb := e.readAt (Addr.parse addr) 64
            if fieldAt hb 0 4 = magicSpill then
              (e.modJob n x.id fun x => { x with window := x.window.map fun w => w.setHalf above (.spilled r) }).jobRead n x.id
                (pHalf (b2n above)) (Addr.parse (r.spillPlace b.round above)) 64
            else e.openHalf n x above r addr hb
      match w.half above with
      | .owed r => go r
      | .spilled r =>
        let addr := r.spillPlace b.round above
        Engine.onArrive (e.arrive n x (pHalf (b2n above)) (Addr.parse addr) 64 .ok) n x 0 fun e hb => e.openHalf n x above r addr hb
      | _ => e
  | _, _ => e

/-- `waited` clocks of a reader's wait are counted (R257). -/
def Engine.countHaloWait (e : Engine) (n : Sp) (waited : Nat) : Engine :=
  e.modSp n fun s => { s with work := { s.work with haloWait := satAdd s.work.haloWait waited } }

/-- HALO_READY_WAIT_END: the half that the job waits for is ready, opened and checked. -/
def execHaloReadyWaitEnd (n : Sp) (j waited : Nat) (s : State) : Host.Outcome State Fault Refusal :=
  done (s.onEng fun e => e.withJob n j fun x =>
    match x.window, x.desc.window with
    | some w, some b =>
      match w.waiting with
      | some above =>
        match w.half above with
        | .owed r =>
          if (e.knot (r.ready above)).count.toNat < b.round + 1 then e
          else
            ((e.countHaloWait n waited).modJob n x.id fun x => { x with window := x.window.map fun w => { w with waitFrom := none } }).readyHalf n x
        | _ => e.readyHalf n x
      | none => e
    | _, _ => e)

end Sys2Proof.Machine
end

