-- ==== Sys2Proof/Machine/Draft.lean ====
section
/-! DEFINITION. Carding and drafting: statistics, the choice of a scale, narrowing, the Comber,
the writing of streams, Carder records, scale groups, step sets and halo halves (R35, R102 to
R124, R174, R193 to R205, R255 to R258). -/

namespace Sys2Proof.Machine

/-! ## The source -/

/-- Bytes of a source element: 4 from the Ply array, else by SRC_TYPE (R102). -/
def srcBytes (d : Desc) (b : DraftBlk) : Nat := if d.srcKind = 3 ∨ b.srcType = 0 then 4 else 2

/-- The value of a source element (R104, R128). -/
def srcVal (d : Desc) (b : DraftBlk) (dr : Draft) (bs : List Byte) : Val :=
  let w := leNat bs
  if d.srcKind = 3 then
    (if dr.plyInt then Val.fin (.rat (Q.ofInt (toSigned 32 w))) else f32Val (w32 w)).scale (f32Q dr.plyScale)
  else
    match b.srcType with
    | 0 => f32Val (w32 w)
    | 1 => fmtBF16.val w
    | _ => fmtF16.val w

/-- DIM2 of the stream: the lines of a closed ingest stream, when fewer (R40). -/
def Draft.dim2 (dr : Draft) : Nat := match dr.lines with | some l => min l dr.shape.dim2 | none => dr.shape.dim2

/-- The frame closed the stream with fewer lines than its shape. -/
def Draft.isShort (dr : Draft) : Bool := decide (dr.dim2 < dr.shape.dim2)

/-- N: the elements that the job narrows (R105). -/
def Draft.n (dr : Draft) : Nat := dr.shape.dim0 * dr.shape.dim1 * dr.dim2 * dr.shape.dim3

/-- The source is read twice (R109, R113). -/
def DraftBlk.twoPass (b : DraftBlk) : Bool := b.scaleMode == 1 || b.scaleMode == 2

/-! ## The Carder (R104 to R107) -/

/-- The bin of a finite element (R104). -/
def binOf (base : Int) (q : Q) : Nat :=
  if q.isZero then 0 else (max 1 (min 62 (floor2Log2 q.abs - 2 * base + 1))).toNat

/-- The Carder takes one element (R104 to R106). -/
def Carder.add (c : Carder) (base : Int) (v : Val) : Carder :=
  let inc (i : Nat) : List Nat := setAt c.bins i (c.bins.getD i 0 + 1)
  match v with
  | .nan => { c with n := c.n + 1, nans := c.nans + 1 }
  | .inf _ => { c with n := c.n + 1, bins := inc 63 }
  | .fin (.rat q) =>
    let a := w32 (min (fmtF32.roundMag (.rat q.abs)) fmtF32.maxCode)
    { c with n := c.n + 1, bins := inc (binOf base q), absmax := if c.absmax.toNat < a.toNat then a else c.absmax }
  | .fin _ => { c with n := c.n + 1 }

/-! ## The scale (R108 to R112) -/

/-- E(b): the smallest binary32 value not below the upper edge of bin b (R110). -/
def binEdge (base : Int) (b : Nat) : Word :=
  if b % 2 = 0 then f32Ceil (Q.pow2 (base + (b / 2 : Nat)))
  else f32Ceil ((Q.ofInt 0xB504F4).mul (Q.pow2 (base + (b / 2 : Nat) - 23)))

/-- The walk of R110 over the bins from b down. -/
def clipWalk (base : Int) (bins : List Nat) (absmax : Word) (allowed : Nat) : Nat → Nat → Word
  | 0, _ => if (binEdge base 1).toNat < absmax.toNat then binEdge base 1 else absmax
  | b + 1, above =>
    if allowed < above + bins.getD (b + 1) 0 then
      if b + 1 = 62 then absmax
      else if (binEdge base (b + 1)).toNat < absmax.toNat then binEdge base (b + 1) else absmax
    else clipWalk base bins absmax allowed b (above + bins.getD (b + 1) 0)

/-- The clip point of CLIP_TARGET mode (R110). -/
def clipPoint (b : DraftBlk) (c : Carder) : Word :=
  let allowed := b.clipTarget * c.n / 65536
  if allowed < c.bins.getD 63 0 then c.absmax else clipWalk b.histBase c.bins c.absmax allowed 62 (c.bins.getD 63 0)

/-- The reach of a target with a rational reach (R108). -/
def reachOf (ct : Nat) (grid : List (BitVec 16)) : Q :=
  match ct with
  | 0 => Q.ofInt 127
  | 1 => Q.ofInt 7
  | 2 => Q.ofInt 448
  | 3 => Q.ofInt 57344
  | 5 =>
    let vs := (List.range 16).map (gridVal grid)
    let pos := vs.foldl (fun m v => if m.lt v then v else m) Q.zero
    let neg := vs.foldl (fun m v => if m.lt v.neg then v.neg else m) Q.zero
    if pos.isZero then neg else if neg.isZero then pos else if pos.lt neg then pos else neg
  | _ => Q.ofInt 1

/-- The smallest binary32 bits from 2^-126 on that satisfy a monotone test, bit by bit. -/
def leastBits (ok : Nat → Bool) : Nat → Nat → Nat
  | 0, acc => acc
  | k + 1, acc => if ok (acc + 2 ^ k - 1) then leastBits ok k acc else leastBits ok k (acc + 2 ^ k)

/-- The scale of a clip point: the smallest binary32 s with P / s ≤ T, at least 2^-126; 1.0 when P
is zero (R111).  Where no binary32 s is that large, it is a free scale word (R90; DESIGN CHOICE, log 88). -/
def scaleFrom (ct : Nat) (grid : List (BitVec 16)) (p : Word) : Word :=
  let raise (w : Word) : Word := if w.toNat < 0x00800000 then 0x00800000 else w
  if p = 0 then f32One
  else if ct = 8 then
    let p16 := (f32Q p).pow 16
    raise (w32 (leastBits (fun w => p16.le (((f32Q (w32 w)).pow 16).mul (Q.pow2 15))) 31 0))
  else
    let t := reachOf ct grid
    let s := (f32Q p).div t
    if t.isZero then f32One
    else if (fmtF32.magVal fmtF32.maxCode).lt s then w32 (0x00800000 + Config.scaleBeyond p t.num t.den % 0x7F000000)
    else raise (f32Ceil s)

/-- The scale that the statistics of a two-pass job give (R109 to R111). -/
def chooseScale (grids : Tab (List (BitVec 16))) (b : DraftBlk) (c : Carder) : Word :=
  if b.codeType = 6 ∨ b.codeType = 7 then f32One
  else scaleFrom b.codeType (gridOf grids b.codeType b.gridSlot) (if b.scaleMode = 1 then c.absmax else clipPoint b c)

/-- The scale of a one-pass job and whether it fell back (R109, R112). -/
def givenScale (e : Engine) (b : DraftBlk) : Word × Bool :=
  let cal := if b.scaleMode = 3 then
      let cls := Tab.getD e.conf.classes b.tensorClass {}
      if cls.codeType = b.codeType ∧ cls.gridSlot = b.gridSlot then Tab.get? e.tel.cal b.tensorClass else none
    else none
  let r := match cal with
    | some k => (k.scale, false)
    | none => (b.givenScale, b.scaleMode == 3)
  if b.codeType = 6 ∨ b.codeType = 7 then (f32One, r.2) else r

/-! ## Writing the stream (R35, R375) -/

/-- A part of the job's stream is written: DST_SPACE bounds a direct address (R375).  A DST_ADDR that is no multiple of 64 is
taken as it is (R30; DESIGN CHOICE, log 109). -/
def Engine.draftWrite (e : Engine) (n : Sp) (x : Job) (purpose : Nat × Nat) (off : Nat) (bs : List Byte) : Engine :=
  let a := Addr.parse x.desc.dstAddr
  let direct := match a with | .placed _ _ => false | _ => true
  if direct && decide (x.desc.dstSpace < off + bs.length) then e.fault n x.id 0x16 1 0
  else e.jobWrite n x.id purpose (a.plus off) bs

/-- The header of a job's stream (R36 to R40, R121). -/
def draftHeader (b : DraftBlk) (dr : Draft) (share tableOffset : Nat) : SkeinHdr :=
  let s := dr.shape
  let s24 := b.format == 2
  let h : SkeinHdr :=
    { magic := magicSkein, format := b.format, codeType := b.codeType, version := 1, ndim := s.ndim
      flags := 1 + 2 * b2n dr.isShort + 4 * b2n (s24 && b.verify) + 8 * b2n (s24 && b.comb)
      tileRows := s.tileRows, tileCols := s.tileCols, tileChans := s.tileChans
      dim0 := s.dim0, dim1 := s.dim1, dim2 := dr.dim2, dim3 := s.dim3, elements := dr.n
      scale := dr.scale.getD f32One, absmax := dr.carder.absmax, clipShare := share, histMode := dr.carder.mode
      gridSlot := if b.codeType = 5 then b.gridSlot else 0, tableOffset := tableOffset }
  { h with tileCount := h.tiles }

/-- The clip share (R121). -/
def Draft.share (dr : Draft) : Nat := if dr.n = 0 then 0 else min 65535 (dr.clipped * 65536 / dr.n)

/-- Where the tile table begins (R35). -/
def Draft.tableAt (dr : Draft) : Nat := roundUp (max 64 dr.cursor) 8

/-- The header of a job that has drafted everything is written (R35, R205). -/
def Engine.writeHeader (e : Engine) (n : Sp) (x : Job) (b : DraftBlk) (dr : Draft) : Engine :=
  (e.modJob n x.id fun x => { x with draft := x.draft.map fun d => { d with phase := .header } }).draftWrite n x wHeader 0
    (draftHeader b dr dr.share dr.tableAt).toBytes

/-- Every write of the stream is acknowledged, and the Carder record is written, so the header may be (R35, R124). -/
def Engine.mayHead (e : Engine) (n : Sp) (x : Job) : Bool :=
  !e.writesOut n x [32] && !x.held.any fun h => h.purpose == wStats

/-- A stream's header is written once its other writes are acknowledged and the Carder record is written; a step set's waits for its
commit (R35, R124, R205). -/
def Engine.draftHead (e : Engine) (n : Sp) (id : Nat) : Engine :=
  match e.jobId? n id with
  | some x =>
    match x.draft, x.desc.draft with
    | some dr, some b =>
      if dr.phase == .setWait && x.ended.isNone && !x.desc.step && e.mayHead n x then e.writeHeader n x b dr else e
    | _, _ => e
  | none => e

/-- Tiles whose elements are all narrowed are written in tile order (R35, R50). -/
def Engine.emitTiles (e : Engine) (n : Sp) (x : Job) (b : DraftBlk) : Nat → Draft → Engine
  | 0, _ => e
  | fuel + 1, dr =>
    let h := draftHeader b dr 0 0
    let t := dr.entries.length
    let els := h.tileElems t
    if h.tiles ≤ t ∨ !(els.all fun i => decide (i < dr.drafted)) then e
    else
      let codes := dr.codes.toArray
      let (c0, c1, _) := h.tileExt t
      match encodeTile b.format b.codeType c0 c1 (els.map fun i => codes.getD i 0) with
      | none =>
        let dr' := { dr with entries := dr.entries ++ [⟨0, 0, true⟩] }
        (e.modJob n x.id fun x => { x with draft := some dr' }).emitTiles n x b fuel dr'
      | some bs =>
        let off := roundUp dr.cursor 64
        let dr' := { dr with entries := dr.entries ++ [⟨off, bs.length, false⟩], cursor := off + bs.length }
        let e1 := (e.modJob n x.id fun x => { x with draft := some dr' }).draftWrite n x wStream dr.cursor
          (List.replicate (off - dr.cursor) 0 ++ bs)
        match e1.jobId? n x.id with
        | some y => if y.ended.isSome then e1 else e1.emitTiles n x b fuel dr'
        | none => e1

/-! ## Halo halves (R255 to R258) -/

/-- A half: `count` lines of the job's codes from line `first` on, as a stream (R255).  Its NDIM and its empty statistics, which R255 does
not give: DESIGN CHOICE, log 128. -/
def halfStream (b : DraftBlk) (dr : Draft) (first count : Nat) : List Byte :=
  let s := dr.shape
  let fmt := if b.format = 1 then 1 else 3
  let h0 : SkeinHdr :=
    { magic := magicSkein, format := fmt, codeType := b.codeType, version := 1, ndim := max 3 s.ndim
      flags := 2 * b2n dr.isShort, tileRows := 1, tileCols := s.tileCols, tileChans := s.tileChans
      dim0 := s.dim0, dim1 := s.dim1, dim2 := count, dim3 := 1, elements := s.dim0 * s.dim1 * count
      scale := dr.scale.getD f32One, gridSlot := if b.codeType = 5 then b.gridSlot else 0 }
  let codes := dr.codes.toArray
  let r := (List.range h0.tiles).foldl (fun (acc : List Byte × List TileEntry) t =>
    let (c0, c1, _) := h0.tileExt t
    match encodeTile fmt b.codeType c0 c1 ((h0.tileElems t).map fun i => codes.getD (first * s.dim0 * s.dim1 + i) 0) with
    | none => (acc.1, acc.2 ++ [⟨0, 0, true⟩])
    | some bs => let p := padTo 64 acc.1; (p ++ bs, acc.2 ++ [⟨64 + p.length, bs.length, false⟩])) ([], [])
  let body := padTo 8 r.1
  ({ h0 with tileCount := h0.tiles, tableOffset := 64 + body.length }).toBytes ++ body ++ r.2.flatMap TileEntry.toBytes

/-- The halves of a publisher are formed from its codes (R255, R256, R262). -/
def formHalves (b : DraftBlk) (dr : Draft) (hs : List HalfOut) : List HalfOut :=
  hs.map fun h =>
    let k := min h.ring.lines dr.dim2
    { h with bytes := some (halfStream b dr (if h.down then dr.dim2 - k else 0) k) }

/-- The slot of a round is free for its publisher (R257). -/
def Engine.slotFree (e : Engine) (r : RingDesc) (round : Nat) : Bool :=
  decide (round < r.slots) ||
  (decide (round + 1 ≤ (e.knot r.freeDown).count.toNat + r.slots) && decide (round + 1 ≤ (e.knot r.freeUp).count.toNat + r.slots))

/-- A spill marker (R258). -/
def spillMarker : List Byte := leBytes 4 magicSpill ++ leBytes 60 0

/-- A half goes to its place in the ring, or whole to its spill place with a marker in the ring (R258).  Its address, and the whole
of what is written there, is checked first (R271, R272, R283); where the half of a job that has ended has no place, nothing is
written and the duty counts as met (log 96). -/
def Engine.writeHalf (e : Engine) (n : Sp) (x : Job) (i : Nat) (h : HalfOut) (round : Nat) (bs : List Byte) : Engine :=
  let a := Addr.parse (h.ring.halfAddr round h.down)
  let away := Addr.parse (h.ring.spillPlace round h.down)
  let mark (e : Engine) : Engine := e.modJob n x.id fun x => { x with halves := setAt x.halves i { h with written := true } }
  let long := decide (h.ring.halfSize < bs.length)
  if long && decide (h.ring.spillSize < bs.length) then e.fault n x.id 0x16 4 0
  else
    match (if long then (e.writeFault n away bs.length).or (e.writeFault n a 64) else e.writeFault n a bs.length) with
    | some (f, d) => if x.ended.isSome then mark e else e.fault n x.id f d 0
    | none =>
      let put (e : Engine) (a : Addr) (bs : List Byte) : Engine := e.putDuty n x.id (wHalf i) a bs
      if long then
        ((put (put (mark e) away bs) a spillMarker).spill n 0xFFFF 4 1 2 bs.length x.desc.tag).modJob n x.id fun x => { x with spilled := true }
      else put (mark e) a bs

/-- The round of a publisher. -/
def Job.round (x : Job) : Nat := match x.desc.publish with | some p => p.round | none => 0

/-- The most bytes that a half of `count` lines can take: its header, its table, and every tile with all its elements present
(R255). -/
def halfMost (b : DraftBlk) (s : ShapeBlk) (count : Nat) : Nat :=
  let h : SkeinHdr := { format := if b.format = 1 then 1 else 3, codeType := b.codeType, ndim := max 3 s.ndim, tileRows := 1, tileCols := s.tileCols,
                        tileChans := s.tileChans, dim0 := s.dim0, dim1 := s.dim1, dim2 := count, dim3 := 1 }
  let one (t : Nat) : Nat :=
    let (c0, c1, c2) := h.tileExt t
    let n := c0 * c1 * c2
    let codes := ceilDiv (n * ctWidth b.codeType) 8
    roundUp (if h.format = 1 then codes else 34 * ceilDiv n 256 + codes + ceilDiv n 256) 64
  64 + 8 * h.tiles + ((List.range h.tiles).map one).sum

/-- Bytes that a publisher claims at its start for halves it may have to stage (R257, R288): of a round that may wait, each half's
greatest length, up to HALF_SIZE, beyond which it is no working space (DESIGN CHOICE, log 104). -/
def Engine.stagedBytes (d : Desc) (hs : List HalfOut) : Nat :=
  match d.draft, d.shape, d.publish with
  | some b, some s, some p =>
    (hs.map fun h => if p.round < h.ring.slots then 0 else min h.ring.halfSize (halfMost b s (min h.ring.lines s.dim2))).sum
  | _, _, _ => 0

/-- Halves that wait for their slot are staged: those whose claim took scratch space are written there, one after the other (R257,
R289). -/
def Engine.stageHalves (e : Engine) (n : Sp) (id round : Nat) (hs : List HalfOut) : Engine :=
  (hs.foldl (fun (acc : Engine × Nat) h =>
    let bs := h.bytes.getD []
    if e.slotFree h.ring round || decide (h.ring.halfSize < bs.length) then acc
    else (acc.1.putScratch n id 1 acc.2 bs, acc.2 + bs.length)) (e, 0)).1

/-! ## The end of the Drafter's pass -/

/-- Every element is drafted and every tile written: the table and the Carder record follow, then
the header, unless a step set waits for its other jobs (R35, R121, R123, R124, R205).  A STATS_ADDR that is no multiple of 64
is taken as it is (DESIGN CHOICE, log 110). -/
def Engine.draftEnd (e : Engine) (n : Sp) (id : Nat) : Engine :=
  match e.jobId? n id with
  | none => e
  | some x =>
    match x.draft, x.desc.draft with
    | some dr, some b =>
      let h := draftHeader b dr 0 0
      if x.ended.isSome || decide (dr.drafted < dr.n) || decide (dr.entries.length < h.tiles) || dr.n == 0 ||
          !(dr.phase == .drafting || (dr.phase == .carding && !b.twoPass)) then e
      else
        let e0 := e.modSp n fun s => { s with code := { s.code with lastShare := BitVec.ofNat 16 dr.share } }
        let hs := formHalves b dr x.halves
        let e1 := (e0.modJob n id fun x => { x with halves := hs, draft := x.draft.map fun d => { d with phase := .setWait } }).stageHalves n id x.round hs
        let e2 := e1.draftWrite n x wStream (max 64 dr.cursor)
          (List.replicate (dr.tableAt - max 64 dr.cursor) 0 ++ dr.entries.flatMap TileEntry.toBytes)
        let e3 := if b.statsAddr = 0 then e2
          else e2.jobWrite n id wStats (Addr.parse b.statsAddr)
            (carderBytes b dr.carder (dr.scale.getD f32One) dr.clipped dr.share false dr.calFallback dr.grouped)
        e3.draftHead n id
    | _, _ => e

/-! ## Carding -/

/-- Elements of the next 32 bytes of source from element k on. -/
def chunkLen (d : Desc) (b : DraftBlk) (dr : Draft) (k : Nat) : Nat := min (32 / srcBytes d b) (dr.n - k)

/-- A pass of a job on a unit arrives with its source (R203): the Carder's (`draft` false) or the
Drafter's. -/
def arriving (d : Desc) (b : DraftBlk) (draft : Bool) : Bool := (d.srcKind == 2 || d.srcKind == 4) && (!draft || !b.twoPass)

/-- The bytes that a pass reads first are at hand: a one-pass Drafter follows its Carder, and the Ply array's values come as it
drains (R114, R203). -/
def sourceAtHand (x : Job) (b : DraftBlk) (dr : Draft) (draft : Bool) : Bool :=
  if draft && !b.twoPass then decide (dr.drafted + chunkLen x.desc b dr dr.drafted ≤ dr.carded)
  else !(x.desc.srcKind == 3 && !draft) || decide ((dr.carded + chunkLen x.desc b dr dr.carded) * srcBytes x.desc b ≤ dr.src.length)

/-- What a job's Carder (or Drafter) pass is: `some (arriving, started)` while one is due, a stored pass only once its source is at
hand (R203). -/
def passState (x : Job) (draft : Bool) : Option (Bool × Bool) :=
  match x.draft, x.desc.draft with
  | some dr, some b =>
    let due := if draft then (dr.phase == .drafting || (dr.phase == .carding && !b.twoPass)) && decide (dr.drafted < dr.n)
      else dr.phase == .carding && decide (dr.carded < dr.n)
    let started := decide (0 < if draft then dr.drafted else dr.carded)
    let arr := arriving x.desc b draft
    if x.acts && due && (arr || started || sourceAtHand x b dr draft) then some (arr, started) else none
  | _, _ => none

/-- Return tag of a drafting job; jobs without one come after (R203). -/
def tagRank (d : Desc) : Nat := if d.srcKind = 2 then d.srcTag else 4

/-- A job's pass may read on a unit now (R203): an arriving pass always; a stored one when it has
begun, or when no other pass holds the unit and the job is the first that is ready. -/
def Engine.mayPass (e : Engine) (n : Sp) (x : Job) (draft : Bool) : Bool :=
  match passState x draft with
  | none => false
  | some (true, _) => true
  | some (false, true) => true
  | some (false, false) =>
    let others := (e.sp n).jobs.filter fun y => y.id != x.id && (passState y draft).isSome
    (others.all fun y => passState y draft == some (false, false)) &&
    (others.all fun y => decide (tagRank x.desc < tagRank y.desc) || (tagRank x.desc == tagRank y.desc && decide (x.id < y.id)))

/-- The address of an ADDR source's element (R352). -/
def srcAddrOf (d : Desc) (b : DraftBlk) (k : Nat) : Addr := (Addr.parse d.srcAddr).plus (k * srcBytes d b)

/-- Whether the Drafter's second pass reads the stored source back from scratch space, and where (R114, R289). -/
def Job.storedAt (x : Job) (b : DraftBlk) : Option Nat :=
  match x.draft with
  | some dr => if x.desc.srcKind != 1 && b.twoPass && dr.phase == .drafting then x.spot 0 else none
  | none => none

/-- The next 32 bytes of a source in memory, or stored in a memory slice, are asked for (R113, R114). -/
def Engine.askSource (e : Engine) (n : Sp) (id k : Nat) : Engine :=
  match e.jobId? n id with
  | none => e
  | some x =>
    match x.draft, x.desc.draft with
    | some dr, some b =>
      let len := chunkLen x.desc b dr k * srcBytes x.desc b
      if dr.n ≤ k then e
      else if x.desc.srcKind = 1 then e.jobRead n id (pCarder k) (srcAddrOf x.desc b k) len
      else
        match x.storedAt b with
        | some p => e.issue n id false (pCarder k) (e.memLines (e.scratchAddr n p (k * srcBytes x.desc b)) len)
        | none => e
    | _, _ => e

/-- The rows of the working banks that a run of the stored source touches (R277, R288, R496). -/
def bankRows (n : Sp) (banks : List Nat) (off len : Nat) : List RowAt :=
  (List.range (lineCount off len)).map fun i => let a := (off / 64 + i) * 64; (1, n.val, banks.getD (a / 32768) 0 * 512 + a % 32768 / 64)

/-- The chunk of the source at element `k`: from memory, as it comes, or from where it was stored (R113, R114, R289). -/
def Engine.sourceChunk (e : Engine) (n : Sp) (x : Job) (b : DraftBlk) (dr : Draft) (k : Nat) (stored : Bool) (row : Ecc) :
    Engine × Arrival :=
  let w := srcBytes x.desc b
  let len := chunkLen x.desc b dr k * w
  if x.desc.srcKind = 1 then e.arrive n x (pCarder k) (srcAddrOf x.desc b k) len row
  else if dr.src.length < k * w + len ∨ (e.sp n).waitsFor x.id (pCarder k) then (e, .wait)
  else
    let spot := if stored then x.storedAt b else none
    let bytes (e : Engine) : List Byte := match spot with
      | some p => e.readAt (e.scratchAddr n p (k * w)) len
      | none => slice dr.src (k * w) len
    let r : Engine × Bool := if !stored then (e, false) else match spot with
      | some p => e.readSram (e.scratchAddr n p (k * w)) len row
      | none => e.readRows (bankRows n x.srcBanks (k * w) len) row false
    let code := match spot with | some p => e.storeCode (e.scratchAddr n p (k * w)) | none => 1
    if r.2 then (r.1, .bad 0x19 code) else (r.1, .bytes (bytes r.1))

/-- The Carder's pass is over: a group member's slot is written (R116). -/
def Engine.carded (e : Engine) (n : Sp) (id : Nat) : Engine :=
  match e.jobId? n id with
  | none => e
  | some x =>
    match x.draft, x.desc.draft with
    | some dr, some b =>
      if dr.phase == .carding && b.group && dr.carded == dr.n && dr.n != 0 then
        (e.modJob n id fun x => { x with draft := x.draft.map fun d => { d with phase := .slot } }).jobWrite n id wSlot (b.slotAddr b.groupIndex)
          (carderBytes b dr.carder 0 0 0 false false false)
      else e
    | _, _ => e

/-- CARDER_SOURCE_READ: the Carder reads 32 bytes of source and bins each element (R104, R113). -/
def execCarderSourceRead (n : Sp) (j : Nat) (row : Ecc) (s : State) : Host.Outcome State Fault Refusal :=
  done (s.onEng fun e => e.withJob n j fun x =>
    match x.draft, x.desc.draft with
    | some dr, some b =>
      if !e.mayPass n x false then e
      else
        Engine.onArrive (e.sourceChunk n x b dr dr.carded false row) n x 0 fun e bs =>
          let vs := (chunks (srcBytes x.desc b) bs).map (srcVal x.desc b dr)
          let k := dr.carded + vs.length
          let e1 := e.modJob n x.id fun x => { x with draft := x.draft.map fun d =>
            { d with carded := k, carder := vs.foldl (fun c v => c.add b.histBase v) d.carder } }
          let e2 := e1.modSp n fun s => { s with srcRead := s.srcRead + bs.length }
          let e3 := if b.twoPass && x.desc.srcKind != 1 then e2.putScratch n x.id 0 (dr.carded * srcBytes x.desc b) bs else e2
          (e3.askSource n x.id k).carded n x.id
    | _, _ => e)

/-- The Drafter's pass of a two-pass job begins (R113, R115). -/
def Engine.beginDrafting (e : Engine) (n : Sp) (id : Nat) (scale : Word) : Engine :=
  (e.modJob n id fun x => { x with draft := x.draft.map fun d => { d with phase := .drafting, scale := some scale } }).askSource n id 0

/-- SCALE_CHOSEN: the bins have settled and the scale is formed (R107, R110, R111, R115). -/
def execScaleChosen (n : Sp) (j : Nat) (s : State) : Host.Outcome State Fault Refusal :=
  done (s.onEng fun e => e.withJob n j fun x =>
    match x.draft, x.desc.draft with
    | some dr, some b =>
      if dr.phase == .carding && b.twoPass && !b.group && dr.carded == dr.n && dr.n != 0 then
        e.beginDrafting n x.id (chooseScale x.grids b dr.carder)
      else e
    | _, _ => e)

/-! ## Scale groups (R116 to R119) -/

/-- GROUP_SLOT_WRITE_ACK: the slot write is acknowledged, and GROUP_KNOT is incremented; a job that
stopped counts its void slot so (R116, R119). -/
def execGroupSlotWriteAck (n : Sp) (j : Nat) (s : State) : Host.Outcome State Fault Refusal :=
  done (s.onEng fun e =>
    match e.job? n j with
    | some x =>
      match x.draft, x.desc.draft with
      | some dr, some b =>
        if e.live && dr.phase == .slot && !dr.knotDone && !e.writesOut n x [35] then
          (e.modJob n x.id fun x => { x with draft := x.draft.map fun d => { d with phase := .groupWait, knotDone := true } }).knotIssue
            (.spindle n.val) b.groupKnot .add 1
        else e
      | _, _ => e
    | none => e)

/-- The fields of a slot that its members must agree in (R118). -/
def slotKey (bs : List Byte) : List Nat := [fieldAt bs 0x23 1, fieldAt bs 0x24 1, fieldAt bs 0x25 1, fieldAt bs 0x28 1, fieldAt bs 0x2A 2]

/-- The slots of a group merged in ascending order; none when they break R118 (R117, R118). -/
def mergeSlots (count : Nat) (slots : List (List Byte)) : Option Carder :=
  let live := slots.filter fun b => !bitOf (fieldAt b 0x27 1) 0
  let same := match live with | [] => true | b :: bs => bs.all fun c => slotKey c == slotKey b
  if !same || live.any (fun b => fieldAt b 0x29 1 != count) then none
  else
    some (live.foldl (fun c b =>
      { n := c.n + fieldAt b 0 8, nans := c.nans + fieldAt b 8 8
        bins := (List.range 64).map fun i => c.bins.getD i 0 + fieldAt b (64 + 8 * i) 8
        absmax := if c.absmax.toNat < fieldAt b 0x18 4 then w32 (fieldAt b 0x18 4) else c.absmax }) {})

/-- GROUP_WAIT_END: GROUP_KNOT has reached GROUP_COUNT; the slots are read, merged and the shared
scale is chosen (R117, R118). -/
def execGroupWaitEnd (n : Sp) (j : Nat) (s : State) : Host.Outcome State Fault Refusal :=
  done (s.onEng fun e => e.withJob n j fun x =>
    match x.draft, x.desc.draft with
    | some dr, some b =>
      if dr.phase == .groupWait && decide (b.groupCount ≤ (e.knot b.groupKnot).count.toNat) then
        let len := 576 * b.groupCount
        let e1 := if dr.asked then e
          else (e.modJob n x.id fun x => { x with draft := x.draft.map fun d => { d with asked := true } }).jobRead n x.id pSlots (b.slotAddr 0) len
        match e1.jobId? n x.id with
        | some y =>
          if y.ended.isSome then e1
          else
            Engine.onArrive (e1.arrive n y pSlots (b.slotAddr 0) len .ok) n y 0 fun e bs =>
              match mergeSlots b.groupCount (chunks 576 bs) with
              | none => e.fault n y.id 0x06 0 0
              | some c =>
                (e.modJob n y.id fun x => { x with draft := x.draft.map fun d => { d with grouped := true } }).beginDrafting n y.id
                  (chooseScale x.grids b c)
        | none => e1
      else e
    | _, _ => e)

/-! ## Drafting (R120 to R124, R174, R193 to R199) -/

/-- What narrowing a run of elements came to. -/
structure Narrowing where
  codes : List Nat := []
  clipped : Nat := 0
  nans : Nat := 0
  uflow : Nat := 0
  combDrop : Nat := 0
  extra : Nat := 0
  /-- Verify mode found a third non-zero (R174). -/
  slub : Bool := false
deriving DecidableEq, Repr

/-- A finite value that is not zero (R193). -/
def Val.nonzeroFinite : Val → Bool
  | .fin x => x.sign != 0
  | _ => false

/-- A value that is not zero, NaN included (R196). -/
def Val.nonzero : Val → Bool
  | .fin x => x.sign != 0
  | _ => true

/-- One narrowed element added to a run: its code, its counts, and whether its clip counts. -/
def Narrowing.take (r : Narrowing) (v : Val) (m : Narrowed) (code : Nat) (clip : Bool) : Narrowing :=
  { r with codes := r.codes ++ [code], clipped := r.clipped + b2n (clip && m.clipped), nans := r.nans + b2n m.nan
           uflow := r.uflow + b2n (v.nonzeroFinite && m.code == 0) }

/-- `a` ranks above `b` in the Comber, ties aside (R195). -/
def ranksAbove (a b : Val) : Bool :=
  match a, b with
  | .nan, .nan => false
  | .nan, _ => true
  | _, .nan => false
  | .inf _, .inf _ => false
  | .inf _, _ => true
  | _, .inf _ => false
  | .fin x, .fin y => decide (0 < (x.abs.add y.abs.neg).sign)

/-- Position i of a group is kept by the Comber: fewer than two elements rank before it (R195). -/
def combKeeps (vs : List Val) (i : Nat) : Bool :=
  let v (k : Nat) : Val := vs.getD k (.fin (.rat Q.zero))
  decide (((List.range 4).filter fun k => k != i &&
    (ranksAbove (v k) (v i) || (!ranksAbove (v i) (v k) && decide (k < i)))).length < 2)

/-- A group of four of an SK-S24 stream narrowed.  One that fails the verify check is selected from by nothing, so that no element of it
counts as dropped; its NaN sources and clips count, all four having been narrowed (R174, R193 to R197; the latter: DESIGN CHOICE, log
125). -/
def narrowGroup (b : DraftBlk) (nar : Val → Narrowed) (r : Narrowing) (vs : List Val) : Narrowing :=
  let ms := vs.map nar
  let m (i : Nat) : Narrowed := ms.getD i ⟨0, false, false⟩
  let v (i : Nat) : Val := vs.getD i (.fin (.rat Q.zero))
  if b.verify ∧ 2 < (ms.filter fun m => m.code != 0).length then
    (List.range 4).foldl (fun r i => r.take (v i) (m i) (m i).code true) { r with slub := true }
  else if b.comb then
    (List.range 4).foldl (fun r i =>
      if combKeeps vs i then r.take (v i) (m i) (m i).code true
      else { r with codes := r.codes ++ [0], combDrop := r.combDrop + b2n (v i).nonzero }) r
  else
    (List.range 4).foldl (fun r i =>
      let before := ((List.range i).filter fun k => (m k).code != 0).length
      let drop := (m i).code != 0 && decide (2 ≤ before) && !b.verify
      let r1 := r.take (v i) (m i) (if drop then 0 else (m i).code) (!drop)
      { r1 with extra := r1.extra + b2n drop }) r

/-- A run of elements narrowed for a target (R120). -/
def narrowRun (grids : Tab (List (BitVec 16))) (b : DraftBlk) (scale : Word) (vs : List Val) : Narrowing :=
  let nar := narrow b.codeType (gridOf grids b.codeType b.gridSlot) (f32Q scale)
  if b.format = 2 then (chunks 4 vs).foldl (fun r g => if r.slub then r else narrowGroup b nar r g) {}
  else vs.foldl (fun r v => let m := nar v; r.take v m m.code true) {}

/-- The counts of a run go to the spindle's counters and the job's flags, with NAN_SOURCE and
CLIP_DRIFT (R88, R122, R123, R196). -/
def Engine.countRun (e : Engine) (n : Sp) (x : Job) (b : DraftBlk) (dr : Draft) (r : Narrowing) : Engine :=
  let e1 := e.modSp n fun s => { s with code := { s.code with
    clip := satAdd s.code.clip r.clipped, nanSrc := satAdd s.code.nanSrc r.nans, uflow := satAdd s.code.uflow r.uflow
    combDrop := satAdd s.code.combDrop r.combDrop, s24Extra := satAdd s.code.s24Extra r.extra } }
  let e2 := if 0 < r.nans ∧ !x.nanRaised then
      (e1.modJob n x.id fun x => { x with nanRaised := true }).raise (.nanSource n.val x.desc.tag) else e1
  if b.clipThresh ≠ 0 ∧ b.clipThresh * dr.shape.elements / 65536 < dr.clipped + r.clipped ∧ !x.drift then
    ((e2.modJob n x.id fun x => { x with drift := true }).modSp n fun s =>
      { s with code := { s.code with drift := satInc s.code.drift } }).raise (.clipDrift n.val x.desc.tag)
  else e2

/-- DRAFTER_SOURCE_READ: the Drafter reads 32 bytes of source, narrows them and writes the codes
(R120). -/
def execDrafterSourceRead (n : Sp) (j : Nat) (row : Ecc) (s : State) : Host.Outcome State Fault Refusal :=
  done (s.onEng fun e => e.withJob n j fun x =>
    match x.draft, x.desc.draft with
    | some dr, some b =>
      if !e.mayPass n x true || (!b.twoPass && decide (dr.carded < dr.drafted + chunkLen x.desc b dr dr.drafted)) then e
      else
        Engine.onArrive (e.sourceChunk n x b dr dr.drafted b.twoPass row) n x 0 fun e bs =>
          let vs := (chunks (srcBytes x.desc b) bs).map (srcVal x.desc b dr)
          let r := narrowRun x.grids b (dr.scale.getD f32One) vs
          let dr' := { dr with drafted := dr.drafted + vs.length, codes := dr.codes ++ r.codes, clipped := dr.clipped + r.clipped }
          let e0 := e.countRun n x b dr r
          if r.slub then e0.fault n x.id 0x04 7 0
          else
            let e1 := e0.modJob n x.id fun x => { x with draft := some dr' }
            let e2 := if b.twoPass then e1.askSource n x.id dr'.drafted else e1
            (e2.emitTiles n x b ((draftHeader b dr' 0 0).tiles + 1) dr').draftEnd n x.id
    | _, _ => e)

/-! ## Acknowledgements -/

/-- A drafting job ends when its header, its record and its halves are acknowledged (R35, R124,
R366). -/
def Engine.draftDone (e : Engine) (n : Sp) (id : Nat) : Engine :=
  match e.jobId? n id with
  | some x =>
    match x.draft with
    | some dr => if dr.phase == .done && x.ended.isNone && x.halves.all (fun h => h.acked) then e.finish n id else e
    | none => e
  | none => e

/-- STREAM_HEADER_WRITE_ACK: the header write of a drafted stream is acknowledged, with the writes
before it (R35, R124). -/
def execStreamHeaderWriteAck (n : Sp) (j : Nat) (s : State) : Host.Outcome State Fault Refusal :=
  done (s.onEng fun e => e.withJob n j fun x =>
    match x.draft with
    | some dr =>
      if dr.phase == .header && !e.writesOut n x [32, 33, 34] then
        (e.modJob n x.id fun x => { x with draft := x.draft.map fun d => { d with phase := .done } }).draftDone n x.id
      else e
    | none => e)

/-- A drafting job placed in order of its return tag (R205). -/
def insertTag (x : Job) : List Job → List Job
  | [] => [x]
  | y :: ys => if x.desc.srcTag < y.desc.srcTag then x :: y :: ys else y :: insertTag x ys

/-- STEP_SET_COMMIT: every drafting job of a step set has finished without fault, their parts are acknowledged, and their headers
are written in return-tag order (R205). -/
def execStepSetCommit (n : Sp) (setId : Nat) (s : State) : Host.Outcome State Fault Refusal :=
  done (s.onEng fun e =>
    let members := (e.sp n).jobs.filter fun x => x.desc.step && x.desc.setId == setId
    let drafts := members.filter fun x => x.draft.isSome
    let size := (members.head?.map fun x => x.desc.stepSize).getD 0
    if e.live && members.length == size && !drafts.isEmpty && members.all (fun x => match x.ended with | some en => en.status == 0 | none => true) &&
        drafts.all (fun x => x.acts && (match x.draft with | some d => d.phase == .setWait | none => false) && e.mayHead n x) then
      (drafts.foldl (fun acc x => insertTag x acc) []).foldl (fun e x =>
        match x.draft, x.desc.draft with
        | some dr, some b => e.writeHeader n x b dr
        | _, _ => e) e
    else e)

/-- HALO_SLOT_WAIT_END: the slots of a publisher's round are free, and its halves are written
(R257, R258). -/
def execHaloSlotWaitEnd (n : Sp) (j waited : Nat) (s : State) : Host.Outcome State Fault Refusal :=
  done (s.onEng fun e =>
    match e.job? n j with
    | some x =>
      let round := x.round
      let due (h : HalfOut) : Bool := h.bytes.isSome && !h.written && e.slotFree h.ring round
      if e.live && x.halves.any due then
        let e1 := e.modSp n fun s => { s with work := { s.work with slotWait := satAdd s.work.slotWait waited } }
        (List.range x.halves.length).foldl (fun e i =>
          match (e.jobId? n x.id).bind fun y => (y.halves[i]?).map fun h => (y, h) with
          | some (y, h) =>
            match h.bytes with
            | some bs => if due h then e.writeHalf n y i h round bs else e
            | none => e
          | none => e) e1
      else e
    | none => e)

/-- HALF_PUBLISH_ACK: a half's write is acknowledged, and its READY knot is incremented (R257,
R259). -/
def execHalfPublishAck (n : Sp) (j : Nat) (s : State) : Host.Outcome State Fault Refusal :=
  done (s.onEng fun e =>
    match e.job? n j with
    | some x =>
      match (List.range x.halves.length).find? fun i =>
          match x.halves[i]? with
          | some h => h.written && !h.acked && !(e.sp n).waitsFor x.id (wHalf i) && !(x.held.any fun w => w.purpose == wHalf i)
          | none => false with
      | some i =>
        match x.halves[i]? with
        | some h =>
          ((e.modJob n x.id fun x => { x with halves := setAt x.halves i { h with acked := true } }).knotIssue (.spindle n.val)
            (h.ring.ready h.down) .add 1).draftDone n x.id
        | none => e
      | none => e
    | none => e)

end Sys2Proof.Machine
end

