-- ==== Sys2Proof/Machine/Crop.lean ====
section
/-! DEFINITION. Crop and resize: box lists, samples, the cache of four decoded tiles and the
delivery of boxes (R263 to R268). -/

namespace Sys2Proof.Machine

/-- The magic of a box list (R264). -/
def magicBox : Nat := 0x4C584F42

/-! ## Boxes and samples (R264 to R267) -/

/-- Output columns and lines of a box; zero is taken as 1 (R265). -/
def Box.w (b : Box) : Nat := max 1 b.outW
def Box.h (b : Box) : Nat := max 1 b.outH

/-- A box is bad (R265). -/
def Box.bad (b : Box) (dim3 : Nat) : Bool :=
  decide (b.x1 < b.x0 ∨ b.y1 < b.y0 ∨ b.outW = 0 ∨ b.outH = 0 ∨ dim3 ≤ b.frame)

/-- A quotient rounded to the nearest integer, ties to even (R84). -/
def roundDiv (num den : Nat) : Nat :=
  let q := num / den
  let r := 2 * (num % den)
  if den < r ∨ (r = den ∧ q % 2 = 1) then q + 1 else q

/-- A sample's coordinate in units of 2^-16, from Q12.4 corners (R266). -/
def sampleAt (lo hi out i : Nat) : Nat :=
  if out = 1 then (lo + hi) * 2048 else roundDiv ((lo * (out - 1) + i * (hi - lo)) * 4096) (out - 1)

/-- The sum of two element values (R267). -/
def addVal (a b : Val) : Val :=
  match a, b with
  | .nan, _ => .nan
  | _, .nan => .nan
  | .inf s, .inf t => if s = t then .inf s else .nan
  | .inf s, _ => .inf s
  | _, .inf t => .inf t
  | .fin x, .fin y => .fin (x.add y)

/-- The neighbours of a sample with weights that are not zero, as column, line and weight in units
of 2^-32 (R267). -/
def neighbours (x y : Nat) : List (Nat × Nat × Nat) :=
  let x0 := x / 65536
  let y0 := y / 65536
  let fx := x % 65536
  let fy := y % 65536
  [(x0, y0, (65536 - fx) * (65536 - fy)), (x0 + 1, y0, fx * (65536 - fy)),
   (x0, y0 + 1, (65536 - fx) * fy), (x0 + 1, y0 + 1, fx * fy)].filter fun p => p.2.2 != 0

/-! ## The tile cache (R268) -/

/-- A cached tile is used: it becomes the most recently used. -/
def touchTile (cache : List (Nat × List (Option Nat))) (t : Nat) : List (Nat × List (Option Nat)) :=
  match cache.find? fun p => p.1 == t with
  | some p => p :: cache.filter fun p => p.1 != t
  | none => cache

/-- What forming an element of a box came to: the element's value, or the tile that is missing. -/
def cropElem (h : SkeinHdr) (grid : List (BitVec 16)) (scale extrap : Word) (b : Box) (k : Nat)
    (cache : List (Nat × List (Option Nat))) : Val × Option Nat × List (Nat × List (Option Nat)) :=
  let chan := k % h.dim0
  let i := k / h.dim0 % b.w
  let j := k / h.dim0 / b.w
  let x := sampleAt b.x0 b.x1 b.w i
  let y := sampleAt b.y0 b.y1 b.h j
  if b.bad h.dim3 ∨ (h.dim1 - 1) * 65536 < x ∨ (h.dim2 - 1) * 65536 < y then (f32Val extrap, none, cache)
  else
    (neighbours x y).foldl (fun (acc : Val × Option Nat × List (Nat × List (Option Nat))) p =>
      match acc.2.1 with
      | some t => (acc.1, some t, acc.2.2)
      | none =>
        let (t, l) := h.locate chan p.1 p.2.1 b.frame
        match acc.2.2.find? fun q => q.1 == t with
        | none => (acc.1, some t, acc.2.2)
        | some q =>
          let v := (elemVal h.codeType grid scale (q.2.getD l none)).scale ⟨(p.2.2 : Nat), 2 ^ 32⟩
          (addVal acc.1 v, none, touchTile acc.2.2 t)) (.fin (.rat Q.zero), none, cache)

/-- The elements of the current box formed from the cache, as far as its tiles are at hand. -/
def cropRun (h : SkeinHdr) (grid : List (BitVec 16)) (s : Strm) (b : Box) : Nat → Crop → Nat → Crop × Nat
  | 0, c, sat => (c, sat)
  | fuel + 1, c, sat =>
    let r := cropElem h grid s.scale c.extrap b c.elem c.cache
    match r.2.1 with
    | some t => ({ c with need := some t, cache := r.2.2 }, sat)
    | none =>
      let d := deliverVal s.blk.deliv r.1
      cropRun h grid s b fuel { c with elem := c.elem + 1, part := c.part ++ [d.1], cache := r.2.2 } (sat + b2n d.2)

/-- The job goes on with the current box: when it is whole its words are queued, and when a tile is
missing its table entry is read; the entry and payload of TILE_FIRST, read during set-up, serve the first tile that is missing if they are
its, and are dropped otherwise (R139, R265, R268; log 124). -/
def Engine.cropNext (e : Engine) (n : Sp) (id : Nat) : Engine :=
  match e.jobId? n id with
  | none => e
  | some x =>
    match x.crop, x.strA with
    | some c, some s =>
      if !c.open_ || s.phase != .open || x.allFormed || !x.words.isEmpty || c.need.isSome || x.ended.isSome then e
      else
        match c.boxes[c.box]? with
        | none => e
        | some b =>
          let total := b.w * b.h * s.hdr.dim0
          let (c', sat) := cropRun s.hdr (gridOf x.grids s.ct s.slot) s b (total - c.elem) c 0
          let e1 := e.countSat n sat
          match c'.need with
          | some t =>
            let e2 := e1.modJob n id fun x => { x with crop := some c' }
            let ask (e : Engine) : Engine :=
              (e.modStrm n id .a fun s => { s with entries := [] }).strmAsk n x .a (pEntry .a t) (s.hdr.tableOffset + 8 * t) 8
            (match s.entries with
             | en :: _ =>
               if t = s.first then (if en.ok s.hdr t then e2 else e2.fault n id 0x03 0 (match x.desc.crop with | some k => k.boxFirst + c.box | none => 0))
               else ask (e2.dropReads n id (pPayload .a s.first))
             | [] => ask e2)
          | none =>
            let fin := c.box + 1 == c.boxes.length
            let ws := onFirst (fun w => { w with boxStart := true, aux := b.tag }) (wordsOf (packDeliv s.blk.deliv c'.part))
            let ws := if fin then (onFirst (fun w => { w with last := true }) ws.reverse).reverse else ws
            let e2 := e1.modJob n id fun x =>
              { x with words := x.words ++ ws, allFormed := fin, crop := some { c' with box := c.box + 1, elem := 0, part := [] } }
            if b.bad s.hdr.dim3 then e2.modSp n fun s => { s with work := { s.work with boxBad := satInc s.work.boxBad } } else e2
    | _, _ => e

/-- WHERE of a fault of a crop job: the box that it forms (R364). -/
def Crop.where_ (c : Crop) (b : CropBlk) : Nat := b.boxFirst + c.box

/-- The table entry of the missing tile arrives (R67, R139). -/
def Engine.cropEntry (e : Engine) (n : Sp) (x : Job) (row : Ecc) : Engine :=
  match x.crop, x.strA, x.desc.crop with
  | some c, some s, some b =>
    match c.need with
    | none => e
    | some t =>
      if !s.entries.isEmpty then e
      else
        Engine.onArrive (e.strmRead n x .a (pEntry .a t) (s.hdr.tableOffset + 8 * t) 8 0x02 row) n x (c.where_ b) fun e bs =>
          let en := TileEntry.parse bs
          if !en.ok s.hdr t then e.fault n x.id 0x03 0 (c.where_ b)
          else
            let e1 := e.modStrm n x.id .a fun s => { s with entries := [en] }
            if en.zero then e1 else e1.strmAsk n x .a (pPayload .a t) en.offset en.length
  | _, _, _ => e

/-- The missing tile arrives, is decoded and replaces the least recently used one (R268). -/
def Engine.cropPayload (e : Engine) (n : Sp) (x : Job) (row : Ecc) (waited : Nat) : Engine :=
  match x.crop, x.strA, x.desc.crop with
  | some c, some s, some b =>
    match c.need, s.entries with
    | some t, [en] =>
      let r : Engine × Arrival := if en.zero then (e, .bytes []) else e.strmRead n x .a (pPayload .a t) en.offset en.length 0x03 row
      Engine.onArrive r n x (c.where_ b) fun e bs =>
        match decodeTile s.hdr t en bs with
        | .error d => e.fault n x.id 0x04 d (c.where_ b)
        | .ok cs =>
          let e1 := ((e.countSource n en.length waited).countCodes n (readCounts s.ct cs)).modSp n fun s =>
            { s with work := { s.work with cropMiss := satInc s.work.cropMiss } }
          ((e1.modJob n x.id fun x => { x with crop := x.crop.map fun c =>
              { c with need := none, cache := ((t, cs) :: c.cache.filter fun p => p.1 != t).take 4 } }).modStrm n x.id .a
            fun s => { s with entries := [] }).cropNext n x.id
    | _, _ => e
  | _, _, _ => e

/-- BOX_LIST_HEADER_ARRIVE: the box list's header, and then its boxes, arrive (R264, R265). -/
def execBoxListHeaderArrive (n : Sp) (j : Nat) (s : State) : Host.Outcome State Fault Refusal :=
  done (s.onEng fun e => e.withJob n j fun x =>
    match x.crop, x.desc.crop with
    | some c, some b =>
      let base := Addr.parse b.boxAddr
      if c.open_ then e
      else
      match c.list with
      | none =>
        Engine.onArrive (e.arrive n x pBoxes base 64 .ok) n x 0 fun e hb =>
          let count := fieldAt hb 8 4
          let off := fieldAt hb 12 4
          let run := if b.boxRun = 0 then count - b.boxFirst else b.boxRun
          if fieldAt hb 0 4 ≠ magicBox ∨ fieldAt hb 4 1 ≠ 1 ∨ count < 1 ∨ 65535 < count ∨ off % 16 ≠ 0 ∨ off < 64 ∨
              count ≤ b.boxFirst ∨ count < b.boxFirst + run then e.fault n x.id 0x10 0 0
          else
            (e.modJob n x.id fun x => { x with crop := x.crop.map fun c =>
                { c with extrap := w32 (fieldAt hb 16 4), list := some (off, run) } }).jobRead n x.id pBoxes
              (base.plus (off + 16 * b.boxFirst)) (16 * run)
      | some (off, run) =>
        Engine.onArrive (e.arrive n x pBoxes (base.plus (off + 16 * b.boxFirst)) (16 * run) .ok) n x 0 fun e bs =>
          (e.modJob n x.id fun x => { x with crop := x.crop.map fun c =>
              { c with open_ := true, boxes := (chunks 16 bs).map Box.parse } }).cropNext n x.id
    | _, _ => e)

end Sys2Proof.Machine
end

