-- ==== Sys2Proof/Machine/Hank.lean ====
section
/-! DEFINITION. The Hank lane's jobs: sides and banks, the encoder's three stages, and the decoder's
set-up and output (R214 to R238). -/

namespace Sys2Proof.Machine

/-! ## Sides and banks (R235, R236) -/

/-- The side that a job uses: encode for an ENCODE job, decode for a DECODE job and for an expansion
job with a wrapped stream. -/
def Job.side (x : Job) : HankSide :=
  match x.desc.hank with
  | some b => if b.op = 0 then .enc else .dec
  | none => .dec

/-- The job holds its side, or waits for it. -/
def Job.holdsSide (x : Job) : Bool := match x.hank with | some h => h.held && x.ended.isNone | none => false
def Job.waitsSide (x : Job) : Bool := match x.hank with | some h => !h.held && x.ended.isNone | none => false

/-- Working banks of a side (R236). -/
def sideBanks (side : HankSide) (blockSize : Nat) : Nat :=
  match side with
  | .enc => if blockSize = 0 then 2 else 7
  | .dec => if blockSize = 0 then 1 else 4

/-- No job of the spindle holds the side. -/
def Engine.sideFree (e : Engine) (n : Sp) (side : HankSide) : Bool :=
  !(e.sp n).jobs.any fun x => x.holdsSide && x.side == side

/-- The job that gets a side when it frees: of those that wait for it the first in dispatch order (R235 names none; DESIGN CHOICE, log
122). -/
def Engine.sideWaiter (e : Engine) (n : Sp) (side : HankSide) : Option Job :=
  (e.sp n).jobs.find? fun x => x.waitsSide && x.side == side

/-- A job that needs a side takes it when it is free and no job before it in dispatch order waits for it; otherwise its wait begins
(R235; log 122). -/
def Engine.trySide (e : Engine) (n : Sp) (id : Nat) : Engine :=
  match e.jobId? n id with
  | some x =>
    if !x.waitsSide then e
    else if e.sideFree n x.side && (match e.sideWaiter n x.side with | some y => y.id == id | none => false) then
      e.modJob n id fun x => { x with hank := x.hank.map fun h => { h with held := true }, sideFrom := none }
    else e.modJob n id fun x => { x with sideFrom := some (x.sideFrom.getD e.now) }
  | none => e

/-! ## Common steps -/

/-- A part of an encode job's frame is written: DST_SPACE bounds every write (R227). -/
def Engine.hankWrite (e : Engine) (n : Sp) (x : Job) (b : HankBlk) (purpose : Nat × Nat) (off : Nat) (bs : List Byte) : Engine :=
  if b.dstSpace < off + bs.length then e.fault n x.id 0x16 5 0
  else e.jobWrite n x.id purpose ((Addr.parse b.dstAddr).plus off) bs

/-- The frame that an ENCODE job writes, but for its table offset and stored count (R210). -/
def HankBlk.frame (b : HankBlk) : HankHdr :=
  { blockSize := b.blockSize, chainDepth := if b.chainDepth = 0 then 8 else b.chainDepth, rawLen := b.srcLen
    blockCount := ceilDiv b.srcLen (hankB b.blockSize), tableOffset := 0, storedCount := 0 }

/-- Blocks that a DECODE job selects. -/
def HankBlk.run (b : HankBlk) (h : HankHdr) : Nat := if b.blockRun = 0 then h.blockCount - b.blockFirst else b.blockRun

/-- A Hank job whose parts are all written ends once no write is out; an encoder first writes its header,
the last part, so that no frame of which a write failed is ever visible (R226, R227, R234). -/
def Engine.hankEnd (e : Engine) (n : Sp) (id : Nat) : Engine :=
  match e.jobId? n id with
  | some x =>
    match x.hank, x.desc.hank with
    | some h, some b =>
      if !h.closing || x.ended.isSome || e.writesOut n x [37, 38] then e
      else if b.op ≠ 0 ∨ h.headed then e.finish n id
      else
        let e1 := (e.modJob n id fun x => { x with hank := x.hank.map fun h => { h with headed := true } }).hankWrite n x b wHankHdr 0
          ({ b.frame with tableOffset := roundUp h.cursor 8, storedCount := h.stored }).toBytes
        match e1.jobId? n id with
        | some y => if y.ended.isSome || e1.writesOut n y [38] then e1 else e1.finish n id
        | none => e1
    | _, _ => e
  | none => e

/-- A decoder failure of a Hank job (R232, R241). -/
def Engine.hankFail (e : Engine) (n : Sp) (x : Job) (code detail block : Nat) : Engine :=
  (e.modSp n fun s => { s with work := { s.work with hankErr := satInc s.work.hankErr } }).fault n x.id code detail block

/-! ## Reading ahead -/

/-- The source of block k of an ENCODE job is asked for. -/
def Engine.askBlock (e : Engine) (n : Sp) (id : Nat) (b : HankBlk) (k : Nat) : Engine :=
  if k < b.frame.blockCount then
    e.jobRead n id (pHankData k) ((Addr.parse b.srcAddr).plus (k * hankB b.blockSize)) (b.frame.blockLen k)
  else e

/-- The frame header of a DECODE job arrives: frame and range are checked, then DST_SPACE, and the
side's banks are claimed (R229, R232, R236). -/
def Engine.hankHeader (e : Engine) (n : Sp) (x : Job) (b : HankBlk) : Engine :=
  Engine.onArrive (e.arrive n x pHankHdr (Addr.parse b.srcAddr) 64 .ok) n x 0 fun e bs =>
    let h := HankHdr.parse bs
    match hankOpenError bs with
    | some d => e.hankFail n x 0x0A d 0
    | none =>
      let run := b.run h
      if h.blockCount ≤ b.blockFirst ∨ h.blockCount < b.blockFirst + run then e.hankFail n x 0x0A 3 0
      else if b.dstSpace < ((List.range run).map fun i => h.blockLen (b.blockFirst + i)).sum then e.fault n x.id 0x16 5 0
      else
        (e.modJob n x.id fun x => { x with hank := x.hank.map fun k => { k with hdr := some h } }).claimFixed n x.id
          (sideBanks .dec h.blockSize)

/-- The table entry that a DECODE job asked for arrives, and a valid entry's data is asked for. -/
def Engine.hankEntry (e : Engine) (n : Sp) (x : Job) (b : HankBlk) (k : Hank) (h : HankHdr) : Engine :=
  let i := k.entries.length
  let a := (Addr.parse b.srcAddr).plus (h.tableOffset + 8 * (b.blockFirst + i))
  if k.asked ≤ i then e
  else
    Engine.onArrive (e.arrive n x (pHankEntry i) a 8 .ok) n x (b.blockFirst + i) fun e bs =>
      let en := TileEntry.parse bs
      let e1 := e.modJob n x.id fun x => { x with hank := x.hank.map fun k => { k with entries := k.entries ++ [(en.offset, en.length, false)] } }
      if hankEntryOk en.offset en.length then
        e1.jobRead n x.id (pHankData i) ((Addr.parse b.srcAddr).plus en.offset) en.length
      else e1

/-- Entries are asked for up to the block after the one being decoded. -/
def Engine.hankAskEntry (e : Engine) (n : Sp) (id : Nat) (b : HankBlk) : Engine :=
  match e.jobId? n id with
  | some x =>
    match x.hank with
    | some k =>
      match k.hdr with
      | some h =>
        if x.acts && k.asked == k.entries.length && decide (k.asked < b.run h ∧ k.asked < k.next + 2) then
          (e.modJob n id fun x => { x with hank := x.hank.map fun k => { k with asked := k.asked + 1 } }).jobRead n id (pHankEntry k.asked)
            ((Addr.parse b.srcAddr).plus (h.tableOffset + 8 * (b.blockFirst + k.asked))) 8
        else e
      | none => e
    | none => e
  | none => e

/-- A DECODE job goes on with what has arrived: header, then table entries. -/
def Engine.hankAdvance (e : Engine) (n : Sp) (id : Nat) : Engine :=
  match e.jobId? n id with
  | some x =>
    match x.hank, x.desc.hank with
    | some k, some b =>
      if !x.acts || !k.held || !x.begun || b.op == 0 || k.closing then e
      else
        let e1 := match k.hdr with
          | none => e.hankHeader n x b
          | some h => e.hankEntry n x b k h
        e1.hankAskEntry n id b
    | _, _ => e
  | none => e

/-- A Hank job that holds its side and its banks begins: MAGIC is zeroed and source is asked for, or
the frame header is (R226). -/
def Engine.hankBegin (e : Engine) (n : Sp) (id : Nat) : Engine :=
  match e.jobId? n id with
  | some x =>
    match x.hank, x.desc.hank with
    | some k, some b =>
      if x.begun || !x.acts || !k.held then e
      else
        let e1 := e.modJob n id fun x => { x with begun := true }
        if b.op = 0 then ((e1.askBlock n id b 0).askBlock n id b 1).hankWrite n x b wHank 0 (leBytes 4 0)
        else e1.jobRead n id pHankHdr (Addr.parse b.srcAddr) 64
    | _, _ => e
  | none => e

/-- HANK_SIDE_GRANT: a job that waits for a free side is given it, the first in dispatch order (R235, R241; log 122). -/
def execHankSideGrant (n : Sp) (side : HankSide) (waited : Nat) (s : State) : Host.Outcome State Fault Refusal :=
  done (s.onEng fun e =>
    match e.sideWaiter n side with
    | some x =>
      if e.live && e.sideFree n side then
        ((e.modSp n fun s => { s with work := { s.work with hankWait := satAdd s.work.hankWait waited } }).trySide n x.id).hankBegin n x.id
      else e
    | none => e)

/-! ## Encoding (R217 to R227, R237) -/

/-- The source bytes that symbols spell. -/
def symbolData (syms : List (Nat × Nat)) : List Byte :=
  ((syms.foldl (fun (a : Array Nat) s => if s.2 = 0 then a.push s.1 else copyBytes s.2 s.1 a) #[]).toList).map (BitVec.ofNat 8)

/-- HANK_MATCH_DONE: the encoder has matched a block under the next generation; its `bad` names the heads that failed their SECDED
check (R217 to R222, R237). -/
def execHankMatchDone (n : Sp) (j : BlockMatch) (s : State) : Host.Outcome State Fault Refusal :=
  done (s.onEng fun e => e.withJob n j.j fun x =>
    match x.hank, x.desc.hank with
    | some k, some b =>
      if b.op ≠ 0 ∨ !k.held ∨ !x.begun ∨ k.matched.isSome ∨ b.frame.blockCount ≤ k.next then e
      else
        Engine.onArrive (e.arrive n x (pHankData k.next) ((Addr.parse b.srcAddr).plus (k.next * hankB b.blockSize))
            (b.frame.blockLen k.next) .ok) n x 0 fun e bs =>
          let gen := (e.sp n).hankGen + 1
          let r := hankMatch b.blockSize b.chainDepth gen.toNat (e.sp n).hankHeads (e.sp n).hankLinks (j.bad.map (·.val)) bs
          let e1 := e.modSp n fun s => { s with hankGen := gen, hankHeads := r.2.1, hankLinks := r.2.2 }
          (e1.modJob n x.id fun x => { x with hank := x.hank.map fun h => { h with next := k.next + 1, matched := some (k.next, r.1) } }).askBlock n x.id b (k.next + 2)
    | _, _ => e)

/-- HANK_BUILD_DONE: the build stage chooses the coding form of the block it holds (R223). -/
def execHankBuildDone (n : Sp) (j : Nat) (s : State) : Host.Outcome State Fault Refusal :=
  done (s.onEng fun e => e.withJob n j fun x =>
    match x.hank with
    | some k =>
      match k.matched, k.built with
      | some (b, syms), none =>
        let r := hankBuild (symbolData syms) syms
        e.modJob n x.id fun x => { x with point := false, hank := x.hank.map fun h => { h with matched := none, built := some (b, r.1, r.2) } }
      | _, _ => e
    | none => e)

/-- The table follows the last block, and behind it the header (R226). -/
def Engine.hankClose (e : Engine) (n : Sp) (id : Nat) (b : HankBlk) : Engine :=
  match e.jobId? n id with
  | some x =>
    match x.hank with
    | some k =>
      if x.ended.isSome then e
      else
        let t := roundUp k.cursor 8
        let table := k.entries.flatMap fun (o, l, st) => leBytes 4 o ++ leBytes 3 l ++ leBytes 1 (b2n st)
        let e1 := e.hankWrite n x b wHank k.cursor (List.replicate (t - k.cursor) 0 ++ table)
        match e1.jobId? n id with
        | some y =>
          if y.ended.isSome then e1
          else
            (e1.modJob n id fun x => { x with hank := x.hank.map fun h => { h with closing := true } }).hankEnd n id
        | none => e1
    | none => e
  | none => e

/-- HANK_EMIT_DONE: the emit stage writes its block's data; after the last block the table and the
header are written (R226, R227, R241). -/
def execHankEmitDone (n : Sp) (j : Nat) (s : State) : Host.Outcome State Fault Refusal :=
  done (s.onEng fun e => e.withJob n j fun x =>
    match x.hank, x.desc.hank with
    | some k, some b =>
      match k.built with
      | some (i, bs, st) =>
        let off := roundUp k.cursor 16
        let e1 := (e.modJob n x.id fun x => { x with point := true, hank := x.hank.map fun h =>
            { h with built := none, entries := h.entries ++ [(off, bs.length, st)], cursor := off + bs.length, stored := h.stored + b2n st } }).hankWrite
          n x b wHank k.cursor (List.replicate (off - k.cursor) 0 ++ bs)
        if !e1.jobLive n x.id then e1
        else
          let e2 := e1.modSp n fun s => { s with work := { s.work with
            hankEnc := satInc s.work.hankEnc, hankStored := satAdd s.work.hankStored (b2n st) } }
          if i + 1 = b.frame.blockCount then e2.hankClose n x.id b else e2
      | none => e
    | _, _ => e)

/-! ## Decoding (R229, R232 to R234, R238) -/

/-- HANK_DECODE_SETUP_DONE: the set-up of the next block ends; an entry that fails its first-use
check faults the job once the blocks before it are decoded (R232, R233, R238). -/
def execHankDecodeSetupDone (n : Sp) (j : Nat) (s : State) : Host.Outcome State Fault Refusal :=
  done (s.onEng fun e => e.withJob n j fun x =>
    let e1 := (e.hankAdvance n x.id).hankAdvance n x.id
    match e1.jobId? n x.id with
    | some x =>
      match x.hank, x.desc.hank with
      | some k, some b =>
        match k.entries[k.setups]? with
        | some (off, len, _) =>
          if b.op == 0 || k.closing || x.ended.isSome || decide (k.next + 2 ≤ k.setups) then e1
          else if !hankEntryOk off len then
            (if k.setups = k.next then e1.hankFail n x 0x0A 4 (b.blockFirst + k.setups) else e1)
          else
            Engine.onArrive (e1.arrive n x (pHankData k.setups) ((Addr.parse b.srcAddr).plus off) len .ok) n x (b.blockFirst + k.setups) fun e _ =>
              e.modJob n x.id fun x => { x with hank := x.hank.map fun h => { h with setups := h.setups + 1 } }
        | none => e1
      | _, _ => e1
    | none => e1)

/-- HANK_BLOCK_DECODED: the next block that is set up decodes as a whole and its output is written,
or its first failure faults the job (R216, R232 to R234). -/
def execHankBlockDecoded (n : Sp) (j : Nat) (s : State) : Host.Outcome State Fault Refusal :=
  done (s.onEng fun e => e.withJob n j fun x =>
    match x.hank, x.desc.hank with
    | some k, some b =>
      match k.hdr, k.entries[k.next]? with
      | some h, some (off, len, _) =>
        if b.op == 0 || k.closing || decide (k.setups ≤ k.next) then e
        else
          let blk := b.blockFirst + k.next
          match hankDecode (h.blockLen blk) (e.readAt ((Addr.parse b.srcAddr).plus off) len) with
          | .error (f, d) => e.hankFail n x f d blk
          | .ok out =>
            let fin := k.next + 1 == b.run h
            let e1 := (e.modSp n fun s => { s with work := { s.work with hankDec := satInc s.work.hankDec } }).modJob n x.id fun x =>
              { x with point := true, hank := x.hank.map fun k => { k with next := k.next + 1, closing := fin } }
            let e2 := e1.jobWrite n x.id wHank ((Addr.parse b.dstAddr).plus (k.next * hankB h.blockSize)) out
            if fin then e2.hankEnd n x.id else e2.hankAskEntry n x.id b
      | _, _ => e
    | _, _ => e)

end Sys2Proof.Machine
end

