-- ==== Sys2Proof/Machine/PlyArr.lean ====
section
/-! DEFINITION. The dense Ply array: Whorl banks, lane groups, accumulation order and drains
(R92 to R97, R143 to R153, R518). -/

namespace Sys2Proof.Machine

/-! ## Vectors and outputs -/

/-- Groups of selected tiles that share (d1, d2, d3): positions along the outer axes and how many
vectors each holds. -/
def Strm.vecGroups (s : Strm) : List ((Nat × Nat × Nat) × Nat) :=
  let h := s.hdr
  (((List.range s.count).map fun i => (h.tilePos (s.first + i)).2).eraseDups).map fun p =>
    (p, min h.tileCols (h.dim1 - p.1 * h.tileCols) * min h.tileRows (h.dim2 - p.2.1 * h.tileRows))

/-- Place (d1, d2, d3) of activation vector v, in the order in which the tiles come. -/
def vecPlace (h : SkeinHdr) : List ((Nat × Nat × Nat) × Nat) → Nat → Nat × Nat × Nat
  | [], _ => (0, 0, 0)
  | ((i1, i2, i3), k) :: rest, v =>
    if v < k then
      let c1 := min h.tileCols (h.dim1 - i1 * h.tileCols)
      (i1 * h.tileCols + v % c1, i2 * h.tileRows + v / c1, i3)
    else vecPlace h rest (v - k)

/-- The element of an operand at a place, from the tiles that the decoder has at hand; absent where no selected tile
holds it (R146 speaks of none there: DESIGN CHOICE, log 98). -/
def Strm.elem (s : Strm) (d0 d1 d2 d3 : Nat) : Option Nat :=
  let (t, l) := s.hdr.locate d0 d1 d2 d3
  match s.held.find? fun p => p.1 == t with
  | some p => p.2.getD l none
  | none => none

/-- The columns of the outputs: positions along DIM1, each with the place along the outer axes of the first selected tile
that holds it (R131, log 94). -/
def Strm.outCols (s : Strm) : List (Nat × Nat × Nat) :=
  s.colPlaces.flatMap fun p =>
    (List.range (s.hdr.colWidth p.1)).map fun c => (p.1 * s.hdr.tileCols + c, p.2.1 * s.hdr.tileRows, p.2.2)

/-- Every tile that the read with this key needs is decoded (R144, R151). -/
def Strm.readyFor (s : Strm) (vec key : Nat) : Bool :=
  decide (vec < s.planVec) && (match s.plan with | (k, _) :: _ => decide (key < k) | [] => true)

/-! ## The array of a spindle (R9, R144, R149) -/

/-- The job of a spindle whose work the one Ply array holds: its Whorl banks, accumulators and open pair. -/
def Engine.arrayJob (e : Engine) (n : Sp) : Option Job :=
  (e.sp n).jobs.find? fun x => x.run != .out && x.ended.isNone && (match x.ply with | some p => p != {} | none => false)

/-- Granted ring segments are on their way to the spindle's lanes (R182). -/
def Spindle.grantComing (s : Spindle) : Bool := match s.ringAnswer with | some (some _) => true | _ => false

/-- The array may work for a job: it holds this job's work, or no work at all, and no granted segments come for its lanes (R9). -/
def Engine.arrayFor (e : Engine) (n : Sp) (id : Nat) : Bool :=
  (match e.arrayJob n with | some y => y.id == id | none => true) && (e.sp n).merge.isNone && !(e.sp n).grantComing

/-- Whorl mode: the weights are grid-coded (R143). -/
def whorlMode (w : Strm) : Bool := w.ct == 4 || w.ct == 5

/-- Integer accumulation (R94). -/
def intMode (a b : Strm) : Bool := isIntCt a.ct && isIntCt b.ct

/-- Products of one clock for each lane: 4, or 2 when an operand has 16-bit codes (R146). -/
def productsPerClock (a w : Strm) : Nat :=
  if !whorlMode w && (ctWidth a.ct == 16 || ctWidth w.ct == 16) then 2 else 4

/-! ## Filling (R144, R145, R518) -/

/-- The next bank to fill: vector, pair and segment; the groups that will read it. -/
def Ply.fillGroups (p : Ply) (segs groups : Nat) : List Nat :=
  if segs ≤ 1 then List.range groups else [2 * p.pair, 2 * p.pair + 1].filter (· < groups)

/-- The bank after the one just filled (R518). -/
def Ply.advance (p : Ply) (segs groups : Nat) : Ply :=
  if segs ≤ 1 then { p with vec := p.vec + 1 }
  else if p.seg + 1 < segs then { p with seg := p.seg + 1 }
  else if 2 * (p.pair + 1) < groups then { p with seg := 0, pair := p.pair + 1 }
  else { p with seg := 0, pair := 0, vec := p.vec + 1 }

/-- The entry of an activation element (R92, R145). -/
def whorlEntry (a w : Strm) (grid : List (BitVec 16)) (agrid : List (BitVec 16)) (c : Option Nat) : List (BitVec 32) :=
  if whorlMode w then
    (List.range 16).map fun k =>
      match c with
      | none => 0
      | some c => (whorlProduct (codeVal a.ct agrid c) (if w.ct = 4 ∧ k = 8 then Q.zero else gridVal grid k)).setWidth 32
  else
    match c with
    | some c => [w32 c]
    | none => []

/-- Both streams of a Ply job are open, and the reads of the vectors that the array works on and of the next are planned, and more while
fewer than four tiles follow the one being decoded, as far as there are vectors (R139, R142, R151, R518). -/
def Job.plyPlan (x : Job) : Job :=
  match x.ply, x.strA, x.strB with
  | some p, some a, some w =>
    if a.phase != .open || w.phase != .open then x
    else
      let segs := segCount a.hdr.dim0
      let groups := laneGroups w.cols
      let vecW := p.reads / max 1 (plySteps segs groups).length
      { x with strA := some (a.planTo true segs groups (p.vec + 1) a.positions (a.positions + 1))
               strB := some (w.planTo false segs groups (vecW + 1) a.positions (a.positions + 1)) }
  | _, _, _ => x

/-- The reads of a Ply job are planned on, and the fetch unit goes on. -/
def Engine.plyOn (e : Engine) (n : Sp) (id : Nat) : Engine := ((e.modJob n id Job.plyPlan).readOn n id .a).readOn n id .b

/-- The half of the Whorl table that the next bank fills: the two banks alternate (R144). -/
def Ply.freeHalf (p : Ply) : Nat := match p.banks with | b :: _ => 1 - b.half | [] => 0

/-- WHORL_BANK_FILLED for a Ply job: the fill unit finishes the next bank, once the tiles of its vector are decoded and one of
the two banks is free (R144, R145, R518; what is read again counts its codes again, R76, as log 78 says). -/
def Engine.fillBank (e : Engine) (n : Sp) (x : Job) (p : Ply) (a w : Strm) : Engine :=
  let segs := segCount a.hdr.dim0
  let groups := laneGroups w.cols
  let place := vecPlace a.hdr a.vecGroups p.vec
  if 2 ≤ p.banks.length ∨ a.positions ≤ p.vec ∨ !e.arrayFor n x.id ∨ !a.readyFor p.vec (fillKey segs groups p.vec p.pair) then e
  else
    let elems := (List.range (min 512 (a.hdr.dim0 - 512 * p.seg))).map fun i =>
      a.elem (512 * p.seg + i) place.1 place.2.1 place.2.2
    let grid := gridOf x.grids w.ct w.slot
    let agrid := gridOf x.grids a.ct a.slot
    let bank : WhorlBank := ⟨p.vec, p.pair, p.seg, elems.map (whorlEntry a w grid agrid), p.fillGroups segs groups, p.freeHalf⟩
    ((e.whorlFilled n p.freeHalf 1).modJob n x.id fun x => { x with ply := x.ply.map fun p => { (p.advance segs groups) with banks := p.banks ++ [bank] } }).plyOn n x.id

/-! ## Reading (R146 to R149) -/

/-- The reduction positions that a lane multiplies, clock by clock, with the weight codes: `r` positions a clock,
or the two slots of each of the groups of `2 * r` positions in SK-S24, where a group of a ZERO tile has none
(R146, R147; DEDUCED, log 89). -/
def weightTerms (w : Strm) (r : Nat) (col : Nat × Nat × Nat) (base k : Nat) : List (List (Nat × Option Nat)) :=
  let all := (List.range k).map fun i => (i, w.elem (base + i) col.1 col.2.1 col.2.2)
  if w.hdr.format = 2 then (chunks (2 * r) all).map fun c => c.filter fun p => p.2.isSome else chunks r all

/-- The product of a bank entry with a weight code in floating mode, with its overflow (R92, R96). -/
def entryProduct (whorl : Bool) (act wct : Nat) (agrid wgrid : List (BitVec 16)) (entry : List (BitVec 32)) (c : Option Nat) :
    Word × Bool :=
  let c := c.getD 0
  if whorl then (f16to32 ((entry.getD c 0).setWidth 16), false)
  else
    let a : Val := match entry with | v :: _ => codeVal act agrid v.toNat | [] => .fin (.rat Q.zero)
    laneProduct a (codeVal wct wgrid c)

/-- The integer value of an integer code (R71). -/
def intCode (ct c : Nat) : Int := if ct = 0 then toSigned 8 c else toSigned 4 c

/-- The products of one clock summed in reduction order, then added to the accumulator (R147). -/
def addProducts (acc : Word) (ps : List (Word × Bool)) : Word × Bool :=
  let v (i : Nat) : Word := (ps.getD i (0, false)).1
  let o := ps.any (·.2)
  let lo := addF32 (v 0) (v 1)
  if ps.length ≤ 2 then
    let r := addF32 acc lo.1
    (r.1, o || lo.2 || r.2)
  else
    let hi := addF32 (v 2) (v 3)
    let t := addF32 lo.1 hi.1
    let r := addF32 acc t.1
    (r.1, o || lo.2 || hi.2 || t.2 || r.2)

/-- The accumulator of one lane after it reads a bank, clock by clock, of `r` products each (R146, R147). -/
def laneRead (isInt : Bool) (r : Nat) (prod : List (BitVec 32) → Option Nat → Word × Bool)
    (iprod : List (BitVec 32) → Option Nat → Int) (entries : List (List (BitVec 32)))
    (terms : List (List (Nat × Option Nat))) (acc : Word) : Word × Bool :=
  terms.foldl (fun st c =>
    let res :=
      if isInt then addI32 st.1 ((c.map fun t => iprod (entries.getD t.1 []) t.2).sum)
      else addProducts st.1 ((c.map fun t => prod (entries.getD t.1 []) t.2) ++ List.replicate (r - c.length) (0, false))
    (res.1, st.2 || res.2)) (acc, false)

/-- The oldest bank's next lane group has an accumulator, or can take one (R149, R518). -/
def Ply.canRead (p : Ply) : Bool :=
  match p.banks with
  | [] => false
  | b :: _ =>
    match b.groups with
    | [] => false
    | g :: _ => (p.accs.any fun c => c.vec == b.vec && c.group == g) || decide (p.accs.length < 2)

/-- PLY_BANK_READ_DONE: the array finishes reading the oldest bank for its next lane group; the weight reader then
holds the two tiles it read last (R147, R151). -/
def Engine.readBank (e : Engine) (n : Sp) (x : Job) (p : Ply) (a w : Strm) : Engine :=
  match p.banks with
  | [] => e
  | b :: rest =>
    match b.groups with
    | [] => e
    | g :: gs =>
      let segs := segCount a.hdr.dim0
      let cols := w.outCols
      let mine := p.accs.find? fun c => c.vec == b.vec && c.group == g
      let acc0 := match mine with | some c => c.acc | none => List.replicate 64 0
      let isInt := intMode a w
      let agrid := gridOf x.grids a.ct a.slot
      let wgrid := gridOf x.grids w.ct w.slot
      let whorl := whorlMode w
      let prod := entryProduct whorl a.ct w.ct agrid wgrid
      let iprod (en : List (BitVec 32)) (c : Option Nat) : Int :=
        (match en with | v :: _ => intCode a.ct v.toNat | [] => 0) * intCode w.ct (c.getD 0)
      let res := (List.range 64).map fun l =>
        match cols[64 * g + l]? with
        | none => (acc0.getD l 0, false)
        | some col =>
          let k := productsPerClock a w
          laneRead isInt k prod iprod b.entries (weightTerms w k col (512 * b.seg) b.entries.length) (acc0.getD l 0)
      let grp : AccGroup := ⟨b.vec, g, res.map (·.1), b.seg + 1 == segs⟩
      let accs := match mine with
        | some _ => p.accs.map fun c => if c.vec = b.vec ∧ c.group = g then grp else c
        | none => p.accs ++ [grp]
      let banks := if gs.isEmpty then rest else { b with groups := gs } :: rest
      (e.modJob n x.id fun x =>
        { x with overflow := x.overflow || res.any fun r => r.2
                 ply := x.ply.map fun p => { p with accs := accs, banks := banks, reads := p.reads + 1 }
                 strB := x.strB.map fun s => { s with held := lastTwo s.held } }).plyOn n x.id

/-- PLY_BANK_READ_DONE: with the check of the Whorl row and the waits that the array counted
(R149, R483). -/
def execPlyBankReadDone (n : Sp) (j : Nat) (row : Ecc) (whorlWait drainWait : Nat) (s : State) :
    Host.Outcome State Fault Refusal :=
  done (s.onEng fun e => e.withJob n j fun x =>
    match x.ply, x.strA, x.strB with
    | some p, some a, some w =>
      let vec := match p.banks with | b :: _ => b.vec | [] => 0
      if !p.canRead || !e.arrayFor n x.id || !w.readyFor vec p.reads then e
      else
        let e0 := e.modSp n fun s => { s with work := { s.work with
          whorlStall := satAdd s.work.whorlStall whorlWait, drainStall := satAdd s.work.drainStall drainWait } }
        let r := e0.readRows (match p.banks with | b :: _ => whorlRows n b.half b.entries.length | [] => []) row false
        if r.2 then r.1.fault n x.id 0x19 4 0 else r.1.readBank n x p a w
    | _, _, _ => e)

end Sys2Proof.Machine
end

