-- ==== Sys2Proof/Machine/Sparse.lean ====
section
/-! DEFINITION. Sparse matching: rows and segments, the merge unit, sorting, stealing within a
spindle and around the ring, and the reduction of partials (R157 to R189). -/

namespace Sys2Proof.Machine

/-! ## Lanes -/

/-- Lane l of a spindle. -/
def Spindle.lane (s : Spindle) (l : Nat) : Lane := Tab.getD s.lanes l {}

/-- Lane l replaced by its image. -/
def Spindle.modLane (s : Spindle) (l : Nat) (f : Lane → Lane) : Spindle := { s with lanes := Tab.put s.lanes {} l (f (s.lane l)) }

/-- The lane holds no segment (R178). -/
def Lane.idle (x : Lane) : Bool := x.cur.isNone && x.unstarted.isEmpty

/-- The segment directly follows the one that the lane merged last (R166). -/
def follows (prev : Option Seg) (s : Seg) : Bool :=
  match prev with
  | some p => p.row == s.row && p.bRow == s.bRow && p.index + 1 == s.index
  | none => false

/-- An idle lane takes up its first unstarted segment; one that needs no search is merged at once: in GATHER, after its predecessor,
or when its row is empty (R165, R166). -/
def Lane.takeUp (c : MergeCtx) (x : Lane) : Lane :=
  match x.cur, x.unstarted with
  | none, s :: rest => { x with cur := some (s, c.gather || follows x.prev s || s.empty), unstarted := rest, read := {} }
  | _, _ => x

/-- Segments that the lanes of a spindle hold or have on their way. -/
def Spindle.segments (s : Spindle) : List (Nat × Seg) :=
  s.lanes.flatMap fun p =>
    ((match p.2.cur with | some c => [c.1] | none => []) ++ p.2.unstarted ++ (p.2.answer.getD [])).map fun g => (p.1, g)

/-- Some lane holds an unstarted segment (R178). -/
def Spindle.anyUnstarted (s : Spindle) : Bool := s.lanes.any fun p => !p.2.unstarted.isEmpty

/-! ## Opening output groups (R163, R165) -/

/-- The segments of output o: 256 entries of its A row each, or one empty segment (R165). -/
def outputSegs (c : MergeCtx) (o : Nat) : List Seg :=
  let a := o % c.ra
  let k := (c.rowsA.getD a []).length
  (List.range (max 1 (ceilDiv k 256))).map fun i => { output := o, row := a, bRow := o / c.ra, index := i, empty := k == 0 }

/-- Output groups open while fewer than two are open, each lane receiving the segments of its
output (R163). -/
def Engine.openGroups (e : Engine) (n : Sp) (id : Nat) (c : MergeCtx) : Nat → Engine
  | 0 => e
  | fuel + 1 =>
    match e.jobId? n id with
    | none => e
    | some x =>
      match x.sparse with
      | none => e
      | some sp =>
        let outs := c.ra * c.rb
        if sp.drained + 2 ≤ sp.opened ∨ ceilDiv outs 64 ≤ sp.opened then e
        else
          let os := ((List.range 64).map (· + 64 * sp.opened)).filter (· < outs)
          let e1 := e.modJob n id fun x => { x with sparse := x.sparse.map fun sp =>
            { sp with opened := sp.opened + 1
                      outstanding := os.foldl (fun t o => Tab.put t 0 o (outputSegs c o).length) sp.outstanding } }
          let e2 := e1.modSp n fun s => os.foldl (fun s o =>
            s.modLane (o % 64) fun l => ({ l with unstarted := l.unstarted ++ outputSegs c o }).takeUp c) s
          e2.openGroups n id c fuel

/-- An operand that a ring thief can read: unwrapped and as it stands, in memory or the Bobbin store, and no tensor of one
spindle (R181; a wrapped operand needs the owner's Hank side and a sorted copy rests with the owner: DEDUCED, log 102). -/
def Engine.ringReadable (e : Engine) (unsorted : Bool) (s : Strm) : Bool :=
  s.wrapped.isNone && !unsorted &&
  (match s.addr with
   | .placed t _ => (e.placeE t).owner == 0xFF
   | _ => true)

/-- Every row of A that the job selects is decoded and, where declared unsorted, sorted: B's ranges are known (R165, R170). -/
def rowsAReady (x : Job) : Bool :=
  match x.strA, x.desc.mtch with
  | some a, some m => a.phase == .open && a.decoded == a.count && (!m.unsortedA || a.sorted == a.count)
  | _, _ => false

/-- What the job needs of B is decoded and, where declared unsorted, sorted. -/
def rowsBReady (x : Job) : Bool :=
  match x.strB, x.desc.mtch with
  | some b, some m =>
    b.phase == .open && b.planVec == 1 && (if b.lst.isSome then b.decoded == b.count else b.plan.isEmpty) &&
    (!m.unsortedB || b.sorted == b.count)
  | _, _ => false

/-- The lanes may begin a sparse job's segments. -/
def sparseReady (x : Job) : Bool := rowsAReady x && rowsBReady x

/-- A sparse job that was switched out takes its lanes back (R335). -/
def Engine.regainLanes (e : Engine) (n : Sp) (x : Job) : Engine :=
  match x.savedLanes with
  | some c => (e.modSp n fun s => { s with merge := some c.1, lanes := c.2 }).modJob n x.id fun x => { x with savedLanes := none }
  | none => e

/-- An opened operand without its data. -/
def Strm.bare (s : Strm) : Strm :=
  { s with entries := [], tiles := [], held := [], known := [], rowIdx := none, rowCodes := [], rows := [], ptrs := [], blocks := [], wgot := [], wblk := none, plan := [] }

/-- The first sparse job that is ready takes the lanes. -/
def Engine.takeLanes (e : Engine) (n : Sp) : Engine :=
  match (e.sp n).jobs.find? fun x => x.acts && x.form == .sparse && sparseReady x &&
      (match x.sparse with | some sp => sp.opened == 0 | none => false) with
  | none => e
  | some x =>
    match x.strA, x.strB, x.desc.mtch with
    | some a, some b, some m =>
      let c : MergeCtx :=
        { owner := n.val, job := x.id, gather := m.mode == 1, intMode := isIntCt a.ct && isIntCt b.ct, extent := a.extent
          ra := a.rowCount, rb := b.rowCount, opA := a.bare, opB := b.bare, whorl := [], giver := n.val
          rowsA := a.rows, rowsB := b.rows, codeA := a.ct, codeB := b.ct, gridA := gridOf x.grids a.ct a.slot
          gridB := gridOf x.grids b.ct b.slot, stealArea := m.stealArea, stealKnot := m.stealKnot, laneSteal := m.laneSteal
          ringSteal := m.ringSteal && e.ringReadable m.unsortedA a && e.ringReadable m.unsortedB b }
      (e.modSp n fun s => { s with merge := some c, lanes := [] }).openGroups n x.id c 2
    | _, _, _ => e

/-- Free lanes go to a job that resumes, else to the first sparse job that is ready; the array holds no dense work then (R9). -/
def Engine.kickSparse (e : Engine) (n : Sp) : Engine :=
  if (e.sp n).merge.isSome || (e.sp n).grantComing || (e.arrayJob n).isSome then e
  else
    match (e.sp n).jobs.find? fun x => x.acts && x.savedLanes.isSome with
    | some x => e.regainLanes n x
    | none => e.takeLanes n

/-! ## The merge (R167, R168, R175) -/

/-- What a slice makes of a segment: matched codes clock by clock, dropped indices, the operand whose indices descend if it meets one, and
the codes that entered it. -/
structure SliceRun where
  groups : List (List (Nat × Option Nat)) := []
  nep : Nat := 0
  bad : Option Opnd := none
  codesA : List Nat := []
  codesB : List Nat := []
deriving DecidableEq, Repr

/-- An entry's index does not ascend from the one before it in its row (R172, detail 5). -/
def descends (prev : Option Nat) (i : Nat) : Bool := match prev with | some p => decide (i ≤ p) | none => false

/-- A slice's run of an INTERSECT segment, one pass per clock: every entry that enters is checked against its predecessor, then
against X, and compared (R167, R175, R177). -/
def mergeSegment (ext : Nat) : Nat → Option Nat → Option Nat → List (Nat × Nat) → List (Nat × Nat) → SliceRun
  | 0, _, _, _, _ => {}
  | fuel + 1, pa, pb, as, bs =>
    let badA := match as with | a :: _ => descends pa a.1 | [] => false
    let badB := match bs with | b :: _ => descends pb b.1 | [] => false
    let dropA (a : Nat × Nat) (rest : List (Nat × Nat)) (k : Nat) : SliceRun :=
      let r := mergeSegment ext fuel (some a.1) pb rest bs
      { r with nep := r.nep + k, codesA := a.2 :: r.codesA }
    let dropB (b : Nat × Nat) (rest : List (Nat × Nat)) (k : Nat) : SliceRun :=
      let r := mergeSegment ext fuel pa (some b.1) as rest
      { r with nep := r.nep + k, codesB := b.2 :: r.codesB }
    if badA then { bad := some .a }
    else if badB then { bad := some .b }
    else
      match as, bs with
      | [], [] => {}
      | [], b :: bs' => dropB b bs' (b2n (decide (ext ≤ b.1)))
      | a :: as', [] => dropA a as' (b2n (decide (ext ≤ a.1)))
      | a :: as', b :: bs' =>
        if ext ≤ a.1 then dropA a as' 1
        else if ext ≤ b.1 then dropB b bs' 1
        else if a.1 = b.1 then
          let r := mergeSegment ext fuel (some a.1) (some b.1) as' bs'
          { r with groups := [(a.2, some b.2)] :: r.groups, codesA := a.2 :: r.codesA, codesB := b.2 :: r.codesB }
        else if a.1 < b.1 then dropA a as' 0
        else dropB b bs' 0

/-- Segment i of a row: its entries, the range [lo, hi) that it covers, and the index of the entry before it (R165). -/
def segEntries (row : List (Nat × Nat)) (i : Nat) : List (Nat × Nat) × Nat × Nat × Option Nat :=
  let mine := (row.drop (256 * i)).take 256
  let lo := (mine.head?.map (·.1)).getD 0
  let hi := match row[256 * (i + 1)]? with
    | some e => e.1
    | none => (row.getLast?.map fun e => e.1 + 1).getD 0
  (mine, lo, hi, if i = 0 then none else (row[256 * i - 1]?).map (·.1))

/-- B's entries for a range: from the first not below lo up to the first not below hi (R165, R166). -/
def rangeOf (lo hi : Nat) (b : List (Nat × Nat)) : List (Nat × Nat) := (b.dropWhile fun y => decide (y.1 < lo)).takeWhile fun y => decide (y.1 < hi)

/-- The entries of a segment before the first that descends, and whether one does. -/
def untilDescent : Option Nat → List (Nat × Nat) → List (Nat × Nat) × Bool
  | _, [] => ([], false)
  | p, a :: as => if descends p a.1 then ([], true) else let r := untilDescent (some a.1) as; (a :: r.1, r.2)

/-- A slice's run of a segment on its rows: INTERSECT by the merge procedure; GATHER pairs the entries, two or one a clock, with the
Whorl table's, absent as zero, and drops indices of X or above (R167, R168, R175, R177). -/
def segPairs (c : MergeCtx) (g : Seg) (a b : List (Nat × Nat)) : SliceRun :=
  let (mine, lo, hi, pa) := segEntries a g.index
  if c.gather then
    let per := if ctWidth c.codeA = 16 ∨ ctWidth c.codeB = 16 then 1 else 2
    let good (x : Nat × Nat) : Bool := decide (x.1 < c.extent)
    let r := untilDescent pa mine
    { groups := (chunks per r.1).map fun ch => (ch.filter good).map fun x => (x.2, (b.find? fun y => y.1 == x.1).map (·.2))
      nep := (r.1.filter fun x => !good x).length
      bad := if r.2 then some .a else none
      codesA := r.1.map (·.2) }
  else
    let range := rangeOf lo hi b
    mergeSegment c.extent (mine.length + range.length + 1) pa none mine range

/-- A partial after a segment's products, with the overflow (R147, R153, R160). -/
def segSum (c : MergeCtx) (run : SliceRun) (acc : Word) : Word × Bool :=
  run.groups.foldl (fun st ps =>
    let r :=
      if c.intMode then
        let v (ct code : Nat) : Int := if ct = 0 then toSigned 8 code else toSigned 4 code
        addI32 st.1 ((ps.map fun p => v c.codeA p.1 * (match p.2 with | some k => v c.codeB k | none => 0)).sum)
      else
        let prod (p : Nat × Option Nat) : Word × Bool :=
          laneProduct (codeVal c.codeA c.gridA p.1) (match p.2 with | some k => codeVal c.codeB c.gridB k | none => .fin (.rat Q.zero))
        match ps.map prod with
        | [] => (st.1, false)
        | [p] => let s := addF32 st.1 p.1; (s.1, p.2 || s.2)
        | p :: q :: _ =>
          let t := addF32 p.1 q.1
          let s := addF32 st.1 t.1
          (s.1, p.2 || q.2 || t.2 || s.2)
    (r.1, st.2 || r.2)) (acc, false)

/-- NEP_THRESH when a job's count exceeds its limit, once (R176). -/
def Engine.checkNep (e : Engine) (n : Sp) (id : Nat) : Engine :=
  match e.jobId? n id with
  | some x =>
    let t := match x.desc.mtch with | some m => m.nepThresh | none => 0
    if t ≠ 0 ∧ t < x.nep ∧ !x.nepRaised then (e.modJob n id fun x => { x with nepRaised := true }).raise (.nepThresh n.val x.desc.tag)
    else e
  | none => e

/-- A partial added to a lane's entry for an output.  A batch that brings more outputs than the file has free entries is
kept whole: R180 states no answer (DESIGN CHOICE, log 101). -/
def addPartial (ps : List Partial) (o : Nat) (f : Word → Word) : List Partial :=
  if ps.any fun p => p.output == o then ps.map fun p => if p.output = o then { p with acc := f p.acc } else p
  else ps ++ [⟨o, f 0⟩]

/-- A record of a ring segment, as 16 bytes (R183). -/
def stealRecord (output glane flags detail : Nat) (part : Word) (nep : Nat) : List Byte :=
  leBytes 4 output ++ leBytes 2 glane ++ leBytes 1 flags ++ leBytes 1 detail ++ leBytes 4 part.toNat ++ leBytes 4 nep

/-- A thief writes the record of a segment to STEAL_AREA + 16 × k, once its address is translated and has its place.  The address is
checked as the granting job's (R275) and as the thief's own access (R181); one that may not be written faults that job, and the record
counts as written (R183, R271 to R283; the latter: DESIGN CHOICE, log 102). -/
def Engine.writeRecord (e : Engine) (n : Sp) (c : MergeCtx) (k : Nat) (bs : List Byte) : Engine :=
  let a := (Addr.parse c.stealArea).plus (16 * k)
  let o := spOf c.owner
  let add (held : Option (Nat × Nat × List Byte)) : Engine :=
    e.modSp n fun s => { s with ringRecs := s.ringRecs ++ [⟨c.owner, c.job, k, c.stealKnot, held⟩] }
  match (e.writeFault o a 16).or (e.writeFault n a 16), a with
  | some (f, d), _ => (add none).fault o c.job f d 0
  | none, .placed t off => ((add (some (t, off, bs))).lookUp n t).releaseRecords n t
  | none, a => (add none).putJob n thiefJob (wRecord k) a bs

/-- A thief without segments left has done with the job. -/
def Engine.thiefIdle (e : Engine) (n : Sp) : Engine :=
  match (e.sp n).merge with
  | some c =>
    if c.owner ≠ n.val ∧ (e.sp n).segments.isEmpty then (e.modSp n fun s => { s with merge := none, lanes := [] }).kickSparse n else e
  | none => e

/-- VOID records for ring segments that were not finished (R185). -/
def Engine.voidRecords (e : Engine) (n : Sp) (c : MergeCtx) (segs : List (Nat × Seg)) : Engine :=
  segs.foldl (fun e p => e.writeRecord n c (p.2.record.getD 0) (stealRecord p.2.output (64 * n.val + p.1) 1 0 0 0)) e

/-- The reads of a thief that is stopped: those not issued are dropped, the others discarded (R426). -/
def Engine.dropThief (e : Engine) (n : Sp) : Engine :=
  e.modSp n fun s => { s with txns := s.txns.filterMap fun t =>
    if t.job = thiefJob ∧ !t.write then (if t.slot.isNone then none else some { t with discarded := true }) else some t }

/-- Spindle n stops its work on ring segments of the jobs that `p` names, those on their way to it included:
each becomes a VOID record, and its lanes are free (R185). -/
def Engine.stopRing (e : Engine) (n : Sp) (p : MergeCtx → Bool) : Engine :=
  let e1 := match (e.sp n).merge with
    | some c =>
      if c.owner != n.val && p c then ((e.dropThief n).voidRecords n c (e.sp n).segments).modSp n fun s => { s with merge := none, lanes := [] } else e
    | none => e
  let e2 := match (e1.sp n).ringAnswer with
    | some (some (c, segs)) =>
      if p c then (e1.voidRecords n c (segs.map fun g => (0, g))).modSp n fun s => { s with ringAnswer := none, ringSteal := .idle } else e1
    | _ => e1
  e2.kickSparse n

/-! ## Rows of lists -/

/-- A row of a list: its first entry, and its entries. -/
def Strm.rowSpan (s : Strm) (r : Nat) : Nat × Nat := (s.ptrs.getD r 0, s.ptrs.getD (r + 1) 0 - s.ptrs.getD r 0)

/-- The bytes of the value array that hold a row's codes: first byte, and bytes. -/
def codeSpan (w first len : Nat) : Nat × Nat := (first * w / 8, if len = 0 then 0 else ((first + len) * w - 1) / 8 + 1 - first * w / 8)

/-- The first place between `lo` and `hi` whose index is not below v, by binary search over the places that are known; the place to
be probed next otherwise (R166). -/
def firstNotBelow (known : List (Nat × Nat)) (v : Nat) : Nat → Nat → Nat → Except Nat Nat
  | 0, lo, _ => .ok lo
  | fuel + 1, lo, hi =>
    if hi ≤ lo then .ok lo
    else
      let mid := (lo + hi) / 2
      match known.find? fun p => p.1 == mid with
      | none => .error mid
      | some p => if p.2 < v then firstNotBelow known v fuel (mid + 1) hi else firstNotBelow known v fuel lo mid

/-- Places of a row of `len` entries that index ranges cover, both ends found by binary search, or the place to be probed next; the
whole row where no ranges restrict it (R165, R166; that a range's end is searched for too: DEDUCED, log 123). -/
def rowSpans (ranges : Option (List (Nat × Nat))) (known : List (Nat × Nat)) (len : Nat) : Except Nat (List (Nat × Nat)) :=
  match ranges with
  | none => .ok [(0, len)]
  | some rs => rs.foldl (fun acc r =>
    match acc with
    | .error p => .error p
    | .ok spans =>
      match firstNotBelow known r.1 33 0 len with
      | .error p => .error p
      | .ok a =>
        match firstNotBelow known r.2 33 a len with
        | .error p => .error p
        | .ok b => .ok (spans ++ [(a, b)])) (.ok [])

/-- A place lies in one of some spans. -/
def inSpans (spans : List (Nat × Nat)) (k : Nat) : Bool := spans.any fun s => decide (s.1 ≤ k ∧ k < s.2)

/-- Number of places that go on from p. -/
def runLength : Nat → List Nat → Nat
  | _, [] => 0
  | p, k :: ks => if k = p then runLength (p + 1) ks + 1 else 0

/-- The first run of consecutive places: its start and length. -/
def firstRun (ks : List Nat) : Option (Nat × Nat) := ks.head?.map fun k => (k, runLength k ks)

/-- The indices of a list row that are read next: one probe of a search, or the next run of the places in its ranges; none once all
that the ranges need are known (R165, R166). -/
def indexRun (ranges : Option (List (Nat × Nat))) (known : List (Nat × Nat)) (len : Nat) : Option (Nat × Nat) :=
  if len ≤ known.length then none
  else
    match rowSpans ranges known len with
    | .error p => some (p, 1)
    | .ok spans => firstRun ((List.range len).filter fun k => inSpans spans k && !known.any fun p => p.1 == k)

/-- An entry placed in ascending order of its first component. -/
def insertEntry (x : Nat × Nat) : List (Nat × Nat) → List (Nat × Nat)
  | [] => [x]
  | y :: ys => if y.1 < x.1 then y :: insertEntry x ys else x :: y :: ys

/-- Entries in ascending order of their first components. -/
def sortRow (r : List (Nat × Nat)) : List (Nat × Nat) := r.foldl (fun acc x => insertEntry x acc) []

/-- The known entries of a list row that are used, by place (R165). -/
def usedEntries (ranges : Option (List (Nat × Nat))) (known : List (Nat × Nat)) (len : Nat) : List (Nat × Nat) :=
  match ranges, rowSpans ranges known len with
  | some _, .ok spans => sortRow (known.filter fun p => inSpans spans p.1)
  | _, _ => known

/-- The codes of a list row's used entries that are read next, after the first `got`: the run of consecutive places they stand at. -/
def codeRun (es : List (Nat × Nat)) (got : Nat) : Option (Nat × Nat) := firstRun ((es.drop got).map (·.1))

/-- Indices as they arrive for a run of places. -/
def placed (p : Nat) (bs : List Byte) : List (Nat × Nat) := (chunks 4 bs).mapIdx fun i b => (p + i, leNat b)

/-! ## A thief's reads (R11, R181) -/

/-- Purpose of a thief's read for a lane. -/
def pThief (lane : Nat) : Nat × Nat := (20, lane)

/-- The reads of a thief's lane are issued: pieces of an operand at offsets of its stream or list, which the thief's own translation
cache looks up (R181, R284). -/
def Engine.thiefAsk (e : Engine) (n : Sp) (l : Nat) (op : Strm) (pieces : List (Nat × Nat)) : Engine :=
  let go := pieces.filter fun p => p.2 != 0
  if go.any fun p => (e.placeFault n false (op.addr.plus p.1) p.2).isSome then
    e.modSp n fun s => s.modLane l fun x => { x with read := { x.read with fail := some 0 } }
  else go.foldl (fun e p => (e.lookAt n op.addr).issue n thiefJob false (pThief l) (e.memLines (op.addr.plus p.1) p.2)) e

/-- Bytes of an operand that a thief has read. -/
def Engine.thiefBytes (e : Engine) (op : Strm) (off len : Nat) : List Byte := e.readAt (op.addr.plus off) len

/-- B's index range that a segment covers; none in GATHER, which reads the row whole (R165, R168). -/
def segRange (c : MergeCtx) (g : Seg) (rowA : List (Nat × Nat)) : Option (List (Nat × Nat)) :=
  if c.gather then none else let (_, lo, hi, _) := segEntries rowA g.index; some [(lo, hi)]

/-- Tiles of a row of a Skein operand that a segment may read: all of A's, and of B's those that its range meets (R165). -/
def needTiles (c : MergeCtx) (g : Seg) (isA : Bool) (op : Strm) (rowA : List (Nat × Nat)) : List Nat :=
  let (_, lo, hi, _) := segEntries rowA g.index
  (List.range op.rowTiles).filter fun k =>
    isA || c.gather || decide (k * op.hdr.tileChans < hi ∧ lo < (k + 1) * op.hdr.tileChans)

/-- The entries of a tile of a row, by index along DIM0 (R164). -/
def tileEntries (base : Nat) (codes : List (Option Nat)) : List (Nat × Nat) :=
  (List.range codes.length).filterMap fun k => match codes.getD k none with | some c => some (base + k, c) | none => none

/-- Codes of a run of a list's entries from the bytes of the value array that hold them. -/
def listCodes (w first len : Nat) (bs : List Byte) : List Nat :=
  (List.range len).map fun i => leNat bs / 2 ^ (first * w - 8 * (first * w / 8) + i * w) % 2 ^ w

/-- A run of a row's entries with their codes put in. -/
def putCodes (row : List (Nat × Nat)) (first : Nat) (codes : List Nat) : List (Nat × Nat) :=
  row.mapIdx fun i e => if first ≤ i ∧ i < first + codes.length then (e.1, codes.getD (i - first) 0) else e

/-- The codes that a segment reads of a list row whose used entries are `es`: first place and number.  Of A's row those of the segment;
of B's the run that its range covers (R165). -/
def segCodes (isA : Bool) (g : Seg) (es : List (Nat × Nat)) : Nat × Nat :=
  if isA then (256 * g.index, min 256 (es.length - 256 * g.index)) else (codeRun es 0).getD (0, 0)

/-- One step of a thief's reading of a segment, when its last reads are answered: what was read is taken in and checked, and the next
part is asked for (R67, R172, R181). -/
def Engine.thiefStep (e : Engine) (n : Sp) (c : MergeCtx) (l : Nat) (g : Seg) : Engine :=
  let r := ((e.sp n).lane l).read
  let put (e : Engine) (f : SegRead → SegRead) : Engine := e.modSp n fun s => s.modLane l fun x => { x with read := f x.read }
  let fail (d : Nat) : Engine := put e fun r => { r with fail := some d }
  let isA := decide (r.stage < 4)
  let op := if isA then c.opA else c.opB
  let row := if isA then g.row else g.bRow
  let have_ := if isA then r.rowA else r.rowB
  let setRow (r : SegRead) (x : List (Nat × Nat)) : SegRead := if isA then { r with rowA := x } else { r with rowB := x }
  let t0 := op.first + row * op.rowTiles
  let tiles := needTiles c g isA op r.rowA
  let ranges := if isA then none else segRange c g r.rowA
  let ask (e : Engine) (op : Strm) (row stage : Nat) : Engine :=
    (put e fun r => { r with stage := stage, entries := [], known := [] }).thiefAsk n l op
      (match op.lst with
       | some h => [(h.ptrOffset + 4 * (op.first + row), 8)]
       | none => [(op.hdr.tableOffset + 8 * (op.first + row * op.rowTiles), 8 * op.rowTiles)])
  let next (e : Engine) : Engine := if isA then ask e c.opB g.bRow 4 else put e fun r => { r with stage := 7 }
  if g.empty then put e fun r => { r with stage := 7 }
  else if r.stage = 0 then ask e c.opA g.row 1
  else
    match op.lst with
    | some h =>
      let p := r.ptrs
      let w := ctWidth h.codeType
      let len := p.2 - p.1
      let askIdx (e : Engine) (p0 len : Nat) (known : List (Nat × Nat)) : Engine :=
        match indexRun ranges known len with
        | some (k, m) => e.thiefAsk n l op [(h.idxOffset + 4 * (p0 + k), 4 * m)]
        | none => e
      let allKnown (e : Engine) (known : List (Nat × Nat)) : Engine :=
        let es := usedEntries ranges known len
        let (k, m) := segCodes isA g es
        let (o, b) := codeSpan w (p.1 + k) m
        (put e fun r => { (setRow r (es.map fun x => (x.2, 0))) with known := known, stage := r.stage + 1 }).thiefAsk n l op [(h.valOffset + o, b)]
      if r.stage % 3 = 1 then
        let bs := e.thiefBytes op (h.ptrOffset + 4 * (op.first + row)) 8
        let q := (fieldAt bs 0 4, fieldAt bs 4 4)
        if q.2 < q.1 ∨ h.nnz < q.2 then fail 4
        else askIdx (put e fun r => { r with ptrs := q, stage := r.stage + 1 }) q.1 (q.2 - q.1) []
      else if r.stage % 3 = 2 then
        match indexRun ranges r.known len with
        | none => allKnown e r.known
        | some (k, m) =>
          let known := r.known ++ placed k (e.thiefBytes op (h.idxOffset + 4 * (p.1 + k)) (4 * m))
          let e1 := (put e fun r => { r with known := known }).countSource n (4 * m) 0
          if (indexRun ranges known len).isSome then askIdx e1 p.1 len known else allKnown e1 known
      else
        let (k, m) := segCodes isA g (usedEntries ranges r.known len)
        let (o, b) := codeSpan w (p.1 + k) m
        let cs := listCodes w (p.1 + k) m (e.thiefBytes op (h.valOffset + o) b)
        next ((put e fun r => setRow r (putCodes have_ (if isA then k else 0) cs)).countSource n b 0)
    | none =>
      if r.stage % 3 = 1 then
        let es := (chunks 8 (e.thiefBytes op (op.hdr.tableOffset + 8 * t0) (8 * op.rowTiles))).map TileEntry.parse
        let get (k : Nat) : TileEntry := es.getD k ⟨0, 0, true⟩
        if tiles.any fun k => !(get k).ok op.hdr (t0 + k) then fail 0
        else (put e fun r => { r with entries := es, stage := r.stage + 2 }).thiefAsk n l op
          ((tiles.filter fun k => !(get k).zero).map fun k => ((get k).offset, (get k).length))
      else
        let one (acc : Except Nat (List (Nat × Nat) × Nat)) (k : Nat) : Except Nat (List (Nat × Nat) × Nat) :=
          match acc with
          | .error d => .error d
          | .ok (xs, len) =>
            let en := r.entries.getD k ⟨0, 0, true⟩
            match decodeTile op.hdr (t0 + k) en (if en.zero then [] else e.thiefBytes op en.offset en.length) with
            | .error d => .error d
            | .ok cs => .ok (xs ++ tileEntries (k * op.hdr.tileChans) cs, len + en.length)
        match tiles.foldl one (.ok ([], 0)) with
        | .error d => fail d
        | .ok (xs, len) => next ((put e fun r => setRow r xs).countSource n len 0)

/-- A thief's lane reads on while nothing that it asked for is out and no translation is awaited (R284). -/
def Engine.thiefLane (e : Engine) (n : Sp) (l : Nat) : Nat → Engine
  | 0 => e
  | fuel + 1 =>
    match (e.sp n).merge, ((e.sp n).lane l).cur with
    | some c, some (g, _) =>
      let r := ((e.sp n).lane l).read
      if c.owner = n.val ∨ r.stage = 7 ∨ r.fail.isSome ∨ (e.sp n).waitsFor thiefJob (pThief l) ∨
          !(e.translated n c.opA.addr && e.translated n c.opB.addr) then e
      else (e.thiefStep n c l g).thiefLane n l fuel
    | _, _ => e

/-- The lanes of a thief read on (R181). -/
def Engine.thiefAdvance (e : Engine) (n : Sp) : Engine := ((e.sp n).lanes.map (·.1)).foldl (fun e l => e.thiefLane n l 80) e

/-! ## The end of a segment (R167, R168, R175, R183) -/

/-- The rows of a lane's segment: the owner has read its operands whole, a thief reads for each lane. -/
def Engine.segRows (e : Engine) (n : Sp) (c : MergeCtx) (l : Nat) (g : Seg) : List (Nat × Nat) × List (Nat × Nat) :=
  if c.owner = n.val then (c.rowsA.getD g.row [], c.rowsB.getD g.bRow [])
  else let r := ((e.sp n).lane l).read; (r.rowA, r.rowB)

/-- The codes that a slice read are counted (R76, R79). -/
def Engine.countSlice (e : Engine) (n : Sp) (c : MergeCtx) (r : SliceRun) : Engine :=
  (e.countCodes n (readCounts c.codeA (r.codesA.map some))).countCodes n (readCounts c.codeB (r.codesB.map some))

/-- A lane's segment ends: dropped indices and the codes read are counted; the owner adds the products to the lane's partial, or faults at
a descending index; a thief writes the record, with FAULT for a failed check and OVERFLOW for what overflowed before it (R98, R172, R175 to R177, R183). -/
def Engine.mergeDone (e : Engine) (n : Sp) (l : Nat) : Engine :=
  match (e.sp n).merge, ((e.sp n).lane l).cur with
  | some c, some (g, true) =>
    let rows := e.segRows n c l g
    let fail := if c.owner = n.val then none else ((e.sp n).lane l).read.fail
    let run : SliceRun := if fail.isSome then {} else segPairs c g rows.1 rows.2
    let e1 := (e.modSp n fun s => { s with work := { s.work with nep := satAdd s.work.nep run.nep } }).countSlice n c run
    let next (x : Lane) : Lane := ({ x with cur := none, prev := some g }).takeUp c
    if c.owner = n.val then
      let acc0 := ((((e.sp n).lane l).partials.find? fun p => p.output == g.output).map fun p => p.acc).getD 0
      let r := segSum c run acc0
      let e2 := e1.modSp n fun s => s.modLane l fun x => next { x with partials := addPartial x.partials g.output fun _ => r.1 }
      let e3 := (e2.modJob n c.job fun x =>
        { x with nep := x.nep + run.nep, overflow := x.overflow || r.2, point := false
                 sparse := x.sparse.map fun sp =>
                   { sp with outstanding := Tab.put sp.outstanding 0 g.output (Tab.getD sp.outstanding g.output 0 - 1) } }).checkNep n c.job
      match run.bad with
      | some .a => e3.fault n c.job 0x04 5 (c.opA.first + g.row)
      | some .b => e3.fault n c.job 0x04 5 (c.opB.first + g.bRow)
      | none => e3
    else
      let r := segSum c run 0
      let bad := match fail with | some d => some d | none => if run.bad.isSome then some 5 else none
      let rec_ := match bad with
        | some d => stealRecord g.output (64 * n.val + l) (2 + 4 * b2n r.2) d 0 run.nep
        | none => stealRecord g.output (64 * n.val + l) (4 * b2n r.2) 0 r.1 run.nep
      (((e1.modSp n fun s => s.modLane l next).writeRecord n c (g.record.getD 0) rec_).thiefAdvance n).thiefIdle n
  | _, _ => e

/-- A lane's segment can be merged: a thief has read its operands or failed to, and in GATHER the row's bank is filled (R168,
R181). -/
def Engine.bankThere (e : Engine) (n : Sp) (c : MergeCtx) (l : Nat) (g : Seg) : Bool :=
  let r := ((e.sp n).lane l).read
  (c.owner != n.val && r.fail.isSome) ||
    ((c.owner == n.val || r.stage == 7) && (!c.gather || g.empty || c.whorl.any fun k => k.1 == g.bRow))

/-- SEARCH_DONE: a lane's binary search ends (R166). -/
def execSearchDone (n : Sp) (lane : Fin 64) (s : State) : Host.Outcome State Fault Refusal :=
  done (s.onEng fun e => e.modSp n fun sp =>
    match (sp.lane lane).cur with
    | some (g, false) => sp.modLane lane fun x => { x with cur := some (g, true) }
    | _ => sp)

/-- The rows of the Whorl table that a segment reads: those of its B row in GATHER, none otherwise (R168, R483). -/
def MergeCtx.whorlRows (c : MergeCtx) (n : Sp) (g : Seg) : List RowAt :=
  match if c.gather && !g.empty then c.whorl.find? fun k => k.1 == g.bRow else none with
  | some k => Sys2Proof.Machine.whorlRows n k.2 c.extent
  | none => []

/-- MERGE_SEGMENT_DONE: a slice ends a segment's last merge clock, with the clocks that the array waited for a bank and for an
accumulator.  A Whorl row that cannot be read faults the job, if it is the spindle's own (R149, R167, R168, R483; log 119). -/
def execMergeSegmentDone (n : Sp) (lane : SegmentEnd) (s : State) : Host.Outcome State Fault Refusal :=
  done (s.onEng fun e =>
    match (e.sp n).merge, ((e.sp n).lane lane.lane).cur with
    | some c, some (g, true) =>
      if e.bankThere n c lane.lane g then
        let e0 := e.modSp n fun s => { s with work := { s.work with
          whorlStall := satAdd s.work.whorlStall lane.whorlWait, drainStall := satAdd s.work.drainStall lane.drainWait } }
        let r := e0.readRows (c.whorlRows n g) lane.row false
        if r.2 && c.owner == n.val then r.1.fault n c.job 0x19 4 0 else r.1.mergeDone n lane.lane
      else e
    | _, _ => e)

/-- Banks that a B row takes alone of the two: one, or both above 512 entries (R168). -/
def MergeCtx.bankLimit (c : MergeCtx) : Nat := if c.extent ≤ 512 then 2 else 1

/-- A B row in the Whorl is still needed: a segment that reads it is not merged, or an output that reads it is not opened. -/
def Engine.rowNeeded (e : Engine) (n : Sp) (c : MergeCtx) (r : Nat) : Bool :=
  ((e.sp n).segments.any fun p => p.2.bRow == r && !p.2.empty) ||
    (c.owner == n.val && (match e.jobId? n c.job with
      | some x => (match x.sparse with | some sp => decide (64 * sp.opened < (r + 1) * c.ra) | none => false)
      | none => false))

/-- The next B row for the Whorl.  At the owner the lowest that is still needed and is in no bank: the next row fills the other bank
while the first is read (R168).  At a thief the lowest that a lane waits for and has read (R181). -/
def Engine.nextFill (e : Engine) (n : Sp) (c : MergeCtx) : Option (Nat × Nat) :=
  if c.owner = n.val then ((List.range c.rb).find? fun r => !(c.whorl.any fun k => k.1 == r) && e.rowNeeded n c r).map fun r => (r, 0)
  else (e.sp n).lanes.foldl (fun best p =>
    match p.2.cur with
    | some (g, _) =>
      if g.empty || (c.whorl.any fun k => k.1 == g.bRow) || p.2.read.stage != 7 then best
      else match best with
        | some (r, l) => if g.bRow < r then some (g.bRow, p.1) else some (r, l)
        | none => some (g.bRow, p.1)
    | none => best) none

/-- WHORL_BANK_FILLED in GATHER: the fill unit finishes a B row's bank, in place of one whose row no lane needs; its codes are read
then (R76, R168). -/
def Engine.fillRow (e : Engine) (n : Sp) : Engine :=
  match (e.sp n).merge with
  | some c =>
    match if c.gather then e.nextFill n c else none with
    | some (r, l) =>
      let keep := if c.whorl.length < c.bankLimit then c.whorl
        else match c.whorl.find? fun k => !e.rowNeeded n c k.1 with | some k => c.whorl.erase k | none => c.whorl
      if keep.length < c.bankLimit then
        let row := if c.owner = n.val then c.rowsB.getD r [] else ((e.sp n).lane l).read.rowB
        let half := match keep with | k :: _ => 1 - k.2 | [] => 0
        ((e.whorlFilled n half (3 - c.bankLimit)).modSp n fun s => { s with merge := some { c with whorl := keep ++ [(r, half)] } }).countCodes n (readCounts c.codeB (row.map fun y => some y.2))
      else e
    | none => e
  | none => e

/-! ## Sorting (R170, R171) -/

/-- Passes over a row of L entries: one, and ⌈log2 r⌉ more for r runs (R170). -/
def sortPasses (l : Nat) : Nat := let r := ceilDiv l 65536; if r ≤ 1 then 1 else 1 + (Nat.log2 (r - 1) + 1)

/-! ## B's reads, once A's ranges are known (R165, R168) -/

/-- Tiles of B that some segment's range meets; all of them in GATHER. -/
def neededB (a b : Strm) (gather : Bool) : List Nat :=
  let ranges := a.rows.flatMap fun row =>
    (List.range (ceilDiv row.length 256)).map fun i => let (_, lo, hi, _) := segEntries row i; (lo, hi)
  (List.range b.count).filter fun k =>
    let i0 := k % b.rowTiles
    gather || ranges.any fun p => decide (i0 * b.hdr.tileChans < p.2 ∧ p.1 < (i0 + 1) * b.hdr.tileChans)

/-- Purpose of the read of a row's codes. -/
def pCodes (o : Opnd) (r : Nat) : Nat × Nat := (match o with | .a => 18 | .b => 19, r)

/-- The index ranges of B that the segments of A's rows cover; none where rows are read whole: A's, B's in GATHER, and those that are
to be sorted (R165, R168, R170). -/
def Job.ranges (x : Job) (o : Opnd) : Option (List (Nat × Nat)) :=
  match o, x.strA, x.desc.mtch with
  | .b, some a, some m =>
    if m.unsortedB || m.mode == 1 then none
    else some (a.rows.flatMap fun row => (List.range (ceilDiv row.length 256)).map fun i => let (_, lo, hi, _) := segEntries row i; (lo, hi))
  | _, _, _ => none

/-- What is read next of the next row of a list is asked for: indices, then the codes of the entries that are used (R165). -/
def Engine.askRow (e : Engine) (n : Sp) (id : Nat) (o : Opnd) : Engine :=
  match e.jobId? n id with
  | none => e
  | some x =>
    match x.strm o with
    | some s =>
      match s.lst with
      | some l =>
        if s.count ≤ s.decoded ∨ (o = .b ∧ s.planVec = 0) then e
        else
          let r := s.first + s.decoded
          let (f, k) := s.rowSpan r
          match s.rowIdx with
          | none =>
            (match indexRun (x.ranges o) s.known k with
             | some (p, m) => e.strmAsk n x o (pPayload o r) (l.idxOffset + 4 * (f + p)) (4 * m)
             | none => e)
          | some es =>
            match codeRun es s.rowCodes.length with
            | some (p, m) =>
              let (c, b) := codeSpan (ctWidth l.codeType) (f + p) m
              e.strmAsk n x o (pCodes o r) (l.valOffset + c) b
            | none => e
      | none => e
    | none => e

/-- A sparse job goes on: when A's rows are known, B's reads are planned and begun; and when both are at hand, the lanes begin. -/
def Engine.sparseOn (e : Engine) (n : Sp) (id : Nat) : Engine :=
  match e.jobId? n id with
  | none => e
  | some x =>
    match x.strA, x.strB, x.desc.mtch with
    | some a, some b, some m =>
      let e1 :=
        if x.form != .sparse || b.phase != .open || b.planVec != 0 || !rowsAReady x then e
        else if b.lst.isSome then (e.modStrm n id .b fun s => { s with planVec := 1 }).askRow n id .b
        else
          let need := neededB a b (m.mode == 1)
          let first := need.head? == some 0
          (e.modStrm n id .b fun s =>
            { s with planVec := 1, plan := need.map fun k => (0, s.first + k), entries := if first then s.entries else []
                     asked := if first then s.asked else 0, paid := 0 }).readOn n id .b
      e1.kickSparse n
    | _, _, _ => e

/-- Run `i` of a long row, sorted, as the sorter's workspace holds it: a 4-byte index and a one-byte code an entry (R170). -/
def runBytes (row : List (Nat × Nat)) (i : Nat) : List Byte :=
  (sortRow ((row.drop (65536 * i)).take 65536)).flatMap fun x => leBytes 4 x.1 ++ leBytes 1 x.2

/-- The first pass over a row of several runs ends: each finished run is claimed a slice, written there, and read back for the
passes that merge the runs (R170, R289). -/
def Engine.placeRuns (e : Engine) (n : Sp) (id : Nat) (row : List (Nat × Nat)) : Engine :=
  (List.range (ceilDiv row.length 65536)).foldl (fun e i =>
    if !e.jobLive n id then e
    else
      let bs := runBytes row i
      let e1 := e.claimSlice n id (2 + i) bs.length
      if !e1.jobLive n id then e1
      else
        let e2 := e1.putScratch n id (2 + i) 0 bs
        match (e2.jobId? n id).bind fun x => x.spot (2 + i) with
        | some p => e2.issue n id false (pScratch (2 + i)) (e2.memLines (e2.scratchAddr n p 0) bs.length)
        | none => e2) e

/-- SORT_PASS_DONE: the sorter ends a pass over the next row of an operand.  Each finished run of a row of several runs goes to
scratch space, a merging pass waits for what it reads from there, and the last pass leaves the row sorted, without equal indices
(R170, R171, R289). -/
def execSortPassDone (n : Sp) (j : Nat) (o : Opnd) (s : State) : Host.Outcome State Fault Refusal :=
  done (s.onEng fun e => e.withJob n j fun x =>
    match x.strm o, x.desc.mtch with
    | some st, some m =>
      let unsorted := match o with | .a => m.unsortedA | .b => m.unsortedB
      if !unsorted || st.phase != .open || decide (st.decoded ≤ st.sorted) || (e.sp n).waits x.id true 40 || (e.sp n).waits x.id false 22 then e
      else
        let row := st.rows.getD st.sorted []
        let e1 := if st.passes = 0 ∧ 65536 < row.length then e.placeRuns n x.id row else e
        if !e1.jobLive n x.id then e1
        else if st.passes + 1 < sortPasses row.length then e1.modStrm n x.id o fun s => { s with passes := s.passes + 1 }
        else
          let r := sortRow row
          if !ascending (r.map (·.1)) then e1.fault n x.id 0x04 6 (st.first + st.sorted)
          else
            (e1.modStrm n x.id o fun s => { s with rows := setAt s.rows s.sorted r, sorted := s.sorted + 1, passes := 0 }).sparseOn n x.id
    | _, _ => e)

/-! ## Stealing within a spindle (R178 to R180) -/

/-- Entries of a lane's partial file: partials for outputs that it does not own (R180). -/
def Lane.fileUse (l : Nat) (x : Lane) : Nat := (x.partials.filter fun p => p.output % 64 != l).length

/-- The lane may ask: it is idle, its partial file has room, and an unstarted segment remains
(R178, R180). -/
def Spindle.mayAsk (s : Spindle) (n l : Nat) : Bool :=
  match s.merge with
  | some c => (c.laneSteal || c.owner != n) && (s.lane l).idle && (s.lane l).answer.isNone && s.anyUnstarted && decide ((s.lane l).fileUse l < 8)
  | none => false

/-- A request of lane l reaches lane v. -/
def Spindle.ask (s : Spindle) (l v : Nat) (st : StealSt) : Spindle :=
  (s.modLane l fun x => { x with steal := st }).modLane v fun x => { x with asked := x.asked ++ [l] }

/-- LANE_STEAL_REQUEST: an idle lane asks its right neighbour (R178). -/
def execLaneStealRequest (n : Sp) (lane : Fin 64) (s : State) : Host.Outcome State Fault Refusal :=
  done (s.onEng fun e => e.modSp n fun sp =>
    if sp.mayAsk n lane && (sp.lane lane).steal == .idle then sp.ask lane ((lane + 1) % 64) .askedFirst else sp)

/-- The smallest of a list of lanes. -/
def leastLane (xs : List Nat) : Nat := xs.foldl min 64

/-- LANE_STEAL_DECIDE: a victim decides the request of the lowest lane that asks it (R179). -/
def execLaneStealDecide (n : Sp) (victim : Fin 64) (s : State) : Host.Outcome State Fault Refusal :=
  done (s.onEng fun e => e.modSp n fun sp =>
    let v := sp.lane victim
    if v.asked.isEmpty then sp
    else
      let t := leastLane v.asked
      let keep := v.unstarted.length / 2
      let given := v.unstarted.drop keep
      let s1 := sp.modLane victim fun x => { x with asked := x.asked.erase t, unstarted := x.unstarted.take keep }
      { (s1.modLane t fun x => { x with answer := some given }) with
        work := { sp.work with stealLane := satAdd sp.work.stealLane given.length } })

/-- LANE_STEAL_ANSWER: the answer reaches the thief (R178, R179). -/
def execLaneStealAnswer (n : Sp) (lane : Fin 64) (s : State) : Host.Outcome State Fault Refusal :=
  done (s.onEng fun e => (e.modSp n fun sp =>
    let x := sp.lane lane
    match x.answer, sp.merge with
    | some (g :: gs), some c =>
      sp.modLane lane fun x => ({ x with answer := none, steal := .idle, unstarted := x.unstarted ++ g :: gs }).takeUp c
    | some _, _ =>
      let s1 := sp.modLane lane fun x => { x with answer := none }
      if x.steal = .askedFirst then
        if s1.mayAsk n lane then s1.ask lane ((lane + 63) % 64) .askedSecond else s1.modLane lane fun x => { x with steal := .idle }
      else s1.modLane lane fun x => { x with steal := .waiting }
    | none, _ => sp).thiefAdvance n)

/-- LANE_STEAL_RETRY: after the wait a thief starts over with its right neighbour (R178). -/
def execLaneStealRetry (n : Sp) (lane : Fin 64) (s : State) : Host.Outcome State Fault Refusal :=
  done (s.onEng fun e => e.modSp n fun sp =>
    if (sp.lane lane).steal == .waiting then
      if sp.mayAsk n lane then sp.ask lane ((lane + 1) % 64) .askedFirst else sp.modLane lane fun x => { x with steal := .idle }
    else sp)

/-! ## Stealing around the ring (R181 to R185) -/

/-- No job bound to spindle n waits in its queues (R181). -/
def Engine.noJobWaits (e : Engine) (n : Sp) : Bool := (e.creel.heads e.conf 1 n).isEmpty

/-- Spindle n may ask around the ring (R181). -/
def Engine.mayRingSteal (e : Engine) (n : Sp) : Bool :=
  let s := e.sp n
  e.live && s.pwr == .on && s.enable && s.ringEn && e.noJobWaits n && s.merge.isNone && (e.arrayJob n).isNone && (Tab.getD e.conf.spindles n {}).ringSteal &&
    e.conf.clientOf n != 0xFFFF

/-- The lane with the most unstarted segments, the lowest on a tie, and their number (R182). -/
def Spindle.fullestLane (s : Spindle) : Nat × Nat :=
  s.lanes.foldl (fun best p => if best.2 < p.2.unstarted.length then (p.1, p.2.unstarted.length) else best) (0, 0)

/-- Record numbers for the segments that an owner grants, from k on; a segment granted onward keeps
its own (R182). -/
def numberSegs : Nat → List Seg → List Seg
  | _, [] => []
  | k, g :: gs => match g.record with
    | some _ => g :: numberSegs k gs
    | none => { g with record := some k } :: numberSegs (k + 1) gs

/-- Victim m decides a request of spindle n; of a job whose notice of abandonment is under way it grants nothing onward (R181, R182,
R185). -/
def Engine.ringDecide (e : Engine) (n m : Sp) : Engine :=
  let v := e.sp m
  let refuse := e.modSp n fun s => { s with ringAnswer := some none }
  match v.merge with
  | none => refuse
  | some c =>
    let (l, u) := v.fullestLane
    let granted := match e.jobId? (spOf c.owner) c.job with
      | some x => (match x.sparse with | some sp => sp.granted.length | none => 4096)
      | none => 4096
    let own := c.owner == m.val
    let k := min (min (u - u / 2) 64) (if own then 4096 - granted else 64)
    if !c.ringSteal || !v.ringEn || v.abandons.contains (c.owner, c.job) || e.conf.clientOf m != e.conf.clientOf n || k == 0 || (e.sp n).merge.isSome || (!own && c.giver == n.val) then refuse
    else
      let un := (v.lane l).unstarted
      let given := numberSegs granted (un.drop (un.length - k))
      let e1 := e.modSp m fun s =>
        { (s.modLane l fun x => { x with unstarted := un.take (un.length - k) }) with work := { s.work with stealOut := satAdd s.work.stealOut k } }
      let e2 := if own then
          e1.modJob m c.job fun x => { x with sparse := x.sparse.map fun sp =>
            { sp with granted := sp.granted ++ given.map (fun g => (g.record.getD 0, g.output))
                      outstanding := given.foldl (fun t g => Tab.put t 0 g.output (Tab.getD t g.output 0 - 1)) sp.outstanding } }
        else e1
      (e2.modSp n fun s => { s with ringAnswer := some (some ({ c with rowsA := [], rowsB := [], whorl := [], giver := m.val }, given)) }).thiefIdle m

/-- RING_STEAL_REQUEST: an idle spindle asks its first ring neighbour (R182). -/
def execRingStealRequest (n : Sp) (s : State) : Host.Outcome State Fault Refusal :=
  done (s.onEng fun e =>
    if e.mayRingSteal n && (e.sp n).ringSteal == .idle && (e.sp n).ringAnswer.isNone then
      (e.modSp n fun s => { s with ringSteal := .askedFirst }).ringDecide n (n + 1)
    else e)

/-- RING_STEAL_ANSWER: the grant or refusal reaches the thief (R182). -/
def execRingStealAnswer (n : Sp) (s : State) : Host.Outcome State Fault Refusal :=
  done (s.onEng fun e =>
    match (e.sp n).ringAnswer with
    | none => e
    | some (some (c, segs)) =>
      (e.modSp n fun s =>
        let s1 := { s with ringAnswer := none, ringSteal := .idle, merge := some c, lanes := []
                           work := { s.work with stealIn := satAdd s.work.stealIn segs.length } }
        s1.modLane 0 fun x => ({ x with unstarted := segs }).takeUp c).thiefAdvance n
    | some none =>
      let e1 := e.modSp n fun s => { s with ringAnswer := none }
      if (e.sp n).ringSteal = .askedFirst then
        if e.mayRingSteal n then (e1.modSp n fun s => { s with ringSteal := .askedSecond }).ringDecide n (n + 31)
        else e1.modSp n fun s => { s with ringSteal := .idle }
      else e1.modSp n fun s => { s with ringSteal := .waiting })

/-- RING_STEAL_RETRY: a thief refused on both sides asks again (R182). -/
def execRingStealRetry (n : Sp) (s : State) : Host.Outcome State Fault Refusal :=
  done (s.onEng fun e =>
    if (e.sp n).ringSteal == .waiting then
      if e.mayRingSteal n then (e.modSp n fun s => { s with ringSteal := .askedFirst }).ringDecide n (n + 1)
      else e.modSp n fun s => { s with ringSteal := .idle }
    else e)

/-- The oldest record of a thief whose write is acknowledged (R183). -/
def Spindle.ackedRecord (s : Spindle) : Option RingRec := s.ringRecs.find? fun r => r.held.isNone && !s.waitsFor thiefJob (wRecord r.record)

/-- RING_RECORD_WRITE_ACK: a thief's oldest acknowledged record counts in STEAL_KNOT (R183). -/
def execRingRecordWriteAck (n : Sp) (s : State) : Host.Outcome State Fault Refusal :=
  done (s.onEng fun e =>
    match (e.sp n).ackedRecord with
    | none => e
    | some r => (e.modSp n fun s => { s with ringRecs := s.ringRecs.erase r }).knotIssue (.spindle n.val) r.knot .add 1)

/-- ABANDON_NOTICE: a thief voids its unfinished segments of the abandoned job (R185). -/
def execAbandonNotice (n : Sp) (s : State) : Host.Outcome State Fault Refusal :=
  done (s.onEng fun e =>
    match (e.sp n).abandons with
    | [] => e
    | (o, id) :: rest =>
      let e1 := e.modSp n fun s => { s with abandons := rest }
      e1.stopRing n fun c => c.owner == o && c.job == id)

/-! ## Reduction (R184, R186, R187) -/

/-- STEAL_KNOT has counted every record granted for the job (R184). -/
def Engine.recordsIn (e : Engine) (x : Job) : Bool :=
  match x.sparse, x.desc.mtch with
  | some sp, some m => sp.granted.isEmpty || decide (sp.granted.length ≤ (e.knot m.stealKnot).count.toNat)
  | _, _ => true

/-- A partial with its place in the order of R186. -/
structure Placed where
  glane : Nat
  record : Nat
  acc : Word

/-- A partial placed in the order of R186. -/
def insertPlaced (p : Placed) : List Placed → List Placed
  | [] => [p]
  | q :: qs => if q.glane < p.glane ∨ (q.glane = p.glane ∧ q.record ≤ p.record) then q :: insertPlaced p qs else p :: q :: qs

/-- An output's partials are reduced: its ring records first, then all in the order of R186. -/
def Engine.reduceOutput (e : Engine) (n : Sp) (x : Job) (sp : Sparse) (c : MergeCtx) (o : Nat) : Engine :=
  let recs := (sp.granted.filter fun r => r.2 == o).map fun r => (r.1, e.readAt ((Addr.parse c.stealArea).plus (16 * r.1)) 16)
  let flag (i : Nat) (b : List Byte) : Bool := bitOf (fieldAt b 6 1) i
  let nep := (recs.map fun r => fieldAt r.2 12 4).sum
  let e1 := (e.modJob n x.id fun x => { x with nep := x.nep + nep, overflow := x.overflow || recs.any fun r => flag 2 r.2 }).checkNep n x.id
  match recs.find? fun r => flag 1 r.2 with
  | some r => e1.fault n x.id 0x04 (fieldAt r.2 7 1) 0
  | none =>
    let own := (e.sp n).lanes.flatMap fun l => (l.2.partials.filter fun p => p.output == o).map fun p => (⟨64 * n.val + l.1, 0, p.acc⟩ : Placed)
    let ring := (recs.filter fun r => !flag 0 r.2).map fun r => (⟨fieldAt r.2 4 2, r.1 + 1, w32 (fieldAt r.2 8 4)⟩ : Placed)
    let order := (own ++ ring).foldl (fun acc p => insertPlaced p acc) []
    let add (a b : Word) : Word × Bool := if c.intMode then addI32 a b.toInt else addF32 a b
    let r : Word × Bool := match order with
      | [] => (0, false)
      | p :: ps => ps.foldl (fun st q => let t := add st.1 q.acc; (t.1, st.2 || t.2)) (p.acc, false)
    (e1.modSp n fun s => { s with lanes := s.lanes.foldl (fun t l =>
        Tab.put t {} l.1 { l.2 with partials := l.2.partials.filter fun p => p.output != o }) s.lanes }).modJob n x.id fun x =>
      { x with overflow := x.overflow || r.2, sparse := x.sparse.map fun sp => { sp with results := sp.results ++ [⟨o, r.1⟩] } }

/-- Purpose of the read of an output's records. -/
def pRecords (o : Nat) : Nat × Nat := (21, o)

/-- The records of an output are read through the home leaf port, and the output is reduced when they are there (R13, R184); a read of a placed tensor's records waits for its translation (R284). -/
def Engine.reduceOn (e : Engine) (n : Sp) (id o : Nat) : Engine :=
  match e.jobId? n id, (e.sp n).merge with
  | some x, some c =>
    match x.sparse with
    | some sp =>
      let recs := sp.granted.filter fun r => r.2 == o
      let at_ (k : Nat) : Addr := (Addr.parse c.stealArea).plus (16 * k)
      if x.ended.isSome || c.owner != n.val || c.job != id || (sp.results.any fun r => r.output == o) then e
      else if recs.isEmpty || (sp.recAsked.contains o && !(e.sp n).waitsFor id (pRecords o) && e.translated n (at_ 0)) then e.reduceOutput n x sp c o
      else if sp.recAsked.contains o then e
      else
        match recs.findSome? fun r => e.placeFault n false (at_ r.1) 16 with
        | some (f, d) => e.fault n id f d 0
        | none =>
          let e1 := e.modJob n id fun x => { x with sparse := x.sparse.map fun sp => { sp with recAsked := sp.recAsked ++ [o] } }
          let e2 := recs.foldl (fun e r => (e.lookAt n (at_ r.1)).issue n id false (pRecords o) (e.memLines (at_ r.1) 16)) e1
          if (e2.sp n).waitsFor id (pRecords o) || !e2.translated n (at_ 0) then e2 else e2.reduceOutput n x sp c o
    | none => e
  | _, _ => e

/-- PARTIAL_REDUCE: an output whose segments have all ended is reduced, one with ring segments once STEAL_KNOT has counted every
record and its records are read (R184, R186, R187). -/
def execPartialReduce (n : Sp) (j output : Nat) (s : State) : Host.Outcome State Fault Refusal :=
  done (s.onEng fun e => e.withJob n j fun x =>
    match x.sparse, (e.sp n).merge with
    | some sp, some c =>
      if c.owner = n.val ∧ c.job = x.id ∧ output < min (64 * sp.opened) (c.ra * c.rb) ∧ 64 * sp.drained ≤ output ∧
          Tab.getD sp.outstanding output 0 = 0 ∧ !(sp.results.any fun r => r.output == output) ∧
          ((sp.granted.any fun r => r.2 == output) → e.recordsIn x = true) then e.reduceOn n x.id output
      else e
    | _, _ => e)

end Sys2Proof.Machine
end

