-- ==== Sys2Proof/Machine/Streams.lean ====
section
/-! DEFINITION. The opening of streams and lists, their tiles and rows, Whorl fills and drains
(R67, R130 to R164, R172, R187, R239, R518). -/

namespace Sys2Proof.Machine

/-! ## Headers (R131, R132, R138, R162) -/

/-- The stream state once its header has passed its own checks: selection and scale in force.  Of an
operand whose tile reads follow a plan only the read of TILE_FIRST is planned yet; a sparse Skein
operand has a place for every row (R138, R151, R163, R165). -/
def Strm.opened (s : Strm) (x : Job) (o : Opnd) (hdr : SkeinHdr) (lst : Option ListHdr) (folded : Word) : Strm :=
  let total := match lst with | some l => l.rows | none => hdr.tileCount
  let count := if s.blk.tileRun = 0 then total - s.blk.tileFirst else s.blk.tileRun
  { s with hdr := hdr, lst := lst, first := s.blk.tileFirst, count := count
           plan := if x.planned o then [(0, s.blk.tileFirst)] else []
           rows := if x.form = .sparse ∧ lst.isNone then List.replicate (count / max 1 (ceilDiv hdr.dim0 hdr.tileChans)) [] else []
           scale := match s.blk.scaleSrc with
             | 0 => (match lst with | some l => l.scale | none => hdr.scale)
             | 1 => folded
             | _ => f32One }

/-- The stream of an operand is accepted: its first table entry, or the list's row pointers, are
read (R138). -/
def Engine.enterStream (e : Engine) (n : Sp) (id : Nat) (o : Opnd) : Engine :=
  match e.jobId? n id with
  | none => e
  | some x =>
    if x.ended.isSome then e
    else
      let e1 := e.modStrm n id o fun s => { s with phase := .entry }
      match x.strm o with
      | some s =>
        match s.lst with
        | some l => e1.strmAsk n x o (pPtrs o) l.ptrOffset (4 * (l.rows + 1))
        | none => e1.askEntry n id o
      | none => e1

/-- Banks of a crop job's tile cache (R288). -/
def cropBanks (h : SkeinHdr) : Nat := ceilDiv (4 * h.tileCols * h.tileChans * ctWidth h.codeType) 262144

/-- What the job's form asks of its operand once it is open (R247, R263, R288). -/
def Engine.formChecks (e : Engine) (n : Sp) (x : Job) (s : Strm) : Engine :=
  match x.form with
  | .window => (match x.desc.window with | some b => e.windowOpen n x b s.hdr | none => e)
  | .crop => if !windowOperand s.hdr then e.fault n x.id 0x0E 0 0 else e.claimFixed n x.id (cropBanks s.hdr)
  | _ => e

/-- The checks that follow the header's own (R131 third step, R132, R200), and the stream's
acceptance.  A lockstep member is compared with every member whose header has passed, and no member
delivers before all have (R156, R200).  The folded word is checked last (DESIGN CHOICE, log 111). -/
def Engine.headerPassed (e : Engine) (n : Sp) (x : Job) (o : Opnd) (s : Strm) : Engine :=
  let other := x.strm (otherOpnd o)
  let pair := if x.isSecond o then
      (match o, other with
       | .a, some b => pairOk x s b
       | .b, some a => pairOk x a s
       | _, none => false)
    else true
  let e1 := e.modStrm n x.id o fun _ => s
  let x' := x.modStrm o fun _ => s
  let set_ := e1.lockSet n x
  if !blockOk x o s || !pair then e1.fault n x.id 0x08 0 0
  else if x.desc.lock && !set_.all (fun y => y.id == x.id || !y.headerIn || lockAgree x' y) then
    e1.faultSet (set_.map fun y => (n, y)) 0x08 0
  else if s.blk.scaleSrc = 1 ∧ !isScale s.scale then e1.fault n x.id 0x07 0 0
  else (e1.formChecks n x' s).enterStream n x.id o

/-- The header of a stream or list is at hand: it is parsed and checked (R67, R162, R239).  A list
stands where the job is sparse or the block names PLY_SPARSE (R158, R159). -/
def Engine.header (e : Engine) (n : Sp) (x : Job) (o : Opnd) (s : Strm) (hb : List Byte) : Engine :=
  let magic := fieldAt hb 0 4
  let folded := w32 (if s.blk.scaleSrc = 1 then e.natAt (Addr.parse s.blk.foldAddr) 4 else 0)
  if (x.form = .sparse ∨ s.blk.dest = 3) ∧ magic ≠ magicSkein then
    let l := ListHdr.parse hb
    if magic ≠ magicList ∨ !l.ok x.grids (fieldAt hb 5 1) then e.fault n x.id 0x05 0 0
    else e.headerPassed n x o (s.opened x o {} (some l) folded)
  else
    let h := SkeinHdr.parse hb
    let fits := match s.wrapped with | some k => decide (h.tableOffset + 8 * h.tileCount ≤ k.rawLen) | none => true
    if !h.ok x.grids || !fits then e.fault n x.id 0x02 0 0
    else e.headerPassed n x o (s.opened x o h none folded)

/-- Working banks of the decode side that the job's wrapped operands already claim. -/
def Job.decBanks (x : Job) : Nat :=
  let one (s : Option Strm) : Nat := match s with
    | some s => (match s.wrapped with | some h => sideBanks .dec h.blockSize | none => 0)
    | none => 0
  max (one x.strA) (one x.strB)

/-- Once both operands are wrapped each has one buffer, the one whose block was used last (R239). -/
def Job.trimBuffers (x : Job) : Job :=
  let one (s : Strm) : Strm := { s with blocks := s.blocks.take x.bufferCount }
  { x with strA := x.strA.map one, strB := x.strB.map one }

/-- A Hank frame stands at an operand's address: it is checked, and the decode side and its banks are claimed.  With HANK_EN clear and
its drain over the job is aborted as one that the drain limit met (R235, R236, R239, R372; log 116). -/
def Engine.openWrapped (e : Engine) (n : Sp) (x : Job) (o : Opnd) (hb : List Byte) : Engine :=
  match hankOpenError hb with
  | some d => e.hankFail n x 0x0A d 0
  | none =>
    if !(e.sp n).hankEn && (e.sp n).drainHank.isNone then e.abort n x.id 2
    else
    let h := HankHdr.parse hb
    let e1 := (e.modStrm n x.id o fun s => { s with wrapped := some h }).modJob n x.id fun x =>
      { x.trimBuffers with hank := some (x.hank.getD {}) }
    (e1.trySide n x.id).claimFixed n x.id (sideBanks .dec h.blockSize - x.decBanks)

/-- STREAM_HEADER_ARRIVE: a header read returns and its checks are made; a wrapped stream's header
comes from its first decoded block. -/
def execStreamHeaderArrive (n : Sp) (j : Nat) (o : Opnd) (row : Ecc) (s : State) : Host.Outcome State Fault Refusal :=
  done (s.onEng fun e => e.withJob n j fun x =>
    match x.strm o with
    | some st =>
      if st.phase != .header || (e.sp n).waitsFor x.id (pFold o) ||
          (st.blk.scaleSrc == 1 && !e.translated n (Addr.parse st.blk.foldAddr)) then e
      else
        match st.wrapped with
        | some _ =>
          Engine.onArrive (e.strmRead n x o (pHeader o) 0 64 0x02 row) n x 0 fun e hb =>
            (match e.jobId? n x.id with
             | some y => (match y.strm o with | some st => e.header n y o st hb | none => e)
             | none => e)
        | none =>
          Engine.onArrive (e.arrive n x (pHeader o) st.addr 64 row) n x 0 fun e hb =>
            if fieldAt hb 0 4 = magicHank then e.openWrapped n x o hb else e.header n x o st hb
    | none => e)

/-! ## Entries and set-up (R138, R139, R172) -/

/-- Whether the match block declares an operand unsorted (R170). -/
def Job.unsorted (x : Job) (o : Opnd) : Bool :=
  match x.desc.mtch with
  | some m => (match o with | .a => m.unsortedA | .b => m.unsortedB)
  | none => false

/-- Working banks that the sorter needs for an operand whose row pointers are known (R170, R288): one
workspace, for the longest run. -/
def Job.sortBanks (x : Job) (o : Opnd) : Nat :=
  match x.strm o with
  | some s =>
    if x.unsorted o then
      let longest := ((List.range s.count).map fun i => (s.rowSpan (s.first + i)).2).foldl max 0
      ceilDiv (5 * min longest 65536) 32768
    else 0
  | none => 0

/-- The row pointers of a list arrive: they are checked, and an unsorted operand claims what its
sorter needs beyond the job's claim for the other operand (R170, R172, R288). -/
def Engine.listPtrs (e : Engine) (n : Sp) (x : Job) (o : Opnd) (l : ListHdr) (row : Ecc) : Engine :=
  Engine.onArrive (e.strmRead n x o (pPtrs o) l.ptrOffset (4 * (l.rows + 1)) 0x02 row) n x 0 fun e bs =>
    let ps := (chunks 4 bs).map leNat
    if !ptrsOk l.nnz ps then e.fault n x.id 0x04 4 0
    else
      let put (s : Strm) : Strm := { s with ptrs := ps, phase := .setup }
      let e1 := e.modStrm n x.id o put
      (e1.claimFixed n x.id ((x.modStrm o put).sortBanks o - x.sortBanks (otherOpnd o))).askRow n x.id o

/-- The next table entry of a tiled operand arrives and is checked; its payload and the next entry are
asked for (R139, R142). -/
def Engine.nextEntry (e : Engine) (n : Sp) (x : Job) (o : Opnd) (s : Strm) (row : Ecc) : Engine :=
  let i := s.entries.length
  match x.readTile o s i with
  | none => e
  | some t =>
    if s.asked ≤ s.decoded + i then e
    else
      Engine.onArrive (e.strmRead n x o (pEntry o (s.decoded + i)) (s.hdr.tableOffset + 8 * t) 8 0x02 row) n x t fun e bs =>
        let en := TileEntry.parse bs
        if !en.ok s.hdr t then e.fault n x.id 0x03 0 t
        else
          (e.modStrm n x.id o fun s =>
            { s with entries := s.entries ++ [en], phase := if s.phase = .entry then .setup else s.phase }).readOn n x.id o

/-- The entry of TILE_FIRST of a window or crop job arrives: set-up begins, and its payload is read meanwhile.  The tile is checked at its
first use (R67, R138, R139). -/
def Engine.firstEntry (e : Engine) (n : Sp) (x : Job) (o : Opnd) (s : Strm) (row : Ecc) : Engine :=
  Engine.onArrive (e.strmRead n x o (pEntry o 0) (s.hdr.tableOffset + 8 * s.first) 8 0x02 row) n x s.first fun e bs =>
    let en := TileEntry.parse bs
    let e1 := e.modStrm n x.id o fun s => { s with phase := .setup, entries := [en], asked := 1, paid := 1 }
    if en.zero || !en.ok s.hdr s.first then e1
    else e1.strmAsk n x o (pPayload o (if x.form = .crop then s.first else 0)) en.offset en.length

/-- TILE_ENTRY_ARRIVE: a tile table entry returns (R139), or a list's row pointers. -/
def execTileEntryArrive (n : Sp) (j : Nat) (o : Opnd) (row : Ecc) (s : State) : Host.Outcome State Fault Refusal :=
  done (s.onEng fun e => e.withJob n j fun x =>
    match x.strm o with
    | none => e
    | some st =>
      match st.lst with
      | some l => if st.phase = .entry then e.listPtrs n x o l row else e
      | none =>
        let read := x.form == .window || x.form == .crop
        match st.phase with
        | .entry =>
          if read then e.firstEntry n x o st row else e.nextEntry n x o st row
        | .setup => if read then e else e.nextEntry n x o st row
        | .open =>
          match x.form with
          | .window => e.windowEntries n x row
          | .crop => e.cropEntry n x row
          | _ => e.nextEntry n x o st row
        | _ => e)

/-- Bytes of a two-pass job's arriving source, which it stores (R114, R288). -/
def Job.storedBytes (x : Job) : Nat :=
  match x.draft, x.desc.draft with
  | some d, some b => if b.twoPass && x.desc.srcKind != 1 then d.n * srcBytes x.desc b else 0
  | _, _ => 0

/-- The flexible claims of a job (R288, R289). -/
def Engine.flexClaims (e : Engine) (n : Sp) (x : Job) : Engine :=
  (e.claimFlexible n x.id 0 x.storedBytes).claimFlexible n x.id 1 (Engine.stagedBytes x.desc x.halves)

/-- The zero MAGIC of a drafting job's stream is written, once its claims are made and granted (R35, R293). -/
def Engine.draftZero (e : Engine) (n : Sp) (x : Job) : Engine :=
  (e.draftWrite n x wStream 0 (leBytes 4 0)).modJob n x.id fun x => { x with draft := x.draft.map fun d => { d with zeroed := true } }

/-- Both operands of a Ply or sparse job are open: the output scale is formed, its flexible claims and the zero MAGIC follow the fixed
claims of its operands, and the array may start (R35, R94, R132, R148, R288, R293; log 118). -/
def Engine.bothOpen (e : Engine) (n : Sp) (id : Nat) : Engine :=
  match e.jobId? n id with
  | none => e
  | some x =>
    match x.strA, x.strB with
    | some a, some b =>
      if !(a.phase == .open && b.phase == .open) || x.ended.isSome then e
      else
        match scaleMul a.scale b.scale with
        | none => e.fault n id 0x07 0 0
        | some k =>
          let e1 := e.modJob n id fun x =>
            { x with draft := x.draft.map fun d => { d with plyScale := k, plyInt := isIntCt a.ct && isIntCt b.ct }
                     ply := if x.form = .ply then some {} else none }
          let e2 := e1.flexClaims n x
          let e3 := if e2.jobLive n id then e2.draftZero n x else e2
          if x.form = .ply then e3.plyOn n id else e3.sparseOn n id
    | _, _ => e

/-- STREAM_SETUP_DONE: an operand's set-up ends and it is open; the next operand begins to open. -/
def execStreamSetupDone (n : Sp) (j : Nat) (o : Opnd) (s : State) : Host.Outcome State Fault Refusal :=
  done (s.onEng fun e => e.withJob n j fun x =>
    match x.strm o with
    | some st =>
      if st.phase = .setup then
        let e1 := (e.modStrm n x.id o fun s => { s with phase := .open }).openNext n x.id
        match x.form with
        | .window => (match x.desc.window with | some b => e1.windowFirst n x.id b | none => e1)
        | .crop => e1.cropNext n x.id
        | .ply => e1.bothOpen n x.id
        | .sparse => e1.bothOpen n x.id
        | _ => e1
      else e
    | none => e)

/-! ## Payloads -/

/-- Whether the next planned tile may be decoded now: a Ply operand's tile takes the place of one
that the array has done with (R151, R518). -/
def Job.mayDecode (x : Job) (o : Opnd) (s : Strm) : Bool :=
  match x.form, x.ply, x.strA, x.strB, s.plan with
  | .ply, some p, some a, some w, (k, _) :: _ =>
    (match o with
     | .a => decide (k ≤ fillKey (segCount a.hdr.dim0) (laneGroups w.cols) p.vec p.pair)
     | .b => decide (k ≤ p.reads))
  | .ply, _, _, _, _ => false
  | .sparse, _, _, _, _ => o == .a || s.planVec == 1
  | _, _, _, _, _ => true

/-- The decoded tiles that an operand of a Ply job holds after one more: of the activations those of
the same position in the grid of tiles, of the weights those not yet done with (R151). -/
def Strm.hold (s : Strm) (isAct : Bool) (t : Nat) (cs : List (Option Nat)) : List (Nat × List (Option Nat)) :=
  let place (t : Nat) : Nat × Nat × Nat := (s.hdr.tilePos t).2
  (s.held.filter fun p => p.1 != t && (!isAct || place p.1 == place t)) ++ [(t, cs)]

/-- The entries of a sparse operand's row after one of its tiles (R163). -/
def Strm.addTile (s : Strm) (t : Nat) (cs : List (Option Nat)) : List (List (Nat × Nat)) :=
  let k := t - s.first
  let r := k / max 1 s.rowTiles
  setAt s.rows r (s.rows.getD r [] ++ tileEntries (k % max 1 s.rowTiles * s.hdr.tileChans) cs)

/-- A decoded tile goes where its operand's DEST takes it. -/
def Engine.tileDecoded (e : Engine) (n : Sp) (x : Job) (o : Opnd) (s : Strm) (t : Nat) (cs : List (Option Nat)) : Engine :=
  let next (s : Strm) : Strm := { s with decoded := s.decoded + 1, entries := s.entries.drop 1, plan := s.plan.drop 1 }
  match x.form with
  | .feed => ((e.feedTile n x s cs).modStrm n x.id o next).readOn n x.id o
  | .sparse => ((e.modStrm n x.id o fun s => { (next s) with rows := s.addTile t cs }).readOn n x.id o).sparseOn n x.id
  | _ => (e.modStrm n x.id o fun s => { (next s) with held := s.hold (o == .a) t cs }).plyOn n x.id

/-- The next tile of an operand arrives and is decoded.  A sparse operand's codes count when a lane
reads them (R76, R79), any other's when the tile is decoded (R28). -/
def Engine.nextTile (e : Engine) (n : Sp) (x : Job) (o : Opnd) (s : Strm) (row : Ecc) (waited : Nat) : Engine :=
  match s.entries, x.readTile o s 0 with
  | en :: _, some t =>
    if s.paid ≤ s.decoded ∨ !x.mayDecode o s then e
    else
      let r : Engine × Arrival := if en.zero then (e, .bytes []) else e.strmRead n x o (pPayload o s.decoded) en.offset en.length 0x03 row
      Engine.onArrive r n x t fun e bs =>
        match decodeTile s.hdr t en bs with
        | .error d => e.fault n x.id 0x04 d t
        | .ok cs =>
          let e1 := e.countSource n en.length waited
          (if x.form = .sparse then e1 else e1.countCodes n (readCounts s.ct cs)).tileDecoded n x o s t cs
  | _, _ => e

/-- The next part of the next row of a list arrives: its indices, of B in INTERSECT those that the search probes and those in A's
ranges, then the codes of the entries that are used (R161, R165, R166, R172). -/
def Engine.nextRow (e : Engine) (n : Sp) (x : Job) (o : Opnd) (s : Strm) (l : ListHdr) (row : Ecc) (waited : Nat) : Engine :=
  if s.count ≤ s.decoded ∨ (o = .b ∧ s.planVec = 0) then e
  else
    let r := s.first + s.decoded
    let (f, k) := s.rowSpan r
    let w := ctWidth l.codeType
    let put (e : Engine) (entries : List (Nat × Nat)) : Engine :=
      ((e.modStrm n x.id o fun s =>
        { s with decoded := s.decoded + 1, known := [], rowIdx := none, rowCodes := [], rows := s.rows ++ [entries] }).askRow n x.id o).sparseOn n x.id
    match s.rowIdx with
    | none =>
      match indexRun (x.ranges o) s.known k with
      | none => put e []
      | some (p, m) =>
        Engine.onArrive (e.strmRead n x o (pPayload o r) (l.idxOffset + 4 * (f + p)) (4 * m) 0x02 row) n x r fun e bs =>
          let known := s.known ++ placed p bs
          let e1 := (e.countSource n (4 * m) waited).modStrm n x.id o fun s => { s with known := known }
          if (indexRun (x.ranges o) known k).isSome then e1.askRow n x.id o
          else
            match usedEntries (x.ranges o) known k with
            | [] => put e1 []
            | es => (e1.modStrm n x.id o fun s => { s with rowIdx := some es }).askRow n x.id o
    | some es =>
      match codeRun es s.rowCodes.length with
      | none => put e ((es.map (·.2)).zip s.rowCodes)
      | some (p, m) =>
        let (c, b) := codeSpan w (f + p) m
        Engine.onArrive (e.strmRead n x o (pCodes o r) (l.valOffset + c) b 0x02 row) n x r fun e bs =>
          let codes := s.rowCodes ++ listCodes w (f + p) m bs
          let e1 := e.countSource n b waited
          if codes.length < es.length then (e1.modStrm n x.id o fun s => { s with rowCodes := codes }).askRow n x.id o
          else put e1 ((es.map (·.2)).zip codes)

/-- TILE_PAYLOAD_ARRIVE: a tile payload arrives and is decoded to delivery, the Whorl or the merge
unit (R136, R139). -/
def execTilePayloadArrive (n : Sp) (j : Nat) (o : Opnd) (row : Ecc) (waited : Nat) (s : State) : Host.Outcome State Fault Refusal :=
  done (s.onEng fun e => e.withJob n j fun x =>
    match x.strm o with
    | none => e
    | some st =>
      if st.phase != .open then e
      else
        match x.form with
        | .window => e.windowPayload n x row waited
        | .crop => e.cropPayload n x row waited
        | .feed => if x.words.isEmpty && !x.lockWait then e.nextTile n x o st row waited else e
        | _ => match st.lst with
          | some l => e.nextRow n x o st l row waited
          | none => e.nextTile n x o st row waited)

/-! ## Fills and drains (R144, R149, R163, R187, R518) -/

/-- WHORL_BANK_FILLED: the fill unit finishes a bank: of a Ply job, or of the spindle's gathered
merge, a thief's among them (R144, R168, R181). -/
def execWhorlBankFilled (n : Sp) (j : Nat) (s : State) : Host.Outcome State Fault Refusal :=
  done (s.onEng fun e =>
    match e.job? n j with
    | some x =>
      if x.form = .ply then
        e.withJob n j fun x => (match x.ply, x.strA, x.strB with | some p, some a, some w => e.fillBank n x p a w | _, _, _ => e)
      else if e.live then e.fillRow n else e
    | none => if e.live then e.fillRow n else e)

/-- Output values go to the Drafter's source; after the last the source has ended. -/
def Engine.drainWords (e : Engine) (n : Sp) (id : Nat) (ws : List Word) (last : Bool) : Engine :=
  e.modJob n id fun x => { x with draft := x.draft.map fun d =>
    { d with src := d.src ++ ws.flatMap (fun w => leBytes 4 w.toNat), srcDone := d.srcDone || last } }

/-- The oldest complete lane group of a dense Ply job drains its 64 values in lane order (R149); with
the last the array is free for the spindle's next job (R9). -/
def Engine.drainPly (e : Engine) (n : Sp) (x : Job) (p : Ply) (a w : Strm) : Engine :=
  match p.accs with
  | g :: rest =>
    if g.full then
      let outs := min 64 (w.cols - 64 * g.group)
      let last := p.drained + 1 == a.positions * laneGroups w.cols
      let e1 := (e.modJob n x.id fun x =>
        { x with ply := if last then none else x.ply.map fun p => { p with accs := rest, drained := p.drained + 1 } }).drainWords n x.id
        (g.acc.take outs) last
      if last then e1.kickSparse n else e1
    else e
  | [] => e

/-- The lowest open output group of a sparse job drains once all its outputs are reduced (R163,
R187). -/
def Engine.drainSparse (e : Engine) (n : Sp) (x : Job) (sp : Sparse) (c : MergeCtx) : Engine :=
  let outs := c.ra * c.rb
  let os := ((List.range 64).map (· + 64 * sp.drained)).filter (· < outs)
  let val (o : Nat) : Option Word := (sp.results.find? fun r => r.output == o).map fun r => r.acc
  if sp.opened ≤ sp.drained ∨ !(os.all fun o => (val o).isSome) then e
  else
    let last := ceilDiv outs 64 == sp.drained + 1
    let e1 := (e.modJob n x.id fun x => { x with point := true, sparse := x.sparse.map fun sp =>
        { sp with drained := sp.drained + 1, results := sp.results.filter fun r => !os.contains r.output } }).drainWords n x.id
      (os.map fun o => (val o).getD 0) last
    if last then (e1.modSp n fun s => { s with merge := none, lanes := [] }).kickSparse n
    else e1.openGroups n x.id c 2

/-- ACCUMULATOR_DRAIN: an output group's accumulator drains into the Drafter. -/
def execAccumulatorDrain (n : Sp) (j : Nat) (s : State) : Host.Outcome State Fault Refusal :=
  done (s.onEng fun e => e.withJob n j fun x =>
    match x.ply, x.strA, x.strB with
    | some p, some a, some w => e.drainPly n x p a w
    | _, _, _ =>
      match x.sparse, (e.sp n).merge with
      | some sp, some c => if c.owner = n.val ∧ c.job = x.id then e.drainSparse n x sp c else e
      | _, _ => e)

end Sys2Proof.Machine
end

