-- ==== Sys2Proof/Machine/Records.lean ====
section
/-! DEFINITION. Completion records, yields between guarantees, and the uncorrectable cell (R345 to
R348, R364 to R367, R483). -/

namespace Sys2Proof.Machine

/-! ## Yields (R347, R348) -/

/-- A yield, raised or only counted: WIN_RANK, LOSE_RANK, WIN_ID, LOSE_ID, RESOURCE and UNIT. -/
structure Yield where
  winRank : Nat
  loseRank : Nat
  winId : Nat
  loseId : Nat
  resource : Nat
  unit : Nat
deriving DecidableEq, Repr

/-- A guarantee yields: counted, recorded in the telemetry ring, and raised unless the loser's last
event is less than 1 ms old (R348). -/
def Engine.yield_ (e : Engine) (y : Yield) : Engine :=
  let key := 65536 * y.loseRank + y.loseId
  let e1 := { e with ticks := { e.ticks with yieldCnt := satInc e.ticks.yieldCnt } }
  let e2 := e1.telEntry 3 (leBytes 1 y.winRank ++ leBytes 1 y.loseRank ++ leBytes 2 y.winId ++ leBytes 2 y.loseId ++
    leBytes 1 y.resource ++ leBytes 1 y.unit ++ leBytes 8 (e.now - e.activatedAt))
  let again := match Tab.get? e.ticks.lastYields key with | some t => decide (e.now < t + usClocks 1000) | none => false
  if again then e2
  else
    { e2 with ticks := { e2.ticks with lastYields := Tab.ins e2.ticks.lastYields key e.now } }.raise
      (.guaranteeYield y.winRank y.loseRank y.winId y.loseId)

/-- Rank of a winner's guarantee: G1 for class 0, G2 for classes 1 to 3, and G3 for 4, which stands for a client's share (R345). -/
def classRank (c : Nat) : Nat := if c = 0 then 1 else if c < 4 then 2 else 3

/-- The better of a winner held and one that is served now, each a class and its input: the higher rank,
which the lower class has (R345), and among equals the one served last (R347). -/
def betterWinner (old : Option (Nat × Nat)) (new : Nat × Nat) : Option (Nat × Nat) :=
  match old with
  | some o => if o.1 < new.1 then some o else some new
  | none => some new

/-! ## Records (R364, R365) -/

/-- CFLAGS of a job (R364). -/
def Job.cflags (x : Job) (ok : Bool) : BitVec 8 :=
  BitVec.ofNat 8 (b2n ok + 2 * b2n x.overflow + 4 * b2n x.spilled + 8 * b2n x.drift + 16 * b2n x.nepRaised +
    32 * b2n x.nanRaised + 64 * b2n x.switched)

/-- WHERE of a job's ending (R364). -/
def Job.whereOf (x : Job) (en : Ending) : Nat :=
  match x.desc.crop, x.crop with
  | some b, some c => if en.fault = 0 then 0 else c.where_ b
  | _, _ => if [0x02, 0x03, 0x04, 0x0A, 0x0B, 0x0C].contains en.fault then en.where_ else 0

/-- What calibration takes from a drafting job (R485). -/
def Job.calSample (x : Job) : Option CalSample :=
  match x.draft, x.desc.draft with
  | some d, some b =>
    some { cls := b.tensorClass, codeType := b.codeType, gridSlot := b.gridSlot, histBase := b.histBase, absmax := d.carder.absmax
           histMode := d.carder.mode, clipShare := d.share, calibrated := b.scaleMode == 3 && !d.calFallback
           entry := x.cls }
  | _, _ => none

/-- The completion record of a job that has ended (R364). -/
def Job.record (x : Job) (n : Sp) (en : Ending) (clocks : Nat) : CompRec :=
  let ok := en.status == 0
  { tag := x.desc.tag, status := en.status, fault := en.fault, detail := en.detail, cflags := x.cflags ok, nep := x.nep
    where_ := x.whereOf en, spindle := n.val, setId := x.desc.setId, kclocks := min (clocks / 1024) 0xFFFFFFFF
    bytesOut := min x.bytesOut 0xFFFFFFFF, notify := x.desc.notify, effects := if en.fault = 1 then [] else x.desc.effects
    inst := x.inst, scale := if ok then (match x.draft with | some d => d.scale | none => none) else none
    cal := if ok then x.calSample else none }

/-- The record of a job that is skipped before it starts (R339, R366). -/
def skipRecord (n : Nat) (d : Desc) (inst : Option Nat) : CompRec :=
  { tag := d.tag, status := 3, fault := 0, detail := 0, cflags := 0, nep := 0, where_ := 0, spindle := n, setId := d.setId
    kclocks := 0, bytesOut := 0, notify := d.notify, effects := d.effects, inst := inst, scale := none, cal := none }

/-- A record enters its spindle's pending buffer of 16; faults and aborts are counted.  The record of a skipped
job, which holds no place among the started jobs, waits outside a full buffer (R15, R367, R376). -/
def Engine.post (e : Engine) (n : Sp) (r : CompRec) : Engine :=
  let d := e.doffer
  let d1 := if d.buffers[n].length < 16 then { d with buffers := d.buffers.set n (d.buffers[n] ++ [r]) }
    else { d with waiting := d.waiting ++ [(n.val, r)] }
  { e with doffer := d1 }.modSp n fun s => { s with cnt := { s.cnt with faults := satAdd s.cnt.faults (b2n (r.status == 1 || r.status == 2)) } }

end Sys2Proof.Machine
end

