-- ==== Sys2Proof/Machine/Frames.lean ====
section
/-! DEFINITION. Frames, their lines and stripes, and what a queue's commit means for them (R337 to
R341). -/

namespace Sys2Proof.Machine

/-! ## Lines and stripes (R337) -/

/-- Lines that stripe k of a frame expects. -/
def TickE.expected (t : TickE) (k : Nat) : Nat :=
  if k + 1 < t.stripes then t.stripeLines else t.frameLines - t.stripeLines * (t.stripes - 1)

/-- The input carries frames. -/
def TickE.frames (t : TickE) : Bool := t.source != 0 && t.frameLines != 0

/-- The input and stripe of a line queue. -/
def Cfg.lineOf (c : Cfg) (q : Nat) : Option (Inp × Nat) :=
  ((List.finRange 16).find? fun t =>
    let k := c.tick t.val
    k.frames && decide (k.lineQ ≤ q ∧ q < k.lineQ + k.stripes)).map fun t => (t, q - (c.tick t.val).lineQ)

/-- A line of stripe k may be counted now: the frame is open and the stripe lacks lines. -/
def Engine.mayCount (e : Engine) (t : Inp) (k : Nat) : Bool :=
  let f := (e.tick t).frame
  f.open_ && decide (f.counts.getD k 0 < (e.conf.tick t.val).expected k)

/-- A packet that opens in the queue now is held invisible until it commits (R340). -/
def Engine.lineHeld (e : Engine) (q : Nat) : Bool :=
  match e.conf.lineOf q with
  | some (t, k) => !e.mayCount t k
  | none => false

/-! ## Closing a frame (R338 to R340) -/

/-- F': the unbroken run of lines from line 0 (R339). -/
def unbroken (t : TickE) : Nat → List Nat → Nat
  | _, [] => 0
  | k, c :: cs => if c < t.expected k then c else c + unbroken t (k + 1) cs

/-- An ingest job whose stripe counted `lines` closes its stream with them, or ends SKIPPED (R338,
R339). -/
def Engine.closeIngest (e : Engine) (n : Sp) (x : Job) (lines : Nat) : Engine :=
  if lines = 0 then e.skipStarted n x.id
  else
    let e1 := e.modJob n x.id fun x => { x with draft := x.draft.map fun d => { d with lines := some lines } }
    match e1.jobId? n x.id with
    | some y =>
      match y.draft, y.desc.draft with
      | some d, some b =>
        if y.ended.isSome then e1
        else ((e1.emitTiles n y b ((draftHeader b d 0 0).tiles + 1) d).carded n x.id).draftEnd n x.id
      | _, _ => e1
    | none => e1

/-- Descriptors leave a JOB queue without starting: members of step sets among them do not come any more (R204). -/
def Engine.descsGone (e : Engine) (q : Nat) (ps : List Pkt) : Engine :=
  let qe := e.conf.queue q
  if qe.mode ≠ 1 ∨ 32 ≤ qe.consumer then e
  else ps.foldl (fun e p =>
    let b := p.bytes
    if descOk1 b && descOk2 b && descOk3 b then e.memberGone (spOf qe.consumer) (Desc.parse b) else e) e

/-- Jobs of the input's instance that name a stripe without lines are removed from their queues and
their records are posted (R339, R366). -/
def Engine.skipWaiting (e : Engine) (t : Inp) (empty : Nat → Bool) : Engine :=
  let cfg := e.conf
  e.creel.queues.foldl (fun e q =>
    let qe := cfg.queue q.1
    if qe.mode ≠ 1 then e
    else
      let gone (p : Pkt) : Bool := p.inst == some t.val && empty (Desc.parse p.bytes).stripe
      let es := q.2.pkts.filter gone
      if es.isEmpty then e
      else
        let e1 := { e with creel := e.creel.upd e.now q.1 fun x => { x with pkts := x.pkts.filter fun p => !gone p } }
        (es.foldl (fun e p => e.post (spOf qe.consumer) (skipRecord qe.consumer (Desc.parse p.bytes) p.inst)) e1).descsGone q.1 es) e

/-- A line that is still open when its frame closes is given up: the rest of its bytes are dropped,
and its ingest job no longer reads it (R317, R340). -/
def Engine.giveUpLine (e : Engine) (q : Nat) : Engine :=
  match (e.creel.q q).openPkt with
  | none => e
  | some p =>
    if p.held then e
    else
      let alone := (e.creel.q q).pkts.length == 1
      let e1 := { e with creel := e.creel.upd e.now q fun x => { x with pkts := x.pkts.dropLast, drop := .counted } }
      if alone then
        { e1 with spindles := e1.spindles.map fun s => { s with jobs := s.jobs.map fun x =>
          if x.desc.srcKind = 4 ∧ x.desc.srcQ = q then { x with inPacket := false, lineBuf := [] } else x } }
      else e1

/-- The frame of an input closes: FRAME_SHORT and its consequences, and the ends of the ingest
jobs' streams (R338 to R340). -/
def Engine.closeFrame (e : Engine) (t : Inp) : Engine :=
  let f := (e.tick t).frame
  if !f.open_ then e
  else
    let te := e.conf.tick t.val
    let total := f.counts.sum
    let short := decide (total < te.frameLines)
    let e1 := e.modTick t fun k => { k with frame := { k.frame with open_ := false }, lastLines := w32 total
                                            shortCnt := satAdd k.shortCnt (b2n short) }
    let e2 := e1.raiseIf short (.frameShort t.val (unbroken te 0 f.counts))
    let e3 := (List.range te.stripes).foldl (fun e k => e.giveUpLine (te.lineQ + k)) e2
    let e4 := (List.finRange 32).foldl (fun e n =>
      ((e.sp n).jobs.filter fun x => x.ended.isNone && x.desc.srcKind == 4 && decide (te.lineQ ≤ x.desc.srcQ ∧ x.desc.srcQ < te.lineQ + te.stripes)).foldl
        (fun e x => e.closeIngest n x (f.counts.getD (x.desc.srcQ - te.lineQ) 0)) e) e3
    if short then e4.skipWaiting t fun k => decide (k < te.stripes) && f.counts.getD k 0 == 0 else e4

/-! ## Commits (R306, R337, R340) -/

/-- A line is dropped at its commit: counted, with FRAME_LONG once per frame while it is open
(R340). -/
def Engine.dropLine (e : Engine) (t : Inp) (q : Nat) : Engine :=
  let k := e.tick t
  let long := k.frame.open_ && !k.frame.long
  let e1 := { e with creel := e.creel.dropLast e.now q }
  (e1.modTick t fun k => { k with dropLines := satInc k.dropLines, longCnt := satAdd k.longCnt (b2n long)
                                  frame := { k.frame with long := k.frame.long || k.frame.open_ } }).raiseIf long (.frameLong t.val)

/-- A line counts for its stripe; the frame closes when every stripe is full (R337, R338). -/
def Engine.countLine (e : Engine) (t : Inp) (k : Nat) : Engine :=
  let te := e.conf.tick t.val
  let e1 := e.modTick t fun x => { x with frame := { x.frame with counts := setAt x.frame.counts k (x.frame.counts.getD k 0 + 1) } }
  if (List.range te.stripes).all fun i => decide (te.expected i ≤ (e1.tick t).frame.counts.getD i 0) then e1.closeFrame t else e1

/-- The open packet of a queue commits, with the given flags: a packet of a line queue is a line
(R306, R311, R312, R337, R340, R341). -/
def Engine.commitPkt (e : Engine) (q : Nat) (poison trunc : Bool) : Engine :=
  match (e.creel.q q).openPkt with
  | none => e
  | some p =>
    let shut (e : Engine) : Engine := { e with creel := e.creel.close e.now q poison trunc }
    match e.conf.lineOf q with
    | none => shut e
    | some (t, k) =>
      if e.mayCount t k then (shut e).countLine t k
      else if p.taken = 0 then e.dropLine t q
      else shut e

end Sys2Proof.Machine
end

