-- ==== Sys2Proof/Machine/Queues.lean ====
section
/-! DEFINITION. Writing and reading queues: leaf-port windows, the Flyer, spindle jobs, waits for
cells and the stale timer (R296 to R319, R427 to R429, R517). -/

namespace Sys2Proof.Machine

/-! ## The Creel -/

/-- The Creel replaced by its image. -/
def Engine.onCreel (e : Engine) (f : Creel → Creel) : Engine := { e with creel := f e.creel }

/-! ## Cells whose row cannot be read (R483) -/

/-- What the check of a queue's next cell yields: an error that its row is known to hold, or the one newly found (R482, R483). -/
def Engine.cellFound (e : Engine) (q : Nat) (found : CellEcc) : CellEcc :=
  let k := e.creel.numAt q 0
  match e.creel.lostRows.find? fun r => r.1 == k with
  | some r => if r.2 then .link else .data
  | none => if found == .ok && e.creel.weakRows.contains k then .corrected else found

/-- A cell's row cannot be read: it stays so until it is written again, and the ECC entry gives its bank and its row in the bank (R299,
R483). -/
def Engine.cellLost (e : Engine) (cell : Nat) (link ue : Bool) : Engine :=
  (e.onCreel fun c => { c.rewritten cell with lostRows := (c.rewritten cell).lostRows ++ [(cell, link)] }).eccEntry 3 (cell % 16) (cell / 16) ue

/-- A cell's error was corrected in the data returned; with REWRITE 0 its row keeps it (R482). -/
def Engine.cellFixed (e : Engine) (cell : Nat) : Engine :=
  (e.onCreel fun c => { c with weakRows := if e.scrub.pol.rewrite then c.weakRows.filter fun k => k != cell
                                          else if c.weakRows.contains cell then c.weakRows else c.weakRows ++ [cell] }).eccCorrected

/-! ## Appending, ending and bad packets -/

/-- The queue takes no packets while a rebind affects it (R396). -/
def Engine.qClosed (e : Engine) (q : Nat) : Bool := e.creel.closed.contains q

/-- A write to a closed queue is dropped and counted; the rest of its packet goes the same way (R396). -/
def Creel.dropClosed (cfg : Cfg) (c : Creel) (now q : Nat) (len : Nat) : Creel :=
  let c1 := { c with discardCnt := satAdd c.discardCnt len }
  if len = 0 ∨ (cfg.queue q).mode = 3 then c1 else c1.setDrop now q .silent

/-- Bytes of a queue's producer are appended; a closed queue drops and counts them (R298, R396). -/
def Engine.qAppend (e : Engine) (q : Nat) (bs : List Byte) : Engine × AppendEnd :=
  if e.qClosed q then (e.onCreel fun c => c.dropClosed e.conf e.now q bs.length, .all)
  else
    let r := e.creel.append e.conf e.now q (e.lineHeld q) bs
    ({ e with creel := r.1 }, r.2)

/-- The open packet turns bad: rewound, or poisoned and committed (R309, R311, R318, R341). -/
def Engine.qBad (e : Engine) (q : Nat) : Engine :=
  match (e.creel.q q).openPkt with
  | some p =>
    if p.taken = 0 then e.onCreel fun c => c.bad e.conf e.now q
    else (e.commitPkt q true false).onCreel fun c => { c with poisonCnt := satInc c.poisonCnt }
  | none => e.onCreel fun c => c.bad e.conf e.now q

/-- The producer ends its packet, or flushes a stream's tail; a packet whose bytes are being dropped
ends with nothing more (R306, R307, R311, R312, R317, R318). -/
def Engine.qEnd (e : Engine) (q : Nat) : Engine :=
  if e.qClosed q then (e.qBad q).onCreel fun c => c.setDrop e.now q .none
  else if (e.creel.q q).drop ≠ .none then e.onCreel fun c => c.setDrop e.now q .none
  else if (e.conf.queue q).mode = 3 then e.onCreel fun c => c.flush e.now q
  else e.commitPkt q false false

/-- The rest of a packet that was cut off is dropped until its end; a stream has no packets, and its later bytes
are taken (R312, R318, R428; DEDUCED, log 91). -/
def Engine.qDropRest (e : Engine) (q : Nat) (ends : Bool) : Engine :=
  e.onCreel fun c => c.setDrop e.now q (if ends ∨ (e.conf.queue q).mode = 3 then .none else .silent)

/-- An abort of the producer (R308, R318); it also ends bytes that are being dropped. -/
def Engine.qAbort (e : Engine) (q : Nat) : Engine :=
  if e.qClosed q then (e.qBad q).onCreel fun c => c.setDrop e.now q .none
  else if (e.creel.q q).drop ≠ .none then e.onCreel fun c => c.setDrop e.now q .none
  else e.qBad q

/-- The packet reached MAX_PKT: it is truncated and committed (R312). -/
def Engine.qOver (e : Engine) (q : Nat) (ends : Bool) : Engine :=
  ((e.commitPkt q false true).onCreel fun c => { c with truncCnt := satInc c.truncCnt }).qDropRest q ends

/-- A write that needs a cell it cannot have begins to wait (R301). -/
def Engine.qWait (e : Engine) (q : Nat) (w : CellWait) : Engine := e.onCreel fun c => c.beginWait e.now q w

/-- A write waits at a queue. -/
def Engine.qWaits (e : Engine) (q : Nat) : Bool := !(e.creel.q q).waits.isEmpty

/-- The wait at the head of a queue ends, or goes on with the bytes that are left (R301, R302). -/
def Engine.qResume (e : Engine) (q : Nat) : Engine := e.onCreel fun c => c.stopWait e.now q

/-- FULL_WAIT has passed: the packet is bad and QUEUE_FULL is raised (R302). -/
def Engine.qFull (e : Engine) (q : Nat) (ends : Bool) : Engine :=
  (((e.qBad q).qDropRest q ends).onCreel fun c => { c with fullCnt := satInc c.fullCnt }).raise (.queueFull q)

/-! ## Leaf ports (R303, R421, R427 to R429, R434) -/

/-- Regions of an aperture: 0 BODY, 1 END, 2 ABORT, 3 none (R303). -/
def apRegion (off : Nat) : Nat := if off < 0x800 then 0 else if off < 0xC00 then 1 else if off < 0xC40 then 2 else 3

/-- Offset of the last byte of a burst. -/
def burstLast (off size beats : Nat) : Nat := off / 2 ^ size * 2 ^ size + beats * 2 ^ size - 1

/-- A burst that the subordinate half refuses (R434, code 0x01). -/
def burstBad (b : Burst) (off size beats : Nat) (special : Bool) : Bool :=
  b != .incr || decide (size < 3 ∨ 6 < size) || special || decide (4096 ≤ burstLast off size beats) ||
  apRegion off != apRegion (burstLast off size beats)

/-- A client may reach the queue through the port (R429). -/
def Cfg.portOk (c : Cfg) (p : Port) (q : Nat) : Bool := bitOf ((Tab.getD c.clients (c.queueClient q) {}).ports) p.val

/-- A write's answer. -/
def Engine.portResp (e : Engine) (p : Port) (r : Option AxiResp) : Engine := e.modPort p fun x => { x with resp := r }

/-- A partner violation at the subordinate half: logged, and answered SLVERR. -/
def Engine.portViolation (e : Engine) (p : Port) (code q : Nat) : Engine :=
  (e.violation code (srcSubordinate p.val) q).portResp p (some .slverr)

/-- A port holds a write that waits for a cell (R428). -/
def Engine.portWaits (e : Engine) (p : Port) : Bool :=
  e.creel.queues.any fun q => q.2.waits.any fun w => w.port == some p

/-- Writes that a port has accepted behind the one that waits: with it at most 32 are outstanding, and more wait for AWREADY (R421). -/
def LeafPort.accepted (q : LeafPort) : List PortWrite := q.writes.take 31

/-- AWREADY: a further write address is accepted (R421). -/
def LeafPort.awReady (q : LeafPort) : Bool := decide (q.writes.length < 31)

/-- WREADY: low while a write waits for a cell (R428). -/
def Engine.wReady (e : Engine) (p : Port) : Bool := !e.portWaits p

/-- Write beats that a port's subordinate half holds, at most 16: of the write that waits, then of those behind it (R428). -/
def Engine.beatsHeld (e : Engine) (p : Port) : Nat :=
  let waiting := (e.creel.queues.flatMap fun q => q.2.waits).filter fun w => w.port == some p
  min 16 ((waiting.map fun w => w.beats).sum + (e.ports[p].accepted.map fun w => w.beats).sum)

/-- The bytes of a port's write go to its queue, which may end the packet; behind another port's waiting write they wait as well
(R302, R303, R312, R428). -/
def Engine.portPut (e : Engine) (p : Port) (q : Nat) (bs : List Byte) (beats : Nat) (ends : Bool) : Engine :=
  if e.qWaits q then (e.qWait q { since := e.now, rest := bs, ends := ends, port := some p, beats := beats }).portResp p none
  else
    let r := e.qAppend q bs
    match r.2 with
    | .all => (if ends then r.1.qEnd q else r.1).portResp p (some .okay)
    | .tooLong => ((r.1.qOver q ends).violation 0x05 (srcSubordinate p.val) q).portResp p (some .okay)
    | .wait rest =>
      if (e.conf.queue q).fullWait = 0 then (r.1.qFull q ends).portResp p (some .slverr)
      else (r.1.qWait q { since := e.now, rest := rest, ends := ends, port := some p, beats := beats }).portResp p none

/-- What a write that a leaf port serves does: it is refused, or its region says what it does (R303, R421, R429). -/
def Engine.portServe (e : Engine) (w : PortWrite) : Engine :=
  let qe := e.conf.queue w.queue
  if burstBad w.burst w.offset w.size w.beats w.special then e.portViolation w.port 0x01 w.queue
  else if apRegion w.offset = 3 then e.portViolation w.port 0x02 w.queue
  else if qe.mode = 0 ∨ qe.producer ≠ 0x20 ∨ !e.conf.portOk w.port w.queue then e.portViolation w.port 0x04 w.queue
  else if apRegion w.offset = 2 then (e.qAbort w.queue).portResp w.port (some .okay)
  else e.portPut w.port w.queue w.bytes w.beats (apRegion w.offset == 1)

/-- A write that a leaf port serves; its answer returns its ID as received (R421). -/
def Engine.portDo (e : Engine) (w : PortWrite) : Engine := (e.modPort w.port fun p => { p with bid := w.id }).portServe w

/-- A write at a leaf port's subordinate half.  While the port holds a write that waits for a cell, later ones wait in order: 31 as
outstanding, any more for AWREADY (R421, R428). -/
def Engine.portWrite (e : Engine) (w : PortWrite) (region : Nat) : Engine :=
  if !e.coreUp ∨ (apRegion w.offset ≠ region ∧ apRegion w.offset ≠ 3) then e
  else if e.portWaits w.port then e.modPort w.port fun p => { p with writes := p.writes ++ [w] }
  else e.portDo w

/-- Writes of a port that waited behind one that has ended are accepted, until one waits itself (R428). -/
def Engine.portNext (e : Engine) (p : Port) : Nat → Engine
  | 0 => e
  | fuel + 1 =>
    match e.ports[p].writes with
    | [] => e
    | w :: ws => if e.portWaits p then e else ((e.modPort p fun q => { q with writes := ws }).portDo w).portNext p fuel

/-- The port of a wait that has ended goes on. -/
def Engine.portOn (e : Engine) (p : Port) : Engine := e.portNext p e.ports[p].writes.length

/-- PORT_QUEUE_WRITE_BODY: the strobed bytes are appended (R303). -/
def execPortQueueWriteBody (w : PortWrite) (s : State) : Host.Outcome State Fault Refusal :=
  done (s.onEng fun e => e.portWrite w 0)

/-- PORT_QUEUE_WRITE_END: the strobed bytes are appended and the packet ends, or the tail is flushed
(R306, R318). -/
def execPortQueueWriteEnd (w : PortWrite) (s : State) : Host.Outcome State Fault Refusal :=
  done (s.onEng fun e => e.portWrite w 1)

/-- PORT_QUEUE_WRITE_ABORT: the open packet turns bad (R308). -/
def execPortQueueWriteAbort (w : PortWrite) (s : State) : Host.Outcome State Fault Refusal :=
  done (s.onEng fun e => e.portWrite w 2)

/-! ## Reads -/

/-- What a reader that is no job receives from a queue: the next readable cell, taken; a data error
gives it POISON, and an unreadable link word cuts the queue (R315, R316, R483). -/
def Engine.readCell (e : Engine) (q : Nat) (cell : CellEcc) : Engine × Option Cell :=
  match (e.creel.q q).next? with
  | none => (e, none)
  | some x =>
    match e.cellFound q cell with
    | .ok => (e.onCreel fun c => c.take e.now q, some x)
    | .corrected => ((e.cellFixed x.num).onCreel fun c => c.take e.now q, some x)
    | .data => ((e.cellLost x.num false true).onCreel fun c => c.take e.now q, some { x with poison := true })
    | .link => ((e.cellLost x.num true true).onCreel fun c => c.cut e.now q, none)

/-- Address of a read's first byte must fit its kind (R427). -/
def readKindOk (r : PortRead) : Bool :=
  r.size == 6 && ((r.beats == 1 && r.offset % 64 == 0) || (r.beats == 2 && r.offset % 128 == 0))

/-- What a read of the queue window does: it is refused, or takes the next readable cell, or returns an empty one (R315, R427, R429). -/
def Engine.portReadServe (e : Engine) (r : PortRead) (cell : CellEcc) : Engine :=
  if burstBad r.burst r.offset r.size r.beats r.special then e.portViolation r.port 0x01 r.queue
  else if apRegion r.offset ≠ 0 then e.portViolation r.port 0x02 r.queue
  else if !readKindOk r then e.portViolation r.port 0x03 r.queue
  else
    let qe := e.conf.queue r.queue
    if qe.mode = 0 ∨ qe.consumer ≠ 0x20 ∨ !e.conf.portOk r.port r.queue then e.portViolation r.port 0x04 r.queue
    else
      let res := e.readCell r.queue cell
      let x := res.2.getD {}
      let second := if r.beats = 2 then leBytes 4 (65536 * x.link.toNat) ++ leBytes 60 0 else []
      res.1.modPort r.port fun p => { p with resp := some .okay, rdata := x.bytes ++ second, ruser := x.link }

/-- PORT_QUEUE_READ: a read of the queue window, answered with its ID as received (R315, R421, R427). -/
def execPortQueueRead (r : PortRead) (cell : CellEcc) (s : State) : Host.Outcome State Fault Refusal :=
  done (s.onEng fun e =>
    if e.coreUp then (e.modPort r.port fun p => { p with rid := r.id }).portReadServe r cell else e)

/-! ## The Flyer (R305, R313) -/

/-- The Flyer runs its firmware now. -/
def Engine.flyerRuns (e : Engine) : Bool := e.live && e.flyer.entry.isSome && !e.flyer.halted

/-- Bytes of the Flyer go into their queue (R302, R312). -/
def Engine.flyerPut (e : Engine) (q : Nat) (bs : List Byte) (ends : Bool) : Engine :=
  let r := e.qAppend q bs
  match r.2 with
  | .all => if ends then r.1.qEnd q else r.1
  | .tooLong => r.1.qOver q ends
  | .wait rest =>
    if (e.conf.queue q).fullWait = 0 then r.1.qFull q ends else r.1.qWait q { since := e.now, rest := rest, ends := ends, port := none }

/-- FLYER_QUEUE_WRITE: the Flyer appends bytes to a queue that names it as producer (R296, R305). -/
def execFlyerQueueWrite (q : Nat) (bytes : List Byte) (ends : Bool) (s : State) : Host.Outcome State Fault Refusal :=
  done (s.onEng fun e =>
    let qe := e.conf.queue q
    if e.flyerRuns && qe.mode != 0 && qe.producer == 0x21 && !e.qWaits q then e.flyerPut q bytes ends else e)

/-! ## Delivery of words by jobs (R201, R431, R433, R517) -/

/-- A job that delivers goes on reading its source once it is no longer held back (R139, R142). -/
def Engine.resumeReads (e : Engine) (n : Sp) (id : Nat) : Engine :=
  match e.jobId? n id with
  | some x =>
    (match x.form with
     | .feed => e.readOn n id .a
     | .window => e.lineOn n id 6
     | .crop => e.cropNext n id
     | _ => e)
  | none => e

/-- What follows a word sent: more reads and words, or the end of the job's delivery; and the job whose turn it is now reads on (R142,
R201). -/
def Engine.afterWord (e : Engine) (n : Sp) (id : Nat) : Engine :=
  match e.jobId? n id with
  | none => e
  | some x =>
    if x.ended.isSome then e
    else
      let e1 := if x.words.isEmpty && x.allFormed then (if x.desc.outQ != 0xFFFF && e.qWaits x.desc.outQ then e else e.finish n id)
        else e.resumeReads n id
      match e1.turn n x.desc.outQ with
      | some y => if y.id = id then e1 else e1.resumeReads n y.id
      | none => e1

/-- A word leaves the job: its place in the delivery moves on (R201). -/
def Engine.popWord (e : Engine) (n : Sp) (id bytes : Nat) : Engine :=
  (e.modJob n id fun x =>
    let rest := x.words.drop 1
    { x with words := rest, sent := x.sent + 1, sentTiles := x.sentTiles + b2n rest.isEmpty, bytesOut := x.bytesOut + bytes, resume := false }).modSp n
    fun s => { s with delivered := s.delivered + bytes }

/-- A word of a job goes into its OUT_Q, whole (R302, R308, R312, R517). -/
def Engine.jobPut (e : Engine) (n : Sp) (id q : Nat) (bs : List Byte) (ends : Bool) : Engine :=
  let r := e.qAppend q bs
  match r.2 with
  | .all => (if ends then r.1.qEnd q else r.1).afterWord n id
  | .tooLong => (r.1.qBad q).fault n id 0x16 6 0
  | .wait rest => r.1.qWait q { since := e.now, rest := rest, ends := ends, port := none }

/-- SPINDLE_QUEUE_WRITE: a job appends its next delivery word to its OUT_Q; a queue that names
another producer refuses it (R296, R305, R517). -/
def execSpindleQueueWrite (n : Sp) (j : Nat) (s : State) : Host.Outcome State Fault Refusal :=
  done (s.onEng fun e => e.withJob n j fun x =>
    match x.words with
    | [] => e
    | w :: _ =>
      let q := x.desc.outQ
      if q = 0xFFFF ∨ e.qWaits q ∨ !e.hasTurn n x q then e
      else if (e.conf.queue q).mode = 0 ∨ (e.conf.queue q).producer ≠ n.val then e.fault n x.id 0x16 6 0
      else (e.popWord n x.id 64).jobPut n x.id q w.data w.last)

/-- FWD_SB, the 48 bits of sideband that go with a forward word: AUX [47:16], RESUME [15], LAST [14], MEMBER [13:12], BOX_START [11],
CENTRE_ONLY [10], PAD_LINE [9], LINE_START [8], TILE_START [7], BYTES [6:0] (R430, R431). -/
def FeedWord.sideband (w : FeedWord) : BitVec 48 :=
  BitVec.ofNat 48 (w.aux % 2 ^ 32 * 2 ^ 16 + b2n w.resume * 2 ^ 15 + b2n w.last * 2 ^ 14 + w.member % 4 * 2 ^ 12 + b2n w.boxStart * 2 ^ 11 +
    b2n w.centreOnly * 2 ^ 10 + b2n w.padLine * 2 ^ 9 + b2n w.lineStart * 2 ^ 8 + b2n w.tileStart * 2 ^ 7 + w.bytes % 128)

/-- FWD_DATA, the 512 bits of a forward word: its bytes and zeros after them (R430). -/
def FeedWord.dataBits (w : FeedWord) : List Byte := slice w.data 0 64

/-- FEED_WORD_SEND: the next delivery word of the job whose turn it is goes onto the feed link with
its sideband, using one forward credit (R142, R201, R431, R433). -/
def execFeedWordSend (n : Sp) (j waited : Nat) (s : State) : Host.Outcome State Fault Refusal :=
  done (s.onEng fun e => e.withJob n j fun x =>
    match x.words with
    | [] => e
    | w :: _ =>
      let l := (e.sp n).link
      if x.desc.outQ ≠ 0xFFFF ∨ l.fwdCredits = 0 ∨ l.rst ∨ !e.hasTurn n x 0xFFFF then e
      else
        let w' := { w with member := if x.desc.lock then x.desc.setIndex else 0, resume := x.resume }
        let ids := (e.deliverSet n x).map Job.id
        let begun := if l.nest.contains x.id then l.nest else ids ++ l.nest
        let nest := if w.last then begun.filter (· != x.id) else begun
        let e1 := e.modSp n fun s =>
          { s with link := { s.link with fwdCredits := l.fwdCredits - 1, fwdOut := some w', nest := nest }
                   work := { s.work with linkStall := satAdd s.work.linkStall waited } }
        (e1.popWord n x.id w.bytes).afterWord n x.id)

/-! ## Waits (R301, R302) -/

/-- The job that writes into a queue. -/
def Engine.writerOf (e : Engine) (n : Sp) (q : Nat) : Option Job :=
  (e.sp n).jobs.find? fun x => x.desc.feeds && x.desc.outQ == q && x.ended.isNone && decide (0 < x.sent)

/-- A push of the register port, whole or not at all: whether it was appended (R302). -/
def Engine.regPut (e : Engine) (q : Nat) (bs : List Byte) (ends : Bool) : Engine × Bool :=
  let r := e.qAppend q bs
  match r.2 with
  | .all => (if ends then r.1.qEnd q else r.1, true)
  | .tooLong => (r.1.qOver q ends, true)
  | .wait _ => (e, false)

/-- What a wait's producer does once its last byte is in, or the packet is full: the packet ends, the port answers, the job or the
register port goes on. -/
def Engine.endWait (e : Engine) (q : Nat) (w : CellWait) (long : Bool) : Engine :=
  let e1 := e.qResume q
  let p := (e.conf.queue q).producer
  let put (e : Engine) : Engine := if long then e.qOver q w.ends else if w.ends then e.qEnd q else e
  match w.port with
  | some port => ((if long then (put e1).violation 0x05 (srcSubordinate port.val) q else put e1).portResp port (some .okay)).portOn port
  | none =>
    if p < 32 then
      (match e.writerOf (spOf p) q with
       | some x => if long then e.fault (spOf p) x.id 0x16 6 0 else (put e1).afterWord (spOf p) x.id
       | none => e1)
    else if p = 0x22 then { put e1 with glb := { e1.glb with stall := none, pslverr := false } }
    else put e1

/-- The waits at a queue go on in order: each appends what now finds room, and the first that still lacks a cell keeps waiting (R301). -/
def Engine.continueWait (e : Engine) (q : Nat) : Nat → Engine
  | 0 => e
  | fuel + 1 =>
    match (e.creel.q q).waits with
    | [] => e
    | w :: _ =>
      let r := e.qAppend q w.rest
      match r.2 with
      | .wait rest => if (e.conf.queue q).producer = 0x22 then e else r.1.onCreel fun c => c.keepWait e.now q rest
      | .all => (r.1.endWait q w false).continueWait q fuel
      | .tooLong => (r.1.endWait q w true).continueWait q fuel

/-- The waiting queue that a free cell goes to: the one whose wait began first among those that may have it (R301). -/
def Creel.granted (cfg : Cfg) (c : Creel) : Option Nat :=
  (c.queues.foldl (fun (best : Option (Nat × Nat)) q =>
    match q.2.waits with
    | [] => best
    | w :: _ =>
      if c.mustWait cfg q.1 then best
      else match best with
        | some (t, k) => if w.turn < t then some (w.turn, q.1) else some (t, k)
        | none => some (w.turn, q.1)) none).map (·.2)

/-- CELL_GRANT: freed cells go to the queue that waits longest (R301). -/
def execCellGrant (s : State) : Host.Outcome State Fault Refusal :=
  done (s.onEng fun e =>
    match e.creel.granted e.conf with
    | none => e
    | some q => e.continueWait q ((e.creel.q q).waits.length + 32))

/-- CELL_WAIT_EXPIRY: a producer has waited FULL_WAIT for a cell: its packet is bad, and a spindle's job faults (R302, R308, R375). -/
def execCellWaitExpiry (q : Nat) (s : State) : Host.Outcome State Fault Refusal :=
  done (s.onEng fun e =>
    match (e.creel.q q).waits with
    | [] => e
    | w :: _ =>
      let qe := e.conf.queue q
      if qe.producer = 0x22 ∨ !e.passedUs w.since qe.fullWait then e
      else if qe.producer < 32 then
        match e.writerOf (spOf qe.producer) q with
        | some x => e.fault (spOf qe.producer) x.id 0x16 6 0
        | none => e.qResume q
      else
        let e1 := (e.qResume q).qFull q w.ends
        let e2 := match w.port with
          | some p => (e1.portResp p (some .slverr)).portOn p
          | none => e1
        e2.continueWait q ((e2.creel.q q).waits.length + 32))

/-- STALE_TIMER_EXPIRY: a queue's stale timer fires (R319). -/
def execStaleTimerExpiry (q : Nat) (s : State) : Host.Outcome State Fault Refusal :=
  done (s.onEng fun e =>
    let x := e.creel.q q
    let qe := e.conf.queue q
    match x.staleFrom with
    | none => e
    | some t =>
      if qe.staleUs = 0 ∨ x.stale ∨ x.isEmpty ∨ !e.passedUs t qe.staleUs then e
      else
        let e1 := if qe.mode = 3 then e.onCreel fun c => c.flush e.now q else e
        (e1.onCreel fun c => { c.upd e.now q (fun x => { x with stale := true }) with staleCnt := satInc c.staleCnt }).raise (.staleQueue q))

/-! ## Reading by a drafting job (R313, R314, R353) -/

/-- SPINDLE_CELL_READ: a job reads the next readable cell of its SRC_Q; the bytes of a packet join
its source when its LAST cell is read (R311, R314, R340, R483). -/
def execSpindleCellRead (n : Sp) (j : Nat) (cell : CellEcc) (s : State) : Host.Outcome State Fault Refusal :=
  done (s.onEng fun e => e.withJob n j fun x =>
    match x.draft, (e.creel.q x.desc.srcQ).next? with
    | some d, some c =>
      let q := x.desc.srcQ
      let need := match x.desc.draft with | some b => d.n * srcBytes x.desc b | none => 0
      if x.desc.srcKind ≠ 4 ∨ (e.conf.queue q).consumer ≠ n.val ∨ (!x.inPacket && decide (need ≤ d.src.length)) then e
      else
        match e.cellFound q cell with
        | .link =>
          ((e.cellLost c.num true false).onCreel fun c => c.cut e.now q).modJob n x.id fun x => { x with inPacket := false, lineBuf := [] }
        | .data => ((e.cellLost c.num false false).modJob n x.id fun x => { x with inPacket := true }).fault n x.id 0x19 3 0
        | found =>
          let e0 := if found = .corrected then e.cellFixed c.num else e
          let e1 := e0.onCreel fun k => k.take e.now q
          if c.poison then (e1.modJob n x.id fun x => { x with inPacket := false }).fault n x.id 0x15 0 0
          else
            let e2 := e1.modSp n fun s => { s with srcRead := s.srcRead + c.data.length }
            e2.modJob n x.id fun x =>
              let line := x.lineBuf ++ c.data
              if c.last then
                { x with inPacket := false, lineBuf := []
                         draft := x.draft.map fun d => { d with src := (d.src ++ line).take need } }
              else { x with inPacket := true, lineBuf := line }
    | _, _ => e)

end Sys2Proof.Machine
end

