-- ==== Sys2Proof/Machine/Feed.lean ====
section
/-! DEFINITION. The tile's side of the feed links: credits, back-channel words, and the
resynchronisation of a link (R202, R432 to R436). -/

namespace Sys2Proof.Machine

/-- The feed link of a spindle replaced by its image. -/
def Engine.modLink (e : Engine) (n : Sp) (f : Link → Link) : Engine := e.modSp n fun s => { s with link := f s.link }

/-- A violation on a feed link quiesces and resynchronises it: the delivering job and the drafting
jobs of its tags fault, FLNK_RST rises and the credits are gone (R436). -/
def Engine.resync (e : Engine) (n : Sp) : Engine :=
  let fed := match e.turn n 0xFFFF with
    | some x => if x.desc.lock then (e.sp n).jobs.filter fun y => y.desc.lock && y.desc.setId == x.desc.setId && y.desc.outQ == 0xFFFF else [x]
    | none => []
  let back := (e.sp n).jobs.filter fun x => x.desc.srcKind == 2 && x.draft.isSome && x.run == .running
  let e1 := (fed ++ back).foldl (fun e x => e.fault n x.id 0x18 7 0) (e.modLink n fun l => { l with backBuf := [] })
  e1.modLink n fun l => { l with rst := true, fwdCredits := 0, backCredits := 0, resync := true, resyncCnt := satInc l.resyncCnt }

/-- The spindle's link is up. -/
def Engine.linkUp (e : Engine) (n : Sp) : Bool := e.live && (e.sp n).pwr == .on

/-- FWD_CREDIT_GRANT: the tile grants one forward credit; beyond 64 it is a violation (R433, R434,
R436). -/
def execFwdCreditGrant (n : Sp) (s : State) : Host.Outcome State Fault Refusal :=
  done (s.onEng fun e =>
    let l := (e.sp n).link
    if !e.linkUp n || l.rst then e
    else if 64 ≤ l.fwdCredits then (e.violation 0x20 (srcFeedFwd n.val) 0).resync n
    else
      let e1 := e.modLink n fun l => { l with fwdCredits := l.fwdCredits + 1, resync := false }
      ((e1.sp n).jobs.filter fun x => x.acts && x.desc.feeds && x.desc.outQ == 0xFFFF).foldl (fun e x => e.resumeReads n x.id) e1)

/-- FLNK_RST_END: FLNK_RST falls, and the 32 back credits are granted (R433, R436). -/
def execFlnkRstEnd (n : Sp) (s : State) : Host.Outcome State Fault Refusal :=
  done (s.onEng fun e =>
    if (e.sp n).link.rst then e.modLink n fun l => { l with rst := false, fwdCredits := 0, backCredits := 32, backBuf := [] } else e)

/-- The drafting job that takes a return tag: it runs and has not ended (R202). -/
def Engine.tagJob (e : Engine) (n : Sp) (tag : Nat) : Option Job :=
  (e.sp n).jobs.find? fun x => x.desc.srcKind == 2 && x.draft.isSome && x.desc.srcTag == tag && x.run == .running && x.ended.isNone

/-- The link of a spindle that is bound to another client than its tile carries no data (R10): a back word that the tile sends there is
dropped (DESIGN CHOICE, log 138). -/
def Engine.linkIdle (e : Engine) (n : Sp) : Bool :=
  let c := e.conf.clientOf n
  let k := Tab.getD e.conf.clients c {}
  c != 0xFFFF && !(k.kind == 1 && k.unit == n.val)

/-- The bytes of a back word join the source of the job that takes its tag, as far as they are wanted (R432, R434). -/
def Engine.packBack (e : Engine) (n : Sp) (x : Job) (tag : Nat) (bs : List Byte) : Engine :=
  match x.draft, x.desc.draft with
  | some d, some b =>
    let need := d.n * srcBytes x.desc b
    let all := d.src ++ bs
    let e1 := (e.modJob n x.id fun x => { x with draft := x.draft.map fun d => { d with src := all.take need } }).modSp n fun s =>
      { s with srcRead := s.srcRead + min bs.length (need - d.src.length) }
    if need < all.length then e1.violation 0x24 (srcFeedBack n.val) tag else e1
  | _, _ => e

/-- Words leave the back buffer, the oldest first, each giving its credit back: a word goes to the job that takes its tag, or is dropped
where none does; the words of a job that has not begun its work stay (R203, R432 to R434; DEDUCED, log 49). -/
def Engine.drainBack (e : Engine) (n : Sp) : Engine :=
  (e.sp n).link.backBuf.foldl (fun e w =>
    match e.tagJob n w.1 with
    | none =>
      (e.violation 0x22 (srcFeedBack n.val) w.1).modLink n fun l => { l with backBuf := l.backBuf.erase w, backCredits := l.backCredits + 1 }
    | some x =>
      if x.acts then (e.packBack n x w.1 w.2).modLink n fun l => { l with backBuf := l.backBuf.erase w, backCredits := l.backCredits + 1 }
      else e) e

/-- BACK_WORD_ARRIVE: a back-channel word arrives and uses a credit; out of the buffer it is packed into the source of the job that
takes its tag, or dropped, and its credit is granted again (R432 to R434). -/
def execBackWordArrive (n : Sp) (tag : BitVec 2) (count : BitVec 6) (data : List Byte) (s : State) : Host.Outcome State Fault Refusal :=
  done (s.onEng fun e =>
    let l := (e.sp n).link
    let src := srcFeedBack n.val
    if !e.linkUp n || l.rst || e.linkIdle n then e
    else if l.backCredits = 0 then (e.violation 0x21 src 0).resync n
    else if count = 0 ∨ 32 < count.toNat then e.violation 0x23 src tag.toNat
    else (e.modLink n fun l => { l with backCredits := l.backCredits - 1, backBuf := l.backBuf ++ [(tag.toNat, slice data 0 count.toNat)] }).drainBack n)

end Sys2Proof.Machine
end

