-- ==== Sys2Proof/Machine/Start.lean ====
section
/-! DEFINITION. The dispatcher: ready heads, the start of a job with its checks and claims, the
completion record's posting, claims, and placement's commands (R27, R103, R200 to R205, R215, R247,
R279 to R289, R356 to R359, R366, R367). -/

namespace Sys2Proof.Machine

/-! ## What a descriptor needs (R181, R239, R288, R357, R358, R372) -/

/-- Open-stream places that a descriptor claims (R27, R358). -/
def Desc.places (d : Desc) : Nat := b2n d.expA.isSome + b2n d.expB.isSome

/-- A Hank MAGIC stands at the address of an expansion block, which spindle n may read (R11, R239, R275). -/
def Engine.wrappedAt (e : Engine) (n : Sp) (b : Option ExpBlk) : Bool :=
  match b with
  | some x => let a := Addr.parse x.streamAddr; (e.placeFault n false a 4).isNone && leNat (e.readAt a 4) == magicHank
  | none => false

/-- The functions that a descriptor needs are enabled (R357, R372). -/
def Engine.functionsOn (e : Engine) (n : Sp) (d : Desc) : Bool :=
  let s := e.sp n
  (s.hankEn || !(d.hank.isSome || e.wrappedAt n d.expA || e.wrappedAt n d.expB)) &&
  (s.plyEn || d.srcKind != 3) &&
  (s.ringEn || !(match d.mtch with | some m => m.ringSteal | none => false))

/-- A started job of spindle n takes the descriptor's return tag (R202). -/
def Engine.tagTaken (e : Engine) (n : Sp) (d : Desc) : Bool :=
  d.srcKind == 2 && (e.sp n).jobs.any fun x => x.ended.isNone && x.desc.srcKind == 2 && x.desc.srcTag == d.srcTag

/-- The descriptor's bytes pass details 1 to 3, so that its knot list can be read (R356). -/
def listOk (b : List Byte) : Bool := descOk1 b && descOk2 b && descOk3 b

/-- A job waits to resume or stands aside, so heads of its LEVEL and above do not start (R336). -/
def Engine.levelOpen (e : Engine) (n : Sp) (level : Nat) : Bool :=
  (e.sp n).jobs.all fun x => x.run == .running || x.ended.isSome || decide (level < x.level)

/-- A job with a drafting block may run beside those of its spindle: up to four at once, not counting switched-out ones (R203; that Ply and
sparse jobs count among them: DESIGN CHOICE, log 134). -/
def Engine.draftRoom (e : Engine) (n : Sp) (d : Desc) : Bool :=
  d.draft.isNone || decide (((e.sp n).jobs.filter fun x => x.draft.isSome && x.ended.isNone && x.run != .out).length < 4)

/-- A head packet is ready (R203, R357, R358, R359). -/
def Engine.ready (e : Engine) (n : Sp) (h : Head) : Bool :=
  let b := h.pkt.bytes
  let d := Desc.parse b
  let jobs := (e.sp n).jobs
  e.levelOpen n h.level && decide (jobs.length < 8) &&
  (!listOk b ||
    ((List.range d.waits.length).all fun i => h.pkt.latched.contains i || (match d.waits[i]? with | some w => e.waitHolds w | none => false)) &&
    e.functionsOn n d && !e.tagTaken n d && e.draftRoom n d &&
    decide ((jobs.map fun x => if x.ended.isSome then 0 else x.desc.places).sum + d.places ≤ 8))

/-- The dispatcher of spindle n runs. -/
def Engine.dispatches (e : Engine) (n : Sp) : Bool :=
  (e.bound.isSome) && (e.sp n).pwr == .on && (e.sp n).enable && e.conf.clientOf n != 0xFFFF

/-- The first ready head in the order of R313. -/
def Engine.firstReady (e : Engine) (n : Sp) : Option Head :=
  if e.dispatches n then (e.creel.heads e.conf 1 n).find? fun h => e.ready n h else none

/-- Jobs of a higher LEVEL that hold the spindle, saves and restores under way included, give way to
the head when the spindle has a save region (R333, R335). -/
def Engine.mustGiveWay (e : Engine) (n : Sp) (h : Head) : List Job :=
  if (Tab.getD e.conf.spindles n.val {}).saveAddr = 0 then []
  else (e.sp n).jobs.filter fun x => x.run != .out && x.ended.isNone && decide (h.level < x.level)

/-! ## Checks at the start -/

/-- DESC_BAD, by detail (R356). -/
def Engine.descFault (e : Engine) (n : Sp) (b : List Byte) : Option Nat :=
  let d := Desc.parse b
  let jobs := (e.sp n).jobs
  let outOk := d.outQ == 0xFFFF || ((e.conf.queue d.outQ).mode != 0 && (e.conf.queue d.outQ).producer == n.val)
  let c := Tab.getD e.conf.clients (e.conf.clientOf n) {}
  let srcOk := d.srcKind != 4 || ((e.conf.queue d.srcQ).mode == 2 && (e.conf.queue d.srcQ).consumer == n.val)
  if !descOk1 b then some 1
  else if !descOk2 b then some 2
  else if !descOk3 b then some 3
  else if d.form.isNone then some 4
  else if !d.setOk || !jobs.all (fun x => (match x.ended with | some z => z.fault == 1 | none => false) || d.agrees x.desc) then some 5
  else if !outOk || (d.feeds && d.outQ == 0xFFFF && !(c.kind == 1 && c.unit == n.val)) || !srcOk then some 6
  else none

/-- A drafting block outside its ranges (R103, R112). -/
def Engine.draftBad (e : Engine) (b : DraftBlk) : Bool :=
  decide (3 < b.scaleMode ∨ 2 < b.srcType ∨ b.histBase < -126 ∨ 96 < b.histBase ∨ 63 < b.tensorClass ∨ 6 < b.tensorKind) ||
  (b.group && decide (b.scaleMode = 0 ∨ b.scaleMode = 3 ∨ b.groupCount < 1 ∨ 64 < b.groupCount ∨ b.groupCount ≤ b.groupIndex)) ||
  (b.scaleMode == 0 && !isScale b.givenScale) ||
  (b.scaleMode == 3 && (givenScale e b).2 && !isScale b.givenScale)

/-- FORMAT and CODE_TYPE that a TENSOR_KIND admits (R65). -/
def kindAdmits (kind fmt ct : Nat) : Bool :=
  match kind with
  | 0 => fmt == 2 && decide (ct ≤ 5)
  | 1 => fmt == 3 && ctAllowed 3 ct
  | 2 => fmt == 3 && ct == 3
  | 3 => fmt == 1 && ct == 2
  | 4 => fmt == 1 && ct == 8
  | 5 => fmt == 1 && ctAllowed 1 ct
  | _ => fmt == 4 && (ct == 0 || ct == 7)

/-- The stream that a job is to write breaks the rules of its header (R37, R45, R46, R53, R62, R65); SKEIN_HEADER for a shape or
a GRID_SLOT is DEDUCED, log 108. -/
def Engine.targetBad (e : Engine) (b : DraftBlk) (s : ShapeBlk) : Bool :=
  !kindAdmits b.tensorKind b.format b.codeType || !dimsOk s.ndim s.dim0 s.dim1 s.dim2 s.dim3 ||
  !extentsOk b.format s.tileChans s.tileCols s.tileRows s.dim0 s.dim1 || (b.codeType == 5 && !gridLoaded e.conf.grids b.gridSlot)

/-- A Hank parameter block that breaks R214. -/
def HankBlk.bad (b : HankBlk) : Bool :=
  if b.op = 0 then
    decide (1 < b.blockSize ∨ 16 < b.chainDepth ∨ b.srcLen = 0 ∨ b.dstAddr % 64 ≠ 0 ∨ b.blockFirst ≠ 0 ∨ b.blockRun ≠ 0)
  else decide (1 < b.op ∨ b.blockSize ≠ 0 ∨ b.chainDepth ≠ 0 ∨ b.srcLen ≠ 0 ∨ b.srcAddr % 64 ≠ 0)

/-- The ring descriptors that a job reads at its start are at addresses it may read (R252, R271, R272, R275). -/
def Engine.ringsFault (e : Engine) (n : Sp) (d : Desc) : Option (Nat × Nat) :=
  let two (a b : Nat) : Option (Nat × Nat) := (e.ringFault n a).or (e.ringFault n b)
  match d.window, d.publish with
  | some w, _ => two w.ringAbove w.ringBelow
  | none, some p => two p.ringAbove p.ringBelow
  | none, none => none

/-- The fault that the checks at a job's start find, the parameter blocks' before the header that a stream would have (R65, R103, R215,
R247, R293; the order: DESIGN CHOICE, log 129). -/
def Engine.startFault (e : Engine) (n : Sp) (d : Desc) : Option (Nat × Nat) :=
  let own : Option Nat :=
    match d.draft, d.shape with
    | some b, some s => if e.draftBad b then some 0x06 else if e.targetBad b s then some 0x02 else none
    | _, _ =>
      match d.hank with
      | some b => if b.bad then some 0x09 else none
      | none =>
        match d.window with
        | some w => if w.ok then none else some 0x0E
        | none => none
  (own.map fun f => (f, 0)).or (e.ringsFault n d)

/-! ## The start -/

/-- A ring's half that a publisher owes. -/
def Engine.owedHalf (e : Engine) (n : Sp) (a : Nat) (down : Bool) : List HalfOut :=
  match e.ring a with
  | some r => if (e.ringFault n a).isSome then [] else [{ down := down, ring := r }]
  | none => []

/-- A ring's half that a window job reads, or releases at its end (R257, R259). -/
def Engine.owedRead (e : Engine) (n : Sp) (a : Nat) : HalfRead :=
  match e.ring a with
  | some r => if (e.ringFault n a).isSome then .none else .owed r
  | none => .none

/-- The lines of an ingest job's stripe when its frame has already closed (R338, R339). -/
def Engine.closedLines (e : Engine) (d : Desc) : Option Nat :=
  if d.srcKind ≠ 4 then none
  else
    match e.conf.lineOf d.srcQ with
    | some (t, k) =>
      let f := (e.tick t).frame
      if !f.open_ && !f.counts.isEmpty then some (f.counts.getD k 0) else none
    | none => none

/-- A started job as it stands before its first work. -/
def Engine.newJob (e : Engine) (n : Sp) (h : Head) : Job :=
  let d := Desc.parse h.pkt.bytes
  { id := (e.sp n).jobNext, desc := d, level := h.level, inst := h.pkt.inst, visibleAt := h.pkt.visTime, ahead := h.pkt.ahead
    lockWait := d.lock, grids := e.conf.grids, latUs := (Tab.getD e.conf.clients (e.conf.clientOf n) {}).latUs
    cls := match d.draft with | some b => Tab.getD e.conf.classes b.tensorClass {} | none => {}
    window := d.window.map fun w => { above := e.owedRead n w.ringAbove, below := e.owedRead n w.ringBelow }
    strA := d.expA.map fun b => { blk := b }
    strB := d.expB.map fun b => { blk := b }
    draft := match d.draft, d.shape with | some _, some s => some { shape := s, lines := e.closedLines d } | _, _ => none
    hank := if d.hank.isSome then some {} else none
    sparse := if d.mtch.isSome then some {} else none
    halves := match d.publish with
      | some p => e.owedHalf n p.ringAbove false ++ e.owedHalf n p.ringBelow true
      | none => [] }

/-- A job whose claims are granted and whose set has started begins its work (R138, R200, R226, R264).  The zero MAGIC of a stream is
written once the first addresses it reads have passed, of a Ply or sparse job once its operands are open, so that a job faulted at its
start writes nothing (R35, R293). -/
def Engine.beginWork (e : Engine) (n : Sp) (id : Nat) : Engine :=
  match e.jobId? n id with
  | none => e
  | some x =>
    if x.begun || !x.acts then e
    else if x.desc.hank.isSome then e.hankBegin n id
    else
      let e1 := e.modJob n id fun x => { x with begun := true }
      let e2 : Engine := match x.desc.crop with
        | some b => (e1.modJob n id fun x => { x with crop := some {} }).jobRead n id pBoxes (Addr.parse b.boxAddr) 64
        | none => e1
      match x.desc.draft with
      | some b =>
        let g := givenScale e2 b
        let e3 := if b.twoPass then e2 else e2.modJob n id fun x => { x with draft := x.draft.map fun d => { d with scale := some g.1, calFallback := g.2 } }
        let e4 := (e3.askSource n id 0).openNext n id
        if x.desc.srcKind = 3 then e4 else e4.draftZero n x
      | none => e2.openNext n id

/-- Claims that a job makes when it starts; a Ply or sparse job makes its flexible claims after the fixed ones of its operands (R236,
R288, R289; log 118). -/
def Engine.startClaims (e : Engine) (n : Sp) (x : Job) : Engine :=
  let e1 := match x.desc.hank with
    | some b => if b.op = 0 then e.claimFixed n x.id (sideBanks .enc b.blockSize) else e
    | none => e
  if x.desc.srcKind = 3 then e1 else e1.flexClaims n x

/-- Members of a lockstep set that wait on another spindle, at places of the set that no member here has (R200). -/
def Engine.lockAway (e : Engine) (n : Sp) (x : Job) (here : List Job) : List (Sp × Job) :=
  ((List.finRange 32).filter (· != n)).flatMap fun m => ((e.sp m).jobs.filter fun y =>
    y.desc.lock && y.desc.setId == x.desc.setId && y.lockWait && y.ended.isNone && y.desc.lockSize == x.desc.lockSize &&
      !here.any fun z => z.desc.setIndex == y.desc.setIndex).map fun y => (m, y)

/-- Members of a lockstep set begin when the last has started; a set whose places are filled only with members bound to another
spindle faults as a whole (R200; DEDUCED, log 103). -/
def Engine.lockStart (e : Engine) (n : Sp) (x : Job) : Engine :=
  if !x.desc.lock then e.beginWork n x.id
  else
    let set_ := (e.sp n).jobs.filter fun y => y.desc.lock && y.desc.setId == x.desc.setId && y.lockWait && y.ended.isNone
    let away := e.lockAway n x set_
    if set_.length < x.desc.lockSize then
      if set_.length + away.length < x.desc.lockSize then e
      else e.faultSet (away ++ set_.map fun y => (n, y)) 0x08 0
    else
      let e1 := set_.foldl (fun e y => e.modJob n y.id fun z => { z with lockWait := false }) e
      set_.foldl (fun e y => e.beginWork n y.id) e1

/-- Work of a tick class is served on spindle n: instances and jobs that wait there remember the
highest-ranked winner (R347). -/
def Engine.serveClass (e : Engine) (n : Sp) (inst : Option Nat) : Engine :=
  match inst with
  | none => e
  | some t =>
    let cls := (e.conf.tick t).cls
    let win := (cls, t)
    let waitingPkts := (e.creel.queues.filter fun q => (e.conf.queue q.1).mode == 1 && (e.conf.queue q.1).consumer == n.val).flatMap fun q => q.2.pkts
    let losers := (waitingPkts.filterMap fun p => p.inst) ++ ((e.sp n).jobs.filter fun x => x.run != .running).filterMap fun x => x.inst
    let e1 := (List.finRange 16).foldl (fun e u =>
      if losers.contains u.val && decide (cls < (e.conf.tick u.val).cls) then
        e.modTick u fun k => { k with inst := k.inst.map fun i =>
          { i with servedAhead := match i.servedAhead with
            | some (c, w) => if c < cls then some (c, w) else some (cls, t, n.val)
            | none => some (cls, t, n.val) } }
      else e) e
    let e2 := e1.modSp n fun s => { s with jobs := s.jobs.map fun x => if x.run != .running then { x with ahead := betterWinner x.ahead win, aheadAt := e1.now } else x }
    { e2 with creel := { e2.creel with queues := e2.creel.queues.map fun q =>
        if (e.conf.queue q.1).mode = 1 ∧ (e.conf.queue q.1).consumer = n.val then
          (q.1, { q.2 with pkts := q.2.pkts.map fun p => { p with ahead := betterWinner p.ahead win } })
        else q } }

/-- The step set of a member that starts with DESC_BAD stops, or has one member less to come where it has failed before (R204). -/
def Engine.stopBadMember (e : Engine) (n : Sp) (x : Job) : Engine :=
  match Tab.get? (e.sp n).failedSets x.desc.setId, x.desc.step with
  | some k, true => e.modSp n fun s => { s with failedSets := Tab.put s.failedSets 0 x.desc.setId (k - 1) }
  | _, _ => e.stopSetOf n x.desc (some x.id)

/-- The head starts: its cells are freed, and its checks and claims are made (R357). -/
def Engine.startHead (e : Engine) (n : Sp) (h : Head) : Engine :=
  let x := e.newJob n h
  let bad := e.descFault n h.pkt.bytes
  let e1 := { e with creel := e.creel.takePkt e.now h.queue }
  let e2 := e1.modSp n fun s => { s with jobNext := s.jobNext + 1 }
  match bad with
  | some d =>
    (e2.modSp n fun s => { s with jobs := s.jobs ++
      [{ x with ended := some ⟨1, 0x01, d, 0⟩, lockWait := false, halves := [], draft := none, hank := none, sparse := none, window := none
                strA := none, strB := none }] }).stopBadMember n x
  | none =>
    let e3 := (e2.modSp n fun s => { s with jobs := s.jobs ++ [x], cnt := { s.cnt with jobs := satInc s.cnt.jobs } }).serveClass n x.inst
    match Tab.get? (e.sp n).failedSets x.desc.setId, x.desc.step with
    | some k, true =>
      (e3.modSp n fun s => { s with failedSets := Tab.put s.failedSets 0 x.desc.setId (k - 1) }).stopOne n ⟨2, 0x17, 3, 0⟩ x
    | _, _ =>
      match e.startFault n x.desc with
      | some (f, d) => e3.fault n x.id f d 0
      | none => ((e3.startClaims n x).trySide n x.id).lockStart n x

/-- JOB_START: the dispatcher starts the first ready head; a head for which running jobs of a higher
LEVEL give way waits for their saves (R333, R357). -/
def execJobStart (n : Sp) (s : State) : Host.Outcome State Fault Refusal :=
  done (s.onEng fun e =>
    match e.firstReady n with
    | some h => if (e.mustGiveWay n h).isEmpty then (e.relatch).startHead n h else e.relatch
    | none => e)

/-- WORK_CLAIM_GRANT: the first waiting fixed claim whose banks are free is granted (R288). -/
def execWorkClaimGrant (n : Sp) (s : State) : Host.Outcome State Fault Refusal :=
  done (s.onEng fun e =>
    match (e.sp n).jobs.find? fun x => x.claim.isSome && x.ended.isNone with
    | some x =>
      let k := x.claim.getD 0
      if e.live && decide (k ≤ (e.freeBanks n).length) && !e.claimBehind n x.id then
        (((((e.takeBanks n x.id k).modJob n x.id fun x => { x with claim := none }).beginWork n x.id).hankAdvance n x.id).kickSparse n).drainBack n
      else e
    | none => e)

/-! ## Completion (R98, R205, R366, R367) -/

/-- The duties before a job's record are met (R366). -/
def Engine.dutiesMet (e : Engine) (n : Sp) (x : Job) (en : Ending) : Bool :=
  !((e.sp n).txns.any fun t => t.job == x.id && t.write && !t.discarded) && x.held.isEmpty &&
  (en.status == 0 || !(match x.desc.draft, x.draft with | some b, some d => b.group && !d.knotDone | _, _ => false)) &&
  (x.halves.all fun h => h.acked) && e.recordsIn x &&
  (!x.desc.step || en.status != 0 || x.setDone || e.setWhole n x)

/-- The other members of a step set that completed as a whole may post from now on. -/
def Engine.markSet (e : Engine) (n : Sp) (x : Job) : Engine :=
  if x.desc.step then e.modSp n fun s => { s with jobs := s.jobs.map fun y =>
    if y.desc.step && y.desc.setId == x.desc.setId then { y with setDone := true } else y }
  else e

/-- The highest-ranked winner served ahead of a job, on its spindle or at its home port, and which of the two (R347). -/
def Job.winner (x : Job) : Option ((Nat × Nat) × Bool) :=
  match x.ahead, x.aheadPort with
  | some a, some p =>
    let ra := classRank a.1
    let rp := classRank p.1
    if rp < ra ∨ (rp = ra ∧ (p.1 < a.1 ∨ (p.1 = a.1 ∧ x.aheadAt ≤ x.aheadPortAt))) then some (p, true) else some (a, false)
  | some a, none => some (a, false)
  | none, some p => some (p, true)
  | none, none => none

/-- A job that completes later than its client's target yields to the best winner served ahead of it, on its spindle or at its leaf
port (R347, G4). -/
def Engine.latencyYield (e : Engine) (n : Sp) (x : Job) : Engine :=
  let cl := e.conf.clientOf n
  let lat := x.latUs
  match x.winner with
  | some ((cls, id), port) =>
    if lat ≠ 0 ∧ x.visibleAt + usClocks lat < e.now then
      e.yield_ ⟨classRank cls, 4, id, cl, b2n port, if port then (homePort n).val else n.val⟩
    else e
  | none => e

/-- A job's record is posted and the job leaves its place (R364, R366, R367). -/
def Engine.postJob (e : Engine) (n : Sp) (x : Job) (en : Ending) (clocks stalled : Nat) : Engine :=
  let e1 := e.raiseIf x.overflow (.accOverflow n.val x.desc.tag)
  let e2 := { e1 with doffer := { e1.doffer with fullStall := satAdd e1.doffer.fullStall stalled } }
  let e3 := if en.status = 0 then e2.markSet n x else e2
  let e4 := (e3.latencyYield n x).post n (x.record n en clocks)
  let e5 := e4.modSp n fun s => { s with jobs := s.jobs.filter fun y => y.id != x.id, quietFrom := e.now, drainedFrom := e.now }
  (if !(e5.sp n).enable && (e5.sp n).jobs.isEmpty then e5.loseWhere (e5.restsOn n) else e5).kickSparse n

/-- COMPLETION_POST: an ended job whose duties are met posts its record, when the pending buffer has
room (R366, R367). -/
def execCompletionPost (n : Sp) (j clocks stalled : Nat) (s : State) : Host.Outcome State Fault Refusal :=
  done (s.onEng fun e =>
    match e.job? n j with
    | none => e
    | some x0 =>
      let e := e.hankEnd n x0.id
      match e.jobId? n x0.id with
      | some x =>
        match x.ended with
        | some en =>
          if e.live && e.dutiesMet n x en && decide (e.doffer.buffers[n].length < 16) then e.postJob n x en clocks stalled else e
        | none => e
      | none => e)

/-! ## Placement (R278 to R287) -/

/-- A request's answer is the Flyer's: it may take granules of the Bobbin store (R279). -/
def Engine.flyerDecides (e : Engine) (r : PlaceReq) : Bool :=
  let x := (e.answerPlace r).tensor r.tensor
  (e.placeE r.tensor).levels.contains 1 && !(x.sPart.isSome && x.bPart.isNone && !x.toHome)

/-- The request answered next: the allocators' before the Flyer's, and of each kind the one that arrived first, in one control clock
that of the lowest spindle (R279; between the two kinds DESIGN CHOICE, log 105). -/
def Engine.nextPlace (e : Engine) : Option PlaceReq :=
  let before (a b : PlaceReq) : Bool := decide (a.at_ < b.at_ ∨ (a.at_ = b.at_ ∧ a.spindle < b.spindle))
  let first (rs : List PlaceReq) : Option PlaceReq := rs.foldl (fun best r =>
    match best with
    | some b => if before r b then some r else some b
    | none => some r) none
  (first (e.placeReqs.filter fun r => !e.flyerDecides r)).or (first e.placeReqs)

/-- PLACEMENT_DECISION: the allocator or the Flyer answers the next request. -/
def execPlacementDecision (s : State) : Host.Outcome State Fault Refusal :=
  done (s.onEng fun e =>
    match e.nextPlace with
    | none => e
    | some r =>
      if e.live then
        let e1 := ({ e with placeReqs := e.placeReqs.erase r }).answerPlace r
        ((e1.hankAdvance (spOf r.spindle) r.job).hankEnd (spOf r.spindle) r.job).draftHead (spOf r.spindle) r.job
      else e)

/-- The bytes of a staged tensor are copied into its parts (R280). -/
def Engine.stageCopy (e : Engine) (t : Nat) : Engine :=
  let p := e.placeE t
  let x := e.tensor t
  let data := readBytes e.mem p.homeAddr (min x.onChip p.sizeMax)
  let below := ((List.range data.length).filter fun i => e.belowFirst (.placed t i)).length
  (e.writeAt (.placed t 0) data).modSp (spOf x.stager.1) fun s =>
    { s with cnt := { s.cnt with spillKib := satAdd s.cnt.spillKib (ceilDiv below 1024) } }

/-- STAGED_COPY_DONE: home has answered every read of a staged tensor's copy, and the copy is acknowledged;
bytes beyond its parts stay at home, with SPILL reason 5 (R280, R290). -/
def execStagedCopyDone (tensor : Nat) (s : State) : Host.Outcome State Fault Refusal :=
  done (s.onEng fun e =>
    let x := e.tensor tensor
    if !x.staging || (e.sp (spOf x.stager.1)).waitsFor x.stager.2 (pStage tensor) then e
    else
      let n := spOf x.stager.1
      let e1 := (e.stageCopy tensor).modTensor tensor fun x => { x with staging := false }
      let e2 := if x.onChip < (e.placeE tensor).sizeMax then e1.spill n tensor 5 (x.levelOf (x.onChip - 1)) 2 x.onChip x.stagerTag else e1
      (e2.sp n).jobs.foldl (fun e y => e.hankAdvance n y.id) e2)

/-- TENSOR_FREE: a tensor whose LIFE has ended, and which no job holds open, is freed (R285, R286). -/
def execTensorFree (tensor : Nat) (s : State) : Host.Outcome State Fault Refusal :=
  done (s.onEng fun e => if (e.tensor tensor).freeWaits && !e.heldOpen tensor then e.freeNow tensor else e)

/-- TRANSLATION_MISS_FILL: a tensor's parts enter a spindle's translation cache in place of the one used least recently, the miss
counts, and the accesses that waited go on (R284). -/
def execTranslationMissFill (n : Sp) (tensor : Nat) (s : State) : Host.Outcome State Fault Refusal :=
  done (s.onEng fun e =>
    if e.live && (e.sp n).xlateWait.contains tensor then
      let e1 := e.modSp n fun s =>
        { s with xlateWait := s.xlateWait.filter (· != tensor), xlate := (tensor :: s.xlate).take 16
                 cnt := { s.cnt with xlateMiss := satInc s.cnt.xlateMiss } }
      let e2 := (e1.sp n).jobs.foldl (fun e y => (((e.releaseHeld n y.id tensor).hankAdvance n y.id).hankEnd n y.id).draftHead n y.id) e1
      (e2.releaseRecords n tensor).thiefAdvance n
    else e)

end Sys2Proof.Machine
end

