-- ==== Sys2Proof/Machine/Switch.lean ====
section
/-! DEFINITION. Context switching, and the drains of a spindle and of its functions (R333 to R336,
R371 to R374). -/

namespace Sys2Proof.Machine

/-! ## Switch points (R333) -/

/-- The drafting pass of a job stands after a whole number of 4 KiB of its source (R333). -/
def Draft.atPoint (d : Draft) (b : DraftBlk) (w : Nat) : Bool :=
  let at_ (k : Nat) : Bool := decide (0 < k ∧ k < d.n ∧ k * w % 4096 = 0)
  match d.phase with
  | .carding => at_ (if b.twoPass then d.carded else d.drafted)
  | .drafting => at_ d.drafted
  | _ => false

/-- What switches out as one with a job: its lockstep set, or the jobs of its step set (R335). -/
def Engine.switchGroup (e : Engine) (n : Sp) (x : Job) : List Job :=
  if x.desc.step then (e.sp n).jobs.filter fun y => y.desc.step && y.desc.setId == x.desc.setId && y.ended.isNone
  else e.deliverSet n x

/-- A job stands at a switch point (R333). -/
def Engine.atPoint (e : Engine) (n : Sp) (x : Job) : Bool :=
  x.acts && x.begun &&
  (match x.desc.form with
  | some .feed =>
    (e.deliverSet n x).all fun y => y.begun && y.words.isEmpty && !y.allFormed && decide (0 < y.sentTiles) && y.sentTiles == x.sentTiles
  | some .window =>
    (match x.window with
    | some w => x.words.isEmpty && !x.allFormed && w.tap == 0 && decide (0 < w.line)
    | none => false)
  | some .crop =>
    (match x.crop with
    | some c => x.words.isEmpty && !x.allFormed && c.elem == 0 && c.part.isEmpty && decide (0 < c.box)
    | none => false)
  | some .hank =>
    (match x.hank with
    | some k => k.held && !k.closing && x.point && !e.writesOut n x [37]
    | none => false)
  | some .ply =>
    (match x.ply, x.strB, x.draft, x.desc.draft with
    | some p, some w, some d, some b =>
      if d.srcDone || d.phase == .drafting then d.atPoint b 4
      else p.accs.isEmpty && decide (0 < p.drained) && p.drained % laneGroups w.cols == 0
    | none, _, some d, some b => d.atPoint b 4
    | _, _, _, _ => false)
  | some .sparse =>
    (match x.sparse, x.draft, x.desc.draft with
    | some sp, some d, some b =>
      if d.srcDone || d.phase == .drafting then d.atPoint b 4
      else x.point && decide (0 < sp.drained) && e.recordsIn x
    | _, _, _ => false)
  | some .drafting =>
    (match x.draft, x.desc.draft with
    | some d, some b => d.atPoint b (srcBytes x.desc b)
    | _, _ => false)
  | none => false)

/-- Lowest LEVEL of a group: its slot is one less (R335). -/
def groupLevel (g : List Job) : Nat := g.foldl (fun a x => min a x.level) 7

/-- The group may switch out for a head of the given LEVEL: every member runs at a switch point and
at a higher LEVEL, and no switched-out job holds the slot (R333, R335). -/
def Engine.maySwitch (e : Engine) (n : Sp) (g : List Job) (level : Nat) : Bool :=
  (g.all fun x => e.atPoint n x && decide (level < x.level)) &&
  (e.sp n).jobs.all fun y => y.run == .running || y.ended.isSome || y.level != groupLevel g

/-- The working banks that a job's wrapped operands need (R236, R239). -/
def Engine.wrappedBanks (e : Engine) (n : Sp) (b : Option ExpBlk) : Nat :=
  match b with
  | some x => if e.wrappedAt n b then sideBanks .dec (HankHdr.parse (e.readAt (Addr.parse x.streamAddr) 64)).blockSize else 0
  | none => 0

/-- The working banks that the sorter needs for a list operand (R170, R288). -/
def Engine.listBanks (e : Engine) (b : ExpBlk) : Nat :=
  let a := Addr.parse b.streamAddr
  let hb := e.readAt a 64
  if fieldAt hb 0 4 ≠ magicList then 0
  else
    let l := ListHdr.parse hb
    let run := if b.tileRun = 0 then l.rows - b.tileFirst else b.tileRun
    let ptr (r : Nat) : Nat := e.natAt (a.plus (l.ptrOffset + 4 * r)) 4
    let longest := ((List.range run).map fun i => ptr (b.tileFirst + i + 1) - ptr (b.tileFirst + i)).foldl max 0
    ceilDiv (5 * min longest 65536) 32768

/-- The fixed claims of a head job, as its descriptor and the headers it names say (R288, R334; DEDUCED, log 106). -/
def Engine.headBanks (e : Engine) (n : Sp) (d : Desc) : Nat :=
  let hank := match d.hank with
    | some b =>
      if b.op = 0 then sideBanks .enc b.blockSize
      else
        let hb := e.readAt (Addr.parse b.srcAddr) 64
        if fieldAt hb 0 4 = magicHank then sideBanks .dec (HankHdr.parse hb).blockSize else 0
    | none => 0
  let sort := match d.mtch with
    | some m =>
      let one (u : Bool) (b : Option ExpBlk) : Nat := match u, b with | true, some b => e.listBanks b | _, _ => 0
      max (one m.unsortedA d.expA) (one m.unsortedB d.expB)
    | none => 0
  let crop := match d.crop, d.expA with
    | some _, some b => if e.wrappedAt n d.expA then 0 else cropBanks (SkeinHdr.parse (e.readAt (Addr.parse b.streamAddr) 64))
    | _, _ => 0
  hank + max (e.wrappedBanks n d.expA) (e.wrappedBanks n d.expB) + sort + crop

/-- The waiting head's Hank side or fixed claims cannot be granted while the running job holds its own; a claim beyond WORK_BANKS is
not held, for it faults at its start (R288, R334). -/
def Engine.headHeld (e : Engine) (n : Sp) (d : Desc) : Bool :=
  let need := e.headBanks n d
  let side := match d.hank with
    | some b => !e.sideFree n (if b.op = 0 then .enc else .dec)
    | none => (e.wrappedAt n d.expA || e.wrappedAt n d.expB) && !e.sideFree n .dec
  side || decide (need ≤ e.conf.workBanks n ∧ (e.freeBanks n).length < need)

/-- Jobs of a spindle that satisfy `p` move to a stage of the switch. -/
def Engine.setRun (e : Engine) (n : Sp) (p : Job → Bool) (r : JobRun) : Engine :=
  e.modSp n fun s => { s with jobs := s.jobs.map fun x => if p x then { x with run := r } else x }

/-- SWITCH_POINT_REACHED: a running job of a higher LEVEL than the waiting head stands at a switch
point, and its save begins, unless the head's claims are held (R333, R334). -/
def execSwitchPointReached (n : Sp) (s : State) : Host.Outcome State Fault Refusal :=
  done (s.onEng fun e =>
    match e.firstReady n with
    | none => e
    | some h =>
      match (e.mustGiveWay n h).find? fun x => e.maySwitch n (e.switchGroup n x) h.level with
      | none => e
      | some x =>
        if e.headHeld n (Desc.parse h.pkt.bytes) then
          (if (e.sp n).heldCounted == some (h.queue, h.pkt.visAt) then e
           else e.modSp n fun s =>
             { s with heldCounted := some (h.queue, h.pkt.visAt), cnt := { s.cnt with switchHeld := satInc s.cnt.switchHeld } })
        else e.setRun n (fun y => (e.switchGroup n x).any fun z => z.id == y.id) .saving)

/-- A save or a restore of `ns` enters SPN_SWITCH_MAX (R335). -/
def Engine.switchTime (e : Engine) (n : Sp) (ns : Nat) : Engine :=
  e.modSp n fun s => { s with cnt := { s.cnt with switchMax := w32 (max s.cnt.switchMax.toNat (min ns 0xFFFFFFFF)) } }

/-- A save fills the context slot of its group's lowest LEVEL in the spindle's save region.  The spec gives the slot no layout: its
bytes are free values (R335, log 107). -/
def Engine.saveSlot (e : Engine) (n : Sp) (level : Nat) : Engine :=
  let d := e.draw
  d.2.writeAt ((Addr.parse (Tab.getD e.conf.spindles n {}).saveAddr).plus (16384 * (level - 1)))
    ((List.range 16384).map fun i => Config.contextByte (16384 * d.1 + i))

/-- CONTEXT_SAVE_DONE: the context rests in its slot, and the waiting job starts (R335). -/
def execContextSaveDone (n : Sp) (ns : Nat) (s : State) : Host.Outcome State Fault Refusal :=
  done (s.onEng fun e =>
    if !e.live || !(e.sp n).jobs.any fun x => x.run == .saving then e
    else
      let merge := (e.sp n).merge
      let lanes := (e.sp n).lanes
      let mine (x : Job) : Bool := match merge with | some c => x.run == .saving && c.owner == n.val && c.job == x.id | none => false
      let held := (e.sp n).jobs.any mine
      let e1 := e.modSp n fun s =>
        { s with jobs := s.jobs.map fun x =>
                   if x.run = .saving then { x with run := .out, switched := true, savedLanes := if mine x then merge.map fun c => (c, lanes) else none } else x
                 merge := if held then none else s.merge
                 lanes := if held then [] else s.lanes
                 cnt := { s.cnt with switches := satInc s.cnt.switches } }
      let level := groupLevel ((e.sp n).jobs.filter fun x => x.run == .saving)
      let e2 := (e1.switchTime n ns).saveSlot n level
      match e2.firstReady n with
      | some h => if (e2.mustGiveWay n h).isEmpty then e2.relatch.startHead n h else e2
      | none => e2.kickSparse n)

/-- The switched-out job that resumes first: the lowest LEVEL (R336). -/
def Engine.firstOut (e : Engine) (n : Sp) : Option Job :=
  (e.sp n).jobs.foldl (fun best x =>
    if x.run = .out ∧ x.ended.isNone then
      (match best with | some b => if x.level < b.level then some x else some b | none => some x)
    else best) none

/-- A visible packet of a lower LEVEL waits for the spindle (R336). -/
def Engine.lowerWaits (e : Engine) (n : Sp) (level : Nat) : Bool :=
  e.creel.queues.any fun q =>
    let qe := e.conf.queue q.1
    qe.mode == 1 && qe.consumer == n.val && decide (qe.level < level) && q.2.visible

/-- JOB_RESUME: no work of a lower LEVEL is left, and the restore of the lowest switched-out job
begins (R336). -/
def execJobResume (n : Sp) (s : State) : Host.Outcome State Fault Refusal :=
  done (s.onEng fun e =>
    match e.firstOut n with
    | none => e
    | some x =>
      let busy := (e.sp n).jobs.any fun y =>
        y.ended.isNone && (y.run == .saving || y.run == .restoring || (y.run == .running && decide (y.level < x.level)))
      if !e.live || busy || e.lowerWaits n x.level then e
      else e.setRun n (fun y => (e.switchGroup n x).any fun z => z.id == y.id && z.run == .out) .restoring)

/-- The members of restored deliveries whose next word carries RESUME (R201). -/
def resumes (xs : List Job) (x : Job) : Bool :=
  let d := xs.filter fun y => y.desc.feeds && y.desc.outQ == 0xFFFF
  x.desc.feeds && x.desc.outQ == 0xFFFF && (d.any fun y => decide (0 < y.sent)) &&
  (if x.desc.lock then (match nextMember (d.filter fun y => y.desc.lock) with | some y => y.id == x.id | none => false) else true)

/-- CONTEXT_RESTORE_DONE: the switched-out job is back and goes on with its work (R201, R335). -/
def execContextRestoreDone (n : Sp) (ns : Nat) (s : State) : Host.Outcome State Fault Refusal :=
  done (s.onEng fun e =>
    let back := (e.sp n).jobs.filter fun x => x.run == .restoring
    if !e.live || back.isEmpty then e
    else
      let e1 := e.modSp n fun s =>
        { s with jobs := s.jobs.map fun x => if x.run = .restoring then { x with run := .running, resume := resumes back x } else x }
      let e2 := back.foldl (fun e x => (e.serveClass n x.inst).hankAdvance n x.id) (e1.switchTime n ns)
      e2.kickSparse n)

/-! ## Aborts and drains (R371 to R374) -/

/-- Started jobs that a predicate names are aborted at the drain limit (R371, R372); their placed parts on a disabled spindle become
LOST (R287, R373). -/
def Engine.drainAbort (e : Engine) (n : Sp) (p : Job → Bool) : Engine := e.abortWhere n 2 p

/-- The job uses the Hank lane: a Hank job, or one that opens a wrapped stream, whether or not its header has come (R239, R372). -/
def Engine.usesHank (e : Engine) (n : Sp) (x : Job) : Bool :=
  let one (s : Option Strm) (b : Option ExpBlk) : Bool := match s with | some s => s.wrapped.isSome || e.wrappedAt n b | none => false
  x.desc.hank.isSome || one x.strA x.desc.expA || one x.strB x.desc.expB
def Job.usesPly (x : Job) : Bool := x.desc.srcKind == 3
def Job.usesRing (x : Job) : Bool := match x.desc.mtch with | some m => m.ringSteal | none => false

/-- The drain limit has passed since a time. -/
def Engine.limitPassed (e : Engine) (n : Sp) (since : Option Nat) : Bool :=
  match since with
  | some t => e.passedUs t (e.sp n).limitUs.toNat
  | none => false

/-- DRAIN_LIMIT_EXPIRY: SPN_DRAIN.LIMIT_US have passed since ENABLE or a function bit was cleared, and
the jobs still started are aborted (R371, R372). -/
def execDrainLimitExpiry (n : Sp) (s : State) : Host.Outcome State Fault Refusal :=
  done (s.onEng fun e =>
    let s := e.sp n
    let e1 := if e.limitPassed n s.drainFrom then (e.drainAbort n fun _ => true).modSp n fun s => { s with drainFrom := none } else e
    let e2 := if e.limitPassed n s.drainHank then (e1.drainAbort n (e1.usesHank n)).modSp n fun s => { s with drainHank := none } else e1
    let e3 := if e.limitPassed n s.drainPly then (e2.drainAbort n Job.usesPly).modSp n fun s => { s with drainPly := none } else e2
    if e.limitPassed n s.drainRing then (e3.drainAbort n Job.usesRing).modSp n fun s => { s with drainRing := none } else e3)

/-- A bit of SPN_CTL is written: its drain starts when it is cleared and ends when it is set (R371,
R372). -/
def drainMark (now : Nat) (was on : Bool) (old : Option Nat) : Option Nat := if on then none else if was then some now else old

/-- SPN_CTL.ENABLE is written; a spindle that is disabled stops its ring segments at once (R185, R371). -/
def Engine.setEnable (e : Engine) (n : Sp) (on : Bool) : Engine :=
  let e1 := e.modSp n fun s => { s with enable := on, drainFrom := drainMark e.now s.enable on s.drainFrom
                                        quietFrom := if s.enable = on then s.quietFrom else e.now
                                        drainedFrom := if s.enable = on then s.drainedFrom else e.now }
  if on then e1
  else
    let e2 := e1.stopRing n fun _ => true
    if (e2.sp n).jobs.isEmpty then e2.loseWhere (e2.restsOn n) else e2
/-- SPN_CTL.HANK_EN is written (R372). -/
def Engine.setHankEn (e : Engine) (n : Sp) (on : Bool) : Engine :=
  e.modSp n fun s => { s with hankEn := on, drainHank := drainMark e.now s.hankEn on s.drainHank }
/-- SPN_CTL.PLY_EN is written (R372). -/
def Engine.setPlyEn (e : Engine) (n : Sp) (on : Bool) : Engine :=
  e.modSp n fun s => { s with plyEn := on, drainPly := drainMark e.now s.plyEn on s.drainPly }
/-- SPN_CTL.RING_EN is written (R372). -/
def Engine.setRingEn (e : Engine) (n : Sp) (on : Bool) : Engine :=
  e.modSp n fun s => { s with ringEn := on, drainRing := drainMark e.now s.ringEn on s.drainRing }

/-- SPN_STAT.DRAINED (R371). -/
def Spindle.drained (s : Spindle) : Bool := !s.enable && s.jobs.isEmpty

/-- A tag written to SPN_ABORT aborts the started jobs that carry it (R374). -/
def Engine.abortTag (e : Engine) (n : Sp) (tag : Word) : Engine := e.abortWhere n 5 fun x => x.desc.tag == tag

end Sys2Proof.Machine
end

