-- ==== Sys2Proof/Machine/Doffer.lean ====
section
/-! DEFINITION. The Doffer: acceptance, fold records, knot effects, the count for the instance and the
completion ring; and the application of knot operations (R125 to R127, R329, R361 to R370, R512). -/

namespace Sys2Proof.Machine

/-! ## Instances (R285, R329) -/

/-- TICK tensors that the plan of input t placed are freed (R285). -/
def Engine.freeTick (e : Engine) (t : Nat) : Engine :=
  (e.tensors.filter fun x => x.2.placed && x.2.inst == some t && (e.placeE x.1).life == 0).foldl (fun e x => e.endLife x.1) e

/-- Jobs, packets and records of input t's instance belong to no instance from now on. -/
def Engine.detach (e : Engine) (t : Nat) : Engine :=
  let rec_ (r : CompRec) : CompRec := if r.inst = some t then { r with inst := none } else r
  { e with
    spindles := e.spindles.map fun s => { s with jobs := s.jobs.map fun x => if x.inst = some t then { x with inst := none } else x }
    doffer := { e.doffer with
      buffers := e.doffer.buffers.map fun b => b.map rec_
      waiting := e.doffer.waiting.map fun w => (w.1, rec_ w.2)
      accepted := e.doffer.accepted.map rec_
      current := e.doffer.current.map fun c => (rec_ c.1, c.2) } }

/-- The instance of input t completes at a time: its run time is written and its TICK tensors are
freed (R329, R349). -/
def Engine.completeInst (e : Engine) (t : Inp) (i : Instance) (at_ : Nat) : Engine :=
  let run := w32 (min (clocksUs (at_ - i.start)) 0xFFFFFFFF)
  (e.modTick t fun k => { k with inst := none, lastRun := run, maxRun := if k.maxRun.toNat < run.toNat then run else k.maxRun }).freeTick t.val

/-- A record is counted for its tick instance, which completes with its last (R329, R369). -/
def Engine.countRecord (e : Engine) (r : CompRec) : Engine :=
  match r.inst with
  | none => e
  | some k =>
    let t := inpOf k
    match (e.tick t).inst with
    | none => e
    | some i =>
      let i' := { i with accepted := i.accepted + 1 }
      if i.jobs ≤ i'.accepted then e.completeInst t i r.acceptedAt else e.modTick t fun x => { x with inst := some i' }

/-! ## The completion ring (R364, R370, R473, R512) -/

/-- The 32 bytes of a completion record (R364). -/
def CompRec.toBytes (r : CompRec) : List Byte :=
  leBytes 4 r.tag.toNat ++ leBytes 1 r.status ++ leBytes 1 r.fault ++ leBytes 1 r.detail ++ leBytes 1 r.cflags.toNat ++
  leBytes 4 r.nep ++ leBytes 4 r.where_ ++ leBytes 1 r.spindle ++ leBytes 1 0 ++ leBytes 2 r.setId ++ leBytes 4 r.kclocks ++
  leBytes 4 r.bytesOut ++ leBytes 4 0

/-- Records of the completion ring; none while it is disabled (R377). -/
def Doffer.ringSize (d : Doffer) : Option Nat :=
  if 6 ≤ d.log2.toNat ∧ d.log2.toNat ≤ 16 then some (2 ^ d.log2.toNat) else none

/-- Base address of the completion ring. -/
def Doffer.base (d : Doffer) : Nat := d.baseLo.toNat * 64 + d.baseHi.toNat * 2 ^ 32

/-- The completion ring is full (R370, R473). -/
def Doffer.full (d : Doffer) (size : Nat) : Bool :=
  decide (size ≤ d.tail.toNat) || (d.head.toNat + 1) % size == d.tail.toNat

/-- The ring's registers changed: room ends the run of records that found it full (R370). -/
def Doffer.roomCheck (d : Doffer) : Doffer :=
  match d.ringSize with
  | some size => if d.full size then d else { d with fullRaised := false }
  | none => d

/-- A record goes into the completion ring when NOTIFY is 1 or STATUS is not OK (R369, R370, R512). -/
def Engine.ringWrite (e : Engine) (r : CompRec) : Engine :=
  if !r.notify && r.status == 0 then e
  else
    let d := e.doffer
    match d.ringSize with
    | none => e
    | some size =>
      if d.full size then
        ({ e with doffer := { d with dropCnt := satInc d.dropCnt, fullRaised := true } }).raiseIf (!d.fullRaised) .ringFull
      else
        { e.unitWrite .doffer (d.base + 32 * d.head.toNat) r.toBytes
          with doffer := { d with head := BitVec.ofNat 16 ((d.head.toNat + 1) % size), fullRaised := false } }

/-! ## The steps of a record (R369) -/

/-- Knot effects whose WHEN matches STATUS, in knot-list order (R355, R369). -/
def CompRec.applied (r : CompRec) : List KnotEffect := r.effects.filter fun x => bitOf x.sel r.status

/-- Steps 2 to 4 of a record (R369). -/
def Engine.recordEnd (e : Engine) (r : CompRec) : Engine :=
  let e1 := r.applied.foldl (fun e x => e.knotIssue .doffer x.knot x.verb (w32 x.value)) { e with doffer := { e.doffer with current := none } }
  (e1.countRecord r).ringWrite r

/-- The fold records that name a tag, in plan order (R125, R126). -/
def Cfg.foldsOf (c : Cfg) (tag : Word) : List FoldRec := c.plans.flatMap fun p => p.2.folds.filter fun f => f.producer == tag

/-- The folded scale F, zero where a factor or the product is no scale word (R126). -/
def foldValue (sa sw : Word) (f : FoldRec) : Word :=
  let k := if f.useConst then f.const else f32One
  if isScale sw && isScale k then
    let r := f32Of (.rat (((f32Q sa).mul (f32Q sw)).mul (f32Q k)))
    if isScale r then r else 0
  else 0

/-- A word goes to a fold's DEST through leaf port 0 (R13, R126). -/
def Engine.foldWrite (e : Engine) (f : FoldRec) (v : Word) : Engine :=
  { e with mem := writeBytes e.mem (f.dest % 2 ^ 48) (leBytes 4 v.toNat) }.unitIssue .doffer true true (f.dest % 2 ^ 48) 4

/-- Fold reads (or DEST writes) that have not been answered and have not timed out. -/
def Engine.foldOut (e : Engine) (write : Bool) : Bool := e.unitTxns.any fun t => t.fold && t.write == write && !t.timedOut

/-- No fold read (or DEST write) of those still out waits for a slot. -/
def Engine.foldIssued (e : Engine) (write : Bool) : Bool :=
  e.unitTxns.all fun t => !(t.fold && t.write == write) || decide (t.slot < 64)

/-- Folds are evaluated in order, up to one that must read a header; after the last their acknowledgements
are waited for (R126, R127). -/
def Engine.runFolds (e : Engine) (r : CompRec) : List FoldRec → Engine
  | [] => if e.foldOut true then { e with doffer := { e.doffer with current := some (r, .dest) } } else e.relatch.recordEnd r
  | f :: fs =>
    match r.scale with
    | some sa =>
      if f.fromHeader then
        { e with doffer := { e.doffer with current := some (r, .header (f :: fs) false) } }.unitIssue .doffer false true
          (f.weightStream % 2 ^ 48) 44
      else (e.foldWrite f (foldValue sa f.weightScale f)).runFolds r fs
    | none => (e.foldWrite f 0).runFolds r fs

/-- RECORD_STEPS_BEGIN: the next accepted record's steps begin with its fold records (R369). -/
def execRecordStepsBegin (s : State) : Host.Outcome State Fault Refusal :=
  done (s.onEng fun e =>
    match e.doffer.current, e.doffer.accepted with
    | none, r :: rest =>
      if e.live then
        let e1 := { e.relatch with doffer := { e.doffer with accepted := rest } }
        let fs := e1.conf.foldsOf r.tag
        if fs.isEmpty then e1.recordEnd r else e1.runFolds r fs
      else e
    | _, _ => e)

/-- The header of a fold's weight stream is there: SCALE counts under the Skein MAGIC only, and a failed read
gives zeros (R126, R425). -/
def Engine.foldHeader (e : Engine) (r : CompRec) (f : FoldRec) (fs : List FoldRec) (failed : Bool) : Engine :=
  if failed then (e.foldWrite f 0).runFolds r fs
  else
    let bs := readBytes e.mem (f.weightStream % 2 ^ 48) 44
    let sw := if fieldAt bs 0 4 = magicSkein then w32 (fieldAt bs 0x28 4) else 0
    (e.foldWrite f (foldValue (r.scale.getD 0) sw f)).runFolds r fs

/-- The Doffer goes on after an answer to one of its fold transactions: with the header when no read of it is out any more, or
with the record's other steps when no DEST write is (R126, R369). -/
def Engine.foldOn (e : Engine) (failed : Bool) : Engine :=
  match e.doffer.current with
  | some (r, .header (f :: fs) bad) =>
    if e.foldOut false then { e with doffer := { e.doffer with current := some (r, .header (f :: fs) (bad || failed)) } }
    else e.foldHeader r f fs (bad || failed)
  | some (r, .dest) => if e.foldOut true then e else e.relatch.recordEnd r
  | _ => e

/-- The fold transactions of one direction are answered together. -/
def Engine.foldAnswered (e : Engine) (write : Bool) : Engine :=
  (e.unitTxns.filter fun t => t.fold && t.write == write && !t.timedOut).foldl (fun e t => e.unitFree t) e

/-- Each fold transaction of one direction that is out has failed: the Doffer reads zeros, or takes the write as acknowledged (R425). -/
def Engine.foldFails (e : Engine) (write : Bool) : Engine :=
  (e.unitTxns.filter fun t => t.fold && t.write == write && !t.timedOut).foldl (fun e _ => e.unitBusError .doffer) e

/-- FOLD_HEADER_READ_DONE: the whole header of a fold's weight stream is read, or its read fails (R126, R425). -/
def execFoldHeaderReadDone (resp : AxiResp) (data : List Byte) (s : State) : Host.Outcome State Fault Refusal :=
  done (s.onEng fun e =>
    match e.doffer.current with
    | some (_, .header (f :: _) _) =>
      if !e.portsUp || !e.foldIssued false then e
      else
        let e1 := (if resp = .okay then e else e.foldFails false).foldAnswered false
        if e.quiescing then e1
        else if resp = .okay then { e1 with mem := writeBytes e1.mem (f.weightStream % 2 ^ 48) (slice data 0 44) }.foldOn false
        else e1.foldOn true
    | _ => e)

/-- FOLD_DEST_ACK: the DEST writes are acknowledged, also when one failed, and the record's other steps
follow (R369, R425). -/
def execFoldDestAck (resp : AxiResp) (s : State) : Host.Outcome State Fault Refusal :=
  done (s.onEng fun e =>
    match e.doffer.current with
    | some (_, .dest) =>
      if !e.portsUp || !e.foldIssued true then e
      else
        let e1 := (if resp = .okay then e else e.foldFails true).foldAnswered true
        if e.quiescing then e1 else e1.foldOn false
    | _ => e)

/-! ## Acceptance (R368, R485) -/

/-- The spindle that the Doffer serves next: the first with a record after the one served last. -/
def Doffer.nextSpindle (d : Doffer) : Option Sp :=
  ((List.range 32).map fun i => spOf (d.lastServed + 1 + i)).find? fun n => !d.buffers[n].isEmpty

/-- The job of a record is folded into its class's calibration, by the class entry that stood when it started; once that entry is
replaced its result is none of the new entry's (R396, R398, R485; the latter: DEDUCED, log 126). -/
def Engine.calQualifies (e : Engine) (r : CompRec) : Option CalSample :=
  match r.cal with
  | none => none
  | some c =>
    let k := c.entry
    if Tab.getD e.conf.classes c.cls {} = k ∧ r.status = 0 ∧ c.absmax ≠ 0 ∧ k.calibrate ∧ c.codeType = k.codeType ∧ c.gridSlot = k.gridSlot ∧ c.histBase = k.histBase then some c
    else none

/-- The spindle's oldest record leaves its buffer, and a record that waits for the freed entry takes it (R367,
R368). -/
def Doffer.pop (d : Doffer) (n : Sp) (rest : List CompRec) : Doffer :=
  match d.waiting.find? fun w => w.1 == n.val with
  | some w => { d with buffers := d.buffers.set n (rest ++ [w.2]), waiting := d.waiting.erase w }
  | none => { d with buffers := d.buffers.set n rest }

/-- DOFFER_ACCEPT: one pending record is accepted (R368, R369, R439, R485). -/
def execDofferAccept (s : State) : Host.Outcome State Fault Refusal :=
  done (s.onEng fun e =>
    let d := e.doffer
    match d.nextSpindle with
    | none => e
    | some n =>
      match d.buffers[n] with
      | [] => e
      | r :: rest =>
        if !e.live || decide (32 ≤ d.accepted.length) then e
        else
          let r' := { r with acceptedAt := e.now }
          let e1 := { e with
            doffer := { d.pop n rest with lastServed := n.val, accepted := d.accepted ++ [r'], acceptCnt := satInc d.acceptCnt }
            tel := { e.tel with calQueue := e.tel.calQueue ++ (e.calQualifies r).toList } }
          (if r.status = 1 ∨ r.status = 2 then e1.countJobFault else e1).modSp n fun s => { s with quietFrom := e.now })

/-! ## Knot operations (R361 to R363) -/

/-- Tensors whose RELEASE_KNOT reaches RELEASE_COUNT by an effect are freed (R285). -/
def Engine.releaseByKnot (e : Engine) (k before : Nat) : Engine :=
  let after := (e.knot k).count.toNat
  (e.tensors.filter fun x =>
    let p := e.placeE x.1
    x.2.placed && p.life == 1 && p.releaseKnot == k && decide (before < p.releaseCount ∧ p.releaseCount ≤ after)).foldl
    (fun e x => e.endLife x.1) e

/-- A bank applies an operation: the table moves, tensors whose release it is are freed, and a register
access that waits for it ends.  Waits that hold before it stay satisfied, and waits are evaluated again at the end of its dispatch
clock (R359, R361, R363, R448). -/
def Engine.bankApply (e : Engine) (o : KnotOp) : Engine :=
  let e0 := { e.relatch with knots := e.knots.applyClock (knotBank o.knot).val }
  let before := (e0.knot o.knot).count.toNat
  let e1 := e0.applyKnot o.knot o.verb o.value
  let e2 := if o.issuer = .doffer then e1.releaseByKnot o.knot before else e1
  let e3 := match e2.glb.stall with
    | some st => if st.kind = StallKind.knot o then { e2 with glb := { e2.glb with stall := none, pslverr := false } } else e2
    | none => e2
  e3.relatch

/-- A bank applies its operations, the oldest first, until it holds none of the tick unit's (R328, R362). -/
def Engine.drainTick (b : Fin 16) : Nat → Engine → Engine
  | 0, e => e
  | fuel + 1, e =>
    if e.knots.banks[b].all fun o => o.issuer != .tick then e
    else
      match pickOldest e.knots.banks[b] with
      | some (o, rest) => Engine.drainTick b fuel (({ e with knots := { e.knots with banks := e.knots.banks.set b rest } }).bankApply o)
      | none => e

/-- A row of the knot table is repaired; waits that held stay satisfied (R359, R361, R483). -/
def Engine.repairRow (e : Engine) (k : Nat) : Engine := (e.relatch.repairKnot k).relatch

/-- KNOT_BANK_APPLY: a bank applies its oldest operation; an uncorrectable row is repaired first (R361,
R362, R483). -/
def execKnotBankApply (bank : Fin 16) (row : Ecc) (s : State) : Host.Outcome State Fault Refusal :=
  done (s.onEng fun e =>
    match pickOldest e.knots.banks[bank] with
    | some (o, rest) =>
      if e.up then
        let e1 := { e with knots := { e.knots with banks := e.knots.banks.set bank rest } }
        let e2 := match row with
          | .ok => e1
          | .corrected _ => e1.eccCorrected
          | .uncorrectable _ => e1.repairRow o.knot
        e2.bankApply o
      else e
    | none => e)

end Sys2Proof.Machine
end

