-- ==== Sys2Proof/Machine/Release.lean ====
section
/-! DEFINITION. Instances of plans: their ending at a deadline and their release, and the acceptance of a
tick (R325 to R330, R338, R342, R344, R347). -/

namespace Sys2Proof.Machine

/-! ## The ending of an instance (R342) -/

/-- Descriptors of input t's instance that are not yet dispatched leave their queues. -/
def Engine.dropDescs (e : Engine) (t : Nat) : Engine :=
  e.creel.queues.foldl (fun e q =>
    if (e.conf.queue q.1).mode = 1 ∧ q.2.pkts.any (fun p => p.inst == some t) then
      (e.onCreel fun c => c.upd e.now q.1 fun x => { x with pkts := x.pkts.filter fun p => p.inst != some t }).descsGone q.1
        (q.2.pkts.filter fun p => p.inst == some t)
    else e) e

/-- An instance that is still running is ended: its descriptors leave their queues, its started jobs
are aborted, and its TICK tensors are freed (R342). -/
def Engine.endInst (e : Engine) (t : Inp) : Engine :=
  let e1 := e.dropDescs t.val
  let e2 := (List.finRange 32).foldl (fun e n => e.abortWhere n 1 fun x => x.inst == some t.val) e1
  ((e2.freeTick t.val).detach t.val).modTick t fun k => { k with inst := none }

/-- What an instance's miss is reported as: a yield of G2 to work served ahead of it, or DEADLINE_MISS
(R342, R347). -/
def Engine.reportMiss (e : Engine) (t : Inp) (i : Instance) : Engine :=
  match (e.conf.tick t.val).cls, i.servedAhead with
  | 0, _ => e.raise (.deadlineMiss t.val)
  | _, some (c, w, n) => e.yield_ ⟨classRank c, 2, w, t.val, 0, n⟩
  | _, none => e.raise (.deadlineMiss t.val)

/-- Records of input t's instance that the Doffer has accepted and not yet counted: their number, and
the time at which the last was accepted. -/
def Engine.uncounted (e : Engine) (t : Inp) : Nat × Nat :=
  let rs := ((e.doffer.current.map (·.1)).toList ++ e.doffer.accepted).filter fun r => r.inst == some t.val
  (rs.length, rs.foldl (fun a r => max a r.acceptedAt) 0)

/-- The deadline of input t's instance is reached: an instance whose records are all accepted has
completed; any other is ended and its miss reported (R342, R344). -/
def Engine.deadline (e : Engine) (t : Inp) : Engine :=
  match (e.tick t).inst with
  | none => e
  | some i =>
    let u := e.uncounted t
    if i.jobs ≤ i.accepted + u.1 then (e.completeInst t i u.2).detach t.val
    else ((e.endInst t).modTick t fun k => { k with missCnt := satInc k.missCnt }).reportMiss t i

/-! ## Release (R328) -/

/-- Cells that a descriptor takes, first and last marked (R298). -/
def descCells (bs : List Byte) : List Cell :=
  let cs := (chunks 64 bs).map fun b => ({ data := b } : Cell)
  cs.mapIdx fun i c => { c with first := i == 0, last := i + 1 == cs.length }

/-- The queue has room for `k` more cells, within LIMIT, its reserve and the shared part (R300, R328). -/
def Creel.roomFor (cfg : Cfg) (c : Creel) (q k : Nat) : Bool :=
  let held := (c.q q).cellCount
  let qe := cfg.queue q
  decide (held + k ≤ qe.limit ∧ (held + k - qe.reserve) - (held - qe.reserve) ≤ c.sharedFree cfg - c.owedBefore cfg q)

/-- The tick unit places a descriptor in its queue, before a packet that its producer has open, or
raises QUEUE_FULL (R328); whether it was placed. -/
def Engine.placeDesc (e : Engine) (t q : Nat) (bs : List Byte) : Engine × Bool :=
  let cs := descCells bs
  if e.qClosed q then (e.onCreel fun c => { c with discardCnt := satAdd c.discardCnt bs.length }, false)
  else if !e.creel.roomFor e.conf q cs.length then
    ((e.onCreel fun c => { c with fullCnt := satInc c.fullCnt }).raise (.queueFull q), false)
  else
    let k := e.creel.number cs
    let p : Pkt := { cells := k.1, committed := true, visible := true, visAt := e.creel.visNext, inst := some t, visTime := e.now }
    (e.onCreel fun c =>
      { k.2.upd e.now q (fun x => match x.openPkt with
          | some o => { x with pkts := x.pkts.dropLast ++ [p, o] }
          | none => { x with pkts := x.pkts ++ [p] })
        with visNext := c.visNext + 1 }, true)

/-- The knot resets of a release reach the banks as the tick unit's operations, behind those that the banks hold, and each is
applied before the next step (R328, R362). -/
def Engine.resetKnots (e : Engine) (rs : List KnotReset) : Engine :=
  rs.foldl (fun e r =>
    let b := knotBank r.knot
    let e1 := (e.knotIssue .tick r.knot .set r.count).knotIssue .tick r.knot .setThresh r.thresh
    Engine.drainTick b e1.knots.banks[b].length e1) e

/-- Input t's plan is released for a tick accepted at a time: an instance that still runs is ended, the
listed knots take their values, and the first jobs are placed (R328, R329). -/
def Engine.release (e : Engine) (t : Inp) (at_ : Nat) : Engine :=
  match Tab.get? e.conf.plans t.val with
  | none => e.deadline t
  | some p =>
    let e1 := ((e.deadline t).relatch).resetKnots p.resets
    let r := p.jobs.foldl (fun (a : Engine × Nat) j =>
      let r := a.1.placeDesc t.val j.1 j.2
      (r.1, a.2 + b2n r.2)) (e1.relatch, 0)
    let i : Instance := { start := at_, jobs := r.2, accepted := 0 }
    if r.2 = 0 then r.1.completeInst t i at_ else r.1.modTick t fun k => { k with inst := some i }

/-! ## Acceptance of a tick (R325, R326) -/

/-- A rebind is under way and holds the releases of input t (R397). -/
def Engine.holdsTick (e : Engine) (t : Inp) : Bool :=
  match e.act with
  | some a => (match a.stage with | .draining _ => a.boundary == t.val || a.affected.inputs.contains t.val | _ => false)
  | none => false

/-- A tick less than MIN_GAP_US after the last accepted one (R326). -/
def Engine.tooEarly (e : Engine) (t : Inp) : Bool :=
  match (e.tick t).lastTick with
  | some l => !e.passedUs l (e.conf.tick t.val).minGapUs
  | none => false

/-- A frame of input t opens (R337). -/
def Engine.openFrame (e : Engine) (t : Inp) : Engine :=
  let te := e.conf.tick t.val
  e.modTick t fun k => { k with frame := if te.frames then { open_ := true, counts := List.replicate te.stripes 0 } else k.frame }

/-- The open frame of input t closes by CLOSE_US in this control clock, whether or not its command has come yet (R338, R344). -/
def Engine.closesNow (e : Engine) (t : Inp) : Bool :=
  (e.tick t).closeDue ||
  ((e.tick t).frame.open_ && match (e.tick t).lastTick with | some l => e.passedUs l (e.conf.tick t.val).closeUs | none => false)

/-- An accepted tick is counted, and what it ends and releases is settled at the end of its control clock.  The open frame
closes and a frame opens: now, or at the clock's end where CLOSE_US passes in the same clock, so that every line of that clock counts in
the frame that closes (R337, R338, R344). -/
def Engine.takeTick (e : Engine) (t : Inp) : Engine :=
  let late := e.closesNow t
  let e1 := if (e.conf.tick t.val).frames && !late then (e.closeFrame t).openFrame t else e
  e1.modTick t fun k => { k with lastTick := some e.now, lost := false, tickCnt := satInc k.tickCnt, due := true, closeDue := late }

end Sys2Proof.Machine
end

