-- ==== Sys2Proof/Machine/Domains.lean ====
section
/-! DEFINITION. Power domains: requests for wakes, wakes, and switching a spindle or the Bobbin store off
(R20 to R22, R497 to R500). -/

namespace Sys2Proof.Machine

/-- Power state of a domain that the engine wakes. -/
def Engine.pwrOf (e : Engine) : WakeDomain → PwrSt
  | .bobbin => e.power.bobbin
  | .distaff => e.distaff.pwr
  | .spindle n => (e.sp n).pwr

/-- Power state of a domain set. -/
def Engine.setPwr (e : Engine) (d : WakeDomain) (p : PwrSt) : Engine :=
  match d with
  | .bobbin => { e with power := { e.power with bobbin := p } }
  | .distaff => { e with distaff := { e.distaff with pwr := p } }
  | .spindle n => e.modSp n fun s => { s with pwr := p }

/-- Order of the wakes that one control clock requests: the Bobbin domain, the Distaff domain, spindles by number (R499). -/
def wakeRank : WakeDomain → Nat
  | .bobbin => 0
  | .distaff => 1
  | .spindle n => 2 + n.val

/-- A request put behind those of earlier clocks, and in its rank among those of its own (R499). -/
def insertWake (d : WakeDomain) (now : Nat) : List (WakeDomain × Nat) → List (WakeDomain × Nat)
  | [] => [(d, now)]
  | w :: ws => if w.2 = now ∧ wakeRank d < wakeRank w.1 then (d, now) :: w :: ws else w :: insertWake d now ws

/-- A wake of a domain that is off is requested (R499). -/
def Engine.requestOne (e : Engine) (d : WakeDomain) : Engine :=
  if e.pwrOf d = .off then
    let e1 := e.setPwr d .requested
    { e1 with power := { e1.power with wakes := insertWake d e1.now e1.power.wakes } }
  else e

/-- A wake is requested; a spindle's needs the Bobbin domain, whose request comes first (R21, R499). -/
def Engine.requestWake (e : Engine) (d : WakeDomain) : Engine :=
  match d with
  | .spindle _ => (e.requestOne .bobbin).requestOne d
  | _ => e.requestOne d

/-- An access to the Distaff: its domain is switched on for it and stays on (R497). -/
def Engine.touchDistaff (e : Engine) : Engine :=
  let e1 := e.requestWake .distaff
  { e1 with distaff := { e1.distaff with lastAccess := e.now } }

/-- A bank of the Bobbin store is bound (R390). -/
def Cfg.bankBound (c : Cfg) : Bool := (List.range 16).any fun b => (c.bank b).mode != 0

/-- The Bobbin domain is on while any spindle domain is on or any bank is bound; off, its SRAM is lost
(R21, R497). -/
def Engine.bobbinRule (e : Engine) : Engine :=
  let needed := e.conf.bankBound || e.spindles.toList.any fun s => s.pwr != .off
  if needed then e.requestOne .bobbin
  else
    let p := e.power
    let p1 : Power := { p with bobbin := .off, wakes := p.wakes.filter fun w => w.1 != .bobbin, waking := p.waking.filter fun w => w.1 != .bobbin }
    { e with bobbin := [], power := p1 }

/-- A spindle domain is switched off: its SRAM is lost, and its link is down (R21, R497). -/
def Engine.cutSpindle (e : Engine) (n : Sp) : Engine :=
  let e1 := e.modSp n fun s =>
    { s with pwr := .off, store := [], hankGen := 0, hankHeads := [], hankLinks := [], lanes := [], merge := none, ringSteal := .idle, ringAnswer := none
             xlate := [], xlateWait := [], link := {}, delivered := 0, srcRead := 0 }
  { e1 with power := { e1.power with wakes := e1.power.wakes.filter fun w => w.1 != .spindle n, waking := e1.power.waking.filter fun w => w.1 != .spindle n } }

/-- A spindle's domain comes up: zeroed SRAM, reset counters, 32 steps, and 32 back credits for the tile
(R433, R498). -/
def Engine.freshSpindle (e : Engine) (n : Sp) : Engine :=
  e.modSp n fun s =>
    { s with pwr := .on, steps := 32, quietFrom := e.now, store := [], hankGen := 0, hankHeads := [], hankLinks := [], lanes := [], merge := none, xlate := [], xlateWait := []
             link := { backCredits := 32 }, code := {}, work := {}, cnt := {}, delivered := 0, srcRead := 0 }

/-- A domain's wake completes (R498). -/
def Engine.domainUp (e : Engine) (d : WakeDomain) : Engine :=
  match d with
  | .spindle n => e.freshSpindle n
  | .bobbin => { e with bobbin := [], power := { e.power with bobbin := .on } }
  | .distaff => { e with distaff := { e.distaff with pwr := .on, lastAccess := e.now } }

end Sys2Proof.Machine
end

