-- ==== Sys2Proof/Machine/Rebind.lean ====
section
/-! DEFINITION. Rebinding: the affected set, the steps of a rebind, and the application of a configuration
(R385, R395 to R399). -/

namespace Sys2Proof.Machine

/-! ## The affected set (R395) -/

/-- Numbers below n whose entries differ. -/
def differ [DecidableEq α] (n : Nat) (a b : Tab α) : List Nat := (List.range n).filter fun k => decide (Tab.get? a k ≠ Tab.get? b k)

/-- A region of the Bobbin store touches one of the banks. -/
def touchesBank (banks : List Nat) (addr size : Nat) : Bool :=
  match Addr.parse addr with
  | .bobbin a => addr != 0 && size != 0 && banks.any fun b => decide (b * 524288 < a + size ∧ a < (b + 1) * 524288)
  | _ => false

/-- A spindle's save or scratch region lies in one of the banks (R395). -/
def SpindleE.inBanks (s : SpindleE) (banks : List Nat) : Bool :=
  touchesBank banks s.saveAddr 114688 || touchesBank banks s.bscrAddr s.bscrSize

/-- Every spindle, bank, queue and input. -/
def affectAll : Affected := ⟨List.range 32, List.range 16, List.range 4096, List.range 16⟩

/-- What a partial image affects (R395). -/
def affectOf (old new : Cfg) : Affected :=
  let banks := differ 16 old.banks new.banks
  let sp := (List.range 32).filter fun n =>
    decide (Tab.get? old.spindles n ≠ Tab.get? new.spindles n) ||
    (Tab.getD old.spindles n {}).inBanks banks || (Tab.getD new.spindles n {}).inBanks banks
  let qs := (List.range 4096).filter fun q =>
    decide (Tab.get? old.queues q ≠ Tab.get? new.queues q) || decide (Tab.get? old.queueClients q ≠ Tab.get? new.queueClients q)
  let ts := (List.range 16).filter fun t =>
    decide (Tab.get? old.ticks t ≠ Tab.get? new.ticks t) || decide (Tab.get? old.plans t ≠ Tab.get? new.plans t)
  ⟨sp, banks, qs, ts⟩

/-- Clients that gain or lose a unit (R396 step 4). -/
def movedClients (old new : Cfg) (a : Affected) : List Nat :=
  let pair (x y : Nat) : List Nat := if x = y then [] else [x, y]
  (a.spindles.flatMap fun n => pair (old.clientOf n) (new.clientOf n)) ++
  (a.banks.flatMap fun b => pair (old.bank b).client (new.bank b).client) ++
  (a.queues.flatMap fun q => pair (old.queueClient q) (new.queueClient q))

/-! ## Steps 4 to 7 (R396, R398, R500) -/

/-- Tensors whose PLACEMENT entry a configuration changes (R398). -/
def replacedPlaces (old new : Cfg) (ts : List Nat) : List Nat :=
  ((old.placement.map (·.1)) ++ (new.placement.map (·.1)) ++ ts).eraseDups.filter fun t =>
    decide (Tab.get? old.placement t ≠ Tab.get? new.placement t)

/-- A replaced PLACEMENT entry frees its tensor; while a job holds the tensor open, the free waits and the job keeps the
placement that it has read (R285, R286, R398). -/
def Engine.replaceEntry (e : Engine) (t : Nat) : Engine :=
  if e.heldOpen t then e.modTensor t fun x => { x with entry := some (e.placeE t), freeWaits := true } else e.freeNow t

/-- Step 4: parts on affected spindles and in affected banks become LOST; a FULL image frees every tensor, another the KEEP
tensors of clients that gain or lose a unit and those whose PLACEMENT entry it replaces (R285, R287, R396, R398). -/
def Engine.stepFour (e : Engine) (full : Bool) (a : Affected) (new : Cfg) : Engine :=
  let old := e.conf
  let moved := movedClients old new a
  let inBank (x : Tensor) : Bool := match x.bPart with
    | some (g, l) => a.banks.any fun b => decide (b * 128 < g + l ∧ g < (b + 1) * 128)
    | none => false
  let e1 := e.loseWhere fun t x => (a.spindles.any fun n => e.restsOn (spOf n) t x) || inBank x
  if full then e1.tensors.foldl (fun e x => e.freeNow x.1) e1
  else
    let e2 := (e1.tensors.filter fun x => (e1.placeE x.1).life == 2 && moved.contains (e1.placeE x.1).client).foldl
      (fun e x => e.endLife x.1) e1
    (replacedPlaces old new (e1.tensors.map (·.1))).foldl (fun e t => e.replaceEntry t) e2

/-- Step 5: the new entries stand; a class whose entry changes loses its calibration, with the results that wait for it (R396, R398).  A
queue that is no longer a STREAM queue keeps no visible cells of one (DESIGN CHOICE, log 67). -/
def Engine.stepFive (e : Engine) (new : Cfg) : Engine :=
  let old := e.conf
  let same (c : Nat) : Bool := decide (Tab.get? old.classes c = Tab.get? new.classes c)
  let e1 := { e with cfg := some new
                     tel := { e.tel with cal := e.tel.cal.filter fun c => same c.1, calQueue := e.tel.calQueue.filter fun c => same c.cls } }
  e1.creel.queues.foldl (fun e q =>
    if (old.queue q.1).mode = 3 ∧ (new.queue q.1).mode ≠ 3 then e.onCreel fun c => c.upd e.now q.1 fun x => { x with cells := [], stale := false } else e) e1

/-- Step 6 for one affected spindle: SPN_CTL is set.  A powered one is switched off, and is woken again where it stays bound; one
that is off wakes when a job waits for it; a wake that is queued or runs goes on where the spindle is bound (R22, R396, R500). -/
def Engine.stepSix (e : Engine) (old : Cfg) (n : Sp) : Engine :=
  let bound := e.conf.clientOf n != 0xFFFF
  let powered := (e.sp n).pwr == .on
  let e1 := e.modSp n fun s =>
    { s with ringEn := true, plyEn := true, hankEn := true, enable := bound, drainFrom := none, drainHank := none, drainPly := none, drainRing := none
             quietFrom := e.now }
  let e2 := if powered || (!bound && (e.sp n).pwr != .off) then e1.cutSpindle n else e1
  if bound && powered && old.clientOf n != 0xFFFF then e2.requestWake (.spindle n) else e2

/-- An affected input after the new entries stand.  Where its entry changes, its frame starts anew, open where a tick is held or due;
marks of the control clock that belong to the old entry are gone; and a SYNTHETIC input ticks first now (R325, R337, R396,
R397). -/
def Engine.freshInput (e : Engine) (t : Inp) (changed : Bool) : Engine :=
  let te := e.conf.tick t.val
  if !changed then e
  else
    e.modTick t fun k =>
      { k with heldTicks := k.heldTicks ++ (if k.due then [e.now] else []), due := false, lostDue := false, closeDue := false, budgetDue := false
               lastTick := if te.source = 2 then none else k.lastTick
               frame := if (k.due || !k.heldTicks.isEmpty) && te.frames then { open_ := true, counts := List.replicate te.stripes 0 } else {}
               synNext := if te.source = 2 then some e.now else none }

/-- Inputs in the order of release: class, then number (R330). -/
def releaseOrder (c : Cfg) (ts : List Inp) : List Inp := (List.range 4).flatMap fun k => ts.filter fun t => (c.tick t.val).cls == k

/-- The frame of the tick just released has closed short while the tick was held: the jobs of its instance that name a stripe without
lines are skipped (R339, R397). -/
def Engine.skipEmpty (e : Engine) (t : Inp) : Engine :=
  let te := e.conf.tick t.val
  let f := (e.tick t).frame
  if te.frames && !f.open_ && !f.counts.isEmpty && decide (f.counts.sum < te.frameLines) then
    e.skipWaiting t fun k => decide (k < te.stripes) && f.counts.getD k 0 == 0
  else e

/-- Step 7: ticks that the rebind held are released, the inputs in the order of R330 and the ticks of one input in the order of their
acceptance (R330, R396, R397). -/
def Engine.stepSeven (e : Engine) : Engine :=
  let ts := (List.finRange 16).filter fun t => !(e.tick t).heldTicks.isEmpty
  (releaseOrder e.conf ts).foldl (fun e t =>
    let e1 := e.modTick t fun k => { k with heldTicks := [] }
    if (e.conf.tick t.val).source = 0 then e1 else ((e.tick t).heldTicks.foldl (fun e at_ => e.release t at_) e1).skipEmpty t) e

/-- Steps 4 to 6 of a rebind for the affected set. -/
def Engine.applyCfg (e : Engine) (full : Bool) (a : Affected) (new : Cfg) : Engine :=
  let old := e.conf
  let e1 := (e.stepFour full a new).stepFive new
  let e2 := a.spindles.foldl (fun e n => e.stepSix old (spOf n)) e1
  let e3 := a.inputs.foldl (fun e t => e.freshInput (inpOf t) (full || decide (Tab.get? old.ticks t ≠ Tab.get? new.ticks t))) e2
  e3.bobbinRule

/-! ## Steps 1 to 3 (R396) -/

/-- Step 1: affected spindles stop dispatch, affected queues take no packets, and the instances of
affected inputs end without report. -/
def Engine.beginRebind (e : Engine) (a : Activation) : Engine :=
  let f := a.affected
  let e1 := { e with act := some { a with stage := .draining e.now }, creel := { e.creel with closed := f.queues } }
  let e2 := f.spindles.foldl (fun e n => (e.modSp (spOf n) fun s => { s with enable := false, drainFrom := none }).stopRing (spOf n) fun _ => true) e1
  let e3 := f.inputs.foldl (fun e t => e.endInst (inpOf t)) e2
  e3.creel.queues.foldl (fun e q =>
    if f.queues.contains q.1 then e.continueWait q.1 ((e.creel.q q.1).waits.length + 1) else e) e3

/-- A started job uses an affected queue (R373 detail 4). -/
def Job.usesQueue (x : Job) (qs : List Nat) : Bool :=
  (x.desc.feeds && x.desc.outQ != 0xFFFF && qs.contains x.desc.outQ) || (x.desc.srcKind == 4 && qs.contains x.desc.srcQ)

/-- An affected queue is emptied: its open packet is bad, and its descriptors and packets are freed; a STREAM queue loses its partial tail,
and its visible cells stay (R308, R318, R396). -/
def Engine.emptyQueue (e : Engine) (q : Nat) : Engine :=
  let open_ := (e.creel.q q).openPkt.isSome
  let e1 := (e.qBad q).descsGone q ((e.creel.q q).pkts.filter fun p => p.committed)
  e1.onCreel fun c => c.upd e.now q fun x =>
    { x with pkts := [], tail := [], tailNum := 0, stale := x.stale && !x.cells.isEmpty, waits := [], drop := if open_ then .silent else x.drop }

/-- Step 3: jobs still started are aborted with detail 4, what ended jobs still have to write is written, and affected queues are emptied (log
96). -/
def Engine.stepThree (e : Engine) (a : Affected) : Engine :=
  let e1 := (List.finRange 32).foldl (fun e n =>
    e.abortWhere n 4 fun x => a.spindles.contains n.val || x.usesQueue a.queues) e
  let e2 := (List.finRange 32).foldl (fun e n =>
    (((e.sp n).jobs.filter fun x => x.ended.isSome && (a.spindles.contains n.val || x.usesQueue a.queues)).foldl (fun e x => e.flushHeld n x.id) e).flushRecords
      n fun r => a.spindles.contains n.val || a.spindles.contains r.owner) e1
  e2.creel.queues.foldl (fun e q => if a.queues.contains q.1 then e.emptyQueue q.1 else e) e2

/-- The affected spindles have drained, or DRAIN_US has passed since the boundary (R396). -/
def Engine.rebindReady (e : Engine) (a : Activation) (since : Nat) : Bool :=
  (a.affected.spindles.all fun n => (e.sp (spOf n)).jobs.all fun x => !e.abortable (spOf n) x) || e.passedUs since a.drainUs

/-- What GLB_IMG_STAT, GLB_IMG_SEQ and GLB_PART_SEQ read after an activation (R394, R400, R414). -/
def Glb.imgDone (g : Glb) (a : Activation) : Glb :=
  if a.command then { g with imgPartial := true }
  else if a.full then { g with imgPartial := false, imgCopy := BitVec.ofNat 2 a.copy, imgSeq := a.seq, partSeq := 0 }
  else { g with imgPartial := true, partSeq := a.seq }

/-- Steps 3 to 7: the configuration changes, and held ticks are released. -/
def Engine.finishRebind (e : Engine) (a : Activation) (since : Nat) : Engine :=
  let e1 := (e.stepThree a.affected).applyCfg a.full a.affected a.newCfg
  let e2 := { e1 with
    act := none
    creel := { e1.creel with closed := [] }
    activatedAt := if a.full then e.now else e1.activatedAt
    partials := if a.full || a.command then e1.partials else a.seq.toNat :: e1.partials
    glb := { (e1.glb.imgDone a) with rebindUs := w32 (clocksUs (e.now - since)) } }
  e2.stepSeven

/-- REBIND_DRAIN_END: the drain of a rebind is over, and its other steps follow (R396). -/
def execRebindDrainEnd (s : State) : Host.Outcome State Fault Refusal :=
  done (s.onEng fun e =>
    match e.act with
    | some a =>
      match a.stage with
      | .draining since => if e.live && e.rebindReady a since then e.finishRebind a since else e
      | _ => e
    | none => e)

/-- A pending activation whose boundary is at once begins its rebind (R395). -/
def Engine.makePending (e : Engine) (a : Activation) : Engine :=
  let a := { a with stage := .pending }
  if a.boundary = 0xFF then e.beginRebind a else { e with act := some a }

end Sys2Proof.Machine
end

