-- ==== Sys2Proof/Machine/DistaffOps.lean ====
section
/-! DEFINITION. The Distaff: regions, block writes, the wear journal and the leveller (R19, R490 to
R493). -/

namespace Sys2Proof.Machine

/-! ## Regions as bytes -/

/-- Bytes put at an offset of a region whose bytes beyond the list read zero. -/
def patch (r : List Byte) (off : Nat) (bs : List Byte) : List Byte :=
  slice r 0 off ++ bs ++ r.drop (off + bs.length)

/-- A region's content: 0 firmware, 1 image A, 2 image B. -/
def Distaff.region (d : Distaff) (r : Nat) : List Byte := if r = 0 then d.fw else if r = 1 then d.imgA else d.imgB

/-- A region's content replaced. -/
def Distaff.setRegion (d : Distaff) (r : Nat) (bs : List Byte) : Distaff :=
  let b := trimZeros bs
  if r = 0 then { d with fw := b } else if r = 1 then { d with imgA := b } else { d with imgB := b }

/-- Logical block number of block b of a region: the regions stand in the order of R19. -/
def logicalBlock (r b : Nat) : Nat := (if r = 0 then 0 else if r = 1 then 192 else 448) + b

/-- The logical block of the Keys region that holds the key entries (R402). -/
def keysBlock : Nat := 704

/-! ## The map and the journal (R490 to R492) -/

/-- Physical block of a logical block. -/
def Distaff.phys (d : Distaff) (l : Nat) : Nat := Tab.getD d.map l l

/-- Erase count of a physical block. -/
def Distaff.eraseCount (d : Distaff) (p : Nat) : Nat := Tab.getD d.erases p 0

/-- The check over an entry's other fields (R491). -/
def JournalE.checkOf (seq logical physical erases : Nat) : BitVec 64 := Config.journalCheck [seq, logical, physical, erases]

/-- The entry's check is good. -/
def JournalE.good (j : JournalE) : Bool := j.check == JournalE.checkOf j.seq j.logical j.physical j.erases

/-- Entries of the 256 KiB journal ring (R19, R491). -/
def journalSize : Nat := 8192

/-- A logical block moves to a spare: the spare is erased and written, its journal entry follows, then
the map is switched and the old block becomes a spare (R490, R491). -/
def Distaff.moveTo (d : Distaff) (l spare : Nat) : Distaff :=
  let old := d.phys l
  let n := d.eraseCount spare + 1
  let seq := (d.journal.getLast?.map fun j => j.seq + 1).getD 1
  { d with
    erases := Tab.put d.erases 0 spare n
    journal := (d.journal ++ [(⟨seq, l, spare, n, JournalE.checkOf seq l spare n⟩ : JournalE)]).drop (d.journal.length + 1 - journalSize)
    map := if spare = l then Tab.del d.map l else Tab.ins d.map l spare
    spares := d.spares.filter (· != spare) ++ [old] }

/-- The best of a list by a comparison, the first of equals. -/
def firstBest (better : α → α → Bool) : List α → Option α
  | [] => none
  | x :: xs =>
    match firstBest better xs with
    | none => some x
    | some y => if better y x then some y else some x

/-- The leveller's comparison after 256 block writes, over every mapped block, the wear journal's among them (R19, R492). -/
def Distaff.level (d : Distaff) : Distaff :=
  let blocks := List.range 784
  let wear (l : Nat) : Nat := d.eraseCount (d.phys l)
  let most := firstBest (fun a b => decide (wear b < wear a)) blocks
  let least := firstBest (fun a b => decide (wear a < wear b)) blocks
  let spare := firstBest (fun a b => decide (d.eraseCount b < d.eraseCount a)) d.spares
  match most, least, spare with
  | some m, some l, some s => if 2000 < wear m - wear l then { (d.moveTo l s) with recent := d.recent ++ [(l, s)] } else d
  | _, _, _ => d

/-- A logical block is written to the first spare, and the leveller compares after every 256 writes. -/
def Distaff.writeBlock (d : Distaff) (l : Nat) : Distaff :=
  match d.spares with
  | [] => d
  | s :: _ =>
    let d1 := { (d.moveTo l s) with sinceLevel := d.sinceLevel + 1 }
    if 256 ≤ d1.sinceLevel then { d1.level with sinceLevel := 0 } else d1

/-- A spare is left, so a write can succeed (R493). -/
def Distaff.canStore (d : Distaff) : Bool := !d.spares.isEmpty

/-- A region's content replaced by a write of one of its blocks; with no spare left the write fails and the content stays (R490,
R493). -/
def Distaff.store (d : Distaff) (r b : Nat) (bs : List Byte) : Distaff :=
  if d.canStore then (d.writeBlock (logicalBlock r b)).setRegion r bs else d

/-- A logical block is written within a command that goes on at once: how the write ends is reported later (R490, R493; log 14). -/
def Distaff.writeNow (d : Distaff) (l : Nat) : Distaff :=
  let d1 := d.writeBlock l
  if d.canStore then { d1 with recent := d1.recent ++ [(l, d1.phys l)] } else d1

/-- A region's content replaced within a command that goes on at once (R490, R493). -/
def Distaff.storeNow (d : Distaff) (r b : Nat) (bs : List Byte) : Distaff :=
  if d.canStore then (d.writeNow (logicalBlock r b)).setRegion r bs else d

/-- A logical block of a region gets new content. -/
def Distaff.writeRegion (d : Distaff) (w : DistaffWrite) : Distaff :=
  d.store w.region w.block (patch (d.region w.region) (4096 * w.block) w.data)

/-- The Keys region is written: one block (R402, R412). -/
def Engine.keysWritten (e : Engine) : Engine :=
  let e1 := e.touchDistaff
  { e1 with distaff := e1.distaff.writeNow keysBlock }

/-- The Keys region gets new entries; with no spare left the write fails and they stay (R402, R493). -/
def State.storeKeys (s : State) (f : Keys → Keys) : State :=
  (if s.eng.distaff.canStore then s.onSec fun c => { c with keys := f c.keys } else s).onEng fun e => e.keysWritten

/-- The map rebuilt from the journal's good entries, the highest sequence number for each logical block
(R491). -/
def Distaff.rebuild (d : Distaff) : Distaff :=
  let best (l : Nat) : Option JournalE := firstBest (fun a b => decide (b.seq < a.seq)) (d.journal.filter fun j => j.good && j.logical == l)
  let m := (List.range 784).foldl (fun (m : Tab Nat) l =>
    match best l with
    | some j => if j.physical = l then m else Tab.ins m l j.physical
    | none => m) []
  let used := (List.range 784).map fun l => Tab.getD m l l
  { d with map := m, spares := (List.range 1024).filter fun p => !used.contains p && !d.retired.contains p }

/-! ## Writes on their way (R394, R490, R493) -/

/-- The block writes that store bytes at an offset of a region, over the content given; second result:
the content afterwards. -/
def storeWrites (r : Nat) (content : List Byte) (off : Nat) (bs : List Byte) : List DistaffWrite × List Byte :=
  let after := patch content off bs
  let first := off / 4096
  let n := if bs.isEmpty then 0 else (off + bs.length - 1) / 4096 - first + 1
  ((List.range n).map fun i => ⟨r, first + i, slice after (4096 * (first + i)) 4096⟩, after)

/-- The block writes that store a copy: MAGIC zeroed, the frame, the header's other bytes, MAGIC (R394,
R514). -/
def copyWrites (r : Nat) (content copy : List Byte) : List DistaffWrite :=
  let a := storeWrites r content 0 (leBytes 4 0)
  let b := storeWrites r a.2 64 (copy.drop 64)
  let c := storeWrites r b.2 4 ((copy.take 64).drop 4)
  let d := storeWrites r c.2 0 (copy.take 4)
  a.1 ++ b.1 ++ c.1 ++ d.1

/-- A block retires, and DISTAFF_WEAR is raised while fewer than 32 spares remain (R493). -/
def Engine.retire (e : Engine) : Engine :=
  match e.distaff.spares with
  | [] => e
  | s :: rest => ({ e with distaff := { e.distaff with spares := rest, retired := e.distaff.retired ++ [s] } }).raiseIf (decide (rest.length < 32)) .distaffWear

/-- The block of a write made within another command has failed: it is retired, and while it still holds its logical block's content
the write is retried on another spare, as long as one is left (R493). -/
def Engine.retireWritten (e : Engine) (w : Nat × Nat) : Engine :=
  let d0 := { e.distaff with recent := e.distaff.recent.drop 1 }
  let d := if d0.phys w.1 = w.2 then
      (match d0.spares with
       | s :: _ => { (d0.moveTo w.1 s) with recent := (w.1, s) :: d0.recent }
       | [] => d0)
    else d0
  let rest := d.spares.filter (· != w.2)
  ({ e with distaff := { d with spares := rest, retired := d.retired ++ [w.2] } }).raiseIf (decide (rest.length < 32)) .distaffWear

/-- DISTAFF_BLOCK_WRITE_DONE: the oldest block write on its way completes; a block that fails is retired
and the write is retried, and with no spare left the write fails.  With none on its way the report is that of the oldest block that
another command has written: the Keys region, a copy's CHECK, the recovery load or the leveller (R490 to R493; log 14). -/
def execDistaffBlockWriteDone (failed : Bool) (s : State) : Host.Outcome State Fault Refusal :=
  done (s.onEng fun e =>
    match e.distaff.writes with
    | [] =>
      (match e.distaff.recent with
       | [] => e
       | w :: rest =>
         if e.distaff.pwr ≠ .on then e
         else if failed then e.retireWritten w
         else { e with distaff := { e.distaff with recent := rest } })
    | w :: rest =>
      if e.distaff.pwr ≠ .on then e
      else if failed then
        let e1 := e.retire
        if e1.distaff.spares.isEmpty then { e1 with distaff := { e1.distaff with writes := [], writeFailed := true } } else e1
      else if e.distaff.spares.isEmpty then { e with distaff := { e.distaff with writes := [], writeFailed := true } }
      else { e with distaff := { (e.distaff.writeRegion w) with writes := rest, lastAccess := e.now } })

end Sys2Proof.Machine
end

