-- ==== Sys2Proof/Machine/ImageFmt.lean ====
section
/-! DEFINITION. Image copies: header, frame, sections, the configuration that an image makes, and the
checks on it (R295, R324, R331, R380 to R393). -/

namespace Sys2Proof.Machine

/-! ## Copies and frames (R381, R382) -/

/-- The magic of an image copy (R381). -/
def magicImage : Nat := 0x474D495A

/-- A copy header (R381). -/
structure CopyHdr where
  kind : Nat
  boundary : Nat
  seq : Nat
  baseSeq : Nat
  rawLen : Nat
  frameLen : Nat
  drainUs : Nat
deriving DecidableEq, Repr

/-- The copy header that bytes spell. -/
def CopyHdr.parse (b : List Byte) : CopyHdr :=
  ⟨fieldAt b 5 1, fieldAt b 6 1, fieldAt b 8 8, fieldAt b 0x10 8, fieldAt b 0x18 4, fieldAt b 0x1C 4, fieldAt b 0x20 2⟩

/-- Detail 1: the header's fields are valid (R381, R393). -/
def copyHeaderOk (b : List Byte) : Bool :=
  let h := CopyHdr.parse b
  fieldAt b 0 4 == magicImage && fieldAt b 4 1 == 1 && decide (h.kind ≤ 1) && (decide (h.boundary ≤ 15) || h.boundary == 0xFF) &&
  decide (100 ≤ h.drainUs ∧ h.drainUs ≤ 1500 ∧ 256 ≤ h.rawLen ∧ h.rawLen ≤ 2097152) &&
  fieldAt b 7 1 == 0 && fieldAt b 0x22 14 == 0 && (h.kind == 1 || h.baseSeq == 0)

/-- CHECK of a copy under an image key (R382). -/
def copyCheck (key : List Byte) (b : List Byte) : List Byte :=
  (cmac key (slice b 0 0x38 ++ slice b 64 (CopyHdr.parse b).frameLen)).take 8

/-- Detail 3: CHECK matches. -/
def copyCheckOk (key : List Byte) (b : List Byte) : Bool := slice b 0x38 8 == copyCheck key b

/-- A copy with its CHECK under another key. -/
def withCheck (key : List Byte) (b : List Byte) : List Byte := patch b 0x38 (copyCheck key b)

/-- The blocks of a Hank frame decoded in order (R232). -/
def frameBlocks (f : List Byte) (h : HankHdr) : List Nat → Option (List Byte)
  | [] => some []
  | b :: bs =>
    let off := fieldAt f (h.tableOffset + 8 * b) 4
    let len := fieldAt f (h.tableOffset + 8 * b + 4) 3
    if hankEntryOk off len && decide (off + len ≤ f.length) then
      match hankDecode (h.blockLen b) (slice f off len), frameBlocks f h bs with
      | .ok x, some y => some (x ++ y)
      | _, _ => none
    else none

/-- A Hank frame of 4 KiB blocks decoded as a whole, under every check of R232. -/
def frameDecode (f : List Byte) : Option (List Byte) :=
  let h := HankHdr.parse f
  if (hankOpenError f).isSome ∨ h.blockSize ≠ 0 ∨ 2097152 < h.rawLen ∨ f.length < h.tableOffset + 8 * h.blockCount then none
  else frameBlocks f h (List.range h.blockCount)

/-- Detail 4: the body of a copy (R381, R393). -/
def copyBody (b : List Byte) : Option (List Byte) :=
  let h := CopyHdr.parse b
  let f := slice b 64 h.frameLen
  if fieldAt f 8 4 = h.rawLen then frameDecode f else none

/-! ## The directory (R386 to R388) -/

/-- A section of the body. -/
structure Section where
  type : Nat
  first : Nat
  count : Nat
  offset : Nat
  length : Nat
deriving DecidableEq, Repr

/-- Entry size and number of entries of a section type (R387). -/
def sectionShape (type : Nat) : Option (Nat × Nat) :=
  match type with
  | 1 => some (16, 256)
  | 2 => some (64, 32)
  | 3 => some (8, 16)
  | 4 => some (16, 4096)
  | 5 => some (2, 4096)
  | 6 => some (32, 16)
  | 7 => some (32, 16)
  | 8 => some (1, 262144)
  | 9 => some (32, 4096)
  | 10 => some (32, 8)
  | 11 => some (8, 64)
  | _ => none

/-- The sections that the directory lists; none when an entry of TYPE 0 is not all zero. -/
def sectionsOf (body : List Byte) : Option (List Section) :=
  ((List.range 16).mapM fun i =>
    let e := slice body (16 * i) 16
    if fieldAt e 0 1 = 0 then (if e.all (· == 0) then some none else none)
    else some (some (⟨fieldAt e 0 1, fieldAt e 2 2, fieldAt e 4 4, fieldAt e 8 4, fieldAt e 0xC 4⟩ : Section))).map fun l => l.filterMap id

/-- A section obeys R386 and R387 by itself. -/
def Section.ok (s : Section) (rawLen : Nat) : Bool :=
  match sectionShape s.type with
  | some (size, n) =>
    decide (s.offset % 64 = 0 ∧ 256 ≤ s.offset ∧ s.length = s.count * size ∧ s.first + s.count ≤ n ∧ s.offset + s.length ≤ rawLen)
  | none => false

/-- Detail 5: the directory obeys R386 and R388. -/
def sectionsOk (full : Bool) (rawLen : Nat) (ss : List Section) : Bool :=
  let types := ss.map fun s => s.type
  (ss.all fun s => s.ok rawLen) && types.Nodup && disjoint (ss.map fun s => (s.offset, s.length)) &&
  (if full then
    ((List.range 11).all fun t => types.contains (t + 1)) &&
    ss.all fun s => s.first == 0 && (s.type == 8 || (match sectionShape s.type with | some (_, n) => s.count == n | none => false))
   else !types.contains 7 || types.contains 8)

/-! ## Entries (R80, R273, R294, R323, R380, R389 to R392) -/

def ClientE.parse (b : List Byte) : ClientE := ⟨fieldAt b 0 1, fieldAt b 1 1, fieldAt b 2 1, fieldAt b 4 2, fieldAt b 6 2⟩

def SpindleE.parse (b : List Byte) : SpindleE where
  client := fieldAt b 0 2
  workBanks := fieldAt b 2 1
  ringSteal := bitOf (fieldAt b 3 1) 0
  saveAddr := fieldAt b 8 8
  bscrAddr := fieldAt b 0x10 8
  bscrSize := fieldAt b 0x18 4
  mscrSize := fieldAt b 0x1C 4
  mscrAddr := fieldAt b 0x20 8

def BankE.parse (b : List Byte) : BankE := ⟨fieldAt b 0 2, fieldAt b 2 1⟩

def QueueE.parse (b : List Byte) : QueueE where
  mode := fieldAt b 0 1
  level := fieldAt b 1 1
  producer := fieldAt b 2 1
  consumer := fieldAt b 3 1
  reserve := fieldAt b 4 2
  limit := fieldAt b 6 2
  cutCells := fieldAt b 8 2
  maxPkt := fieldAt b 0xA 2
  staleUs := fieldAt b 0xC 2
  fullWait := fieldAt b 0xE 1

def TickE.parse (b : List Byte) : TickE where
  source := fieldAt b 0 1
  cls := fieldAt b 1 1
  stripes := fieldAt b 2 1
  lineQ := fieldAt b 4 2
  stripeLines := fieldAt b 6 2
  frameLines := fieldAt b 8 4
  minGapUs := fieldAt b 0xC 4
  maxGapUs := fieldAt b 0x10 4
  closeUs := fieldAt b 0x14 4
  budgetUs := fieldAt b 0x18 4
  synPeriod := fieldAt b 0x1C 4

def PlaceE.parse (b : List Byte) : PlaceE where
  homeAddr := fieldAt b 0 8
  sizeMax := fieldAt b 8 4
  reserve := fieldAt b 0xC 4
  hint := fieldAt b 0x10 1
  owner := fieldAt b 0x11 1
  life := fieldAt b 0x12 1
  stage := bitOf (fieldAt b 0x13 1) 0
  client := fieldAt b 0x14 2
  releaseKnot := fieldAt b 0x16 2
  releaseCount := fieldAt b 0x18 4

/-- A grid record; an all-zero one is an empty slot (R80, R388). -/
def gridParse (b : List Byte) : List (BitVec 16) :=
  if b.all (· == 0) then [] else (List.range 16).map fun i => BitVec.ofNat 16 (fieldAt b (2 * i) 2)

def ClassE.parse (b : List Byte) : ClassE where
  codeType := fieldAt b 0 1
  gridSlot := fieldAt b 1 1
  histBase := toSigned 8 (fieldAt b 2 1)
  calibrate := bitOf (fieldAt b 3 1) 0
  clipTarget := fieldAt b 4 2

/-- A job list entry: queue and descriptor; none when it leaves the plan data or breaks R352 or R392. -/
def jobEntry (data b : List Byte) : Option (Nat × List Byte) :=
  let off := fieldAt b 4 4
  let len := fieldAt data (off + 4) 2
  if off % 8 = 0 ∧ off + 6 ≤ data.length ∧ len % 8 = 0 ∧ 64 ≤ len ∧ len ≤ 512 ∧ off + len ≤ data.length then
    some (fieldAt b 0 2, slice data off len)
  else none

/-- A plan with its lists taken out of the plan data; none when one leaves it (R392, R393 detail 9). -/
def PlanE.parse (data b : List Byte) (sec : Nat) : Option PlanE :=
  let ro := fieldAt b 0 4
  let rn := fieldAt b 4 2
  let jn := fieldAt b 6 2
  let jo := fieldAt b 8 4
  let fo := fieldAt b 0xC 4
  let fn := fieldAt b 0x10 2
  let inside (o n : Nat) : Bool := n == 0 || decide (o + n ≤ data.length)
  if inside ro (12 * rn) && inside jo (8 * jn) && inside fo (32 * fn) && (fn == 0 || fo % 8 == 0) then
    ((List.range jn).mapM fun i => jobEntry data (slice data (jo + 8 * i) 8)).map fun js =>
      { resets := (List.range rn).map fun i => ⟨fieldAt data (ro + 12 * i) 2, w32 (fieldAt data (ro + 12 * i + 4) 4), w32 (fieldAt data (ro + 12 * i + 8) 4)⟩
        jobs := js
        folds := (List.range fn).map fun i => FoldRec.parse (slice data (fo + 32 * i) 32)
        sectionId := sec, sectionLen := data.length }
  else none

/-! ## The configuration that an image makes (R388) -/

/-- A section's entries put into a table. -/
def putAll [DecidableEq α] (t : Tab α) (d : α) (body : List Byte) (s : Section) (size : Nat) (f : List Byte → α) : Tab α :=
  (List.range s.count).foldl (fun t i => Tab.put t d (s.first + i) (f (slice body (s.offset + size * i) size))) t

/-- The plan data section of an image, as bytes. -/
def planData (body : List Byte) (ss : List Section) : List Byte :=
  match ss.find? fun s => s.type == 8 with
  | some s => slice body s.offset s.length
  | none => []

/-- Plans given by a section; none when one breaks its layout. -/
def putPlans (t : Tab PlanE) (body data : List Byte) (sec : Nat) (s : Section) : Option (Tab PlanE) :=
  (List.range s.count).foldl (fun t i =>
    match t, PlanE.parse data (slice body (s.offset + 32 * i) 32) sec with
    | some t, some p => some (Tab.ins t (s.first + i) p)
    | _, _ => none) (some t)

/-- One section laid over a configuration; second result: its plans are sound. -/
def Cfg.lay (c : Cfg) (body data : List Byte) (sec : Nat) (s : Section) : Cfg × Bool :=
  match s.type with
  | 1 => ({ c with clients := putAll c.clients {} body s 16 ClientE.parse }, true)
  | 2 => ({ c with spindles := putAll c.spindles {} body s 64 SpindleE.parse }, true)
  | 3 => ({ c with banks := putAll c.banks {} body s 8 BankE.parse }, true)
  | 4 => ({ c with queues := putAll c.queues {} body s 16 QueueE.parse }, true)
  | 5 => ({ c with queueClients := putAll c.queueClients 0xFFFF body s 2 (fun b => fieldAt b 0 2) }, true)
  | 6 => ({ c with ticks := putAll c.ticks {} body s 32 TickE.parse }, true)
  | 7 => match putPlans c.plans body data sec s with
    | some p => ({ c with plans := p }, true)
    | none => (c, false)
  | 9 => ({ c with placement := putAll c.placement {} body s 32 PlaceE.parse }, true)
  | 10 => ({ c with grids := putAll c.grids [] body s 32 gridParse }, true)
  | 11 => ({ c with classes := putAll c.classes {} body s 8 ClassE.parse }, true)
  | _ => (c, true)

/-- The configuration after an image, laid over a base; second result: its plans are sound. -/
def Cfg.after (base : Cfg) (body : List Byte) (ss : List Section) (sec : Nat) : Cfg × Bool :=
  let data := planData body ss
  ss.foldl (fun r s => let x := r.1.lay body data sec s; (x.1, r.2 && x.2)) (base, true)

/-! ## Checks on the configuration (R393 details 6 to 12) -/

/-- A valid client (R380). -/
def Cfg.validClient (c : Cfg) (n : Nat) : Bool := decide (n < 256) && (Tab.getD c.clients n {}).kind != 0

/-- The span of a Bobbin region given by a direct address: empty where the address is 0. -/
def regionSpan (addr size : Nat) : List (Nat × Nat) :=
  match Addr.parse addr with
  | .bobbin a => if addr = 0 ∨ size = 0 then [] else [(a, size)]
  | _ => []

/-- A save or scratch region is absent, or a Bobbin direct span in FIXED banks of the client (R389,
R390). -/
def Cfg.regionOk (c : Cfg) (client addr size : Nat) : Bool :=
  if addr = 0 then true
  else
    match Addr.parse addr with
    | .bobbin a =>
      decide (a + size ≤ 8388608) &&
      (List.range 16).all fun b => decide (¬ (b * 524288 < a + size ∧ a < (b + 1) * 524288)) || ((c.bank b).mode == 1 && (c.bank b).client == client)
    | _ => false

/-- A spindle entry obeys R389 and R390. -/
def Cfg.spindleOk (c : Cfg) (s : SpindleE) : Bool :=
  if s.client = 0xFFFF then s == {}
  else
    c.validClient s.client && decide (s.workBanks ≤ 11 ∧ s.bscrSize % 4096 = 0 ∧ s.mscrSize % 256 = 0 ∧ s.mscrAddr % 64 = 0 ∧ s.mscrAddr < 2 ^ 48) &&
    c.regionOk s.client s.saveAddr 114688 && c.regionOk s.client s.bscrAddr s.bscrSize

/-- A bank entry obeys R390. -/
def Cfg.bankOk (c : Cfg) (b : BankE) : Bool :=
  match b.mode with
  | 0 => b.client == 0xFFFF
  | 1 => c.validClient b.client
  | 2 => c.validClient b.client
  | _ => false

/-- Detail 6: clients, spindles and banks. -/
def Cfg.ok6 (c : Cfg) : Bool :=
  let tiles := (c.clients.filter fun x => x.2.kind == 1).map fun x => x.2.unit
  (c.clients.all fun x => decide (x.2.kind ≤ 4) && (x.2.kind != 1 || decide (x.2.unit ≤ 31))) && tiles.Nodup &&
  ((List.range 8).all fun p =>
    decide (((c.clients.filter fun x => x.2.kind != 0 && bitOf x.2.ports p).map fun x => x.2.share).sum ≤ 1024)) &&
  ((List.range 32).all fun n => c.spindleOk (Tab.getD c.spindles n {})) && ((List.range 16).all fun b => c.bankOk (c.bank b)) &&
  disjoint (c.spindles.flatMap fun s => regionSpan s.2.saveAddr 114688 ++ regionSpan s.2.bscrAddr s.2.bscrSize)

/-- A queue endpoint is valid (R294). -/
def endpointOk (x : Nat) : Bool := decide (x ≤ 0x22)

/-- The fields of a queue entry lie in their ranges, and its limits hold; an OFF entry keeps the limits (R294, R295). -/
def QueueE.ok (q : QueueE) : Bool :=
  decide (q.reserve ≤ q.limit ∧ q.maxPkt ≤ q.limit) &&
  (q.mode == 0 ||
   (decide (q.mode ≤ 3 ∧ q.level ≤ 7 ∧ q.reserve ≤ 32768 ∧ 1 ≤ q.limit ∧ q.limit ≤ 32768 ∧ q.maxPkt ≤ 32768) &&
    endpointOk q.producer && endpointOk q.consumer && (q.mode != 1 || decide (q.consumer < 32)) && (q.mode != 3 || q.cutCells == 0)))

/-- An endpoint of a queue agrees with the queue's client (R393 detail 7). -/
def Cfg.endClientOk (c : Cfg) (q x : Nat) : Bool :=
  if x < 32 then c.clientOf x == c.queueClient q && c.queueClient q != 0xFFFF
  else if x = 0x20 then c.validClient (c.queueClient q) && (Tab.getD c.clients (c.queueClient q) {}).ports != 0
  else true

/-- Detail 7: queues. -/
def Cfg.ok7 (c : Cfg) : Bool :=
  decide ((c.queues.map fun q => q.2.reserve).sum ≤ 32768) &&
  c.queues.all fun q => q.2.ok && (q.2.mode == 0 || (c.endClientOk q.1 q.2.producer && c.endClientOk q.1 q.2.consumer))

/-- The line queues that an entry names: LINE_Q to LINE_Q + STRIPES − 1, also without FRAME_LINES (R324). -/
def TickE.lineQs (t : TickE) : List Nat := (List.range t.stripes).map (· + t.lineQ)

/-- A tick entry obeys R324 by itself. -/
def Cfg.tickOk (c : Cfg) (t : TickE) : Bool :=
  t.source == 0 ||
  (decide (t.source ≤ 2 ∧ t.cls ≤ 3 ∧ 1 ≤ t.minGapUs ∧ 1 ≤ t.closeUs ∧ 1 ≤ t.budgetUs ∧ t.closeUs ≤ t.minGapUs) &&
   (t.maxGapUs == 0 || decide (t.minGapUs < t.maxGapUs)) && (t.source != 2 || decide (4000 ≤ t.synPeriod)) &&
   (t.frameLines == 0 || decide (1 ≤ t.stripes ∧ t.stripes ≤ 32 ∧ t.stripeLines * (t.stripes - 1) < t.frameLines)) &&
   t.lineQs.all fun q => (c.queue q).mode == 2 && (c.queue q).producer == 0x20)

/-- Classes whose plans release jobs into a queue (R331). -/
def Cfg.releaseClasses (c : Cfg) (q : Nat) : List Nat :=
  ((c.plans.filter fun p => (c.tick p.1).source != 0 && p.2.jobs.any fun j => j.1 == q).map fun p => (c.tick p.1).cls).eraseDups

/-- A JOB queue's LEVEL fits its releases (R331). -/
def Cfg.levelOk (c : Cfg) (q : Nat) : Bool :=
  let l := (c.queue q).level
  match c.releaseClasses q with
  | [] => l == 7
  | [k] => if k = 3 then l == 6 else l == 2 * k || l == 2 * k + 1
  | _ => false

/-- Detail 8: ticks, and the boundary of the image. -/
def Cfg.ok8 (c : Cfg) (boundary : Nat) : Bool :=
  (c.ticks.all fun t => c.tickOk t.2) && (c.ticks.flatMap fun t => if t.2.source = 0 then [] else t.2.lineQs).Nodup &&
  (c.queues.all fun q => q.2.mode != 1 || c.levelOk q.1) && (boundary == 0xFF || (c.tick boundary).source != 0)

/-- Each tag that a fold names is named by at most 8 fold records of its own plan (R125). -/
def PlanE.foldsOk (p : PlanE) : Bool :=
  let tags := p.jobs.map fun j => fieldAt j.2 0 4
  p.folds.all fun f =>
    tags.contains f.producer.toNat && decide (f.weightStream < 2 ^ 48 ∧ f.dest < 2 ^ 48 ∧ f.dest % 4 = 0 ∧ (p.folds.filter fun g => g.producer == f.producer).length ≤ 8)

/-- Detail 9: plans. -/
def Cfg.ok9 (c : Cfg) : Bool :=
  let secs := (c.plans.map fun p => (p.2.sectionId, p.2.sectionLen)).eraseDups
  (c.plans.all fun p =>
    p.2.foldsOk && p.2.jobs.all fun j => (c.queue j.1).mode == 1 && decide (ceilDiv j.2.length 64 ≤ (c.queue j.1).maxCells)) &&
  (c.plans.flatMap fun p => p.2.jobs.map fun j => fieldAt j.2 0 4).Nodup && decide ((secs.map (·.2)).sum ≤ 262144)

/-- Detail 10: placement (R273, R274). -/
def Cfg.ok10 (c : Cfg) : Bool :=
  c.placement.all fun x =>
    let p := x.2
    decide (p.homeAddr < 2 ^ 48 ∧ p.homeAddr % 64 = 0 ∧ 64 ≤ p.sizeMax ∧ p.sizeMax % 64 = 0 ∧ p.hint ≤ 3 ∧ p.life ≤ 2) &&
    (decide (p.owner < 32) || p.owner == 0xFF) && !(p.hint == 1 && p.owner == 0xFF) && c.validClient p.client &&
    (p.owner == 0xFF || c.clientOf p.owner == p.client)

/-- Detail 11: grid records (R81). -/
def gridOk (g : List (BitVec 16)) : Bool :=
  g.getD 0 1 == 0 && (g.drop 1).all (fun v => decide (0 < v.toNat % 32768 ∧ v.toNat % 32768 ≤ 0x3C00)) && g.Nodup

/-- Detail 11. -/
def Cfg.ok11 (c : Cfg) : Bool := c.grids.all fun g => gridOk g.2

/-- Detail 12: class entries (R45). -/
def Cfg.ok12 (c : Cfg) : Bool :=
  c.classes.all fun x =>
    let k := x.2
    (ctAllowed 1 k.codeType || ctAllowed 2 k.codeType || ctAllowed 3 k.codeType) && (k.codeType != 5 || gridLoaded c.grids k.gridSlot)

/-- The first of details 6 to 12 that a configuration fails. -/
def Cfg.fail (c : Cfg) (plans : Bool) (boundary : Nat) : Option Nat :=
  if !c.ok6 then some 6 else if !c.ok7 then some 7 else if !c.ok8 boundary then some 8 else if !plans || !c.ok9 then some 9
  else if !c.ok10 then some 10 else if !c.ok11 then some 11 else if !c.ok12 then some 12 else none

/-! ## A whole copy -/

/-- What a copy would make of a base configuration: the first failing detail among 3 to 12, or the
configuration. -/
def copyConfig (key : List Byte) (base : Cfg) (sec : Nat) (b : List Byte) : Except Nat Cfg :=
  let h := CopyHdr.parse b
  if !copyCheckOk key b then .error 3
  else
    match copyBody b with
    | none => .error 4
    | some body =>
      match sectionsOf body with
      | none => .error 5
      | some ss =>
        if !sectionsOk (h.kind == 0) h.rawLen ss then .error 5
        else
          let r := (if h.kind = 0 then ({} : Cfg) else base).after body ss sec
          match r.1.fail r.2 h.boundary with
          | some d => .error d
          | none => .ok r.1

/-- A stored copy is valid: every check but 2, 13 and 14 (R384); its configuration. -/
def storedConfig (key : List Byte) (sec : Nat) (b : List Byte) : Option Cfg :=
  if copyHeaderOk b && (CopyHdr.parse b).kind == 0 then (copyConfig key {} sec b).toOption else none

end Sys2Proof.Machine
end

