-- ==== Sys2Proof/Machine/Security.lean ====
section
/-! DEFINITION. The security unit: critical command frames and their checks, key roll, test unlock,
counter reseed, scrub policy, and attestation reports (R402 to R420, R484). -/

namespace Sys2Proof.Machine

/-! ## Frames (R409, R410) -/

/-- The mailbox words as bytes (R410). -/
def Security.mailbox (s : Security) : List Byte := s.mbx.toList.flatMap fun w => leBytes 4 w.toNat

/-- The command frame: the copy that an accepted GO made, or the mailbox as the GO now finds it (R470). -/
def Security.frame (s : Security) : List Byte := if s.busy then s.cmd else s.mailbox

/-- LENGTH of an opcode's frame; none for an opcode that R409 does not list. -/
def opcodeLen (op : Nat) : Option Nat :=
  match op with
  | 1 => some 32
  | 2 => some 40
  | 3 => some 72
  | 4 => some 32
  | 5 => some 32
  | 6 => some 40
  | _ => none

/-- OPCODE of a frame. -/
def cmdOpcode (f : List Byte) : Nat := fieldAt f 0 2

/-- COUNTER of a frame. -/
def cmdCounter (f : List Byte) : Nat := fieldAt f 8 8

/-- Reserved bytes of a listed opcode's payload are zero; those of SCRUB_POLICY belong to its payload
check (R409, R414, R484). -/
def payloadReservedOk (f : List Byte) : Bool :=
  match cmdOpcode f with
  | 2 => fieldAt f 0x1D 1 == 0
  | 3 => fieldAt f 0x11 7 == 0
  | 4 => fieldAt f 0x11 7 == 0
  | _ => true

/-- Check 3: OPCODE is listed, LENGTH matches it and reserved bytes are zero. -/
def frameOk (f : List Byte) : Bool :=
  match opcodeLen (cmdOpcode f) with
  | some n => fieldAt f 2 2 == n && fieldAt f 4 4 == 0 && payloadReservedOk f
  | none => false

/-- Check 4: MAC matches under the CMD key. -/
def frameMacOk (key f : List Byte) : Bool :=
  let n := fieldAt f 2 2
  slice f (n - 8) 8 == (cmac key (slice f 0 (n - 8))).take 8

/-- How checks 1 to 5 of R411 end. -/
inductive FrameCheck where
  /-- RESULT, not counted. -/
  | refused (result : Nat)
  /-- RESULT, counted. -/
  | failed (result : Nat)
  | passed
deriving DecidableEq, Repr

/-- Checks 1 to 5 of R411 in their order; `fw` says that firmware runs. -/
def Security.check (s : Security) (fw : Bool) : FrameCheck :=
  let f := s.frame
  if s.locked then .refused 4
  else if !fw then .refused 7
  else if s.cleared then .refused 8
  else if !frameOk f then .failed 1
  else if !frameMacOk s.keys.cmd f then .failed 2
  else if cmdCounter f ≤ s.keys.counter.toNat then .failed 3
  else .passed

/-! ## Results (R411 to R413) -/

/-- RESULT and DETAIL are posted, and BUSY falls. -/
def State.post (s : State) (result detail : Nat) : State :=
  s.onSec fun c => { c with busy := false, passed := false, result := BitVec.ofNat 8 result, detail := BitVec.ofNat 8 detail }

/-- A counted failure: CMD_REJECT, its counters, and the lock at the third in a run (R413). -/
def State.countFailure (s : State) (result : Nat) : State :=
  let run := s.sec.failRun + 1
  let s1 := s.onSec fun c => { c with rejCnt := satInc c.rejCnt, failRun := run, locked := decide (3 ≤ run) }
  (s1.onEng fun e => (e.raise (.cmdReject result)).raiseIf (decide (3 ≤ run)) .cmdLockout).post result 0

/-- Check 5 is passed: the frame's COUNTER is stored before any effect, and FAIL_RUN clears (R412,
R413). -/
def State.frameAccepted (s : State) : State :=
  (s.onSec fun c => { c with busy := true, passed := true, cmd := c.frame, failRun := 0 }).storeKeys fun k =>
    { k with counter := BitVec.ofNat 64 (cmdCounter s.sec.frame) }

/-- A FULL copy is being written to the Distaff: its command is still handled (R394, R411). -/
def Engine.storing (e : Engine) : Bool :=
  match e.act with
  | some a => (match a.stage with | .storing _ _ => true | _ => false)
  | none => false

/-- Firmware runs (R404, R411). -/
def Engine.fwRuns (e : Engine) : Bool := e.flyer.entry.isSome

/-! ## Register accesses that wait (R447) -/

/-- ENG_DEBUG is the active instruction, and its scope is open (R441). -/
def State.debugOpen (s : State) : Bool := s.eng.tap.active == .engDebug && bitOf s.sec.scope.toNat 0

/-- The register file answers a path: the debug path while it is open (R441, R510). -/
def State.answers (s : State) (path : RegPath) : Bool := s.eng.power.regPort && (path == .apb || s.debugOpen)

/-- No access stalls or waits, so that the next is served at once (R447). -/
def Glb.idle (g : Glb) : Bool := g.stall.isNone && g.waiting.isEmpty

/-- An access joins those that wait, in order of arrival, the register port's before the debug path's of the same control clock (R447). -/
def queueAccess (h : HeldAccess) : List HeldAccess → List HeldAccess
  | [] => [h]
  | w :: ws => if h.path = .apb ∧ w.path = .debug ∧ w.since = h.since then h :: w :: ws else w :: queueAccess h ws

/-- An access waits until those before it have been served (R447). -/
def State.keepAccess (s : State) (path : RegPath) (c : Instr) : State :=
  s.onEng fun e => { e with glb := { e.glb with waiting := queueAccess ⟨path, e.now, c⟩ e.glb.waiting } }

/-- What a keyed command posts whose Distaff write fails for want of a spare: REFUSED, detail 14 (R411, R493; log 117). -/
def State.postNoSpare (s : State) : State := s.post 6 14

/-- The submitted frame is checked; `act` carries out checks 6 and 7 and the command.  A GO while another
command is handled is ignored, and a frame that has passed checks 1 to 5 is not checked again.  A frame whose COUNTER cannot be written
for want of a spare has no effect, then or ever, because none may begin before that write.  The GO is a register write of the command `c`,
which may have to wait for another (R411, R412, R447, R493; log 117). -/
def State.keyed (s : State) (c : Instr) (op : Nat) (act : State → State) : State :=
  if !s.eng.power.regPort || s.eng.storing || cmdOpcode s.sec.frame != op then s
  else if !s.sec.busy && !s.eng.glb.idle then s.keepAccess .apb c
  else if s.sec.passed then act s
  else
    match s.sec.check s.eng.fwRuns with
    | .refused r => s.post r 0
    | .failed r => s.countFailure r
    | .passed => if s.eng.distaff.canStore then act s.frameAccepted else (s.onSec fun c => { c with failRun := 0 }).postNoSpare

/-- UNLISTED_OPCODE_SUBMIT: a frame whose OPCODE is none of the six (R411). -/
def execUnlistedOpcodeSubmit (s : State) : Host.Outcome State Fault Refusal :=
  done (if (opcodeLen (cmdOpcode s.sec.frame)).isSome then s else s.keyed .unlistedOpcodeSubmit (cmdOpcode s.sec.frame) id)

/-! ## Key roll (R415, R418) -/

/-- A stored copy of a region that fits it and passes CHECK under one of the keys is rewritten under
another (R415, R418). -/
def Engine.recheck (old : List (List Byte)) (new : List Byte) (r : Nat) (e : Engine) : Engine :=
  let b := e.distaff.region r
  if decide (64 + (CopyHdr.parse b).frameLen ≤ 1048576) && old.any fun k => copyCheckOk k b then
    let e1 := e.touchDistaff
    { e1 with distaff := e1.distaff.storeNow r 0 (withCheck new b) }
  else e

/-- Both regions' copies are rewritten under a new image key. -/
def Engine.recheckAll (e : Engine) (old : List (List Byte)) (new : List Byte) : Engine :=
  Engine.recheck old new 2 (Engine.recheck old new 1 e)

/-- A NEXT entry stands: a roll is between its first step and its last (R415, R418). -/
def Keys.rolling (k : Keys) : Bool := k.cmdNext.isSome || k.imgNext.isSome

/-- KEY_ROLL: the wrapped key enters CMD_NEXT or IMG_NEXT with its generation; the roll's other steps end with the control clock, and
a reset before them interrupts it (R415, R418; log 14). -/
def execKeyRoll (s : State) : Host.Outcome State Fault Refusal :=
  done (s.keyed .keyRoll 3 fun s =>
    let f := s.sec.frame
    let k := s.sec.keys
    let enter (g : Keys → Keys) : State := if s.eng.distaff.canStore then s.storeKeys g else s.postNoSpare
    if k.rolling then s
    else
      match fieldAt f 0x10 1, keyUnwrap k.cmd (slice f 0x18 40) with
      | 0, some new => enter fun k => { k with cmdNext := some (new, k.cmdGen + 1) }
      | 1, some new => enter fun k => { k with imgNext := some (new, k.imgGen + 1) }
      | _, _ => s.post 5 0)

/-- The roll's steps after the first: for an image roll every stored copy that passes CHECK is rewritten, then the NEXT entry is
promoted and emptied (R415, R418). -/
def State.completeRoll (s : State) : State :=
  let k := s.sec.keys
  let s1 := match k.cmdNext with
    | some (new, g) => s.storeKeys fun k => { k with cmd := new, cmdGen := g, cmdNext := none }
    | none => s
  match k.imgNext with
  | some (new, g) =>
    (s1.onEng fun e => e.recheckAll [k.img, new] new).storeKeys fun k => { k with img := new, imgGen := g, imgNext := none }
  | none => s1

/-- At the end of a control clock a roll that has begun ends, and OK is posted (R415). -/
def State.settleRoll (s : State) : State :=
  if s.sec.busy && s.sec.keys.rolling && s.eng.up then
    let t := s.completeRoll
    if t.sec.keys.rolling then t.postNoSpare else t.post 0 0
  else s

/-! ## The other commands of the security unit -/

/-- TEST_UNLOCK: the scopes named open, and opening SCAN clears the key registers; reserved bits of SCOPE are ignored (R5, R416). -/
def execTestUnlock (s : State) : Host.Outcome State Fault Refusal :=
  done (s.keyed .testUnlock 4 fun s =>
    let v := fieldAt s.sec.frame 0x10 1
    let sc : BitVec 3 := BitVec.ofNat 3 v
    (s.onSec fun c => { c with scope := c.scope ||| sc, cleared := c.cleared || (bitOf v 2 && !bitOf c.scope.toNat 2) }).post 0 0)

/-- COUNTER_RESEED: COUNTER becomes NEW_COUNTER, which must exceed the frame's own (R417). -/
def execCounterReseed (s : State) : Host.Outcome State Fault Refusal :=
  done (s.keyed .counterReseed 5 fun s =>
    let new := fieldAt s.sec.frame 0x10 8
    if new ≤ cmdCounter s.sec.frame then s.post 5 0
    else if s.eng.distaff.canStore then (s.storeKeys fun k => { k with counter := BitVec.ofNat 64 new }).post 0 0
    else s.postNoSpare)

/-- The scrub policy that a payload spells (R484). -/
def ScrubPol.parse (b : List Byte) : ScrubPol := ⟨fieldAt b 0 2, fieldAt b 2 2, fieldAt b 4 2, fieldAt b 6 2, bitOf (fieldAt b 8 1) 0⟩

/-- A scrub policy payload obeys R484; the reserved bits of SFLAGS are ignored (R5). -/
def scrubPayloadOk (b : List Byte) : Bool :=
  let p := ScrubPol.parse b
  decide (100 ≤ p.patrolMs ∧ p.patrolMs ≤ 60000 ∧ 1 ≤ p.minShare ∧ p.minShare ≤ 64 ∧ p.minShare ≤ p.maxShare ∧ p.maxShare ≤ 256 ∧ 1 ≤ p.ceLimit) &&
  fieldAt b 9 7 == 0

/-- SCRUB_POLICY: the policy is replaced as a whole (R484). -/
def execScrubPolicy (s : State) : Host.Outcome State Fault Refusal :=
  done (s.keyed .scrubPolicy 6 fun s =>
    let b := slice s.sec.frame 0x10 16
    if scrubPayloadOk b then (s.onEng fun e => { e with scrub := { e.scrub with pol := ScrubPol.parse b } }).post 0 0 else s.post 5 0)

/-! ## Attestation (R406 to R408) -/

/-- The nonce registers as bytes. -/
def Security.nonceBytes (s : Security) : List Byte := s.nonce.toList.flatMap fun w => leBytes 4 w.toNat

/-- SEC_ATT_REQUEST: VALID falls, and a report for the nonce begins to be formed; an earlier request is
abandoned (R407, R408). -/
def execSecAttRequest (s : State) : Host.Outcome State Fault Refusal :=
  done (if !s.answers .apb then s
        else if s.eng.glb.idle then s.onSec fun c => { c with attValid := false, attBusy := true, attNonce := c.nonceBytes }
        else s.keepAccess .apb .secAttRequest)

/-- A full image is bound, also while a warm reset quiesces the engine; the recovery load binds none (R385, R400, R509). -/
def Engine.imageBound (e : Engine) : Bool := e.cfg.isSome && e.glb.imgCopy != 3

/-- AFLAGS of a report (R406). -/
def attFlags (s : State) : Nat :=
  b2n s.sec.measValid + 2 * b2n s.sec.fwBad + 4 * b2n s.eng.imageBound + 8 * b2n s.sec.locked + 16 * b2n (s.sec.scope != 0)

/-- Bytes 0x00 to 0x6F of a report (R406). -/
def attBody (s : State) : List Byte :=
  leBytes 4 0x5454415A ++ leBytes 1 1 ++ leBytes 1 (attFlags s) ++ leBytes 2 0 ++ leBytes 8 s.eng.glb.imgSeq.toNat ++
  leBytes 8 s.eng.glb.partSeq.toNat ++ leBytes 8 s.sec.keys.counter.toNat ++ slice s.sec.attNonce 0 16 ++ slice s.sec.meas 0 48 ++
  leBytes 2 s.sec.keys.cmdGen.toNat ++ leBytes 2 s.sec.keys.imgGen.toNat ++ leBytes 12 0

/-- MAC of a report: all zero once the keys were cleared (R416). -/
def attMac (s : State) (body : List Byte) : List Byte :=
  if s.sec.cleared then List.replicate 16 0 else cmac s.sec.keys.att body

/-- ATTEST_REPORT_READY: the report is placed and VALID is set, once the keys are loaded (R407). -/
def execAttestReportReady (s : State) : Host.Outcome State Fault Refusal :=
  done (if s.sec.attBusy && s.sec.loaded then
    let b := attBody s
    let r := b ++ attMac s b
    s.onSec fun c => { c with report := r, attValid := true, attBusy := false }
  else s)

end Sys2Proof.Machine
end

