-- ==== Sys2Proof/Machine/Image.lean ====
section
/-! DEFINITION. Image activation, the REBIND command, and selecting and applying the stored image at start
(R383 to R396, R414, R417, R510). -/

namespace Sys2Proof.Machine

/-! ## Stored copies -/

/-- SEQ of a copy. -/
def copySeq (b : List Byte) : Nat := (CopyHdr.parse b).seq

/-- The copy of a region fits it and is valid (R383, R384): its configuration. -/
def regionConfig (key : List Byte) (sec : Nat) (b : List Byte) : Option Cfg :=
  if 64 + (CopyHdr.parse b).frameLen ≤ 1048576 then storedConfig key sec b else none

/-- The region of a FULL copy to be written: one with an invalid copy, else the one with the lower SEQ
(R394). -/
def targetRegion (key : List Byte) (d : Distaff) : Nat :=
  if (regionConfig key 0 d.imgA).isNone then 1
  else if (regionConfig key 0 d.imgB).isNone then 2
  else if copySeq d.imgB < copySeq d.imgA then 2 else 1

/-- SEQs that an activation must exceed: those of valid stored copies and of the partials applied since
start (R393 detail 2). -/
def Engine.seqsBelow (e : Engine) (key : List Byte) : List Nat :=
  ((if (regionConfig key 0 e.distaff.imgA).isSome then [copySeq e.distaff.imgA] else []) ++
   (if (regionConfig key 0 e.distaff.imgB).isSome then [copySeq e.distaff.imgB] else [])) ++ e.partials

/-- Detail 2 (R393). -/
def Engine.seqOk (e : Engine) (key b : List Byte) : Bool :=
  let h := CopyHdr.parse b
  (e.seqsBelow key).all (fun q => decide (q < h.seq)) && (h.kind == 0 || (e.cfg.isSome && h.baseSeq == e.glb.imgSeq.toNat))

/-! ## Refusals (R393, R417) -/

/-- An activation is refused: IMAGE_REJECT with its detail, and REFUSED (R393, R414, R417). -/
def State.rejectImage (s : State) (d : Nat) : State :=
  (s.onEng fun e =>
    ({ e with glb := { e.glb with imgReject := BitVec.ofNat 8 d, rejectCnt := satInc e.glb.rejectCnt } }).raise (.imageReject d)).post 6 d

/-- The Flyer can carry out an image command: the start sequence is over, and it is not halted. -/
def Engine.flyerFree (e : Engine) : Bool := e.power.phase == .running && !e.flyer.halted

/-- A frame that has passed checks 1 to 6 waits for the Flyer, which makes check 7: its effect comes when the Flyer is free (R404, R411,
R412). -/
def State.forFlyer (s : State) (act : State → State) : State := if s.eng.flyerFree then act s else s

/-- The Flyer's reads of a copy go through leaf port 0 and enter its accounts (R13, R421, R479; log 95). -/
def Engine.imageRead (e : Engine) (len : Nat) : Engine :=
  let b := 64 * max 1 (ceilDiv len 64)
  e.modPort 0 fun q => { q with issued := q.issued + b, unitLast := SharedUnit.image.index
                                unitBytes := Tab.put q.unitBytes 0 SharedUnit.image.index (Tab.getD q.unitBytes SharedUnit.image.index 0 + b) }

/-! ## IMAGE_ACTIVATE (R394) -/

/-- What an activation of a copy comes to: the detail that it fails, or the configuration (R393 details
1 to 13).  While another is pending or being applied it is refused with detail 13, whatever else it fails (R399). -/
def Engine.checkCopy (e : Engine) (key b : List Byte) : Except Nat Cfg :=
  if e.act.isSome then .error 13
  else if !copyHeaderOk b then .error 1
  else if !e.seqOk key b then .error 2
  else
    copyConfig key e.conf e.sectionNext b

/-- A checked copy goes on: a PARTIAL is pending, a FULL copy begins to be written to its region (R394). -/
def State.acceptCopy (s : State) (b : List Byte) (c : Cfg) : State :=
  let h := CopyHdr.parse b
  let e := s.eng
  let key := s.sec.keys.img
  let full := h.kind == 0
  let base : Activation := { stage := .pending, full := full, command := false, seq := BitVec.ofNat 64 h.seq, copy := 3, boundary := h.boundary
                             drainUs := h.drainUs, newCfg := c, affected := if full then affectAll else affectOf e.conf c }
  let e1 := { e with sectionNext := e.sectionNext + 1 }
  if full then
    if 1048576 < 64 + h.frameLen then s.rejectImage 14
    else
      let r := targetRegion key e.distaff
      let copy := slice b 0 (64 + h.frameLen)
      let e2 := e1.touchDistaff
      let e3 := { e2 with
        act := some { base with stage := .storing r copy, copy := r - 1 }
        distaff := { e2.distaff with writes := e2.distaff.writes ++ copyWrites r (e2.distaff.region r) copy, writeFailed := false } }
      { s with eng := e3 }
  else (s.onEng fun _ => e1.makePending base).post 0 0

/-- IMAGE_ACTIVATE: the copy is read from memory and checked, and a FULL copy begins to be written to the
Distaff (R393, R394, R417).  A failed read gives zeros (R425). -/
def execImageActivate (resp : AxiResp) (copy : List Byte) (s : State) : Host.Outcome State Fault Refusal :=
  done (s.keyed (.imageActivate resp copy) 1 fun s =>
    let a := fieldAt s.sec.frame 0x10 8
    if a % 64 ≠ 0 ∨ 2 ^ 48 ≤ a then s.post 5 0
    else s.forFlyer fun s =>
      let b := if resp = .okay then copy else []
      let s1 := s.onEng fun e0 =>
        let e := e0.imageRead b.length
        if resp = .okay then { e with mem := writeBytes e.mem a copy } else e.unitBusError .image
      match s1.eng.checkCopy s1.sec.keys.img b with
      | .error d => s1.rejectImage d
      | .ok c => s1.acceptCopy b c)

/-- Detail 14: the region reads back as the copy with a matching CHECK (R393). -/
def Engine.readBackOk (e : Engine) (key : List Byte) (r : Nat) (copy : List Byte) : Bool :=
  let b := slice (e.distaff.region r) 0 copy.length
  !e.distaff.writeFailed && b == copy && copyCheckOk key b

/-- IMAGE_STORE_DONE: the copy's last block write is done and read back, and the image is pending (R394). -/
def execImageStoreDone (s : State) : Host.Outcome State Fault Refusal :=
  done (match s.eng.act with
  | some a =>
    match a.stage with
    | .storing r copy =>
      if !s.eng.distaff.writes.isEmpty then s
      else if s.eng.readBackOk s.sec.keys.img r copy then (s.onEng fun e => e.makePending a).post 0 0
      else (s.onEng fun e => { e with act := none, distaff := { e.distaff with writeFailed := false } }).rejectImage 14
    | _ => s
  | none => s)

/-! ## REBIND (R414) -/

/-- The payload of REBIND. -/
structure RebindCmd where
  spindles : Nat
  banks : Nat
  client : Nat
  qFirst : Nat
  qCount : Nat
  boundary : Nat
  drainUs : Nat
deriving DecidableEq, Repr

/-- The payload that a frame spells. -/
def RebindCmd.parse (f : List Byte) : RebindCmd :=
  ⟨fieldAt f 0x10 4, fieldAt f 0x14 2, fieldAt f 0x16 2, fieldAt f 0x18 2, fieldAt f 0x1A 2, fieldAt f 0x1C 1, fieldAt f 0x1E 2⟩

/-- The payload's values lie in their ranges. -/
def RebindCmd.ok (r : RebindCmd) : Bool :=
  decide (r.qFirst + r.qCount ≤ 4096 ∧ 100 ≤ r.drainUs ∧ r.drainUs ≤ 1500) && (decide (r.boundary ≤ 15) || r.boundary == 0xFF)

/-- The units that the payload names. -/
def RebindCmd.named (r : RebindCmd) : Affected :=
  ⟨(List.range 32).filter (bitOf r.spindles), (List.range 16).filter (bitOf r.banks), (List.range r.qCount).map (· + r.qFirst), []⟩

/-- A configuration with the named units bound to CLIENT. -/
def RebindCmd.apply (r : RebindCmd) (c : Cfg) : Cfg :=
  let n := r.named
  { c with
    spindles := n.spindles.foldl (fun t k => Tab.put t {} k { Tab.getD t k {} with client := r.client }) c.spindles
    banks := n.banks.foldl (fun t k => Tab.put t {} k { Tab.getD t k {} with client := r.client }) c.banks
    queueClients := n.queues.foldl (fun t k => Tab.put t 0xFFFF k r.client) c.queueClients }

/-- The detail that the configuration fails, among 6, 7, 8, 10 and 13; 13 while an activation is pending or being applied (R399, R414). -/
def Engine.rebindFail (e : Engine) (c : Cfg) (boundary : Nat) : Option Nat :=
  if e.act.isSome then some 13
  else if e.cfg.isNone ∨ !c.ok6 then some 6 else if !c.ok7 then some 7 else if !c.ok8 boundary then some 8
  else if !c.ok10 then some 10 else none

/-- REBIND: the named units are bound to a client by a rebind (R414). -/
def execRebind (s : State) : Host.Outcome State Fault Refusal :=
  done (s.keyed .rebind 2 fun s =>
    let r := RebindCmd.parse s.sec.frame
    if !r.ok then s.post 5 0
    else s.forFlyer fun s =>
      let c := r.apply s.eng.conf
      match s.eng.rebindFail c r.boundary with
      | some d => s.rejectImage d
      | none =>
        (s.onEng fun e => e.makePending
          { stage := .pending, full := false, command := true, seq := 0, copy := 3, boundary := r.boundary, drainUs := r.drainUs
            newCfg := c, affected := r.named }).post 0 0)

/-! ## The start sequence's image steps (R384, R510) -/

/-- The copy that the start selects of two, each with whether it could not be read, and whether IMAGE_FALLBACK is raised: 0 A,
1 B (R384). -/
def selectCopy (key : List Byte) (a b : List Byte × Bool) : Option Nat × Bool :=
  let va := !a.2 && (regionConfig key 0 a.1).isSome
  let vb := !b.2 && (regionConfig key 0 b.1).isSome
  let newer (bad good : List Byte) : Bool := fieldAt bad 0 4 == magicImage && decide (copySeq good < copySeq bad)
  match va, vb with
  | true, true => (some (if copySeq a.1 < copySeq b.1 then 1 else 0), false)
  | true, false => (some 0, newer b.1 a.1)
  | false, true => (some 1, newer a.1 b.1)
  | false, false => (none, false)

/-- IMAGE_SELECTED: the Flyer has checked both stored copies and selects one; a copy that cannot be read is
invalid (R384, R510). -/
def execImageSelected (distaff : Ecc) (s : State) : Host.Outcome State Fault Refusal :=
  done (if s.eng.power.phase ≠ .s5Select ∨ s.eng.flyer.halted then s
  else
    let key := s.sec.keys.img
    s.onEng fun e0 =>
      let e := e0.touchDistaff
      let first := selectCopy key (e.distaff.imgA, false) (e.distaff.imgB, false)
      let bad := match distaff with | .uncorrectable _ => true | _ => false
      let sel := selectCopy key (e.distaff.imgA, bad && first.1 == some 0) (e.distaff.imgB, bad && first.1 == some 1)
      match sel.1 with
      | some c => ({ e with selected := some c, power := { e.power with phase := .s6Apply } }).raiseIf sel.2 .imageFallback
      | none => ({ e with selected := none, power := { e.power with phase := .running } }).raise .imageNone)

/-- START_IMAGE_APPLIED: the selected image is applied with nothing to drain, and the start ends (R384, R396,
R510). -/
def execStartImageApplied (s : State) : Host.Outcome State Fault Refusal :=
  done (if s.eng.power.phase ≠ .s6Apply ∨ s.eng.flyer.halted then s
  else
    let key := s.sec.keys.img
    s.onEng fun e =>
      let r := e.selected.getD 0
      let b := e.distaff.region (r + 1)
      match regionConfig key e.sectionNext b with
      | none => { e with power := { e.power with phase := .running } }
      | some c =>
        let e1 := { e with sectionNext := e.sectionNext + 1, power := { e.power with phase := .running } }
        let e2 := e1.applyCfg true affectAll c
        { e2 with activatedAt := e.now
                  glb := { e2.glb with imgCopy := BitVec.ofNat 2 r, imgSeq := BitVec.ofNat 64 (copySeq b), partSeq := 0, imgPartial := false } })

end Sys2Proof.Machine
end

