-- ==== Sys2Proof/Machine/Resets.lean ====
section
/-! DEFINITION. Supply and resets: the cold reset, the warm reset with its quiesce, and the removal of
supply (R21, R507 to R510). -/

namespace Sys2Proof.Machine

/-! ## What is kept -/

/-- The Distaff's stored contents, which nothing but a write changes; writes on their way are cut off
(R21, R490, R509). -/
def Distaff.kept (d : Distaff) : Distaff := { d with pwr := .off, lastAccess := 0, writes := [], recent := [], writeFailed := false }

/-- The engine as its control domain comes on, over what is not the engine's own state: the Distaff's
contents, memory, and the model's counters (R507). -/
def Engine.powerOn (e : Engine) : Engine :=
  { distaff := e.distaff.kept, mem := e.mem, freeCtr := e.freeCtr, events := e.events }

/-- The security unit as its domain comes on: the Keys region is kept (R402). -/
def Security.powerOn (c : Security) : Security := { keys := c.keys }

/-- The engine after a warm reset's quiesce: as its domains come on, but for the items of R509. -/
def Engine.warmed (e : Engine) : Engine :=
  let p := e.powerOn
  let up : Power := { p.power with
    pinLow := e.power.pinLow
    recoveryAsked := e.power.recoveryAsked
    phase := if e.power.pinLow then .held else .s1Distaff
    wakes := if e.power.pinLow then [] else [(.distaff, e.now)] }
  { p with
    now := e.now
    power := up
    glb := { p.glb with rstKind := 1, warmCnt := if e.glb.warmCnt = 0xFFFF then 0xFFFF else e.glb.warmCnt + 1, plog := e.glb.plog, plogCnt := e.glb.plogCnt }
    tel := { p.tel with peak := e.tel.peak, energy := e.tel.energy, lastEnergy := e.tel.energyUj, lastSample := e.now } }

/-! ## Commands -/

/-- COLD_RESET: the control domain comes on, and the start sequence begins (R507, R510). -/
def execColdReset (s : State) : Host.Outcome State Fault Refusal :=
  done { s with sec := s.sec.powerOn, eng := s.eng.powerOn }

/-- SUPPLY_REMOVED: every domain loses its state but for the Distaff's stored contents (R21). -/
def execSupplyRemoved (s : State) : Host.Outcome State Fault Refusal :=
  done { s with
    sec := s.sec.powerOn
    eng := let e := s.eng.powerOn; { e with power := { e.power with phase := .unsupplied, wakes := [] } } }

/-- Each subordinate half answers the writes that it has accepted and that wait with SLVERR, and takes no further address: those that
wait for AWREADY get no answer (R421, R508 step 2). -/
def Engine.quiescePorts (e : Engine) : Engine :=
  let ps := (List.finRange 8).filter fun p => e.portWaits p || !e.ports[p].writes.isEmpty
  let e1 := ps.foldl (fun e p =>
    (e.modPort p fun x => { x with bid := ((x.accepted.map fun w => w.id).getLast?).getD x.bid, writes := [] }).portResp p (some .slverr)) e
  { e1 with creel := { e1.creel with queues := e1.creel.queues.map fun q => (q.1, { q.2 with waits := q.2.waits.filter fun w => w.port.isNone }) } }

/-- A warm reset begins: the dispatchers stop, and the ports answer what they have accepted (R508 steps 1 and 2). -/
def Engine.beginWarm (e : Engine) : Engine :=
  let e1 := e.quiescePorts
  { e1 with power := { e1.power with phase := .quiesce, quiesceFrom := e.now, recoveryAsked := false } }

/-- WARM_RESET: ENG_WRST_N is low for 16 control clocks, or Flyer SRAM had an uncorrectable error; a reset
that has begun goes on (R483, R507, R508). -/
def execWarmReset (cause : WarmCause) (s : State) : Host.Outcome State Fault Refusal :=
  done (s.onEng fun e =>
    if e.power.phase = .unsupplied then e
    else
      let e1 := match cause with
        | .pin => { e with power := { e.power with pinLow := true } }
        | .flyerSram =>
          let r := e.draw
          let e2 := r.2.eccEntry 7 0 (Config.flyerRow r.1) false
          { e2 with flyer := { e2.flyer with halted := true } }
      if e.power.phase = .quiesce ∨ e.power.phase = .held then e1 else e1.beginWarm)

/-- The manager halves owe no response, or 100 µs have passed (R508 step 3). -/
def Engine.quiesced (e : Engine) : Bool :=
  ((e.spindles.toList.all fun s => s.txns.all fun t => t.slot.isNone) && (e.unitTxns.all fun t => decide (64 ≤ t.slot))) ||
  e.passedUs e.power.quiesceFrom 100

/-- FLNK_RST is driven high on every feed link, of spindles that are off too (R508 step 4). -/
def Engine.raiseLinks (e : Engine) : Engine := { e with spindles := e.spindles.map fun s => { s with link := { s.link with rst := true } } }

/-- WARM_QUIESCE_END: FLNK_RST rises on every feed link, and the engine takes its power-on state, but for the kept items; FLNK_RST_END
ends the 16 link clocks of each link (R508, R509; log 120). -/
def execWarmQuiesceEnd (s : State) : Host.Outcome State Fault Refusal :=
  done (if s.eng.power.phase = .quiesce && s.eng.quiesced then { s with sec := s.sec.powerOn, eng := s.eng.warmed.raiseLinks } else s)

/-- WARM_RESET_RELEASE: ENG_WRST_N rises, and the start sequence begins; held low for 1 ms it asks for the
recovery load (R510, R513). -/
def execWarmResetRelease (heldForRecovery : Bool) (s : State) : Host.Outcome State Fault Refusal :=
  done (s.onEng fun e =>
    if !e.power.pinLow then e
    else
      let p : Power := { e.power with pinLow := false, recoveryAsked := heldForRecovery }
      if e.power.phase = .held then { e with power := { p with phase := .s1Distaff, wakes := [(.distaff, e.now)] } } else { e with power := p })

end Sys2Proof.Machine
end

