-- ==== Sys2Proof/Machine/Boot.lean ====
section
/-! DEFINITION. The start sequence up to the firmware, the recovery load, and what the Flyer reads from
queues (R313, R402 to R405, R491, R510, R513, R514). -/

namespace Sys2Proof.Machine

/-- START_DISTAFF_WOKEN: step 1 ends, and the register port answers (R510). -/
def execStartDistaffWoken (s : State) : Host.Outcome State Fault Refusal :=
  done (s.onEng fun e =>
    if e.power.phase ≠ .s1Distaff then e
    else
      let p := e.power
      { e with
        distaff := { e.distaff with pwr := .on, lastAccess := e.now }
        power := { p with
          phase := .s2Map
          regPort := true
          wakes := p.wakes.filter fun w => w.1 != .distaff
          waking := p.waking.filter fun w => w.1 != .distaff } })

/-- START_MAP_REBUILT: step 2 ends: the block map stands (R491, R510). -/
def execStartMapRebuilt (s : State) : Host.Outcome State Fault Refusal :=
  done (s.onEng fun e =>
    if e.power.phase ≠ .s2Map then e
    else { e with distaff := { e.distaff.rebuild with lastAccess := e.now }, power := { e.power with phase := .s3Keys } })

/-- START_KEYS_LOADED: step 3 ends: the keys are loaded, an interrupted roll completed (R402, R418, R510). -/
def execStartKeysLoaded (s : State) : Host.Outcome State Fault Refusal :=
  done (if s.eng.power.phase ≠ .s3Keys then s
  else
    let s1 := s.completeRoll
    { s1 with
      sec := { s1.sec with loaded := true, cleared := false }
      eng := { s1.eng with power := { s1.eng.power with phase := .s4Firmware } } })

/-! ## Firmware (R403 to R405) -/

/-- The magic of a firmware header (R403). -/
def magicFw : Nat := 0x5257465A

/-- FRAME_LEN of a firmware header. -/
def fwFrameLen (b : List Byte) : Nat := fieldAt b 0xC 4

/-- A firmware header obeys R403; `b` holds the header and the frame.  Its reserved fields are ignored (R5). -/
def fwHeaderOk (b : List Byte) : Bool :=
  let raw := fieldAt b 8 4
  let entry := fieldAt b 0x10 4
  fieldAt b 0 4 == magicFw && fieldAt b 4 1 == 1 &&
  decide (4096 ≤ raw ∧ raw ≤ 917504 ∧ raw % 64 = 0 ∧ 64 + fwFrameLen b ≤ 786432 ∧ entry % 4 = 0 ∧ entry < raw) &&
  fieldAt b (64 + 8) 4 == raw

/-- What a firmware header and frame come to: the FW_BAD detail, or the body (R404, R405). -/
def fwLoad (b : List Byte) : Except Nat (List Byte) :=
  if !fwHeaderOk b then .error 1
  else
    match frameDecode (slice b 64 (fwFrameLen b)) with
    | some body => .ok body
    | none => .error 2

/-- Q0 of the recovery load (R513). -/
def recoveryCfg : Cfg :=
  { queues := [(0, { mode := 3, producer := 0x22, consumer := 0x21, limit := 32768, fullWait := 255 })] }

/-- The recovery load opens (R513). -/
def State.openRecovery (s : State) (fwBad : Bool) (detail : Nat) : State :=
  { s with
    sec := { s.sec with fwBad := fwBad, bootDetail := BitVec.ofNat 8 detail }
    eng := { s.eng with cfg := some recoveryCfg, power := { s.eng.power with phase := .recovery } } }

/-- FIRMWARE_MEASURED: step 4 ends: the firmware is decoded and measured and runs, or FW_BAD stops the boot,
or the asked recovery load opens (R404, R405, R513). -/
def execFirmwareMeasured (distaff : Ecc) (s : State) : Host.Outcome State Fault Refusal :=
  done (if s.eng.power.phase ≠ .s4Firmware then s
  else if s.eng.power.recoveryAsked then s.openRecovery false 0x80
  else if (match distaff with | .uncorrectable _ => true | _ => false) then s.openRecovery true 3
  else
    let b := s.eng.distaff.fw
    match fwLoad b with
    | .error d => s.openRecovery true d
    | .ok body =>
      { s with
        sec := { s.sec with meas := sha384 (slice b 0 64 ++ body), measValid := true }
        eng := { s.eng.touchDistaff with
          flyer := { s.eng.flyer with sram := trimZeros body, entry := some (fieldAt b 0x10 4), halted := false }
          power := { s.eng.touchDistaff.power with phase := .s5Select } } })

/-! ## The recovery load (R514) -/

/-- Bytes of the load, 64 + FRAME_LEN, once its header has arrived. -/
def Flyer.loadSize (f : Flyer) : Option Nat := if f.received.length < 64 then none else some (64 + fwFrameLen f.received)

/-- All bytes of the load have arrived. -/
def Flyer.loadFull (f : Flyer) : Bool :=
  match f.loadSize with
  | some n => !f.discard && decide (n ≤ f.received.length)
  | none => false

/-- The boot ROM meets an END: discarding stops; a load that is too short is given up; a full one is
over (R514). -/
def Flyer.loadEnd (f : Flyer) : Flyer :=
  if f.loadFull then { f with ended := true } else { f with discard := false, received := [], ended := false }

/-- Logical blocks of the firmware region that bytes [a, b) complete. -/
def blocksDone (a b : Nat) : List Nat := (List.range (b / 4096 - a / 4096)).map (· + a / 4096)

/-- Bytes come to the boot ROM: MAGIC is zeroed with the first, and those after the header are written to
the region; those beyond the load are discarded, and with no spare left the region stays as it is (R493, R514). -/
def Engine.loadBytes (e : Engine) (bs : List Byte) : Engine :=
  let f := e.flyer
  if f.discard ∨ f.loadFull ∨ bs.isEmpty then e
  else
    let got := f.received ++ bs
    let size := if got.length < 64 then got.length else 64 + fwFrameLen got
    let e1 := e.touchDistaff
    let d0 := if f.received.isEmpty then e1.distaff.storeNow 0 0 (patch e1.distaff.fw 0 (leBytes 4 0)) else e1.distaff
    if 786432 < size then { e1 with distaff := d0, flyer := { f with received := got.take 64, discard := true } }
    else
      let now := got.take size
      let from_ := max 64 f.received.length
      let d1 := (blocksDone from_ now.length).foldl (fun d b => d.writeNow (logicalBlock 0 b)) d0
      { e1 with
        distaff := if from_ < now.length ∧ d1.canStore then d1.setRegion 0 (patch d1.fw from_ (now.drop from_)) else d1
        flyer := { f with received := now } }

/-- ENDs that no cell carries and that stand at this point of the queue. -/
def Engine.loadMarks (e : Engine) : Engine :=
  let here := e.flyer.ends.filter (· == 0)
  here.foldl (fun e _ => { e with flyer := e.flyer.loadEnd }) { e with flyer := { e.flyer with ends := e.flyer.ends.filter (· != 0) } }

/-- A cell of Q0 comes to the boot ROM. -/
def Engine.loadCell (e : Engine) (x : Cell) : Engine :=
  let e1 := e.loadBytes x.data
  let e2 := if x.last then { e1 with flyer := e1.flyer.loadEnd } else e1
  ({ e2 with flyer := { e2.flyer with ends := e2.flyer.ends.map (· - 1) } }).loadMarks

/-- A register END on Q0 while the recovery load is open: where it flushes no tail it is kept in its place
among the cells (R514, R318). -/
def Engine.recoveryEnd (e : Engine) (hadTail : Bool) : Engine :=
  if e.power.phase ≠ .recovery ∨ hadTail then e
  else ({ e with flyer := { e.flyer with ends := e.flyer.ends ++ [(e.creel.q 0).cells.length] } }).loadMarks

/-- RECOVERY_LOAD_DONE: the load is checked and decoded; a good one is completed in the region and taken by
a warm reset, a bad one is FW_BAD and the load stays open (R514). -/
def execRecoveryLoadDone (s : State) : Host.Outcome State Fault Refusal :=
  done (if s.eng.power.phase ≠ .recovery ∨ !s.eng.flyer.loadFull then s
  else
    let f := s.eng.flyer
    match fwLoad f.received with
    | .ok body =>
      s.onEng fun e =>
        let e1 := e.touchDistaff
        let d := (e1.distaff.writeNow (logicalBlock 0 (f.received.length / 4096))).writeNow (logicalBlock 0 0)
        ({ e1 with
          distaff := d.storeNow 0 0 (patch d.fw 0 (f.received.take 64))
          flyer := { f with sram := trimZeros body } }).beginWarm
    | .error d =>
      let next : Flyer := { f with received := [], discard := !f.ended, ended := false }
      { s with
        sec := { s.sec with fwBad := true, bootDetail := BitVec.ofNat 8 d }
        eng := { s.eng with flyer := next } })

/-! ## Cells that the Flyer reads (R313, R514) -/

/-- Queues of the Flyer that hold a visible packet or cell: by level, by order of visibility and by number; a stream's cells come
behind the packets of their level (R313). -/
def Engine.flyerHeads (e : Engine) : List Head :=
  e.creel.queues.foldl (fun acc q =>
    let qe := e.conf.queue q.1
    if qe.consumer = 0x21 ∧ qe.mode ≠ 0 ∧ q.2.visible then
      match q.2.pkts with
      | p :: _ => insertHead ⟨q.1, qe.level, p⟩ acc
      | [] => insertHead ⟨q.1, qe.level, { visAt := e.creel.visNext }⟩ acc
    else acc) []

/-- A queue of which the Flyer has read part of a packet (R313). -/
def Engine.flyerOpen (e : Engine) : Option Nat :=
  (e.creel.queues.find? fun q => (e.conf.queue q.1).consumer == 0x21 && (match q.2.pkts with | p :: _ => decide (0 < p.taken) | [] => false)).map fun q => q.1

/-- The queue that the Flyer reads next: that of a packet which it has begun, else that of its first head.  At a cell that is not yet
readable it waits and reads no other packet (R310, R313). -/
def Engine.flyerNext (e : Engine) : Option Nat :=
  let at_ : Option Nat := match e.flyerOpen with
    | some q => some q
    | none => e.flyerHeads.head?.map fun h => h.queue
  at_.filter fun q => (e.creel.q q).next?.isSome

/-- FLYER_CELL_READ: the Flyer takes the next readable cell of its queues, or the boot ROM that of Q0 in the
recovery load (R313, R514). -/
def execFlyerCellRead (cell : CellEcc) (s : State) : Host.Outcome State Fault Refusal :=
  done (s.onEng fun e =>
    if e.power.phase = .recovery then
      if e.flyer.loadFull && e.flyer.ended then e
      else
        let r := e.readCell 0 cell
        match r.2 with
        | some x => r.1.loadCell x
        | none => r.1
    else if e.flyerRuns then
      match e.flyerNext with
      | some q =>
        let r := e.readCell q cell
        (match r.2 with
         | some x => { r.1 with flyer := { r.1.flyer with received := x.data } }
         | none => r.1)
      | none => e
    else e)

end Sys2Proof.Machine
end

