-- ==== Sys2Proof/Machine/Ports.lean ====
section
/-! DEFINITION. The manager halves of the leaf ports: responses, timeouts, and share windows (R347, R421 to
R426, R434). -/

namespace Sys2Proof.Machine

/-! ## Finding a transaction -/

/-- Spindle of an ID at a leaf port: bits [9:8] (R422). -/
def idSpindle (p : Port) (id : BitVec 10) : Sp := spOf (4 * p.val + id.toNat / 256)

/-- Slot of an ID: bits [6:0] (R422). -/
def idSlot (id : BitVec 10) : Nat := id.toNat % 128

/-- The ID belongs to the shared units: bit [7] (R422). -/
def idShared (id : BitVec 10) : Bool := bitOf id.toNat 7

/-- The transaction of a spindle in a slot. -/
def Engine.txnAt (e : Engine) (n : Sp) (slot : Nat) : Option Txn := (e.sp n).txns.find? fun t => t.slot == some slot

/-- The shared units' transaction in a slot. -/
def Engine.unitAt (e : Engine) (slot : Nat) : Option UnitTxn := e.unitTxns.find? fun t => t.slot == slot

/-! ## Share accounts (R424) -/

/-- A client has a request that waits at a leaf port. -/
def Engine.clientWaits (e : Engine) (p : Port) (c : Nat) : Bool :=
  (List.finRange 32).any fun n => homePort n == p && e.conf.clientOf n.val == c && (e.sp n).txns.any fun t => t.slot.isNone

/-- The charge of a spindle's transaction. -/
def Engine.chargeOf (e : Engine) (n : Sp) (t : Txn) : PortCharge :=
  { issued := t.issued, client := some (e.conf.clientOf n.val), rank := e.txnRank n t }

/-- An issued transaction of a spindle enters the accounts of its port. -/
def Engine.chargeTxn (e : Engine) (n : Sp) (t : Txn) : Engine :=
  if t.slot.isSome then e.chargePort (homePort n) (e.chargeOf n t) else e

/-- Clients of a port that no longer have a request waiting lose their mark. -/
def Engine.markWaits (e : Engine) (p : Port) : Engine :=
  e.modPort p fun q => { q with share := q.share.map fun a => (a.1, { a.2 with always := a.2.always && e.clientWaits p a.1 }) }

/-! ## Ending a transaction -/

/-- Rank of the work that a transaction serves: a job of an instance (G1, G2), or a client that was below its share (G3, class 4;
R345). -/
def Engine.servedRank (e : Engine) (n : Sp) (t : Txn) : Option (Nat × Nat) :=
  match e.txnRank n t with
  | some r => some r
  | none =>
    let c := e.conf.clientOf n.val
    if e.belowShare (homePort n) c then some (4, c) else none

/-- A transaction was served ahead of one of another job: it was issued no later, or the other still waits (log 46). -/
def Txn.aheadOf (t u : Txn) : Bool := u.slot.isNone || decide (t.issued ≤ u.issued)

/-- A winner at the port enters a job's record of them. -/
def Job.lostTo (x : Job) (r : Nat × Nat) (at_ : Nat) : Job :=
  if laterWinner x.aheadPort x.aheadPortAt r at_ then { x with aheadPort := some r, aheadPortAt := at_ } else x

/-- Work served at a leaf port stands as a winner for the other jobs with requests there (R347, G4). -/
def Engine.noteServed (e : Engine) (n : Sp) (t : Txn) : Engine :=
  match e.servedRank n t with
  | none => e
  | some r =>
    { e with spindles := Vector.ofFn fun m : Sp =>
        let s := e.sp m
        if homePort m = homePort n then
          { s with jobs := s.jobs.map fun x =>
              if (m != n || x.id != t.job) && s.txns.any (fun u => u.job == x.id && t.aheadOf u) then x.lostTo r t.issued else x }
        else s }

/-- Work that was issued ahead of a transaction and is not yet answered stands as a winner for its job too (R347, G4). -/
def Engine.noteBehind (e : Engine) (n : Sp) (u : Txn) : Engine :=
  (List.finRange 32).foldl (fun e m =>
    if homePort m = homePort n then
      (e.sp m).txns.foldl (fun e t =>
        if (m = n ∧ t.job = u.job) ∨ t.slot.isNone ∨ !t.aheadOf u then e
        else match e.servedRank m t with
          | some r => e.modJob n u.job fun x => x.lostTo r t.issued
          | none => e) e
    else e) e

/-- A transaction leaves its slot: it is charged, and what was served ahead of what is noted (R14, R347, R422). -/
def Engine.leaveSlot (e : Engine) (n : Sp) (t : Txn) : Engine :=
  (((e.chargeTxn n t).noteServed n t).noteBehind n t).modSp n fun s => { s with txns := s.txns.filter fun u => u.slot != t.slot }

/-- Waiting transactions take the slots that are free (R14, R422). -/
def Engine.portGoes (e : Engine) (n : Sp) : Engine := (e.pump n).markWaits (homePort n)

/-- The job of a transaction faults with BUS_ERROR; a thief's read or record write faults the job that granted the segment (R181, R183,
R425). -/
def Engine.busFault (e : Engine) (n : Sp) (t : Txn) (detail : Nat) : Engine :=
  if t.job = thiefJob then
    if t.write then
      match (e.sp n).ringRecs.find? fun r => wRecord r.record == t.purpose with
      | some r => e.fault (spOf r.owner) r.job 0x18 detail 0
      | none => e
    else
      match (e.sp n).merge with
      | some c => if c.owner = n.val then e else e.fault (spOf c.owner) c.job 0x18 detail 0
      | none => e
  else e.fault n t.job 0x18 detail 0

/-- The work goes on after an answer: a thief reads on, a job takes in its steal records, Hank jobs ask for what follows or end, and
headers are written. -/
def Engine.afterAnswer (e : Engine) (n : Sp) (t : Txn) : Engine :=
  if t.write then (e.hankEnd n t.job).draftHead n t.job
  else if t.job = thiefJob then e.thiefAdvance n
  else if t.purpose.1 = 21 then e.reduceOn n t.job t.purpose.2
  else e.hankAdvance n t.job

/-- A violation at a manager half (R434). -/
def Engine.portBad (e : Engine) (p : Port) (code : Nat) (id : BitVec 10) : Engine := e.violation code (srcManager p.val) id.toNat

/-! ## Commands -/

/-- Detail of an error response, by direction (R425). -/
def respDetail (write : Bool) : AxiResp → Option Nat
  | .okay => none
  | .slverr => some (if write then 3 else 1)
  | .decerr => some (if write then 4 else 2)

/-- The response to a shared unit's transaction: a read's data goes to the unit, a failed read gives zeros, and a failed write counts
as acknowledged (R425, R426, R434). -/
def Engine.unitResponse (e : Engine) (p : Port) (id : BitVec 10) (t : UnitTxn) (bad : Bool) (malformed : Bool) (data : List Byte) : Engine :=
  let e1 := e.unitFree t
  let go (e : Engine) (failed : Bool) : Engine := if t.fold && !e.quiescing then e.foldOn (failed && !t.write) else e
  if t.timedOut then e1.portBad p 0x11 id
  else if malformed then go ((e1.portBad p 0x12 id).unitBusError t.unit) true
  else if bad then go (e1.unitBusError t.unit) true
  else if t.write then go e1 false
  else go { e1 with mem := writeBytes e1.mem t.addr (slice data 0 64) } false

/-- The response to a spindle's transaction: it leaves its slot, a bad one faults its job before anything more is issued, and a good one
carries the work on; a warm reset's quiesce only takes it (R425, R426, R434, R508). -/
def Engine.answered (e : Engine) (p : Port) (id : BitVec 10) (n : Sp) (t : Txn) (detail : Option Nat) (malformed : Bool) (good : Engine → Engine) :
    Engine :=
  let e1 := e.leaveSlot n t
  let e2 :=
    if t.timedOut then e1.portBad p 0x11 id
    else if malformed then let e2 := e1.portBad p 0x12 id; if e.quiescing then e2 else e2.busFault n t 8
    else if t.discarded || e.quiescing then e1
    else match detail with
      | some d => e1.busFault n t d
      | none => good e1
  e2.portGoes n

/-- The shared units' transaction of an ID that is out on port 0: their IDs are 128 to 191 (R422; log 39). -/
def Engine.unitOf (e : Engine) (p : Port) (id : BitVec 10) : Option UnitTxn :=
  if p = 0 ∧ id.toNat < 192 then e.unitAt (idSlot id) else none

/-- That transaction, when it goes in this direction. -/
def Engine.unitOut (e : Engine) (p : Port) (id : BitVec 10) (write : Bool) : Option UnitTxn := (e.unitOf p id).filter fun t => t.write == write

/-- LEAF_READ_RESPONSE: a read's data arrives, or the job faults (R425, R426, R434). -/
def execLeafReadResponse (p : Port) (id : BitVec 10) (resp : AxiResp) (poisoned rlast : Bool) (data : List Byte) (s : State) :
    Host.Outcome State Fault Refusal :=
  done (s.onEng fun e =>
    let n := idSpindle p id
    if !e.portsUp then e
    else if idShared id then
      match e.unitOut p id false with
      | some t => e.unitResponse p id t (resp != .okay || poisoned) (!rlast) data
      | none => e.portBad p 0x10 id
    else
      match e.txnAt n (idSlot id) with
      | none => e.portBad p 0x10 id
      | some t =>
        if t.write then e.portBad p 0x10 id
        else e.answered p id n t ((respDetail false resp).or (if poisoned then some 5 else none)) (!rlast) fun e =>
          ({ e with mem := writeBytes e.mem t.addr (slice data 0 64) }).afterAnswer n t)

/-- LEAF_WRITE_RESPONSE: a write is acknowledged, or ends in error (R425, R426, R434). -/
def execLeafWriteResponse (p : Port) (id : BitVec 10) (resp : AxiResp) (dataSent : Bool) (s : State) :
    Host.Outcome State Fault Refusal :=
  done (s.onEng fun e =>
    let n := idSpindle p id
    if !e.portsUp then e
    else if idShared id then
      match e.unitOut p id true with
      | some t => e.unitResponse p id t (resp != .okay) (!dataSent) []
      | none => e.portBad p 0x10 id
    else
      match e.txnAt n (idSlot id) with
      | none => e.portBad p 0x10 id
      | some t =>
        if !t.write then e.portBad p 0x10 id
        else e.answered p id n t (respDetail true resp) (!dataSent) fun e => e.afterAnswer n t)

/-- A response is GLB_AXI_TIMEOUT.US late; 0 disables the timeout (R425, R443). -/
def Engine.late (e : Engine) (issued : Nat) : Bool :=
  let us := e.glb.axiTimeoutUs.toNat
  us != 0 && e.passedUs issued us

/-- AXI_TIMEOUT: no response has come in time; the transaction keeps its slot (R425, R426). -/
def execAxiTimeout (p : Port) (id : BitVec 10) (s : State) : Host.Outcome State Fault Refusal :=
  done (s.onEng fun e =>
    let n := idSpindle p id
    let slot := idSlot id
    if !e.portsUp then e
    else if idShared id then
      match e.unitOf p id with
      | some t =>
        if t.timedOut || !e.late t.issued then e
        else
          let late (u : UnitTxn) : UnitTxn := if u.slot = slot then { u with timedOut := true } else u
          let e1 := ({ e with unitTxns := e.unitTxns.map late }).unitBusError t.unit
          if t.fold && !e.quiescing then e1.foldOn (!t.write) else e1
      | none => e
    else
      match e.txnAt n slot with
      | some t =>
        if t.timedOut || !e.late t.issued then e
        else
          let e1 := e.modSp n fun s => { s with txns := s.txns.map fun u => if u.slot = some slot then { u with timedOut := true } else u }
          if t.discarded || e.quiescing then e1 else e1.busFault n t 6
      | none => e)

/-! ## What a manager half drives with a request (R421 to R424) -/

/-- AxQOS of a spindle's request: its tier's value (R423). -/
def Engine.axQos (e : Engine) (n : Sp) (t : Txn) : Nat :=
  match e.txnRank n t with
  | some (0, _) => 12
  | some (1, _) => 8
  | some (2, _) => 4
  | some (_, _) => 2
  | none => if e.belowShare (homePort n) (e.conf.clientOf n.val) then 1 else 0

/-- AxQOS of a shared unit's request: tier 1, or tier 5 beyond its budget (R423, R479). -/
def Engine.unitQos (e : Engine) (u : SharedUnit) : Nat := if e.unitBeyond u then 0 else 14

/-- AxID of an issued transaction of a spindle: n mod 4 in bits [9:8], bit [7] clear, and the slot (R422). -/
def Txn.axId (n : Sp) (t : Txn) : Option Nat := t.slot.map fun k => n.val % 4 * 256 + k

/-- AxID of an issued write of a shared unit: bit [7] set (R422). -/
def UnitTxn.axId (t : UnitTxn) : Option Nat := if t.slot < 64 then some (128 + t.slot) else none

/-! ## Share windows (R347, R424) -/

/-- A client's share at a port was broken in the window that ends (R424). -/
def Engine.shareBroken (e : Engine) (p : Port) (c : Nat) (k : ClientE) : Bool :=
  let q := e.ports[p]
  let a := Tab.getD q.share c {}
  k.kind != 0 && bitOf k.ports p.val && a.always && e.clientWaits p c && decide (a.bytes * 1024 < k.share * q.issued)

/-- One port judges its clients, and yields of those that lost to a deadline's work are reported (R347). -/
def Engine.judgePort (e : Engine) (p : Port) : Engine :=
  match e.ports[p].winner with
  | some w => e.conf.clients.foldl (fun e c => if e.shareBroken p c.1 c.2 then e.yield_ ⟨classRank w.1, 3, w.2, c.1, 1, p.val⟩ else e) e
  | none => e

/-- Accounts of the window that follows: a client with a request waiting begins it so, and charges whose time has come enter it
(R424). -/
def Engine.newWindow (e : Engine) (p : Port) : Engine :=
  e.modPort p fun q =>
    let q1 : LeafPort := { q with
      share := (e.conf.clients.filter fun c => e.clientWaits p c.1).map fun c => (c.1, { bytes := 0, always := true })
      issued := 0, winner := none, winnerAt := 0, unitBytes := [], unitSpent := []
      later := q.later.filter fun c => decide (e.windowEnd ≤ c.issued) }
    (q.later.filter fun c => decide (c.issued < e.windowEnd)).foldl (fun q c => q.enter c) q1

/-- Accesses that are out and were issued in the window that ends are charged to it (R424). -/
def Engine.chargeOpen (e : Engine) : Engine :=
  let e1 := (List.finRange 32).foldl (fun e n => (e.sp n).txns.foldl (fun e t => if t.issued < e.windowEnd then e.chargeTxn n t else e) e) e
  e1.unitTxns.foldl (fun e t => if t.slot < 64 ∧ t.issued < e.windowEnd then e.chargePort 0 t.charge else e) e1

/-- SHARE_WINDOW_END: a 10 µs window ends: each leaf port judges its clients' shares (R424). -/
def execShareWindowEnd (s : State) : Host.Outcome State Fault Refusal :=
  done (s.onEng fun e =>
    if e.bound.isNone || !e.passedUs e.windowStart 10 then e
    else
      let e1 := (List.finRange 8).foldl (fun e p => e.judgePort p) e.chargeOpen
      (List.finRange 8).foldl (fun e p => e.newWindow p) { e1 with shareFrom := e.windowEnd })

end Sys2Proof.Machine
end

