-- ==== Sys2Proof/Machine/RegRead.lean ====
section
/-! DEFINITION. The register map as it reads: every word of every page, the multi-word fields behind the
snapshot words, and the bit aliases (R400, R419, R443, R445 to R478). -/

namespace Sys2Proof.Machine

/-! ## Pieces -/

/-- A word built from fields: value and lowest bit. -/
def wordOf (fs : List (Nat × Nat)) : Word := w32 (fs.foldl (fun a f => a + f.1 * 2 ^ f.2) 0)

/-- A Bool as a field. -/
def flag (b : Bool) (lo : Nat) : Nat × Nat := (b2n b, lo)

/-- Word k of a byte string (R456). -/
def byteWord (bs : List Byte) (k : Nat) : Word := w32 (fieldAt bs (4 * k) 4)

/-- The words of a 64-bit value (R456). -/
def words64 (n : Nat) : List Word := [w32 (n % 2 ^ 32), w32 (n / 2 ^ 32 % 2 ^ 32)]

/-- The words of a byte string. -/
def byteWords (bs : List Byte) (n : Nat) : List Word := (List.range n).map (byteWord bs)

/-- A selected group; a value without a meaning selects as the reset value does (R446). -/
def Glb.group (g : Glb) : Fin 12 := if h : g.evtSel.toNat < 12 then ⟨g.evtSel.toNat, h⟩ else 0

/-! ## Multi-word fields (R455 to R458) -/

/-- The PROTO_LOG entry at an index: the entry written last stands at COUNT − 1 mod 64; an unwritten one
reads zero (R443). -/
def Glb.plogAt (g : Glb) (i : Nat) : List Byte :=
  let back := (g.plogCnt.toNat % 64 + 63 - i % 64) % 64
  match g.plog[back]? with
  | some p => p.toBytes
  | none => leBytes 16 0

/-- A multi-word field of a page that is read through the snapshot word, by the offset of its first word. -/
def mbField (s : State) (page : SnapPage) (off : Nat) : Option (List Word) :=
  match page, off with
  | .glb, 0x18 => some (words64 s.eng.glb.imgSeq.toNat)
  | .glb, 0x20 => some (words64 s.eng.glb.partSeq.toNat)
  | .glb, 0xD0 => some (byteWords (s.eng.glb.plogAt s.eng.glb.plogSel.toNat) 4)
  | .sec, 0x40 => some (byteWords s.sec.meas 12)
  | .sec, 0x80 => some (words64 s.sec.keys.counter.toNat)
  | .tel, 0x80 => some (words64 (min s.eng.now (2 ^ 64 - 1)))
  | .tel, 0x88 => some (words64 s.eng.tel.energyUj)
  | _, _ => none

/-- The snapshot of a page. -/
def snapOf (s : State) (page : SnapPage) : Snap :=
  match page with
  | .glb => s.eng.glb.snap
  | .sec => s.sec.snap
  | .tel => s.eng.tel.snap

/-- The snapshot of a page replaced by its image. -/
def State.modSnap (s : State) (page : SnapPage) (f : Snap → Snap) : State :=
  match page with
  | .glb => s.onEng fun e => { e with glb := { e.glb with snap := f e.glb.snap } }
  | .sec => s.onSec fun c => { c with snap := f c.snap }
  | .tel => s.onEng fun e => { e with tel := { e.tel with snap := f e.tel.snap } }

/-- A snapshot word as it reads (R462). -/
def Snap.word (p : Snap) : Word := wordOf [flag p.valid 31, (p.gen.toNat, 16), (p.target.toNat, 2)]

/-- A word of a multi-word field at a byte offset: that of the snapshot while it is valid and names the
field, zero otherwise (R458). -/
def Snap.mb (p : Snap) (off : Nat) : Word :=
  let t := 4 * p.target.toNat
  if p.valid && decide (t ≤ off) then p.words.getD ((off - t) / 4) 0 else 0

/-! ## Pages -/

/-- GLB_IMG_STAT (R400). -/
def imgStat (e : Engine) : Word :=
  let reb := match e.act with | some a => (match a.stage with | .draining _ => true | _ => false) | none => false
  let pend := match e.act with | some a => a.stage == .pending | none => false
  wordOf [(e.glb.imgReject.toNat, 24), flag reb 7, flag pend 6, flag e.glb.imgPartial 5, flag (!e.imageBound) 4, (e.glb.imgCopy.toNat, 0)]

/-- The step counts of the powered spindles. -/
def Engine.grants (e : Engine) : List Nat := (e.spindles.toList.filter fun s => s.pwr == .on).map fun s => s.steps

/-- GLB_GOV_STAT.MIN_STEPS: the lowest step count of a powered spindle, 32 when none is powered (R467). -/
def Engine.minSteps (e : Engine) : Nat := e.grants.foldl min 32

/-- Bytes of the scrub policy in force (R484). -/
def ScrubPol.toBytes (p : ScrubPol) : List Byte :=
  leBytes 2 p.patrolMs ++ leBytes 2 p.minShare ++ leBytes 2 p.maxShare ++ leBytes 2 p.ceLimit ++ leBytes 1 (b2n p.rewrite) ++ leBytes 7 0

/-- GLB_SPN_PWR (R467). -/
def spnPwr (e : Engine) : Word := w32 ((List.finRange 32).foldl (fun a n => a + (if (e.sp n).pwr = .on then 2 ^ n.val else 0)) 0)

/-- The global page (R466, R467). -/
def readGlb (s : State) (off : Nat) : Word :=
  let e := s.eng
  let g := e.glb
  match off with
  | 0x00 => 0x32000100
  | 0x04 => 0x04100820
  | 0x08 => wordOf [(g.rstKind.toNat, 16), (g.warmCnt.toNat, 0)]
  | 0x0C => spnPwr e
  | 0x10 => imgStat e
  | 0x18 => g.snap.mb 0x18
  | 0x1C => g.snap.mb 0x1C
  | 0x20 => g.snap.mb 0x20
  | 0x24 => g.snap.mb 0x24
  | 0x28 => g.rebindUs
  | 0x2C => g.rejectCnt
  | 0x40 => wordOf [(g.axiProt.toNat, 4), (g.axiCache.toNat, 0)]
  | 0x44 => wordOf [(g.axiTimeoutUs.toNat, 0)]
  | 0x48 => g.busErrCnt
  | 0x80 => wordOf [(g.irqMask0.toNat, 0)]
  | 0x84 => wordOf [(g.irqMask1.toNat, 0)]
  | 0x88 => wordOf [(g.irqMask2.toNat, 0)]
  | 0x8C => wordOf [(g.irqMask3.toNat, 0)]
  | 0x90 => wordOf [((irqLines s).toNat, 12), ((pendingGroups s).toNat, 0)]
  | 0x94 => wordOf [(g.evtSel.toNat, 0)]
  | 0x98 => if levelGroup g.group then 0 else g.raised[g.group]
  | 0x9C => if levelGroup g.group then 0 else g.ack[g.group]
  | 0xC0 => g.plogCnt
  | 0xC4 => wordOf [(g.plogSel.toNat, 0)]
  | 0xD0 => g.snap.mb 0xD0
  | 0xD4 => g.snap.mb 0xD4
  | 0xD8 => g.snap.mb 0xD8
  | 0xDC => g.snap.mb 0xDC
  | 0x100 => g.regErr
  | 0x104 => g.regErrCnt
  | 0x108 => g.tvRepairCnt
  | 0x10C => wordOf [(g.tvLast.toNat, 0)]
  | 0x140 => wordOf [(g.pwrCap.vote.toNat, 0)]
  | 0x144 => wordOf [(g.spread.vote.toNat, 0)]
  | 0x148 => wordOf [(g.wakeGap.vote.toNat, 0)]
  | 0x14C => wordOf [flag (e.grants.any fun k => decide (k < 32)) 16, (e.minSteps, 0)]
  | 0x160 => byteWord e.scrub.pol.toBytes 0
  | 0x164 => byteWord e.scrub.pol.toBytes 1
  | 0x168 => byteWord e.scrub.pol.toBytes 2
  | 0x16C => byteWord e.scrub.pol.toBytes 3
  | 0xFFC => g.snap.word
  | _ => 0

/-- The Flyer mailbox page (R419, R469). -/
def readMbx (c : Security) (off : Nat) : Word :=
  if off < 0x100 then c.mbx.toList.getD (off / 4) 0
  else if off = 0x104 then wordOf [flag c.busy 31, flag c.locked 30, (c.failRun, 16), (c.detail.toNat, 8), (c.result.toNat, 0)]
  else 0

/-- The security page (R419, R443, R469). -/
def readSec (c : Security) (off : Nat) : Word :=
  match off with
  | 0x00 => wordOf [(c.bootDetail.toNat, 8), flag c.fwBad 1, flag c.measValid 0]
  | 0x04 => wordOf [(c.keys.cmdGen.toNat, 16), (c.keys.imgGen.toNat, 0)]
  | 0x08 => wordOf [(c.scope.toNat, 0)]
  | 0x0C => c.rejCnt
  | 0x10 => c.denyCnt
  | 0x80 => c.snap.mb 0x80
  | 0x84 => c.snap.mb 0x84
  | 0xC0 => c.nonce[0]
  | 0xC4 => c.nonce[1]
  | 0xC8 => c.nonce[2]
  | 0xCC => c.nonce[3]
  | 0xD4 => wordOf [flag c.attValid 31]
  | 0xFFC => c.snap.word
  | _ =>
    if 0x40 ≤ off ∧ off < 0x70 then c.snap.mb off
    else if 0x100 ≤ off ∧ off < 0x180 then byteWord c.report ((off - 0x100) / 4)
    else 0

/-- CRL_NSTAT (R304). -/
def crlNstat (e : Engine) : Word :=
  let q := e.creel.nsel.toNat
  wordOf [flag ((e.conf.queue q).mode != 0 && e.creel.mustWait e.conf q) 1, flag (e.creel.q q).openPkt.isSome 0]

/-- CRL_QSTAT (R321). -/
def crlQstat (e : Engine) : Word :=
  let q := e.creel.q e.creel.qsel.toNat
  wordOf [flag q.stale 19, flag (!q.waits.isEmpty) 18, flag q.openPkt.isSome 17, flag q.visible 16, (q.cellCount, 0)]

/-- The Creel page (R471). -/
def readCrl (e : Engine) (off : Nat) : Word :=
  let c := e.creel
  match off with
  | 0x00 => wordOf [(c.nsel.toNat, 0)]
  | 0x04 => c.ndataLo
  | 0x08 => c.ndataHi
  | 0x10 => crlNstat e
  | 0x40 => wordOf [(c.rsel.toNat, 0)]
  | 0x48 => wordOf [flag c.rtagValid 31, (c.rtagLink.toNat, 0)]
  | 0x100 => wordOf [(c.freeCells, 0)]
  | 0x104 => wordOf [(c.sharedFree e.conf, 0)]
  | 0x108 => c.rewindCnt
  | 0x10C => c.poisonCnt
  | 0x110 => c.truncCnt
  | 0x114 => c.fullCnt
  | 0x118 => c.staleCnt
  | 0x11C => c.discardCnt
  | 0x140 => wordOf [(c.qsel.toNat, 0)]
  | 0x144 => crlQstat e
  | _ => if 0x80 ≤ off ∧ off < 0xC0 then byteWord c.rdata ((off - 0x80) / 4) else 0

/-- The Doffer page (R472). -/
def readDof (d : Doffer) (off : Nat) : Word :=
  match off with
  | 0x00 => wordOf [(d.baseLo.toNat, 6)]
  | 0x04 => wordOf [(d.baseHi.toNat, 0)]
  | 0x08 => wordOf [(d.log2.toNat, 0)]
  | 0x0C => wordOf [(d.head.toNat, 0)]
  | 0x10 => wordOf [(d.tail.toNat, 0)]
  | 0x40 => d.acceptCnt
  | 0x44 => d.fullStall
  | 0x48 => d.dropCnt
  | _ => 0

/-- The knot page (R472). -/
def readKnt (e : Engine) (off : Nat) : Word :=
  let k := e.knot e.knots.sel.toNat
  match off with
  | 0x00 => wordOf [(e.knots.sel.toNat, 0)]
  | 0x04 => k.count
  | 0x08 => k.thresh
  | 0x40 => e.knots.satCnt
  | _ => 0

/-- TCK_ISTAT of the selected input (R349). -/
def tckIstat (e : Engine) : Word :=
  let te := e.conf.tick e.ticks.sel.toNat
  let k := e.tick (inpOf e.ticks.sel.toNat)
  let late := match k.inst with | some i => i.overBudget | none => false
  wordOf [(te.cls % 4, 4), flag k.lost 3, flag late 2, flag k.inst.isSome 1, flag (te.source != 0) 0]

/-- The tick page (R474). -/
def readTck (e : Engine) (off : Nat) : Word :=
  let k := e.tick (inpOf e.ticks.sel.toNat)
  match off with
  | 0x00 => wordOf [(e.ticks.sel.toNat, 0)]
  | 0x04 => tckIstat e
  | 0x08 => wordOf [(e.ticks.pinPol.toNat, 0)]
  | 0x40 => k.tickCnt
  | 0x44 => k.earlyCnt
  | 0x48 => k.missCnt
  | 0x4C => k.overCnt
  | 0x50 => k.shortCnt
  | 0x54 => k.longCnt
  | 0x58 => k.dropLines
  | 0x5C => k.lastLines
  | 0x60 => k.lastRun
  | 0x64 => k.maxRun
  | 0x80 => e.ticks.yieldCnt
  | _ => 0

/-- The calibration of the class that TEL_CAL_SEL names. -/
def Tel.calNow (t : Tel) : Option Calib := (t.cal.find? fun c => c.1 == t.calSel.toNat).map fun c => c.2

/-- The telemetry page (R475, R476). -/
def readTel (t : Tel) (off : Nat) : Word :=
  match off with
  | 0x00 => wordOf [(t.periodUs.toNat, 0)]
  | 0x08 => wordOf [(t.baseLo.toNat, 6)]
  | 0x0C => wordOf [(t.baseHi.toNat, 0)]
  | 0x10 => wordOf [(t.log2.toNat, 0)]
  | 0x14 => wordOf [(t.head.toNat, 0)]
  | 0x18 => wordOf [(t.tail.toNat, 0)]
  | 0x1C => t.dropCnt
  | 0x40 => wordOf [(t.peak.toNat, 16), (t.temp.toNat, 0)]
  | 0x44 => wordOf [(t.mw.toNat, 0)]
  | 0x80 => t.snap.mb 0x80
  | 0x84 => t.snap.mb 0x84
  | 0x88 => t.snap.mb 0x88
  | 0x8C => t.snap.mb 0x8C
  | 0xC0 => wordOf [(t.calSel.toNat, 0)]
  | 0xC4 => (match t.calNow with | some c => wordOf [(1, 31), (c.samples.toNat, 0)] | none => 0)
  | 0xC8 => (match t.calNow with | some c => c.scale | none => 0)
  | 0xFFC => t.snap.word
  | _ => 0

/-- The registers that a spindle holds in its own domain (R478). -/
def readSpnOwn (e : Engine) (n : Sp) (off : Nat) : Word :=
  let s := e.sp n
  match off with
  | 0x40 => wordOf [(s.steps, 0)]
  | 0x44 => s.cnt.jobs
  | 0x48 => s.cnt.faults
  | 0x80 => s.code.bell8
  | 0x84 => s.code.special
  | 0x88 => s.code.nanSrc
  | 0x8C => s.code.dsat
  | 0x90 => s.code.clip
  | 0x94 => s.code.drift
  | 0x98 => wordOf [(s.code.lastShare.toNat, 0)]
  | 0x9C => s.code.uflow
  | 0xA0 => s.code.combDrop
  | 0xA4 => s.code.s24Extra
  | 0xC0 => s.work.linkStall
  | 0xC4 => s.work.srcStall
  | 0xC8 => s.work.whorlStall
  | 0xCC => s.work.drainStall
  | 0x100 => s.work.nep
  | 0x104 => s.work.stealLane
  | 0x108 => s.work.stealIn
  | 0x10C => s.work.stealOut
  | 0x140 => s.work.hankEnc
  | 0x144 => s.work.hankStored
  | 0x148 => s.work.hankDec
  | 0x14C => s.work.hankErr
  | 0x150 => s.work.hankWait
  | 0x180 => s.work.haloWait
  | 0x184 => s.work.slotWait
  | 0x188 => s.work.boxBad
  | 0x18C => s.work.cropMiss
  | 0x1C0 => s.cnt.spill
  | 0x1C4 => s.cnt.spillKib
  | 0x1C8 => s.cnt.xlateMiss
  | 0x1CC => wordOf [(e.poolFree n.val, 0)]
  | 0x200 => s.cnt.switches
  | 0x204 => s.cnt.switchHeld
  | 0x208 => s.cnt.switchMax
  | 0x240 => wordOf [flag s.link.resync 0]
  | 0x244 => s.link.resyncCnt
  | _ => 0

/-- A spindle page: the first four registers answer at all times, the others read zero while the domain
is off (R450, R478). -/
def readSpn (e : Engine) (n : Sp) (off : Nat) : Word :=
  let s := e.sp n
  match off with
  | 0x00 => wordOf [flag s.ringEn 3, flag s.plyEn 2, flag s.hankEn 1, flag s.enable 0]
  | 0x04 => wordOf [(s.limitUs.toNat, 0)]
  | 0x08 => wordOf [flag s.drained 8, (min 15 (e.doffer.buffers[n]).length, 4), (s.jobs.length, 0)]
  | 0x0C => 0
  | _ => if s.pwr = .on then readSpnOwn e n off else 0

/-! ## The whole map (R445, R459, R463) -/

/-- Page of an address. -/
inductive Page where
  | glb | mbx | crl | dof | knt | tck | sec | tel
  | spn (n : Sp)
  | alias_ (off bit : Nat)
  | none
deriving DecidableEq, Repr

/-- The page that an address lies in, and the byte offset in it (R459, R463). -/
def pageOf (a : Nat) : Page × Nat :=
  let hi := a / 65536
  let off := a % 65536
  match hi with
  | 0 => (.glb, off)
  | 1 => (.mbx, off)
  | 2 => (.crl, off)
  | 3 => (.dof, off)
  | 4 => (.knt, off)
  | 5 => (.tck, off)
  | 6 => (.sec, off)
  | 7 => (.tel, off)
  | _ =>
    if 16 ≤ hi ∧ hi < 48 then (.spn (spOf (hi - 16)), off)
    else if 64 ≤ hi ∧ hi < 66 then
      let k := (a - 0x400000) / 4
      (.alias_ (4 * (k / 32)) (k % 32), off)
    else (.none, off)

/-- What a read of an aligned word returns; a reserved word reads zero (R445, R460). -/
def readReg (s : State) (a : Nat) : Word :=
  match pageOf a with
  | (.glb, off) => readGlb s off
  | (.mbx, off) => readMbx s.sec off
  | (.crl, off) => readCrl s.eng off
  | (.dof, off) => readDof s.eng.doffer off
  | (.knt, off) => readKnt s.eng off
  | (.tck, off) => readTck s.eng off
  | (.sec, off) => readSec s.sec off
  | (.tel, off) => readTel s.eng.tel off
  | (.spn n, off) => readSpn s.eng n off
  | (.alias_ o b, _) => wordOf [flag (bitOf (readGlb s o).toNat b) 0]
  | (.none, _) => 0

end Sys2Proof.Machine
end

