-- ==== Sys2Proof/Machine/Ticks.lean ====
section
/-! DEFINITION. The tick unit's commands, and the settlement of what meets in one control clock (R325 to R327, R330, R338, R343,
R344, R395, R397). -/

namespace Sys2Proof.Machine

/-- A tick of an input reaches the tick unit: refused when it is early, else accepted (R325, R326). -/
def Engine.tickIn (e : Engine) (t : Inp) : Engine :=
  if e.tooEarly t then (e.modTick t fun k => { k with earlyCnt := satInc k.earlyCnt }).raise (.tickEarly t.val)
  else e.takeTick t

/-- The entry of an input whose SOURCE is not OFF, while the engine serves an image. -/
def Engine.inputOn (e : Engine) (t : Inp) (source : Nat) : Bool := e.bound.isSome && (e.conf.tick t.val).source == source && source != 0

/-- TICK_ARRIVE: a filtered edge of a PIN input (R325). -/
def execTickArrive (t : Inp) (s : State) : Host.Outcome State Fault Refusal :=
  done (s.onEng fun e =>
    if e.inputOn t 1 then ({ e with ticks := { e.ticks with level := e.ticks.level ||| BitVec.ofNat 16 (2 ^ t.val) } }).tickIn t else e)

/-- SYNTHETIC_TICK: the period of a SYNTHETIC input has passed (R325). -/
def execSyntheticTick (t : Inp) (s : State) : Host.Outcome State Fault Refusal :=
  done (s.onEng fun e =>
    match (e.tick t).synNext with
    | some k =>
      if e.inputOn t 2 && decide (k ≤ e.now) then
        (e.modTick t fun x => { x with synNext := some (k + (e.conf.tick t.val).synPeriod) }).tickIn t
      else e
    | none => e)

/-- MAX_GAP_US has passed since the last accepted tick, and TICK_LOST has not been raised for the gap
(R327). -/
def Engine.gapPassed (e : Engine) (t : Inp) : Bool :=
  let te := e.conf.tick t.val
  match (e.tick t).lastTick with
  | some l => e.bound.isSome && te.source != 0 && te.maxGapUs != 0 && !(e.tick t).lost && e.passedUs l te.maxGapUs
  | none => false

/-- MAX_GAP_EXPIRY: TICK_LOST is raised, and the running instance reaches its deadline, which is settled at the end of the
control clock (R327, R342, R344). -/
def execMaxGapExpiry (t : Inp) (s : State) : Host.Outcome State Fault Refusal :=
  done (s.onEng fun e =>
    if e.gapPassed t then (e.modTick t fun k => { k with lost := true, lostDue := true }).raise (.tickLost t.val) else e)

/-- CLOSE_EXPIRY: CLOSE_US passes after the tick time, and the frame closes with the lines of this control clock (R338). -/
def execCloseExpiry (t : Inp) (s : State) : Host.Outcome State Fault Refusal :=
  done (s.onEng fun e =>
    match (e.tick t).lastTick with
    | some l => if e.bound.isSome && e.passedUs l (e.conf.tick t.val).closeUs then e.modTick t fun k => { k with closeDue := true } else e
    | none => e)

/-- The next tick of a SYNTHETIC input is due (R325). -/
def Engine.synDue (e : Engine) (t : Inp) : Bool :=
  (e.conf.tick t.val).source == 2 && match (e.tick t).synNext with | some k => decide (k ≤ e.now) | none => false

/-- The instance is past its budget and has not raised BUDGET_OVER (R343). -/
def Engine.pastBudget (e : Engine) (t : Inp) : Bool :=
  match (e.tick t).inst with
  | some i => e.bound.isSome && !i.overBudget && e.passedUs i.start (e.conf.tick t.val).budgetUs
  | none => false

/-- BUDGET_EXPIRY: the running instance has run for BUDGET_US, which is settled at the end of the control clock (R343, R344). -/
def execBudgetExpiry (t : Inp) (s : State) : Host.Outcome State Fault Refusal :=
  done (s.onEng fun e => if e.pastBudget t then e.modTick t fun k => { k with budgetDue := true } else e)

/-! ## The settlement of a control clock (R330, R338, R344) -/

/-- A frame whose CLOSE_US passes closes once; where the next tick was accepted in the same clock, its frame opens (R338, R344). -/
def Engine.settleClose (e : Engine) (t : Inp) : Engine :=
  if (e.tick t).closeDue then
    let e1 := (e.closeFrame t).modTick t fun k => { k with closeDue := false }
    if (e1.tick t).due then e1.openFrame t else e1
  else e

/-- The deadline of an instance whose input's tick is lost; the budget is not reported beside it (R342, R344). -/
def Engine.settleLost (e : Engine) (t : Inp) : Engine :=
  if (e.tick t).lostDue then (e.deadline t).modTick t fun k => { k with lostDue := false, budgetDue := false } else e

/-- The deadline of the instance before an accepted tick, then the tick's release, unless a rebind holds it; the boundary tick of
a pending activation begins the rebind (R328, R342, R344, R395, R397). -/
def Engine.settleTick (e : Engine) (t : Inp) : Engine :=
  if (e.tick t).due then
    let e1 := (e.deadline t).modTick t fun k => { k with due := false, budgetDue := false }
    let hold (e : Engine) : Engine := e.modTick t fun k => { k with heldTicks := k.heldTicks ++ [e.now] }
    match e1.act with
    | some a =>
      match a.stage with
      | .pending => if a.boundary = t.val then (hold e1).beginRebind a else e1.release t e1.now
      | .draining _ => if e1.holdsTick t then hold e1 else e1.release t e1.now
      | _ => e1.release t e1.now
    | none => e1.release t e1.now
  else e

/-- BUDGET_OVER of an instance that has run for its budget, has not completed and does not reach its deadline in the same clock
(R343, R344). -/
def Engine.settleBudget (e : Engine) (t : Inp) : Engine :=
  if (e.tick t).budgetDue then
    let e1 := e.modTick t fun k => { k with budgetDue := false }
    match (e1.tick t).inst with
    | some i =>
      if e1.pastBudget t && decide (i.accepted + (e1.uncounted t).1 < i.jobs) && !e1.gapPassed t && !e1.synDue t then
        (e1.modTick t fun k => { k with inst := some { i with overBudget := true }, overCnt := satInc k.overCnt }).raise (.budgetOver t.val)
      else e1
    | none => e1
  else e

/-- Inputs in the order in which their accepted ticks are settled: that of a pending boundary, whose rebind holds others, then by class
and number (R330, R395, R397). -/
def Engine.settleOrder (e : Engine) : List Inp :=
  let first := match e.act with
    | some a => (List.finRange 16).filter fun t => decide (a.boundary = t.val) && (match a.stage with | .pending => true | _ => false)
    | none => []
  first ++ releaseOrder e.conf (List.finRange 16)

/-- What met in one control clock is settled at its end: frames close, deadlines of lost ticks, accepted ticks, budgets (R330, R338,
R344). -/
def Engine.settle (e : Engine) : Engine :=
  if e.bound.isSome then
    let e1 := (List.finRange 16).foldl (fun e t => e.settleClose t) e
    let e2 := (List.finRange 16).foldl (fun e t => e.settleLost t) e1
    let e3 := e2.settleOrder.foldl (fun e t => e.settleTick t) e2
    (List.finRange 16).foldl (fun e t => e.settleBudget t) e3
  else e

end Sys2Proof.Machine
end

