-- ==== Sys2Proof/Machine/RegWrite.lean ====
section
/-! DEFINITION. Register writes: every RW, TV and WO field, the rows that have a write of their own, narrow
pushes and pops, captures, bit aliases, stalls and the voter (R304, R316, R361, R374, R377, R419, R438, R440,
R443, R445 to R478). -/

namespace Sys2Proof.Machine

/-! ## Access to the register file (R434, R445 to R449) -/

/-- Number of a path in SOURCE and in GLB_REG_ERR. -/
def pathNo : RegPath → Nat
  | .apb => 0
  | .debug => 1

/-- The register file serves an access of a path now: it answers the path, and no access stalls or waits (R441, R447, R510). -/
def State.serves (s : State) (path : RegPath) : Bool := s.answers path && s.eng.glb.idle

/-- The answer to an access: PSLVERR, or the debug path's ERR (R445, R449). -/
def Engine.answer (e : Engine) (path : RegPath) (bad : Bool) : Engine :=
  match path with
  | .apb => { e with glb := { e.glb with pslverr := bad } }
  | .debug => { e with tap := { e.tap with debugErr := bad } }

/-- An access is carried out when the register file serves it, and waits, as the command `c` that makes it, while others are served
(R447). -/
def State.access (s : State) (path : RegPath) (c : Instr) (act : State → State) : State :=
  if s.serves path then act (s.onEng fun e => e.answer path false) else if s.answers path then s.keepAccess path c else s

/-- An access that breaks R434's code 0x30: PSLVERR, and no effect. -/
def State.badAccess (s : State) (path : RegPath) (addr : Nat) : State :=
  s.onEng fun e => (e.violation 0x30 (srcRegister (pathNo path)) addr).answer path true

/-- An access holds PREADY low (R448). -/
def Engine.hold (e : Engine) (path : RegPath) (addr : Nat) (k : StallKind) : Engine :=
  { e with glb := { e.glb with stall := some ⟨path, BitVec.ofNat 23 addr, e.now, k⟩ } }

/-! ## Knot operations of the register port (R361, R377, R448) -/

/-- A write of KNT_COUNT, KNT_THRESH or KNT_ADD: the operation reaches its bank, and the access waits until it
is applied. -/
def Engine.knotWrite (e : Engine) (path : RegPath) (addr : Nat) (verb : KnotVerb) (v : Word) : Engine :=
  let k := e.knots.sel.toNat
  let e1 := e.knotIssue .reg k verb v
  e1.hold path addr (.knot ⟨e1.knots.clock, .reg, k, verb, v⟩)

/-- KNT_COUNT_WRITE: a SET of the selected knot (R361, R377). -/
def execKntCountWrite (path : RegPath) (v : Word) (s : State) : Host.Outcome State Fault Refusal :=
  done (s.access path (.kntCountWrite path v) fun s => s.onEng fun e => e.knotWrite path 0x40004 .set v)

/-- KNT_THRESH_WRITE: a SET_THRESH of the selected knot (R361, R377). -/
def execKntThreshWrite (path : RegPath) (v : Word) (s : State) : Host.Outcome State Fault Refusal :=
  done (s.access path (.kntThreshWrite path v) fun s => s.onEng fun e => e.knotWrite path 0x40008 .setThresh v)

/-- KNT_ADD_WRITE: an ADD to the selected knot (R361, R377). -/
def execKntAddWrite (path : RegPath) (v : Word) (s : State) : Host.Outcome State Fault Refusal :=
  done (s.access path (.kntAddWrite path v) fun s => s.onEng fun e => e.knotWrite path 0x4000C .add v)

/-! ## Rings (R370, R377, R473, R476, R477) -/

/-- A write of the completion ring's base or size: the head goes to 0 (R377). -/
def Doffer.config (d : Doffer) (reg : RingReg) (v : Word) : Doffer :=
  (match reg with
   | .baseLo => { d with baseLo := BitVec.ofNat 26 (v.toNat / 64), head := 0 }
   | .baseHi => { d with baseHi := BitVec.ofNat 16 v.toNat, head := 0 }
   | .size => { d with log2 := BitVec.ofNat 5 v.toNat, head := 0 } : Doffer).roomCheck

/-- A write of DOF_RING_TAIL (R370). -/
def Doffer.setTail (d : Doffer) (v : Word) : Doffer := ({ d with tail := BitVec.ofNat 16 v.toNat } : Doffer).roomCheck

/-- DOF_RING_CONFIG_WRITE: the completion ring's base or size (R377). -/
def execDofRingConfigWrite (reg : RingReg) (v : Word) (s : State) : Host.Outcome State Fault Refusal :=
  done (s.access .apb (.dofRingConfigWrite reg v) fun s => s.onEng fun e => { e with doffer := e.doffer.config reg v })

/-- DOF_RING_TAIL_WRITE: ring room is freed (R370). -/
def execDofRingTailWrite (v : Word) (s : State) : Host.Outcome State Fault Refusal :=
  done (s.access .apb (.dofRingTailWrite v) fun s => s.onEng fun e => { e with doffer := e.doffer.setTail v })

/-- A write of the telemetry ring's base or size: the writer restarts at offset 0 (R477). -/
def Tel.config (t : Tel) (reg : RingReg) (v : Word) : Tel :=
  match reg with
  | .baseLo => { t with baseLo := BitVec.ofNat 26 (v.toNat / 64), head := 0 }
  | .baseHi => { t with baseHi := BitVec.ofNat 16 v.toNat, head := 0 }
  | .size => { t with log2 := BitVec.ofNat 5 v.toNat, head := 0 }

/-- TEL_RING_CONFIG_WRITE: the telemetry ring's base or size (R477). -/
def execTelRingConfigWrite (reg : RingReg) (v : Word) (s : State) : Host.Outcome State Fault Refusal :=
  done (s.access .apb (.telRingConfigWrite reg v) fun s => s.onEng fun e => { e with tel := e.tel.config reg v })

/-- TEL_RING_TAIL_WRITE: telemetry ring room is freed (R476). -/
def execTelRingTailWrite (v : Word) (s : State) : Host.Outcome State Fault Refusal :=
  done (s.access .apb (.telRingTailWrite v) fun s => s.onEng fun e => { e with tel := { e.tel with tail := BitVec.ofNat 24 v.toNat } })

/-! ## Interrupt acknowledgement and tick polarity (R438, R440) -/

/-- A write of GLB_EVT_ACK: that of a level group is ignored (R443). -/
def Glb.setAck (g : Glb) (v : Word) : Glb := if levelGroup g.group then g else { g with ack := g.ack.set g.group v }

/-- GLB_EVT_ACK_WRITE: the acknowledged count of the selected group (R440). -/
def execGlbEvtAckWrite (v : Word) (s : State) : Host.Outcome State Fault Refusal :=
  done (s.access .apb (.glbEvtAckWrite v) fun s => s.onEng fun e => { e with glb := e.glb.setAck v })

/-- The inputs whose filtered level a change of polarity raises from 0 to 1, at given pin levels. -/
def risen (pins old new : BitVec 16) : List Inp :=
  (List.finRange 16).filter fun t => !bitOf (pins ^^^ old).toNat t.val && bitOf (pins ^^^ new).toNat t.val

/-- A write of TCK_PIN_POL: a filtered level that it raises at a PIN input is a tick; the pins' levels belong
to the chip (R438). -/
def Engine.setPol (e : Engine) (v : BitVec 16) : Engine :=
  let d := e.draw
  let pins := Config.pinLevels d.1
  let e1 := { d.2 with ticks := { d.2.ticks with pinPol := v, level := pins ^^^ v } }
  ((risen pins e.ticks.pinPol v).filter fun t => e.inputOn t 1).foldl (fun e t => e.tickIn t) e1

/-- TCK_PIN_POL_WRITE: the polarity of the tick inputs (R438, R443). -/
def execTckPinPolWrite (v : Word) (s : State) : Host.Outcome State Fault Refusal :=
  done (s.access .apb (.tckPinPolWrite v) fun s => s.onEng fun e => e.setPol (BitVec.ofNat 16 v.toNat))

/-! ## Spindle control (R371 to R376) -/

/-- ENABLE_WRITE (R371). -/
def execEnableWrite (n : Sp) (on : Bool) (s : State) : Host.Outcome State Fault Refusal :=
  done (s.access .apb (.enableWrite n on) fun s => s.onEng fun e => e.setEnable n on)

/-- HANK_EN_WRITE (R372). -/
def execHankEnWrite (n : Sp) (on : Bool) (s : State) : Host.Outcome State Fault Refusal :=
  done (s.access .apb (.hankEnWrite n on) fun s => s.onEng fun e => e.setHankEn n on)

/-- PLY_EN_WRITE (R372). -/
def execPlyEnWrite (n : Sp) (on : Bool) (s : State) : Host.Outcome State Fault Refusal :=
  done (s.access .apb (.plyEnWrite n on) fun s => s.onEng fun e => e.setPlyEn n on)

/-- RING_EN_WRITE (R372). -/
def execRingEnWrite (n : Sp) (on : Bool) (s : State) : Host.Outcome State Fault Refusal :=
  done (s.access .apb (.ringEnWrite n on) fun s => s.onEng fun e => e.setRingEn n on)

/-- SPN_ABORT_WRITE: the started jobs with the tag are aborted (R374). -/
def execSpnAbortWrite (n : Sp) (tag : Word) (s : State) : Host.Outcome State Fault Refusal :=
  done (s.access .apb (.spnAbortWrite n tag) fun s => s.onEng fun e => e.abortTag n tag)

/-! ## The narrow path (R304, R316) -/

/-- The register port is the producer of the queue. -/
def Cfg.regProduces (c : Cfg) (q : Nat) : Bool := (c.queue q).mode != 0 && (c.queue q).producer == 0x22

/-- The queue has a partial tail, of a stream. -/
def Engine.hasTail (e : Engine) (q : Nat) : Bool := !(e.creel.q q).tail.isEmpty

/-- The narrow word's bytes (R304). -/
def Creel.narrow (c : Creel) : List Byte := leBytes 4 c.ndataLo.toNat ++ leBytes 4 c.ndataHi.toNat

/-- A push of the narrow word; it waits whole when a cell is wanting (R302, R304). -/
def Engine.narrowPush (e : Engine) (path : RegPath) (count : Nat) (ends : Bool) : Engine :=
  let q := e.creel.nsel.toNat
  if !e.conf.regProduces q then e
  else
    let bs := if count = 0 ∨ 8 < count then [] else e.creel.narrow.take count
    let tail := decide (((e.creel.q q).tail.length + bs.length) % 64 ≠ 0)
    let r := e.regPut q bs ends
    if r.2 then (if ends && q == 0 then r.1.recoveryEnd tail else r.1)
    else (e.qWait q { since := e.now, rest := bs, ends := ends, port := none }).hold path 0x2000C (.push q bs ends)

/-- An END of the narrow path without bytes (R304). -/
def Engine.narrowEnd (e : Engine) : Engine :=
  let q := e.creel.nsel.toNat
  if !e.conf.regProduces q then e
  else
    let tail := e.hasTail q
    let e1 := e.qEnd q
    if q = 0 then e1.recoveryEnd tail else e1

/-- An ABORT of the narrow path (R304, R308). -/
def Engine.narrowAbort (e : Engine) : Engine :=
  let q := e.creel.nsel.toNat
  if !e.conf.regProduces q then e else e.qAbort q

/-- A POP: the next readable cell of a queue whose CONSUMER is REG comes to CRL_RDATA and CRL_RTAG (R316). -/
def Engine.narrowPop (e : Engine) (cell : CellEcc) : Engine :=
  let q := e.creel.rsel.toNat
  let r := if (e.conf.queue q).mode ≠ 0 ∧ (e.conf.queue q).consumer = 0x22 then e.readCell q cell else (e, none)
  match r.2 with
  | some x => r.1.onCreel fun c => { c with rtagValid := true, rtagLink := x.link, rdata := x.bytes }
  | none => r.1.onCreel fun c => { c with rtagValid := false }

/-- NARROW_PUSH (R304). -/
def execNarrowPush (path : RegPath) (count : BitVec 4) (ends : Bool) (s : State) : Host.Outcome State Fault Refusal :=
  done (s.access path (.narrowPush path count ends) fun s => s.onEng fun e => e.narrowPush path count.toNat ends)

/-- NARROW_END (R304). -/
def execNarrowEnd (s : State) : Host.Outcome State Fault Refusal :=
  done (s.access .apb .narrowEnd fun s => s.onEng fun e => e.narrowEnd)

/-- NARROW_ABORT (R304, R308). -/
def execNarrowAbort (s : State) : Host.Outcome State Fault Refusal :=
  done (s.access .apb .narrowAbort fun s => s.onEng fun e => e.narrowAbort)

/-- NARROW_POP (R316). -/
def execNarrowPop (cell : CellEcc) (s : State) : Host.Outcome State Fault Refusal :=
  done (s.access .apb (.narrowPop cell) fun s => s.onEng fun e => e.narrowPop cell)

/-- A write of CRL_NCTL (R304). -/
def Engine.crlNctl (e : Engine) (path : RegPath) (v : Nat) : Engine :=
  if bitOf v 10 then e.narrowAbort
  else if bitOf v 8 then e.narrowPush path (bits v 0 4) (bitOf v 9)
  else if bitOf v 9 then e.narrowEnd
  else e

/-! ## Captures (R457) -/

/-- Address of a page's snapshot word. -/
def snapAddr : SnapPage → Nat
  | .glb => 0xFFC
  | .sec => 0x60FFC
  | .tel => 0x70FFC

/-- A write of a snapshot word: VALID falls, TARGET is taken, and the capture begins (R457). -/
def State.snapWrite (s : State) (path : RegPath) (page : SnapPage) (v : Word) : State :=
  (s.modSnap page fun p => { p with valid := false, target := BitVec.ofNat 14 (v.toNat / 4) }).onEng fun e =>
    ({ e with glb := { e.glb with captures := e.glb.captures.filter fun p => p != page } } : Engine).hold path (snapAddr page) (.capture page)

/-- SNAPSHOT_WRITE (R457). -/
def execSnapshotWrite (path : RegPath) (page : SnapPage) (v : Word) (s : State) : Host.Outcome State Fault Refusal :=
  done (s.access path (.snapshotWrite path page v) fun s => s.snapWrite path page v)

/-- A capture ends: the value is copied whole, GEN rises and VALID is set, or nothing is captured where TARGET names no multi-word field
(R457). -/
def State.capture (s : State) (page : SnapPage) : State :=
  match mbField s page (4 * (snapOf s page).target.toNat) with
  | some ws => s.modSnap page fun p => { p with valid := true, gen := p.gen + 1, words := ws }
  | none => s

/-- SNAPSHOT_CAPTURE_DONE: the oldest capture ends, and with it the access that waits for it; one whose access has ended at the stall
limit comes first (R449, R457; DEDUCED, log 36). -/
def execSnapshotCaptureDone (s : State) : Host.Outcome State Fault Refusal :=
  done (match s.eng.glb.captures, s.eng.glb.stall with
  | page :: rest, _ => (s.onEng fun e => { e with glb := { e.glb with captures := rest } }).capture page
  | [], some st =>
    match st.kind with
    | .capture page => (s.onEng fun e => { e with glb := { e.glb with stall := none } }).capture page
    | _ => s
  | [], none => s)

/-! ## Writes of a word (R446) -/

/-- The copies of a triplicated field with one bit set to a value in each (R460). -/
def Tv.setBit (t : Tv w) (b : Nat) (d : Bool) : Tv w :=
  let m : BitVec w := BitVec.ofNat w (2 ^ b)
  let f (x : BitVec w) : BitVec w := if d then x ||| m else x &&& ~~~m
  ⟨f t.c0, f t.c1, f t.c2⟩

/-- RW and TV fields of the global page, but for GLB_SNAP (R443, R467). -/
def Glb.write (g : Glb) (off : Nat) (v : Nat) : Glb :=
  match off with
  | 0x40 => { g with axiProt := BitVec.ofNat 3 (v / 16), axiCache := BitVec.ofNat 4 v }
  | 0x44 => { g with axiTimeoutUs := BitVec.ofNat 16 v }
  | 0x80 => { g with irqMask0 := BitVec.ofNat 12 v }
  | 0x84 => { g with irqMask1 := BitVec.ofNat 12 v }
  | 0x88 => { g with irqMask2 := BitVec.ofNat 12 v }
  | 0x8C => { g with irqMask3 := BitVec.ofNat 12 v }
  | 0x94 => { g with evtSel := BitVec.ofNat 4 v }
  | 0x9C => g.setAck (w32 v)
  | 0xC4 => { g with plogSel := BitVec.ofNat 6 v }
  | 0x140 => { g with pwrCap := Tv.all (BitVec.ofNat 16 v) }
  | 0x144 => { g with spread := Tv.all (BitVec.ofNat 4 v) }
  | 0x148 => { g with wakeGap := Tv.all (BitVec.ofNat 16 v) }
  | _ => g

/-- An alias write of one bit of the global page (R460, R461). -/
def State.aliasBit (s : State) (off b : Nat) (d : Bool) : State :=
  let g := s.eng.glb
  let set_ (g : Glb) : State := s.onEng fun e => { e with glb := g }
  match off with
  | 0x140 => if b < 16 then set_ { g with pwrCap := g.pwrCap.setBit b d } else s
  | 0x144 => if b < 4 then set_ { g with spread := g.spread.setBit b d } else s
  | 0x148 => if b < 16 then set_ { g with wakeGap := g.wakeGap.setBit b d } else s
  | _ =>
    let w := (readGlb s off).toNat
    set_ (g.write off (w - b2n (bitOf w b) * 2 ^ b + b2n d * 2 ^ b))

/-- ALIAS_WRITE: one bit of the global page (R459 to R461). -/
def execAliasWrite (addr : BitVec 23) (v : Word) (s : State) : Host.Outcome State Fault Refusal :=
  done (s.access .apb (.aliasWrite addr v) fun s =>
    match pageOf addr.toNat with
    | (.alias_ off b, _) => if addr.toNat % 4 = 0 then s.aliasBit off b (bitOf v.toNat 0) else s.badAccess .apb addr.toNat
    | _ => s)

/-- MBX_CMD_CTL.GO: the mailbox is copied into the security unit, unless a command is handled (R411, R470). -/
def Security.go (c : Security) : Security := if c.busy then c else { c with cmd := c.mailbox, busy := true }

/-- Fields of the mailbox page. -/
def Security.writeMbx (c : Security) (off v : Nat) : Security :=
  if h : off / 4 < 64 then { c with mbx := c.mbx.set (off / 4) (w32 v) h }
  else if off = 0x100 ∧ bitOf v 0 then c.go
  else c

/-- Fields of the security page, but for SEC_SNAP: the nonce and the request (R407, R419). -/
def Security.writeSec (c : Security) (off v : Nat) : Security :=
  match off with
  | 0xC0 => { c with nonce := c.nonce.set 0 (w32 v) }
  | 0xC4 => { c with nonce := c.nonce.set 1 (w32 v) }
  | 0xC8 => { c with nonce := c.nonce.set 2 (w32 v) }
  | 0xCC => { c with nonce := c.nonce.set 3 (w32 v) }
  | 0xD0 => if bitOf v 0 then { c with attValid := false, attBusy := true, attNonce := c.nonceBytes } else c
  | _ => c

/-- Fields of the Creel page (R304, R316, R321). -/
def Engine.writeCrl (e : Engine) (path : RegPath) (off v : Nat) : Engine :=
  match off with
  | 0x00 => e.onCreel fun c => { c with nsel := BitVec.ofNat 12 v }
  | 0x04 => e.onCreel fun c => { c with ndataLo := w32 v }
  | 0x08 => e.onCreel fun c => { c with ndataHi := w32 v }
  | 0x0C => e.crlNctl path v
  | 0x40 => e.onCreel fun c => { c with rsel := BitVec.ofNat 12 v }
  | 0x44 => if bitOf v 0 then e.narrowPop .ok else e
  | 0x140 => e.onCreel fun c => { c with qsel := BitVec.ofNat 12 v }
  | _ => e

/-- Fields of the Doffer page (R377). -/
def Doffer.write (d : Doffer) (off v : Nat) : Doffer :=
  match off with
  | 0x00 => d.config .baseLo (w32 v)
  | 0x04 => d.config .baseHi (w32 v)
  | 0x08 => d.config .size (w32 v)
  | 0x10 => d.setTail (w32 v)
  | _ => d

/-- Fields of the knot page (R377). -/
def Engine.writeKnt (e : Engine) (path : RegPath) (off v : Nat) : Engine :=
  match off with
  | 0x00 => { e with knots := { e.knots with sel := BitVec.ofNat 16 v } }
  | 0x04 => e.knotWrite path 0x40004 .set (w32 v)
  | 0x08 => e.knotWrite path 0x40008 .setThresh (w32 v)
  | 0x0C => e.knotWrite path 0x4000C .add (w32 v)
  | _ => e

/-- Fields of the tick page (R349, R443). -/
def Engine.writeTck (e : Engine) (off v : Nat) : Engine :=
  match off with
  | 0x00 => { e with ticks := { e.ticks with sel := BitVec.ofNat 4 v } }
  | 0x08 => e.setPol (BitVec.ofNat 16 v)
  | _ => e

/-- Fields of the telemetry page, but for TEL_SNAP (R476). -/
def Tel.write (t : Tel) (off v : Nat) : Tel :=
  match off with
  | 0x00 => { t with periodUs := BitVec.ofNat 16 v }
  | 0x08 => t.config .baseLo (w32 v)
  | 0x0C => t.config .baseHi (w32 v)
  | 0x10 => t.config .size (w32 v)
  | 0x18 => { t with tail := BitVec.ofNat 24 v }
  | 0xC0 => { t with calSel := BitVec.ofNat 6 v }
  | _ => t

/-- Fields of a spindle page (R376). -/
def Engine.writeSpn (e : Engine) (n : Sp) (off v : Nat) : Engine :=
  match off with
  | 0x00 => (((e.setEnable n (bitOf v 0)).setHankEn n (bitOf v 1)).setPlyEn n (bitOf v 2)).setRingEn n (bitOf v 3)
  | 0x04 => e.modSp n fun s => { s with limitUs := BitVec.ofNat 16 v }
  | 0x0C => e.abortTag n (w32 v)
  | _ => e

/-- A write of an aligned word: every RW, TV and WO field of it (R445, R446). -/
def State.writeReg (s : State) (path : RegPath) (a v : Nat) : State :=
  match pageOf a with
  | (.glb, off) => if off = 0xFFC then s.snapWrite path .glb (w32 v) else s.onEng fun e => { e with glb := e.glb.write off v }
  | (.mbx, off) => s.onSec fun c => c.writeMbx off v
  | (.crl, off) => s.onEng fun e => e.writeCrl path off v
  | (.dof, off) => s.onEng fun e => { e with doffer := e.doffer.write off v }
  | (.knt, off) => s.onEng fun e => e.writeKnt path off v
  | (.tck, off) => s.onEng fun e => e.writeTck off v
  | (.sec, off) => if off = 0xFFC then s.snapWrite path .sec (w32 v) else s.onSec fun c => c.writeSec off v
  | (.tel, off) => if off = 0xFFC then s.snapWrite path .tel (w32 v) else s.onEng fun e => { e with tel := e.tel.write off v }
  | (.spn n, off) => s.onEng fun e => e.writeSpn n off v
  | (.alias_ off b, _) => s.aliasBit off b (bitOf v 0)
  | (.none, _) => s

/-- REGISTER_WRITE: a write of a word, refused where PSTRB is not 0xF or the address is not aligned (R434,
R445, R446). -/
def execRegisterWrite (path : RegPath) (addr : BitVec 23) (strb : BitVec 4) (data : Word) (s : State) :
    Host.Outcome State Fault Refusal :=
  done (s.access path (.registerWrite path addr strb data) fun s =>
    if strb ≠ 0xF ∨ addr.toNat % 4 ≠ 0 then s.badAccess path addr.toNat else s.writeReg path addr.toNat data.toNat)

/-! ## The stall limit (R449) -/

/-- A stalled access is withdrawn: a knot operation leaves its bank, a push its queue; a capture, whose TARGET was taken, goes on (R302,
R449; DEDUCED, log 36). -/
def Engine.withdraw (e : Engine) (k : StallKind) : Engine :=
  match k with
  | .knot o => { e with knots := { e.knots with banks := e.knots.banks.set (knotBank o.knot) (e.knots.banks[knotBank o.knot].erase o) } }
  | .push q _ _ => e.qResume q
  | .capture page => { e with glb := { e.glb with captures := e.glb.captures ++ [page] } }

/-- The target domain accepted the write before the limit: a capture's TARGET was taken, a knot operation was
not applied and a push not appended (R302, R448, R449). -/
def StallKind.applied : StallKind → Bool
  | .capture _ => true
  | _ => false

/-- An access ends at the stall limit: PSLVERR, GLB_REG_ERR, its count and code 0x31; a read returns zero (R449). -/
def Engine.limitReached (e : Engine) (path : RegPath) (write applied : Bool) (addr : Nat) : Engine :=
  let g := e.glb
  let e1 := { e with glb := { g with
    regErr := wordOf [flag write 31, flag applied 30, (pathNo path, 29), (addr, 0)]
    regErrCnt := satInc g.regErrCnt } }
  let e2 := (e1.violation 0x31 (srcRegister (pathNo path)) addr).answer path true
  if write then e2 else { e2 with tap := { e2.tap with capture := 0 } }

/-- Offset of a ring register from its page's RING_BASE_LO (R473, R475). -/
def ringOffset : RingReg → Nat
  | .baseLo => 0
  | .baseHi => 4
  | .size => 8

/-- PADDR of the access that a command makes (R434, R449, R468 to R478). -/
def accessAddr : Instr → Nat
  | .kntCountWrite _ _ => 0x40004
  | .kntThreshWrite _ _ => 0x40008
  | .kntAddWrite _ _ => 0x4000C
  | .dofRingConfigWrite reg _ => 0x30000 + ringOffset reg
  | .dofRingTailWrite _ => 0x30010
  | .telRingConfigWrite reg _ => 0x70008 + ringOffset reg
  | .telRingTailWrite _ => 0x70018
  | .glbEvtAckWrite _ => 0x9C
  | .tckPinPolWrite _ => 0x50008
  | .enableWrite n _ | .hankEnWrite n _ | .plyEnWrite n _ | .ringEnWrite n _ => 0x100000 + 0x10000 * n.val
  | .spnAbortWrite n _ => 0x10000C + 0x10000 * n.val
  | .narrowPush _ _ _ | .narrowEnd | .narrowAbort => 0x2000C
  | .narrowPop _ => 0x20044
  | .snapshotWrite _ page _ => snapAddr page
  | .aliasWrite a _ => a.toNat
  | .registerWrite _ a _ _ => a.toNat
  | .engDebug (.write a _) | .engDebug (.read a) => a.toNat
  | .secAttRequest => 0x600D0
  | _ => 0x10100

/-- The access that a command makes is a write. -/
def accessWrites : Instr → Bool
  | .engDebug (.read _) => false
  | _ => true

/-- REGISTER_STALL_LIMIT: an access has stalled for 2 µs and ends with PSLVERR: the one that stalls, or the first of those that wait
behind others, which has had no effect (R447, R449). -/
def execRegisterStallLimit (s : State) : Host.Outcome State Fault Refusal :=
  done (s.onEng fun e =>
    match e.glb.stall, e.glb.waiting with
    | some st, _ =>
      if e.now < st.since + 800 then e
      else
        let e1 := e.withdraw st.kind
        ({ e1 with glb := { e1.glb with stall := none } }).limitReached st.path true st.kind.applied st.addr.toNat
    | none, h :: rest =>
      if e.now < h.since + 800 then e
      else ({ e with glb := { e.glb with waiting := rest } }).limitReached h.path (accessWrites h.cmd) false (accessAddr h.cmd)
    | none, [] => e)

/-! ## The voter (R453, R454) -/

/-- One field is voted: a disagreement is repaired, counted and recorded by the address of its word.  Of several the last in address order
stays recorded (R454; DESIGN CHOICE, log 139). -/
def Glb.repaired (g : Glb) (agrees : Bool) (addr : Nat) : Glb :=
  if agrees then g else { g with tvRepairCnt := satInc g.tvRepairCnt, tvLast := BitVec.ofNat 23 addr }

/-- TV_VOTE: the three copies of every TV field are compared, and a copy that disagrees is repaired (R454). -/
def execTvVote (s : State) : Host.Outcome State Fault Refusal :=
  done (s.onEng fun e =>
    if e.power.phase = .unsupplied then e
    else
      let g := e.glb
      let g1 := ((g.repaired g.pwrCap.agrees 0x140).repaired g.spread.agrees 0x144).repaired g.wakeGap.agrees 0x148
      { e with glb := { g1 with pwrCap := g.pwrCap.repair, spread := g.spread.repair, wakeGap := g.wakeGap.repair } })

end Sys2Proof.Machine
end

