-- ==== Sys2Proof/Machine/TestAccess.lean ====
section
/-! DEFINITION. The test access port and the wrapper: instructions, their scopes, register access and the
Flyer's halt and step, and memory self-test (R402, R416, R441, R442). -/

namespace Sys2Proof.Machine

/-- IDCODE (R442). -/
def idcodeWord : Word := w32 (0x10000000 + 0x3200 * 4096 + 2 * Config.mfrId.toNat + 1)

/-- An instruction becomes the active one of the 1500 port (R441). -/
def Engine.wsSelect (e : Engine) (i : TapInstr) : Engine := { e with tap := { e.tap with wsActive := i } }

/-- An instruction becomes the active one of the 1149.1 port, with what its data register captures (R441). -/
def Engine.tapSelect (e : Engine) (i : TapInstr) (capture : Word) : Engine := { e with tap := { e.tap with active := i, capture := capture } }

/-- The scan ports work: the engine is supplied. -/
def Engine.powered (e : Engine) : Bool := e.power.phase != .unsupplied

/-- An instruction whose scope is open takes effect; a closed one selects the bypass register of its port and is counted
(R441). -/
def State.scoped (s : State) (bit : Nat) (bypass : Engine → Engine) (act : State → State) : State :=
  if !s.eng.powered then s
  else if bitOf s.sec.scope.toNat bit then act s
  else (s.onEng bypass).onSec fun c => { c with denyCnt := satInc c.denyCnt }

/-- The bypass register of the 1149.1 port is selected (R441). -/
def Engine.tapBypass (e : Engine) : Engine := e.tapSelect .bypass 0

/-- BYPASS (R441). -/
def execBypass (s : State) : Host.Outcome State Fault Refusal :=
  done (s.onEng fun e => if e.powered then e.tapBypass else e)

/-- IDCODE: the identification code is captured (R442). -/
def execIdcode (s : State) : Host.Outcome State Fault Refusal :=
  done (s.onEng fun e => if e.powered then e.tapSelect .idcode idcodeWord else e)

/-- WS_BYPASS (R441). -/
def execWsBypass (s : State) : Host.Outcome State Fault Refusal :=
  done (s.onEng fun e => if e.powered then e.wsSelect .wsBypass else e)

/-- WS_EXTEST: the core is isolated until a warm reset (R441). -/
def execWsExtest (s : State) : Host.Outcome State Fault Refusal :=
  done (s.onEng fun e =>
    if e.powered then (let e1 := e.wsSelect .wsExtest; { e1 with tap := { e1.tap with isolated := true } }) else e)

/-- WS_INTEST, under the SCAN scope (R441). -/
def execWsIntest (s : State) : Host.Outcome State Fault Refusal :=
  done (s.scoped 2 (fun e => e.wsSelect .wsBypass) fun s => s.onEng fun e => e.wsSelect .wsIntest)

/-- A register read of a path: the word; a misaligned address has PSLVERR, code 0x30 and no effect, and PSTRB is ignored (R434,
R445). -/
def State.readOn (s : State) (path : RegPath) (addr : Nat) : State × Word :=
  if addr % 4 ≠ 0 then (s.badAccess path addr, 0) else (s, readReg s addr)

/-- A register read of the debug path: the word is captured (R441). -/
def State.debugRead (s : State) (addr : Nat) : State :=
  let r := s.readOn .debug addr
  r.1.onEng fun e => { e with tap := { e.tap with capture := r.2 } }

/-- A register write of the debug path (R434, R441, R446). -/
def State.debugWrite (s : State) (addr v : Nat) : State :=
  if addr % 4 ≠ 0 then s.badAccess .debug addr else s.writeReg .debug addr v

/-- The Flyer is halted or runs (R441). -/
def Engine.setHalted (e : Engine) (h : Bool) : Engine := { e with flyer := { e.flyer with halted := h } }

/-- ENG_DEBUG: register access, and halt and step of the Flyer, under the DEBUG scope (R441).  A step leaves
the Flyer halted: this manual gives no instruction of the Flyer. -/
def execEngDebug (op : DebugOp) (s : State) : Host.Outcome State Fault Refusal :=
  done (s.scoped 0 Engine.tapBypass fun s =>
    match op with
    | .select => s.onEng fun e => e.tapSelect .engDebug 0
    | .write a v => s.access .debug (.engDebug op) fun s => s.debugWrite a.toNat v.toNat
    | .read a => s.access .debug (.engDebug op) fun s => s.debugRead a.toNat
    | .halt => if s.debugOpen then s.onEng fun e => e.setHalted true else s
    | .step => if s.debugOpen then s.onEng fun e => e.setHalted true else s
    | .run => if s.debugOpen then s.onEng fun e => e.setHalted false else s)

/-! ## Memory self-test (R441) -/

/-- `n` bytes that stand in an SRAM after self-test: free values from a counter on. -/
def lostBytes (ctr n : Nat) : List Byte := (List.range n).map fun i => Config.lostByte (ctr + i)

/-- A word that stands in an SRAM after self-test. -/
def lostWord (ctr : Nat) : Word := w32 (leNat (lostBytes ctr 4))

/-- A cell after self-test: its data and its link word are lost, with VALID, the flags and the number of the cell that follows; `head` is
the one that its queue's registers name (R297, R441; log 32). -/
def Cell.lose (ctr : Nat) (head : Bool) (c : Cell) : Cell :=
  let w := (lostWord ctr).toNat
  { num := if head then c.num else bits (lostWord (ctr + 4)).toNat 0 15
    data := lostBytes (ctr + 8) (bits w 16 7 % 65)
    first := bitOf w 23, last := bitOf w 24, poison := bitOf w 25, trunc := bitOf w 26 }

/-- The cells of a list are lost; the list keeps its length, which its queue counts. -/
def loseCells (ctr : Nat) (head : Bool) (cs : List Cell) : List Cell := cs.mapIdx fun i c => c.lose (ctr + 72 * i) (head && i == 0)

/-- The cells of a queue are lost. -/
def Queue.lose (q : Queue) (ctr : Nat) : Queue :=
  { q with
    pkts := q.pkts.mapIdx fun i p => { p with cells := loseCells (ctr + 4194304 * (i + 1)) (i == 0 && q.cells.isEmpty) p.cells }
    cells := loseCells ctr true q.cells
    tail := lostBytes (ctr + 72 * q.cells.length) q.tail.length }

/-- The link words of the free list are lost: but for the first, the cells of a bank's list are free values (R297, R299, R441; log 32). -/
def loseFree (ctr b : Nat) (l : List Nat) : List Nat :=
  l.mapIdx fun i k => if i = 0 then k else b + 16 * ((lostWord (ctr + 4 * i)).toNat % 2048)

/-- The entries of a Whorl bank are lost. -/
def WhorlBank.lose (b : WhorlBank) (ctr : Nat) : WhorlBank :=
  { b with entries := b.entries.mapIdx fun i r => r.mapIdx fun j _ => lostWord (ctr + 64 * i + 4 * j) }

/-- The SRAM of a spindle that is powered is lost: store, hash heads, links and Whorl (R441, R483). -/
def Spindle.lose (s : Spindle) (ctr : Nat) : Spindle :=
  if s.pwr ≠ .on then s
  else
    { s with
      store := writeBytes [] 0 (lostBytes ctr 360448)
      hankHeads := (List.range 4096).foldl (fun t i => Tab.put t 0 i (lostWord (ctr + 524288 + 4 * i))) []
      hankLinks := (List.range 32768).foldl (fun t i => Tab.put t 0 i ((lostWord (ctr + 540672 + 4 * i)).toNat % 65536)) []
      jobs := s.jobs.mapIdx fun k x => { x with ply := x.ply.map fun p =>
        { p with banks := p.banks.mapIdx fun i b => b.lose (ctr + 1048576 + 65536 * (8 * k + i)) } } }

/-- Every knot's values are lost (R441). -/
def lostKnots (ctr : Nat) : Tab Knot :=
  (List.range 65536).foldl (fun t i => Tab.put t {} i ⟨lostWord (ctr + 8 * i), lostWord (ctr + 8 * i + 4)⟩) []

/-- The contents of the SRAMs of powered domains are lost: each memory draws from a range of free values of
its own. -/
def Engine.loseSrams (e : Engine) : Engine :=
  let base (m : Nat) : Nat := e.freeCtr + m * 2 ^ 40
  { e with
    freeCtr := base 8192
    spindles := e.spindles.mapFinIdx fun i s _ => s.lose (base i)
    bobbin := if e.power.bobbin = .on then writeBytes [] 0 (lostBytes (base 32) 8388608) else e.bobbin
    knots := { e.knots with table := lostKnots (base 33) }
    flyer := { e.flyer with sram := trimZeros (lostBytes (base 34) 1048576) }
    creel := { e.creel with
      queues := e.creel.queues.map fun q => (q.1, q.2.lose (base (64 + q.1)))
      freed := e.creel.freed.mapFinIdx fun b l _ => loseFree (base (35 + b)) b l
      lostRows := [], weakRows := [] }
    scrub := { e.scrub with lost := [], weak := [] } }

/-- ENG_MBIST: memory self-test under the MBIST scope; the SRAMs of powered domains lose their contents
(R441). -/
def execEngMbist (s : State) : Host.Outcome State Fault Refusal :=
  done (s.scoped 1 Engine.tapBypass fun s => s.onEng fun e => (e.tapSelect .engMbist 0).loseSrams)

/-- ENG_SCAN: the scan chains of the core, under the SCAN scope; the command names neither of its two ports, and acts on both (R441;
DESIGN CHOICE, log 31). -/
def execEngScan (s : State) : Host.Outcome State Fault Refusal :=
  done (s.scoped 2 (fun e => e.tapBypass.wsSelect .wsBypass) fun s => s.onEng fun e => (e.tapSelect .engScan 0).wsSelect .engScan)

end Sys2Proof.Machine
end

