-- ==== Sys2Proof/Machine/Background.lean ====
section
/-! DEFINITION. Background work: the scrubber's visits, calibration folds and telemetry samples (R480 to R489,
R494 to R496). -/

namespace Sys2Proof.Machine

/-! ## The scrubber (R480 to R484) -/

/-- Memory code and unit of a row, with its number in the unit (R299, R362, R483, R496). -/
def rowPlace : SramRow → RowAt
  | .spindleStore n r => (1, n.val, r)
  | .bobbin b r => (2, b.val, r)
  | .cellData c | .cellLink c => (3, c % 16, c / 16)
  | .whorl n r => (4, n.val, r)
  | .hankHash n r => (5, n.val, r)
  | .knot k => (6, k % 16, k / 16)
  | .flyer r => (7, 0, r)

/-- Rows of a unit of each memory: its size in the table of R18, by rows of 64 bytes of the stores and the Flyer SRAM, of a cell, a Whorl
entry, a hash head and a knot (log 28). -/
def unitRows : Nat → Nat
  | 1 => 5632
  | 2 => 8192
  | 3 => 2048
  | 4 => 1024
  | 5 => 4096
  | 6 => 4096
  | _ => 16384

/-- The domain of a row is on (R480). -/
def Engine.rowOn (e : Engine) : SramRow → Bool
  | .spindleStore n _ => (e.sp n).pwr == .on
  | .bobbin _ _ => e.power.bobbin == .on
  | .cellData _ => true
  | .cellLink _ => true
  | .whorl n _ => (e.sp n).pwr == .on
  | .hankHash n _ => (e.sp n).pwr == .on
  | .knot _ => true
  | .flyer _ => true

/-- The memory of a row, by code and unit. -/
def memKey (r : SramRow) : Nat := let p := rowPlace r; p.1 * 256 + p.2.1

/-- A corrected error that the patrol found: counted, with SRAM_CE_HIGH at most once per memory and patrol
(R482). -/
def Engine.patrolCorrected (e : Engine) (r : SramRow) : Engine :=
  let key := memKey r
  let sc := e.scrub
  let n := Tab.getD sc.found key 0 + 1
  let tell := decide (sc.pol.ceLimit < n) && !sc.high.contains key
  (({ e with scrub := { sc with found := Tab.put sc.found 0 key n, high := if tell then key :: sc.high else sc.high } }).eccCorrected).raiseIf tell
    (.sramCeHigh (rowPlace r).1)

/-- An uncorrectable row of a store or a Whorl table that the patrol found: reported, and left as it is (R483). -/
def Engine.rowLost (e : Engine) (p : RowAt) : Engine := { e with scrub := e.scrub.lose p }.eccEntry p.1 p.2.1 p.2.2 true

/-- An uncorrectable row that the patrol found (R220, R483). -/
def Engine.patrolLost (e : Engine) (r : SramRow) : Engine :=
  let p := rowPlace r
  match r with
  | .spindleStore _ _ => e.rowLost p
  | .bobbin _ _ => e.rowLost p
  | .cellData c => e.cellLost c false true
  | .cellLink c => e.cellLost c true true
  | .whorl _ _ => e.rowLost p
  | .hankHash n h => (e.eccEntry p.1 p.2.1 p.2.2 false).modSp n fun s => { s with hankHeads := Tab.del s.hankHeads h }
  | .knot k => e.repairRow (k % 65536)
  | .flyer _ => ((e.eccEntry p.1 p.2.1 p.2.2 false).setHalted true).beginWarm

/-- The patrol of a memory ends: its counts start again (R482). -/
def Engine.patrolEnd (e : Engine) (r : SramRow) : Engine :=
  let key := memKey r
  { e with scrub := { e.scrub with found := Tab.del e.scrub.found key, high := e.scrub.high.filter (· != key) } }

/-- What the patrol meets in a row: the error that the row is known to hold, or the one newly found (R482, R483). -/
inductive Visit where
  | clean
  | weak
  | lost (r : SramRow)
deriving DecidableEq, Repr

/-- What a visit of a row yields. -/
def Engine.visit (e : Engine) (r : SramRow) (found : Ecc) : Visit :=
  let fresh : Visit := match found with | .ok => .clean | .corrected _ => .weak | .uncorrectable _ => .lost r
  let old (lost weak : Bool) : Visit := if lost then .lost r else if weak && fresh == .clean then .weak else fresh
  match r with
  | .cellData c | .cellLink c =>
    match e.creel.lostRows.find? fun x => x.1 == c with
    | some x => .lost (if x.2 then .cellLink c else .cellData c)
    | none => old false (e.creel.weakRows.contains c)
  | _ => old (e.scrub.lost.contains (rowPlace r)) (e.scrub.weak.contains (rowPlace r))

/-- The patrol writes a corrected row back: it holds no error any more (R480, R482). -/
def Engine.rowFixed (e : Engine) (r : SramRow) : Engine :=
  match r with
  | .cellData c | .cellLink c => e.onCreel fun k => k.rewritten c
  | _ => { e with scrub := e.scrub.rewritten fun x => x == rowPlace r }

/-- The patrol goes on to the next row of the memory, or ends and starts again with the first (R480). -/
def Engine.patrolNext (e : Engine) (r : SramRow) (ends : Bool) : Engine :=
  let e1 := if ends then e.patrolEnd r else e
  { e1 with scrub := { e1.scrub with next := Tab.put e1.scrub.next 0 (memKey r) (if ends then 0 else (rowPlace r).2.2 + 1) } }

/-- The row is the one whose turn it is in its memory's patrol, which visits the rows in ascending number, and `ends` says whether it is
the last (R480; DESIGN CHOICE, log 28). -/
def Engine.rowTurn (e : Engine) (r : SramRow) (ends : Bool) : Bool :=
  e.rowOn r && (rowPlace r).2.2 == Tab.getD e.scrub.next (memKey r) 0 && ends == ((rowPlace r).2.2 + 1 == unitRows (rowPlace r).1)

/-- SCRUB_VISIT: the scrubber reads the next row of a powered SRAM, corrects a single-bit error in place, and reports what it cannot
correct.  It does nothing while the core is isolated (R441, R480, R482, R483; log 31). -/
def execScrubVisit (row : SramRow) (found : Ecc) (patrolEnds : Bool) (s : State) : Host.Outcome State Fault Refusal :=
  done (s.onEng fun e =>
    if !e.coreUp || !e.rowTurn row patrolEnds then e
    else
      (match e.visit row found with
       | .clean => e
       | .weak => (e.rowFixed row).patrolCorrected row
       | .lost r => e.patrolLost r).patrolNext row patrolEnds)

/-! ## Calibration (R485 to R489) -/

/-- The smallest binary32 value not below 2^(k/512), or the largest finite one (R488). -/
def clipOf (k : Int) : Word :=
  let ok (w : Nat) : Bool := (Q.pow2 k).le ((f32Q (w32 w)).pow 512)
  if ok 0x7F7FFFFF then w32 (leastBits ok 31 0) else 0x7F7FFFFF

/-- A, D and O after a fold (R486, R487). -/
def calStep (old : Option Calib) (c : CalSample) (clipTarget : Nat) : Int × Option Int × Int :=
  let u : Int := 256 * (floor2Log2 (f32Q c.absmax) + 1)
  let d : Option Int := if c.histMode = 0 then none else some (256 * (2 * c.histBase + (c.histMode : Nat)))
  let r : Int × Option Int × Int := match old with
    | none => (u, d, 0)
    | some k =>
      (k.a + (u - k.a) / 16,
       (match k.d, d with
        | some x, some y => some (x + (y - x) / 16)
        | some x, none => some x
        | none, y => y),
       k.o)
  let o : Int :=
    if !c.calibrated then r.2.2
    else if clipTarget < c.clipShare then min 0 (r.2.2 + 64)
    else if 0 < clipTarget ∧ c.clipShare ≤ clipTarget / 2 then max (-2048) (r.2.2 - 16)
    else r.2.2
  let o' := match r.2.1 with | some x => max o (x - r.1) | none => o
  (r.1, r.2.1, o')

/-- The calibrated scale of a class (R488). -/
def calScale (grids : Tab (List (BitVec 16))) (k : ClassE) (p : Word) : Word :=
  if k.codeType = 6 ∨ k.codeType = 7 then f32One else scaleFrom k.codeType (gridOf grids k.codeType k.gridSlot) p

/-- A fold into a class (R486 to R488). -/
def Engine.calFold (e : Engine) (c : CalSample) : Engine :=
  let k := Tab.getD e.conf.classes c.cls {}
  let old := Tab.get? e.tel.cal c.cls
  let r := calStep old c k.clipTarget
  let n := (match old with | some x => x.samples.toNat | none => 0) + 1
  let new : Calib := { a := r.1, d := r.2.1, o := r.2.2, samples := BitVec.ofNat 16 (min n 0xFFFF), scale := calScale e.conf.grids k (clipOf (r.1 + r.2.2)) }
  { e with tel := { e.tel with cal := Tab.ins e.tel.cal c.cls new } }

/-- CALIBRATION_FOLD: the oldest accepted result is folded into its class (R485, R486). -/
def execCalibrationFold (s : State) : Host.Outcome State Fault Refusal :=
  done (s.onEng fun e =>
    match e.tel.calQueue with
    | c :: rest => if e.live then ({ e with tel := { e.tel with calQueue := rest } }).calFold c else e
    | [] => e)

/-! ## Telemetry samples (R495) -/

/-- TEL_PERIOD.US as it acts: a value outside its range acts as the reset value (R446, R476). -/
def Tel.period (t : Tel) : Nat := if t.periodUs.toNat < 10 then 1000 else t.periodUs.toNat

/-- Sum of the four stall counters (R155). -/
def Spindle.stalls (s : Spindle) : Nat :=
  s.work.linkStall.toNat + s.work.srcStall.toNat + s.work.whorlStall.toNat + s.work.drainStall.toNat

/-- Expansion ratio over the period, Q8.8 (R495). -/
def Spindle.ratio (s : Spindle) : Nat :=
  if s.delivered = 0 then 0 else if s.srcRead = 0 then 0xFFFF else min 0xFFFF (s.delivered * 256 / s.srcRead)

/-- The spindle part of a SAMPLE (R495). -/
def Engine.samplePart (e : Engine) (n : Sp) : List Byte :=
  let s := e.sp n
  if s.pwr ≠ .on then leBytes 16 0
  else
    leBytes 1 s.steps ++ leBytes 1 1 ++ leBytes 2 s.code.lastShare.toNat ++
    leBytes 4 ((s.work.nep - e.tel.lastNep[n]).toNat) ++ leBytes 4 (s.stalls - e.tel.lastStall[n]) ++ leBytes 2 s.ratio ++ leBytes 2 0

/-- The engine part of a SAMPLE (R495). -/
def Engine.sampleHead (e : Engine) : List Byte :=
  let t := e.tel
  leBytes 2 t.mw.toNat ++ leBytes 2 t.temp.toNat ++ leBytes 4 (t.energyUj - t.lastEnergy) ++ leBytes 2 e.creel.freeCells ++
  leBytes 1 e.minSteps ++ leBytes 1 0 ++ leBytes 4 (e.ticks.yieldCnt - t.lastYield).toNat ++ leBytes 4 (e.glb.raised[3] - t.lastSpill).toNat ++
  leBytes 4 e.scrub.ceDelta

/-- Counts that the next SAMPLE's deltas start from (R495). -/
def Engine.sampleMarks (e : Engine) : Engine :=
  { e with
    tel := { e.tel with
      lastSample := e.now
      lastEnergy := e.tel.energyUj
      lastYield := e.ticks.yieldCnt
      lastSpill := e.glb.raised[3]
      lastNep := Vector.ofFn fun n => (e.sp n).work.nep
      lastStall := Vector.ofFn fun n => (e.sp n).stalls }
    scrub := { e.scrub with ceDelta := 0 }
    spindles := e.spindles.map fun s => { s with delivered := 0, srcRead := 0 } }

/-- TELEMETRY_SAMPLE: TEL_PERIOD.US have passed, and a SAMPLE entry is taken (R495). -/
def execTelemetrySample (s : State) : Host.Outcome State Fault Refusal :=
  done (s.onEng fun e =>
    if !e.coreUp || !e.passedUs e.tel.lastSample e.tel.period then e
    else (e.telEntry 1 (e.sampleHead ++ (List.finRange 32).flatMap fun n => e.samplePart n)).sampleMarks)

end Sys2Proof.Machine
end

