-- ==== Sys2Proof/Machine/Access.lean ====
section
/-! DEFINITION. Register accesses that waited behind another: they are served one at a time, in order (R447). -/

namespace Sys2Proof.Machine

/-- A command that makes a register access is carried out (R445, R447). -/
def State.carryOut (c : Instr) (s : State) : State :=
  match (match c with
    | .kntCountWrite p v => execKntCountWrite p v s
    | .kntThreshWrite p v => execKntThreshWrite p v s
    | .kntAddWrite p v => execKntAddWrite p v s
    | .dofRingConfigWrite r v => execDofRingConfigWrite r v s
    | .dofRingTailWrite v => execDofRingTailWrite v s
    | .telRingConfigWrite r v => execTelRingConfigWrite r v s
    | .telRingTailWrite v => execTelRingTailWrite v s
    | .glbEvtAckWrite v => execGlbEvtAckWrite v s
    | .tckPinPolWrite v => execTckPinPolWrite v s
    | .enableWrite n b => execEnableWrite n b s
    | .hankEnWrite n b => execHankEnWrite n b s
    | .plyEnWrite n b => execPlyEnWrite n b s
    | .ringEnWrite n b => execRingEnWrite n b s
    | .spnAbortWrite n t => execSpnAbortWrite n t s
    | .narrowPush p k b => execNarrowPush p k b s
    | .narrowEnd => execNarrowEnd s
    | .narrowAbort => execNarrowAbort s
    | .narrowPop x => execNarrowPop x s
    | .snapshotWrite p g v => execSnapshotWrite p g v s
    | .aliasWrite a v => execAliasWrite a v s
    | .registerWrite p a b v => execRegisterWrite p a b v s
    | .engDebug op => execEngDebug op s
    | .secAttRequest => execSecAttRequest s
    | .imageActivate r b => execImageActivate r b s
    | .rebind => execRebind s
    | .keyRoll => execKeyRoll s
    | .testUnlock => execTestUnlock s
    | .counterReseed => execCounterReseed s
    | .scrubPolicy => execScrubPolicy s
    | .unlistedOpcodeSubmit => execUnlistedOpcodeSubmit s
    | _ => done s) with
  | .next t => t
  | _ => s

/-- The waiting accesses. -/
def State.setWaiting (s : State) (w : List HeldAccess) : State := s.onEng fun e => { e with glb := { e.glb with waiting := w } }

/-- An access that waited is served; one that stalls has counted its stall since it arrived (R447, R449). -/
def State.serveHeld (s : State) (h : HeldAccess) (rest : List HeldAccess) : State :=
  (((s.setWaiting []).carryOut h.cmd).onEng fun e =>
    { e with glb := { e.glb with stall := e.glb.stall.map fun st => { st with since := h.since } } }).setWaiting rest

/-- Once no access stalls, those that wait are served in turn, until one of them stalls (R447). -/
def State.serveWaiting : Nat → State → State
  | 0, s => s
  | fuel + 1, s =>
    match s.eng.glb.stall, s.eng.glb.waiting with
    | none, h :: rest => (s.serveHeld h rest).serveWaiting fuel
    | _, _ => s

end Sys2Proof.Machine
end

