-- ==== Sys2Proof/Machine/Power.lean ====
section
/-! DEFINITION. Power: wakes, switching domains off, the governor, the spread sweep, and one control clock
(R20 to R22, R154, R497 to R504). -/

namespace Sys2Proof.Machine

/-! ## Wakes (R22, R498, R499) -/

/-- A visible descriptor stands at the head of a JOB queue of the spindle (R22). -/
def Engine.headWaits (e : Engine) (n : Sp) : Bool :=
  e.creel.queues.any fun q => let qe := e.conf.queue q.1; qe.mode == 1 && qe.consumer == n.val && q.2.visible

/-- SPINDLE_WAKE_REQUEST: a spindle that is off, enabled and has a visible head descriptor is to be woken
(R22). -/
def execSpindleWakeRequest (n : Sp) (s : State) : Host.Outcome State Fault Refusal :=
  done (s.onEng fun e => if e.live && (e.sp n).enable && e.headWaits n then e.requestWake (.spindle n) else e)

/-- A wake may start now: GLB_WAKE_GAP.NS after the last, and a spindle's only with the Bobbin domain ready
(R499). -/
def Engine.mayWake (e : Engine) (d : WakeDomain) : Bool :=
  (match e.power.lastWake with | some t => e.passedNs t e.glb.gapNs | none => true) &&
  (match d with | .spindle _ => e.power.bobbin == .on | _ => true)

/-- WAKE_START: the wake requested first starts (R499). -/
def execWakeStart (s : State) : Host.Outcome State Fault Refusal :=
  done (s.onEng fun e =>
    match e.power.wakes with
    | (d, _) :: rest =>
      if !e.up || !e.mayWake d then e
      else
        let e1 := e.setPwr d .waking
        { e1 with power := { e1.power with wakes := rest, waking := e1.power.waking ++ [(d, e.now)], lastWake := some e.now } }
    | [] => e)

/-- The memories of a domain that has come on: every row is written to zero with valid check bits, and their patrols begin (R480, R482,
R498). -/
def Scrub.fresh (s : Scrub) (here : Nat → Bool) : Scrub :=
  { s.rewritten (fun r => here (r.1 * 256 + r.2.1)) with
    found := s.found.filter fun f => !here f.1, high := s.high.filter fun k => !here k, next := s.next.filter fun f => !here f.1 }

/-- Memories of a domain that has come on are patrolled from their first row, and its counters count from
zero (R480, R495). -/
def Engine.freshCounts (e : Engine) (d : WakeDomain) : Engine :=
  match d with
  | .spindle n =>
    let here (k : Nat) : Bool := k == 256 + n.val || k == 1024 + n.val || k == 1280 + n.val
    { e with
      tel := { e.tel with lastNep := e.tel.lastNep.set n 0, lastStall := e.tel.lastStall.set n 0 }
      scrub := e.scrub.fresh here }
  | .bobbin => { e with scrub := e.scrub.fresh fun k => k / 256 == 2 }
  | .distaff => e

/-- WAKE_COMPLETE: a domain's wake ends: it is on, its SRAM zeroed and its counters reset (R498). -/
def execWakeComplete (d : WakeDomain) (s : State) : Host.Outcome State Fault Refusal :=
  done (s.onEng fun e =>
    if e.up && e.power.waking.any fun w => w.1 == d then
      (({ e with power := { e.power with waking := e.power.waking.filter fun w => w.1 != d } }).domainUp d).freshCounts d
    else e)

/-! ## Switching off (R497) -/

/-- The spindle holds ring segments of others (R182). -/
def Engine.ringHeld (e : Engine) (n : Sp) : Bool :=
  (match (e.sp n).merge with | some c => c.owner != n.val | none => false) || !(e.sp n).ringRecs.isEmpty || (e.sp n).ringAnswer.isSome

/-- A visible head packet stands in a queue of any mode that the spindle consumes (R497). -/
def Engine.packetWaits (e : Engine) (n : Sp) : Bool :=
  e.creel.queues.any fun q => let qe := e.conf.queue q.1; qe.mode != 0 && qe.consumer == n.val && q.2.visible

/-- The spindle has nothing to do (R497). -/
def Engine.idleSpindle (e : Engine) (n : Sp) : Bool :=
  (e.sp n).jobs.isEmpty && (e.doffer.buffers[n]).isEmpty && !e.packetWaits n && !e.ringHeld n &&
  !(e.tensors.any fun t => e.restsOn n t.1 t.2)

/-- SPINDLE_POWER_OFF: a spindle that was drained or idle for 100 µs is switched off; pool parts left on it
become LOST (R287, R497). -/
def execSpindlePowerOff (n : Sp) (s : State) : Host.Outcome State Fault Refusal :=
  done (s.onEng fun e =>
    let s := e.sp n
    if e.live && s.pwr == .on && ((s.drained && e.passedUs s.drainedFrom 100) || (e.idleSpindle n && e.passedUs s.quietFrom 100)) then
      ((e.loseWhere fun t x => e.restsOn n t x).cutSpindle n).bobbinRule
    else e)

/-- DISTAFF_POWER_OFF: the Distaff had no access for 1 ms (R497). -/
def execDistaffPowerOff (s : State) : Host.Outcome State Fault Refusal :=
  done (s.onEng fun e =>
    if e.up && e.distaff.pwr == .on && e.distaff.writes.isEmpty && e.passedUs e.distaff.lastAccess 1000 then
      { e with distaff := { e.distaff with pwr := .off } }
    else e)

/-! ## The governor (R501 to R503) -/

/-- Tier of a powered spindle: the class of its most urgent started job, 4 for others, 5 for none (R502). -/
def Engine.tier (e : Engine) (s : Spindle) : Nat :=
  s.jobs.foldl (fun m x => min m (match x.inst with | some t => min 4 (e.conf.tick t).cls | none => 4)) 5

/-- The governor is over, with the estimate in µW (R501): 105 °C is 1,680 units of 0.0625 °C. -/
def govOver (g : Glb) (uw : Nat) (temp : BitVec 16) : Bool := decide (1000 * g.cap < uw) || decide (1680 ≤ temp.toInt)

/-- The governor is under, with the estimate in µW (R501). -/
def govUnder (g : Glb) (uw : Nat) (temp : BitVec 16) : Bool := !govOver g uw temp && decide (32 * uw ≤ 31000 * g.cap)

/-- The highest-numbered tier with a spindle above 8 steps. -/
def Engine.trimTier (e : Engine) : Option Nat :=
  [5, 4, 3, 2, 1, 0].find? fun t => e.spindles.toList.any fun s => s.pwr == .on && e.tier s == t && decide (8 < s.steps)

/-- The lowest-numbered tier with a spindle below 32 steps. -/
def Engine.raiseTier (e : Engine) : Option Nat :=
  [0, 1, 2, 3, 4, 5].find? fun t => e.spindles.toList.any fun s => s.pwr == .on && e.tier s == t && decide (s.steps < 32)

/-- The steps of a tier's spindles moved. -/
def Engine.moveTier (e : Engine) (t : Nat) (f : Nat → Nat) : Engine :=
  { e with spindles := e.spindles.map fun s => if s.pwr = .on ∧ e.tier s = t then { s with steps := f s.steps } else s }

/-- Measurements of an interval: temperature, its peak, the estimate, and the energy that adds it up: an estimate of `mw` mW and `uw` µW
over 1 µs is 1,000 `mw` + `uw` pJ (R476, R501; log 127). -/
def Tel.measure (t : Tel) (mw : Nat) (temp : BitVec 16) (uw : Nat) : Tel :=
  { t with
    mw := BitVec.ofNat 16 (min mw 0xFFFF)
    temp := temp
    peak := if t.peak.toInt < temp.toInt then temp else t.peak
    energy := min (t.energy + (1000 * mw + uw)) (1000000 * 2 ^ 64 - 1) }

/-- THERMAL_HIGH and GOV_FLOOR with their arming (R503). -/
def Engine.govEvents (e : Engine) (above : Bool) (temp : BitVec 16) : Engine :=
  let hot := decide (1680 ≤ temp.toInt)
  let p := e.power
  let floor := above && !e.grants.isEmpty && e.grants.all fun k => k == 8
  let th := if hot then false else if temp.toInt < 1600 then true else p.thermalArmed
  ((({ e with power := { p with thermalArmed := th, floorArmed := p.floorArmed && !floor } }).raiseIf (hot && p.thermalArmed) .thermalHigh)).raiseIf
    (floor && p.floorArmed) .govFloor

/-- GOVERNOR_INTERVAL: at the end of a 1 µs interval the governor estimates power, `estimateMw` mW and `fractionUw` µW, and trims or raises
the steps of one tier (R501 to R503). -/
def execGovernorInterval (estimateMw : Nat) (temp : BitVec 16) (fractionUw : Nat) (s : State) : Host.Outcome State Fault Refusal :=
  done (s.onEng fun e =>
    if !e.up then e
    else
      let uw := 1000 * estimateMw + fractionUw
      let above := govOver e.glb uw temp
      let e1 := ({ e with tel := e.tel.measure estimateMw temp fractionUw }).govEvents above temp
      if above then
        match e1.trimTier with
        | some t => e1.moveTier t fun k => max 8 (k - 1)
        | none => e1
      else if govUnder e.glb uw temp then
        match e1.raiseTier with
        | some t => let e2 := e1.moveTier t fun k => min 32 (k + 1); { e2 with power := { e2.power with floorArmed := true } }
        | none => e1
      else e1)

/-- SPREAD_SWEEP_START: a sweep begins with the depth that GLB_SPREAD holds (R504). -/
def execSpreadSweepStart (s : State) : Host.Outcome State Fault Refusal :=
  done (s.onEng fun e => if e.up then { e with power := { e.power with sweepDepth := e.glb.depth } } else e)

/-! ## One control clock -/

/-- At the end of a control clock the times run on from which a spindle is idle or drained: those of a spindle that is not start with the
next clock (R497). -/
def Engine.markBusy (e : Engine) : Engine :=
  { e with spindles := e.spindles.mapFinIdx fun i s h =>
      { s with quietFrom := if e.idleSpindle ⟨i, h⟩ then s.quietFrom else e.now + 1
               drainedFrom := if s.drained then s.drainedFrom else e.now + 1 } }

/-- One control clock passes: what met in it is settled, a key roll that has begun ends, register accesses that waited are served, and the
time base moves while the engine is supplied (R344, R415, R435, R447, R476, R497; log 1). -/
def clockTick (s : State) : State :=
  if s.eng.power.phase = .unsupplied then s
  else
    let s1 := s.settleRoll.onEng Engine.settle
    (s1.serveWaiting s1.eng.glb.waiting.length).onEng fun e => let e1 := e.markBusy; { e1 with now := e1.now + 1, knots := e1.knots.nextClock }

end Sys2Proof.Machine
end

