-- ==== Sys2Proof/Machine/Dispatch.lean ====
section
/-! DEFINITION. One arm for each command: a direct call of its meaning, or a rejection by name. -/

namespace Sys2Proof.Machine

def exec (i : Instr) (s : State) : Host.Outcome State Fault Refusal :=
  match i with
  | .coldReset => Sys2Proof.Machine.execColdReset s
  | .warmReset cause => Sys2Proof.Machine.execWarmReset cause s
  | .warmQuiesceEnd => Sys2Proof.Machine.execWarmQuiesceEnd s
  | .startDistaffWoken => Sys2Proof.Machine.execStartDistaffWoken s
  | .startMapRebuilt => Sys2Proof.Machine.execStartMapRebuilt s
  | .startKeysLoaded => Sys2Proof.Machine.execStartKeysLoaded s
  | .firmwareMeasured distaff => Sys2Proof.Machine.execFirmwareMeasured distaff s
  | .recoveryLoadDone => Sys2Proof.Machine.execRecoveryLoadDone s
  | .imageSelected distaff => Sys2Proof.Machine.execImageSelected distaff s
  | .startImageApplied => Sys2Proof.Machine.execStartImageApplied s
  | .spindleWakeRequest n => Sys2Proof.Machine.execSpindleWakeRequest n s
  | .wakeStart => Sys2Proof.Machine.execWakeStart s
  | .wakeComplete d => Sys2Proof.Machine.execWakeComplete d s
  | .spindlePowerOff n => Sys2Proof.Machine.execSpindlePowerOff n s
  | .distaffPowerOff => Sys2Proof.Machine.execDistaffPowerOff s
  | .governorInterval estimateMw temp fractionUw => Sys2Proof.Machine.execGovernorInterval estimateMw temp fractionUw s
  | .spreadSweepStart => Sys2Proof.Machine.execSpreadSweepStart s
  | .scrubVisit row found patrolEnds => Sys2Proof.Machine.execScrubVisit row found patrolEnds s
  | .calibrationFold => Sys2Proof.Machine.execCalibrationFold s
  | .distaffBlockWriteDone failed => Sys2Proof.Machine.execDistaffBlockWriteDone failed s
  | .telemetrySample => Sys2Proof.Machine.execTelemetrySample s
  | .tickArrive t => Sys2Proof.Machine.execTickArrive t s
  | .syntheticTick t => Sys2Proof.Machine.execSyntheticTick t s
  | .maxGapExpiry t => Sys2Proof.Machine.execMaxGapExpiry t s
  | .closeExpiry t => Sys2Proof.Machine.execCloseExpiry t s
  | .budgetExpiry t => Sys2Proof.Machine.execBudgetExpiry t s
  | .shareWindowEnd => Sys2Proof.Machine.execShareWindowEnd s
  | .switchPointReached n => Sys2Proof.Machine.execSwitchPointReached n s
  | .contextSaveDone n ns => Sys2Proof.Machine.execContextSaveDone n ns s
  | .jobResume n => Sys2Proof.Machine.execJobResume n s
  | .contextRestoreDone n ns => Sys2Proof.Machine.execContextRestoreDone n ns s
  | .jobStart n => Sys2Proof.Machine.execJobStart n s
  | .workClaimGrant n => Sys2Proof.Machine.execWorkClaimGrant n s
  | .completionPost n j clocks stalled => Sys2Proof.Machine.execCompletionPost n j clocks stalled s
  | .dofferAccept => Sys2Proof.Machine.execDofferAccept s
  | .recordStepsBegin => Sys2Proof.Machine.execRecordStepsBegin s
  | .foldHeaderReadDone resp data => Sys2Proof.Machine.execFoldHeaderReadDone resp data s
  | .foldDestAck resp => Sys2Proof.Machine.execFoldDestAck resp s
  | .knotBankApply bank row => Sys2Proof.Machine.execKnotBankApply bank row s
  | .drainLimitExpiry n => Sys2Proof.Machine.execDrainLimitExpiry n s
  | .enableWrite n on => Sys2Proof.Machine.execEnableWrite n on s
  | .hankEnWrite n on => Sys2Proof.Machine.execHankEnWrite n on s
  | .plyEnWrite n on => Sys2Proof.Machine.execPlyEnWrite n on s
  | .ringEnWrite n on => Sys2Proof.Machine.execRingEnWrite n on s
  | .spnAbortWrite n tag => Sys2Proof.Machine.execSpnAbortWrite n tag s
  | .kntCountWrite path v => Sys2Proof.Machine.execKntCountWrite path v s
  | .kntThreshWrite path v => Sys2Proof.Machine.execKntThreshWrite path v s
  | .kntAddWrite path v => Sys2Proof.Machine.execKntAddWrite path v s
  | .dofRingConfigWrite reg v => Sys2Proof.Machine.execDofRingConfigWrite reg v s
  | .dofRingTailWrite v => Sys2Proof.Machine.execDofRingTailWrite v s
  | .glbEvtAckWrite v => Sys2Proof.Machine.execGlbEvtAckWrite v s
  | .snapshotWrite path page v => Sys2Proof.Machine.execSnapshotWrite path page v s
  | .snapshotCaptureDone => Sys2Proof.Machine.execSnapshotCaptureDone s
  | .aliasWrite addr v => Sys2Proof.Machine.execAliasWrite addr v s
  | .tckPinPolWrite v => Sys2Proof.Machine.execTckPinPolWrite v s
  | .telRingConfigWrite reg v => Sys2Proof.Machine.execTelRingConfigWrite reg v s
  | .telRingTailWrite v => Sys2Proof.Machine.execTelRingTailWrite v s
  | .registerWrite path addr strb data => Sys2Proof.Machine.execRegisterWrite path addr strb data s
  | .registerStallLimit => Sys2Proof.Machine.execRegisterStallLimit s
  | .tvVote => Sys2Proof.Machine.execTvVote s
  | .secAttRequest => Sys2Proof.Machine.execSecAttRequest s
  | .attestReportReady => Sys2Proof.Machine.execAttestReportReady s
  | .narrowPush path count ends => Sys2Proof.Machine.execNarrowPush path count ends s
  | .narrowEnd => Sys2Proof.Machine.execNarrowEnd s
  | .narrowAbort => Sys2Proof.Machine.execNarrowAbort s
  | .narrowPop cell => Sys2Proof.Machine.execNarrowPop cell s
  | .imageActivate resp copy => Sys2Proof.Machine.execImageActivate resp copy s
  | .imageStoreDone => Sys2Proof.Machine.execImageStoreDone s
  | .rebind => Sys2Proof.Machine.execRebind s
  | .keyRoll => Sys2Proof.Machine.execKeyRoll s
  | .testUnlock => Sys2Proof.Machine.execTestUnlock s
  | .counterReseed => Sys2Proof.Machine.execCounterReseed s
  | .scrubPolicy => Sys2Proof.Machine.execScrubPolicy s
  | .rebindDrainEnd => Sys2Proof.Machine.execRebindDrainEnd s
  | .bypass => Sys2Proof.Machine.execBypass s
  | .idcode => Sys2Proof.Machine.execIdcode s
  | .wsBypass => Sys2Proof.Machine.execWsBypass s
  | .wsExtest => Sys2Proof.Machine.execWsExtest s
  | .wsIntest => Sys2Proof.Machine.execWsIntest s
  | .engDebug op => Sys2Proof.Machine.execEngDebug op s
  | .engMbist => Sys2Proof.Machine.execEngMbist s
  | .engScan => Sys2Proof.Machine.execEngScan s
  | .portQueueWriteBody w => Sys2Proof.Machine.execPortQueueWriteBody w s
  | .portQueueWriteEnd w => Sys2Proof.Machine.execPortQueueWriteEnd w s
  | .portQueueWriteAbort w => Sys2Proof.Machine.execPortQueueWriteAbort w s
  | .portQueueRead r cell => Sys2Proof.Machine.execPortQueueRead r cell s
  | .spindleQueueWrite n j => Sys2Proof.Machine.execSpindleQueueWrite n j s
  | .flyerQueueWrite q bytes ends => Sys2Proof.Machine.execFlyerQueueWrite q bytes ends s
  | .spindleCellRead n j cell => Sys2Proof.Machine.execSpindleCellRead n j cell s
  | .cellGrant => Sys2Proof.Machine.execCellGrant s
  | .cellWaitExpiry q => Sys2Proof.Machine.execCellWaitExpiry q s
  | .staleTimerExpiry q => Sys2Proof.Machine.execStaleTimerExpiry q s
  | .leafReadResponse p id resp poisoned rlast data => Sys2Proof.Machine.execLeafReadResponse p id resp poisoned rlast data s
  | .leafWriteResponse p id resp dataSent => Sys2Proof.Machine.execLeafWriteResponse p id resp dataSent s
  | .axiTimeout p id => Sys2Proof.Machine.execAxiTimeout p id s
  | .fwdCreditGrant n => Sys2Proof.Machine.execFwdCreditGrant n s
  | .flnkRstEnd n => Sys2Proof.Machine.execFlnkRstEnd n s
  | .feedWordSend n j waited => Sys2Proof.Machine.execFeedWordSend n j waited s
  | .backWordArrive n tag count data => Sys2Proof.Machine.execBackWordArrive n tag count data s
  | .streamHeaderArrive n j o row => Sys2Proof.Machine.execStreamHeaderArrive n j o row s
  | .tileEntryArrive n j o row => Sys2Proof.Machine.execTileEntryArrive n j o row s
  | .streamSetupDone n j o => Sys2Proof.Machine.execStreamSetupDone n j o s
  | .tilePayloadArrive n j o row waited => Sys2Proof.Machine.execTilePayloadArrive n j o row waited s
  | .whorlBankFilled n j => Sys2Proof.Machine.execWhorlBankFilled n j s
  | .plyBankReadDone n j row whorlWait drainWait => Sys2Proof.Machine.execPlyBankReadDone n j row whorlWait drainWait s
  | .accumulatorDrain n j => Sys2Proof.Machine.execAccumulatorDrain n j s
  | .carderSourceRead n j row => Sys2Proof.Machine.execCarderSourceRead n j row s
  | .scaleChosen n j => Sys2Proof.Machine.execScaleChosen n j s
  | .drafterSourceRead n j row => Sys2Proof.Machine.execDrafterSourceRead n j row s
  | .streamHeaderWriteAck n j => Sys2Proof.Machine.execStreamHeaderWriteAck n j s
  | .groupSlotWriteAck n j => Sys2Proof.Machine.execGroupSlotWriteAck n j s
  | .groupWaitEnd n j => Sys2Proof.Machine.execGroupWaitEnd n j s
  | .stepSetCommit n setId => Sys2Proof.Machine.execStepSetCommit n setId s
  | .searchDone n lane => Sys2Proof.Machine.execSearchDone n lane s
  | .mergeSegmentDone n lane => Sys2Proof.Machine.execMergeSegmentDone n lane s
  | .sortPassDone n j o => Sys2Proof.Machine.execSortPassDone n j o s
  | .laneStealRequest n lane => Sys2Proof.Machine.execLaneStealRequest n lane s
  | .laneStealDecide n victim => Sys2Proof.Machine.execLaneStealDecide n victim s
  | .laneStealAnswer n lane => Sys2Proof.Machine.execLaneStealAnswer n lane s
  | .laneStealRetry n lane => Sys2Proof.Machine.execLaneStealRetry n lane s
  | .ringStealRequest n => Sys2Proof.Machine.execRingStealRequest n s
  | .ringStealAnswer n => Sys2Proof.Machine.execRingStealAnswer n s
  | .ringStealRetry n => Sys2Proof.Machine.execRingStealRetry n s
  | .ringRecordWriteAck n => Sys2Proof.Machine.execRingRecordWriteAck n s
  | .abandonNotice n => Sys2Proof.Machine.execAbandonNotice n s
  | .partialReduce n j output => Sys2Proof.Machine.execPartialReduce n j output s
  | .hankSideGrant n side waited => Sys2Proof.Machine.execHankSideGrant n side waited s
  | .hankMatchDone n j => Sys2Proof.Machine.execHankMatchDone n j s
  | .hankBuildDone n j => Sys2Proof.Machine.execHankBuildDone n j s
  | .hankEmitDone n j => Sys2Proof.Machine.execHankEmitDone n j s
  | .hankDecodeSetupDone n j => Sys2Proof.Machine.execHankDecodeSetupDone n j s
  | .hankBlockDecoded n j => Sys2Proof.Machine.execHankBlockDecoded n j s
  | .haloSlotWaitEnd n j waited => Sys2Proof.Machine.execHaloSlotWaitEnd n j waited s
  | .halfPublishAck n j => Sys2Proof.Machine.execHalfPublishAck n j s
  | .haloReadyWaitEnd n j waited => Sys2Proof.Machine.execHaloReadyWaitEnd n j waited s
  | .boxListHeaderArrive n j => Sys2Proof.Machine.execBoxListHeaderArrive n j s
  | .placementDecision => Sys2Proof.Machine.execPlacementDecision s
  | .stagedCopyDone tensor => Sys2Proof.Machine.execStagedCopyDone tensor s
  | .tensorFree tensor => Sys2Proof.Machine.execTensorFree tensor s
  | .translationMissFill n tensor => Sys2Proof.Machine.execTranslationMissFill n tensor s
  | .supplyRemoved => Sys2Proof.Machine.execSupplyRemoved s
  | .warmResetRelease heldForRecovery => Sys2Proof.Machine.execWarmResetRelease heldForRecovery s
  | .flyerCellRead cell => Sys2Proof.Machine.execFlyerCellRead cell s
  | .unlistedOpcodeSubmit => Sys2Proof.Machine.execUnlistedOpcodeSubmit s

end Sys2Proof.Machine
end

