-- ==== Sys2Proof/Safety.lean ====
section
/-! DEFINITION. What counts as a safe run of the block. -/

namespace Sys2Proof.Machine

/-- The addressed stores are in canonical form: the view of chip memory, the Bobbin store and the store of
every spindle list addresses that strictly rise and no byte that reads as an unlisted one; the regions of the
Distaff and Flyer SRAM do not end in bytes that read as those beyond them. -/
def Memory.wf (s : State) : Bool :=
  Tab.wf 0 s.eng.mem && Tab.wf 0 s.eng.bobbin && (s.eng.spindles.toList.all fun x => Tab.wf 0 x.store) &&
  trimmed s.eng.distaff.fw && trimmed s.eng.distaff.imgA && trimmed s.eng.distaff.imgB && trimmed s.eng.flyer.sram

end Sys2Proof.Machine

namespace Sys2Proof.Safety
open Sys2Proof.Machine

/-- A step is safe when it answers a next state: no command of this block may stop it. -/
def stepSafe (s : State) : Prop := ∃ s', step s = .next s'

/-- The lockout of critical commands is sound (R413): the run of failed frames never passes
three, and the unit is locked exactly when it has reached three. -/
def lockoutSound (s : State) : Prop :=
  s.sec.failRun ≤ 3 ∧ (s.sec.locked = true ↔ s.sec.failRun = 3)

/-- The stores, queues and jobs are sound: the addressed stores are in canonical form, no STREAM queue holds a whole cell back as its tail
(R318), and the jobs of a spindle have distinct numbers, in dispatch order, all below the next (R357). -/
def storesSound (s : State) : Prop :=
  Memory.wf s = true ∧ (∀ q ∈ s.eng.creel.queues, q.2.tail.length < 64) ∧
  ∀ x ∈ s.eng.spindles.toList, (x.jobs.map fun j => j.id).Pairwise (· < ·) ∧ ∀ j ∈ x.jobs, j.id < x.jobNext

/-- The commands that act on the security unit: resets, the steps of the start sequence that load keys and
measure firmware, the keyed commands, attestation, test access under a scope, and the register writes that
reach its pages.  Every other command acts on the rest of the engine alone. -/
def actsOnSecurity : Instr → Bool
  | .coldReset | .supplyRemoved | .warmQuiesceEnd => true
  | .startKeysLoaded | .firmwareMeasured _ | .recoveryLoadDone => true
  | .imageActivate _ _ | .imageStoreDone | .rebind | .keyRoll | .testUnlock | .counterReseed | .scrubPolicy
  | .unlistedOpcodeSubmit => true
  | .secAttRequest | .attestReportReady => true
  | .wsIntest | .engDebug _ | .engMbist | .engScan => true
  | .snapshotWrite _ _ _ | .snapshotCaptureDone | .registerWrite _ _ _ _ => true
  | _ => false

/-- The commands that put the security unit in its power-on state. -/
def resetsSecurity : Instr → Bool
  | .coldReset | .supplyRemoved | .warmQuiesceEnd => true
  | _ => false

/-- A submitted frame with this OPCODE reaches the security unit's checks: the register file serves its GO, or
the frame was taken before, no earlier command is being handled, and the frame has not passed its checks before (R411). -/
def submitted (s : State) (op : Nat) : Prop :=
  s.eng.power.regPort = true ∧ (s.sec.busy = true ∨ s.eng.glb.stall = none ∧ s.eng.glb.waiting = []) ∧ s.eng.storing = false ∧ cmdOpcode s.sec.frame = op ∧ s.sec.passed = false

/-- A submitted frame with this OPCODE passes checks 1 to 5 of R411. -/
def accepted (s : State) (op : Nat) : Prop := submitted s op ∧ s.sec.check s.eng.fwRuns = .passed

/-- The register file serves a register access of the register port now (R447, R510). -/
def portServes (s : State) : Prop := s.eng.power.regPort = true ∧ s.eng.glb.stall = none ∧ s.eng.glb.waiting = []

end Sys2Proof.Safety
end

