-- ==== Sys2Proof/Certificates/Slice0/Obligations.lean ====
section
/-! DEFINITION. The statements about the model that the provers are asked to prove. -/

open Sys2Proof Sys2Proof.Machine

/-! ## The queue of commands, and rules of the whole machine -/

/-- A step takes the command at the front of the queue and runs it over the queue's rest. -/
def Obligations.StepTakesFront : Prop :=
  ∀ (c : Instr) (rest : List Instr) (s : State), s.pending = c :: rest → step s = exec c { s with pending := rest }

/-- With no command waiting, a step is one control clock: unsupplied, nothing changes; supplied, and with no
tick, close, MAX_GAP or BUDGET_US to settle, no key roll to complete and no register access waiting, the time base of TEL_UPTIME moves by
one, the knot banks begin a new dispatch clock, the times of R497 start with the next clock for every spindle that is not idle, or not
drained, and nothing else changes.  DESIGN CHOICE, log 1: the model's choice, no rule of the spec. -/
def Obligations.IdleStepIsOneControlClock : Prop :=
  ∀ s : State, s.pending = [] →
    (s.eng.power.phase = .unsupplied → step s = .next s) ∧
    (s.eng.power.phase ≠ .unsupplied →
      (∀ t : Inp, (s.eng.tick t).due = false ∧ (s.eng.tick t).lostDue = false ∧ (s.eng.tick t).closeDue = false ∧ (s.eng.tick t).budgetDue = false) →
      (s.sec.busy = false ∨ s.sec.keys.cmdNext = none ∧ s.sec.keys.imgNext = none) → s.eng.glb.waiting = [] →
      step s = .next { s with eng := { s.eng with
        now := s.eng.now + 1
        spindles := s.eng.spindles.mapFinIdx fun i x h =>
          { x with quietFrom := if s.eng.idleSpindle ⟨i, h⟩ then x.quietFrom else s.eng.now + 1
                   drainedFrom := if x.drained then x.drainedFrom else s.eng.now + 1 }
        knots := { s.eng.knots with clock := s.eng.knots.clock + 1, issued := [], applied := [] } } })

/-- Every command answers a next state in every state, and the commands that wait behind it stay as they are:
no command of this block stops the machine (that each of R516's commands has an answer in every state is the model's choice, log 7). -/
def Obligations.EveryCommandAnswers : Prop :=
  ∀ (c : Instr) (s : State), ∃ t, exec c s = .next t ∧ t.pending = s.pending

/-- The reset state is sound: no command waits, no counted failure stands, and the addressed stores are in
canonical form, as are its queues and jobs. -/
def Obligations.ResetStateIsSound : Prop :=
  State.reset.pending = [] ∧ Safety.lockoutSound State.reset ∧ Memory.wf State.reset = true ∧ Safety.storesSound State.reset

/-- The lockout of critical commands stays sound in every step: FAIL_RUN never passes three, and the unit is
locked exactly when it has reached three (R413). -/
def Obligations.LockoutStaysSound : Prop :=
  ∀ s t : State, Safety.lockoutSound s → step s = .next t → Safety.lockoutSound t

/-- A command that is none of the security unit's leaves the security unit as it is. -/
def Obligations.OtherCommandsLeaveSecurity : Prop :=
  ∀ (c : Instr) (s : State), Safety.actsOnSecurity c = false → ∃ t, exec c s = .next t ∧ t.sec = s.sec

/-- No command changes the device attestation key: it is written at manufacture and never rolled (R402).  The lock and FAIL_RUN clear only at a reset: while the unit is locked, every other command leaves the lock,
FAIL_RUN and the stored COUNTER (R413). -/
def Obligations.AttestationKeyAndLockStay : Prop :=
  (∀ (c : Instr) (s : State), ∃ t, exec c s = .next t ∧ t.sec.keys.att = s.sec.keys.att) ∧
  (∀ (c : Instr) (s : State), Safety.resetsSecurity c = false → s.sec.locked = true →
    ∃ t, exec c s = .next t ∧ t.sec.locked = true ∧ t.sec.failRun = s.sec.failRun ∧ t.sec.keys.counter = s.sec.keys.counter)

/-- No register shows a key: what a register reads does not depend on the six key entries of the Keys region
(R402). -/
def Obligations.NoRegisterReadsAKey : Prop :=
  ∀ (s : State) (att cmd img : List Byte) (cmdNext imgNext : Option (List Byte × BitVec 16)) (a : Nat),
    readReg (s.onSec fun c => { c with keys := { c.keys with att := att, cmd := cmd, img := img, cmdNext := cmdNext, imgNext := imgNext } }) a =
      readReg s a

/-! ## Critical commands (R409 to R418, R484) -/

/-- OPCODE of a command that a frame submits; none for any other. -/
def keyedOpcode : Instr → Option Nat
  | .imageActivate _ _ => some 1
  | .rebind => some 2
  | .keyRoll => some 3
  | .testUnlock => some 4
  | .counterReseed => some 5
  | .scrubPolicy => some 6
  | _ => none

/-- A submitted frame that check 1 or 2 refuses posts its RESULT and is not counted: LOCKED, NO_FW or
KEYS_CLEARED, in that order; nothing else changes (R411).  A submitted frame that fails check 3, 4 or 5 is a counted failure: BAD_FRAME, BAD_MAC or STALE_COUNTER is
posted, CMD_REJECT is raised, SEC_CMD_REJ_CNT and FAIL_RUN rise by one, and the third in a run locks the unit and
raises CMD_LOCKOUT; no key and no counter changes (R411, R413). -/
def Obligations.FramesAreRefusedOrCounted : Prop :=
  (∀ (c : Instr) (op : Nat) (s : State), keyedOpcode c = some op → Safety.submitted s op →
    (s.sec.locked = true → exec c s = .next { s with sec := { s.sec with busy := false, passed := false, result := 4, detail := 0 } }) ∧
    (s.sec.locked = false → s.eng.flyer.entry = none →
      exec c s = .next { s with sec := { s.sec with busy := false, passed := false, result := 7, detail := 0 } }) ∧
    (s.sec.locked = false → s.eng.flyer.entry ≠ none → s.sec.cleared = true →
      exec c s = .next { s with sec := { s.sec with busy := false, passed := false, result := 8, detail := 0 } })) ∧
  (∀ (c : Instr) (op : Nat) (s : State), keyedOpcode c = some op → Safety.submitted s op →
    s.sec.locked = false → s.eng.flyer.entry ≠ none → s.sec.cleared = false →
    ∀ r : Nat, (frameOk s.sec.frame = false ∧ r = 1 ∨
        frameOk s.sec.frame = true ∧ frameMacOk s.sec.keys.cmd s.sec.frame = false ∧ r = 2 ∨
        frameOk s.sec.frame = true ∧ frameMacOk s.sec.keys.cmd s.sec.frame = true ∧
          cmdCounter s.sec.frame ≤ s.sec.keys.counter.toNat ∧ r = 3) →
      ∃ t, exec c s = .next t ∧
        t.sec = { s.sec with
          busy := false, passed := false, result := BitVec.ofNat 8 r, detail := 0
          rejCnt := satInc s.sec.rejCnt, failRun := s.sec.failRun + 1, locked := decide (3 ≤ s.sec.failRun + 1) } ∧
        t.eng.events = (if 3 ≤ s.sec.failRun + 1 then [Event.cmdLockout] else []) ++ .cmdReject r :: s.eng.events)

/-- A frame that passes check 5 uses up its counter before any effect and returns FAIL_RUN to 0, whatever checks
6 and 7 find, and whether or not the Flyer is free to act on it (R412, R413).  COUNTER_RESEED alone may then raise the
stored COUNTER further.  With no spare block left the write of COUNTER fails (R493), and the command has no effect: it posts REFUSED, detail
14 (log 117: the model's choice).  Check 6 is the security unit's, with the Flyer free or not: a copy address that is no multiple of 64
below 2^48, or a REBIND out of range, posts BAD_PAYLOAD (R411, R417).  While the Flyer is not free, IMAGE_ACTIVATE and REBIND that pass it
stay submitted: BUSY is set and the rest of the engine keeps its image, activation and RESULT (log 13: the model's choice). -/
def Obligations.AcceptedFrameUsesItsCounter : Prop :=
  (∀ (c : Instr) (op : Nat) (s : State), keyedOpcode c = some op → Safety.accepted s op → s.eng.distaff.canStore = true →
    ∃ t, exec c s = .next t ∧ t.sec.failRun = 0 ∧ t.sec.locked = false ∧
      (op ≠ 5 → t.sec.keys.counter = BitVec.ofNat 64 (cmdCounter s.sec.frame)) ∧
      (op = 5 → t.sec.keys.counter = BitVec.ofNat 64 (max (cmdCounter s.sec.frame) (fieldAt s.sec.frame 0x10 8)))) ∧
  (∀ (c : Instr) (op : Nat) (s : State), keyedOpcode c = some op → Safety.accepted s op → s.eng.distaff.canStore = false →
    exec c s = .next { s with sec := { s.sec with failRun := 0, busy := false, passed := false, result := 6, detail := 14 } }) ∧
  (∀ (c : Instr) (op : Nat) (s : State), keyedOpcode c = some op → op = 1 ∨ op = 2 → Safety.accepted s op → s.eng.distaff.canStore = true →
    let good := if op = 1 then decide (fieldAt s.sec.frame 0x10 8 % 64 = 0 ∧ fieldAt s.sec.frame 0x10 8 < 2 ^ 48)
                else (RebindCmd.parse s.sec.frame).ok
    (good = false → ∃ t, exec c s = .next t ∧ t.sec.busy = false ∧ t.sec.result = 5 ∧ t.eng.act = s.eng.act ∧ t.eng.cfg = s.eng.cfg) ∧
    (good = true → s.eng.flyerFree = false →
      ∃ t, exec c s = .next t ∧ t.sec.busy = true ∧ t.sec.passed = true ∧ t.sec.cmd = s.sec.frame ∧ t.sec.result = s.sec.result ∧
        t.eng.act = s.eng.act ∧ t.eng.cfg = s.eng.cfg))

/-- KEY_ROLL: the key that WRAPPED holds under the current CMD key becomes the NEXT entry of the CMD key (KEY 0) or
the IMG key (KEY 1), with the generation raised by one, and the frame stays busy; a WRAPPED that fails its check, or
another KEY, posts BAD_PAYLOAD and rolls nothing (R415).  Both hold while a spare block is left; without one a roll is refused
and no key changes (R493; log 117: the model's choice of RESULT).  At the control clock that ends such a roll the NEXT entry
replaces the key and is empty, and RESULT OK is posted; before that a roll of the IMG key rewrites, in each region whose copy fits it and
passes CHECK under the old or the new key, the copy's CHECK under the new one (R415, R418; log 14: the model's two parts of a roll). -/
def Obligations.KeyRollReplacesAKey : Prop :=
  (∀ s : State, Safety.accepted s 3 → s.sec.keys.cmdNext = none → s.sec.keys.imgNext = none → s.eng.distaff.canStore = true →
    ∃ t, exec .keyRoll s = .next t ∧ t.pending = s.pending ∧
      let k := s.sec.keys
      let counter := BitVec.ofNat 64 (cmdCounter s.sec.frame)
      (match fieldAt s.sec.frame 0x10 1, keyUnwrap k.cmd (slice s.sec.frame 0x18 40) with
       | 0, some new => t.sec.busy = true ∧ t.sec.keys = { k with counter := counter, cmdNext := some (new, k.cmdGen + 1) }
       | 1, some new => t.sec.busy = true ∧ t.sec.keys = { k with counter := counter, imgNext := some (new, k.imgGen + 1) }
       | _, _ => t.sec.busy = false ∧ t.sec.result = 5 ∧ t.sec.detail = 0 ∧ t.sec.keys = { k with counter := counter })) ∧
  (∀ s : State, Safety.accepted s 3 → s.sec.keys.cmdNext = none → s.sec.keys.imgNext = none → s.eng.distaff.canStore = false →
    ∃ t, exec .keyRoll s = .next t ∧ t.sec.busy = false ∧ t.sec.keys = s.sec.keys ∧ t.sec.result = 6) ∧
  (∀ (s : State) (new : List Byte) (g : BitVec 16), s.pending = [] → s.eng.glb.waiting = [] → s.sec.busy = true → s.eng.up = true →
    s.eng.distaff.canStore = true →
    (s.sec.keys.cmdNext = some (new, g) → s.sec.keys.imgNext = none →
      ∃ t, step s = .next t ∧ t.sec.busy = false ∧ t.sec.result = 0 ∧ t.sec.keys = { s.sec.keys with cmd := new, cmdGen := g, cmdNext := none }) ∧
    (s.sec.keys.imgNext = some (new, g) → s.sec.keys.cmdNext = none →
      ∃ t, step s = .next t ∧ t.sec.busy = false ∧ t.sec.result = 0 ∧ t.sec.keys = { s.sec.keys with img := new, imgGen := g, imgNext := none } ∧
        ∀ r : Nat, r = 1 ∨ r = 2 →
          let b := s.eng.distaff.region r
          t.eng.distaff.region r =
            if 64 + (CopyHdr.parse b).frameLen ≤ 1048576 ∧ (copyCheckOk s.sec.keys.img b = true ∨ copyCheckOk new b = true)
            then trimZeros (withCheck new b) else b))

/-- TEST_UNLOCK opens the scopes that SCOPE names, keeps those already open, and clears the key registers when it
opens SCAN (R416).  COUNTER_RESEED stores NEW_COUNTER when it exceeds the frame's own COUNTER and posts BAD_PAYLOAD
otherwise (R417).  SCRUB_POLICY replaces the policy as a whole, or posts BAD_PAYLOAD (R484).  All three while a spare block is left for the
frame's COUNTER (R412, R493). -/
def Obligations.UnlockReseedAndScrubPolicy : Prop :=
  ∀ s : State, s.eng.distaff.canStore = true →
    (Safety.accepted s 4 →
      ∃ t, exec .testUnlock s = .next t ∧ t.sec.result = 0 ∧ t.sec.busy = false ∧
        t.sec.scope = s.sec.scope ||| BitVec.ofNat 3 (fieldAt s.sec.frame 0x10 1) ∧
        (t.sec.cleared = true ↔ s.sec.cleared = true ∨ bitOf (fieldAt s.sec.frame 0x10 1) 2 = true ∧ bitOf s.sec.scope.toNat 2 = false)) ∧
    (Safety.accepted s 5 →
      ∃ t, exec .counterReseed s = .next t ∧ t.sec.busy = false ∧ t.sec.scope = s.sec.scope ∧
        (if cmdCounter s.sec.frame < fieldAt s.sec.frame 0x10 8 then
          t.sec.result = 0 ∧ t.sec.keys.counter = BitVec.ofNat 64 (fieldAt s.sec.frame 0x10 8)
         else t.sec.result = 5 ∧ t.sec.keys.counter = BitVec.ofNat 64 (cmdCounter s.sec.frame))) ∧
    (Safety.accepted s 6 →
      ∃ t, exec .scrubPolicy s = .next t ∧ t.sec.busy = false ∧ t.sec.scope = s.sec.scope ∧
        (if scrubPayloadOk (slice s.sec.frame 0x10 16) then
          t.sec.result = 0 ∧ t.eng.scrub.pol = ScrubPol.parse (slice s.sec.frame 0x10 16)
         else t.sec.result = 5 ∧ t.eng.scrub.pol = s.eng.scrub.pol))

/-- A frame whose OPCODE is none of the six is a counted failure with BAD_FRAME (R409, R411, R413).  SEC_ATT_REQUEST clears VALID and takes the nonce, abandoning an earlier request; ATTEST_REPORT_READY then
places the report of the state as it stands and sets VALID, once the keys are loaded, and the report names
MEASUREMENT, the COUNTER and the nonce; its MAC is all zero after the keys were cleared (R406 to R408, R416). -/
def Obligations.UnlistedOpcodesAndAttestation : Prop :=
  (∀ s : State, (opcodeLen (cmdOpcode s.sec.frame)) = none → Safety.submitted s (cmdOpcode s.sec.frame) →
    s.sec.locked = false → s.eng.flyer.entry ≠ none → s.sec.cleared = false →
    ∃ t, exec .unlistedOpcodeSubmit s = .next t ∧ t.pending = s.pending ∧
      t.sec = { s.sec with
        busy := false, passed := false, result := 1, detail := 0
        rejCnt := satInc s.sec.rejCnt, failRun := s.sec.failRun + 1, locked := decide (3 ≤ s.sec.failRun + 1) }) ∧
  (∀ s : State,
    (Safety.portServes s → exec .secAttRequest s =
      .next { s with sec := { s.sec with attValid := false, attBusy := true, attNonce := s.sec.nonceBytes } }) ∧
    (s.sec.attBusy = true → s.sec.loaded = true →
      ∃ t, exec .attestReportReady s = .next t ∧ t.eng = s.eng ∧
        t.sec = { s.sec with attValid := true, attBusy := false, report := t.sec.report } ∧
        t.sec.report.length = 112 + (attMac s (attBody s)).length ∧
        slice t.sec.report 24 8 = leBytes 8 s.sec.keys.counter.toNat ∧ slice t.sec.report 32 16 = slice s.sec.attNonce 0 16 ∧
        slice t.sec.report 48 48 = slice s.sec.meas 0 48 ∧
        (s.sec.cleared = true → t.sec.report.drop 112 = List.replicate 16 0) ∧
        (s.sec.cleared = false → t.sec.report.drop 112 = cmac s.sec.keys.att (t.sec.report.take 112))))

/-! ## Supply, resets and the start sequence (R507 to R514) -/

/-- COLD_RESET, and SUPPLY_REMOVED but for the phase, put every unit in its reset state; only the Keys region, the
Distaff's stored contents, and chip memory, which is not the engine's, are kept (R21, R402, R507). -/
def Obligations.ColdResetKeepsOnlyTheDistaff : Prop :=
  ∀ s : State, ∃ t u,
    exec .coldReset s = .next t ∧ exec .supplyRemoved s = .next u ∧
    t = { State.reset with
      pending := s.pending
      sec := { State.reset.sec with keys := s.sec.keys }
      eng := { State.reset.eng with
        freeCtr := s.eng.freeCtr, events := s.eng.events, mem := s.eng.mem
        distaff := { s.eng.distaff with pwr := .off, lastAccess := 0, writes := [], recent := [], writeFailed := false } } } ∧
    u = { t with eng := { t.eng with power := { t.eng.power with phase := .unsupplied, wakes := [] } } }

/-- WARM_RESET, by the pin or by Flyer SRAM, begins a quiesce: dispatch stops (the engine is no longer live), every
subordinate half that holds an accepted write answers it SLVERR, nothing of the spindles changes, and no transaction
goes out any more (R508).  A fall of the pin during a quiesce is remembered and changes nothing else: R508 does not
speak of it, and the model reads it so (log 29).  WARM_QUIESCE_END, once no spindle and no shared unit holds an AXI slot, or 100 us after the quiesce began,
drives FLNK_RST on every feed link, of the spindles that are off too, where the 16 link clocks end with FLNK_RST_END (log 120: the model's
reading of step 4), and
returns every unit to its reset state, but for the items of R509: the Distaff's contents with the keys, WARM_CNT, which
counts, TEL_UPTIME, TEL_ENERGY and TEL_TEMP.PEAK, and the PROTO_LOG ring with its count (R508, R509); the free values, the list of
events and chip memory are not the engine's registers and stay (the model's choice, logs 3, 4 and 5). -/
def Obligations.WarmResetQuiescesAndKeeps : Prop :=
  (∀ s : State, s.eng.power.phase ≠ .unsupplied → s.eng.power.phase ≠ .quiesce → s.eng.power.phase ≠ .held →
    ∀ cause : WarmCause, ∃ t, exec (.warmReset cause) s = .next t ∧ t.sec = s.sec ∧ t.pending = s.pending ∧ t.eng.live = false ∧
      t.eng.power = { s.eng.power with
        phase := .quiesce, quiesceFrom := s.eng.now, recoveryAsked := false
        pinLow := match cause with | .pin => true | .flyerSram => s.eng.power.pinLow } ∧
      t.eng.flyer = { s.eng.flyer with halted := match cause with | .pin => s.eng.flyer.halted | .flyerSram => true } ∧
      t.eng.spindles = s.eng.spindles ∧ (cause = .pin → t.eng.unitTxns = s.eng.unitTxns) ∧ (∀ n : Sp, t.eng.pump n = t.eng) ∧
      (∀ p : Port, s.eng.portWaits p = true ∨ s.eng.ports[p].writes ≠ [] → t.eng.ports[p].resp = some .slverr ∧ t.eng.ports[p].writes = [])) ∧
  (∀ s : State, s.eng.power.phase = .quiesce →
    exec (.warmReset .pin) s = .next { s with eng := { s.eng with power := { s.eng.power with pinLow := true } } }) ∧
  (∀ s : State, s.eng.power.phase = .quiesce →
    ((∀ n : Sp, ∀ x ∈ (s.eng.sp n).txns, x.slot = none) ∧ (∀ u ∈ s.eng.unitTxns, 64 ≤ u.slot)) ∨ s.eng.power.quiesceFrom + 40000 ≤ s.eng.now →
    exec .warmQuiesceEnd s = .next { s with
      sec := { State.reset.sec with keys := s.sec.keys }
      eng := { State.reset.eng with
        now := s.eng.now, freeCtr := s.eng.freeCtr, events := s.eng.events, mem := s.eng.mem
        spindles := State.reset.eng.spindles.map fun x => { x with link := { x.link with rst := true } }
        distaff := { s.eng.distaff with pwr := .off, lastAccess := 0, writes := [], recent := [], writeFailed := false }
        glb := { State.reset.eng.glb with
          rstKind := 1, plog := s.eng.glb.plog, plogCnt := s.eng.glb.plogCnt
          warmCnt := if s.eng.glb.warmCnt = 0xFFFF then 0xFFFF else s.eng.glb.warmCnt + 1 }
        tel := { State.reset.eng.tel with
          peak := s.eng.tel.peak, energy := s.eng.tel.energy, lastEnergy := s.eng.tel.energyUj, lastSample := s.eng.now }
        power := { State.reset.eng.power with
          pinLow := s.eng.power.pinLow, recoveryAsked := s.eng.power.recoveryAsked
          phase := if s.eng.power.pinLow then .held else .s1Distaff
          wakes := if s.eng.power.pinLow then [] else [(.distaff, s.eng.now)] } } })

/-- WARM_RESET_RELEASE: once ENG_WRST_N rises after the quiesce, step 1 of the start sequence begins with the wake of
the Distaff, and the boot ROM will be asked for the recovery load exactly when the pin was low for 1 ms (R510, R513).  A release
during the quiesce leaves the quiesce as it is, and step 1 then begins at its end, with what the pin asked for (R508, R510). -/
def Obligations.ReleaseBeginsTheStart : Prop :=
  ∀ (long : Bool) (s : State), s.eng.power.pinLow = true →
    (s.eng.power.phase = .held →
      exec (.warmResetRelease long) s = .next { s with eng := { s.eng with power := { s.eng.power with
        pinLow := false, recoveryAsked := long, phase := .s1Distaff, wakes := [(.distaff, s.eng.now)] } } }) ∧
    (s.eng.power.phase = .quiesce →
      exec (.warmResetRelease long) s = .next { s with eng := { s.eng with power := { s.eng.power with pinLow := false, recoveryAsked := long } } } ∧
      (s.eng.power.quiesceFrom + 40000 ≤ s.eng.now →
        ∃ t u, exec (.warmResetRelease long) s = .next t ∧ exec .warmQuiesceEnd t = .next u ∧ u.eng.power.phase = .s1Distaff ∧
          u.eng.power.pinLow = false ∧ u.eng.power.recoveryAsked = long ∧ u.eng.power.wakes = [(.distaff, s.eng.now)]))

/-- Steps 1 to 3 of the start sequence: the Distaff is on and the register port answers from the end of step 1, the
block map is rebuilt from the journal in step 2, and in step 3 the keys are loaded and an interrupted roll is completed
(R402, R418, R491, R510).  That step 1 ends without a WAKE_START is the model's choice (log 29), and so is that a roll stays interrupted
where no spare block is left for its writes, which then fail (R493; log 117). -/
def Obligations.StartUpToTheKeys : Prop :=
  ∀ s : State,
    (s.eng.power.phase = .s1Distaff → ∃ t, exec .startDistaffWoken s = .next t ∧ t.sec = s.sec ∧
      t.eng.power.phase = .s2Map ∧ t.eng.power.regPort = true ∧ t.eng.distaff.pwr = .on ∧ (∀ w ∈ t.eng.power.wakes, w.1 ≠ .distaff) ∧
      t.eng.distaff.fw = s.eng.distaff.fw ∧ t.eng.spindles = s.eng.spindles) ∧
    (s.eng.power.phase = .s2Map → ∃ t, exec .startMapRebuilt s = .next t ∧ t.sec = s.sec ∧
      t.eng.power = { s.eng.power with phase := .s3Keys } ∧ t.eng.distaff.map = s.eng.distaff.rebuild.map ∧
      (∀ p ∈ t.eng.distaff.spares, p < 1024 ∧ p ∉ t.eng.distaff.retired) ∧ t.eng.distaff.journal = s.eng.distaff.journal) ∧
    (s.eng.power.phase = .s3Keys → ∃ t, exec .startKeysLoaded s = .next t ∧
      t.eng.power.phase = .s4Firmware ∧ t.sec.loaded = true ∧ t.sec.cleared = false ∧
      t.sec.keys.att = s.sec.keys.att ∧ t.sec.keys.counter = s.sec.keys.counter ∧
      (s.eng.distaff.canStore = false → t.sec.keys = s.sec.keys) ∧
      (s.eng.distaff.canStore = true → t.sec.keys.cmdNext = none ∧ t.sec.keys.imgNext = none ∧
        (t.sec.keys.cmd, t.sec.keys.cmdGen) = s.sec.keys.cmdNext.getD (s.sec.keys.cmd, s.sec.keys.cmdGen) ∧
        (t.sec.keys.img, t.sec.keys.imgGen) = s.sec.keys.imgNext.getD (s.sec.keys.img, s.sec.keys.imgGen)))

/-- FIRMWARE_MEASURED: firmware that passes its checks is in Flyer SRAM, measured as SHA-384 of the header and the
body, and the Flyer runs from ENTRY (R404); a header or frame that fails its check, or an uncorrectable read, is FW_BAD
with its detail, SEC_MEAS stays as it is and the recovery load opens (R405, R513); a recovery load that
was asked for opens with DETAIL 0x80 (R513).  No key changes.  That bad firmware leaves the Flyer and its SRAM as they are is the model's
choice (log 27). -/
def Obligations.FirmwareIsMeasuredOrBad : Prop :=
  ∀ (row : Ecc) (s : State), s.eng.power.phase = .s4Firmware →
    (∀ body : List Byte, s.eng.power.recoveryAsked = false → (∀ k, row ≠ .uncorrectable k) → fwLoad s.eng.distaff.fw = .ok body →
      ∃ t, exec (.firmwareMeasured row) s = .next t ∧ t.pending = s.pending ∧
        t.sec = { s.sec with measValid := true, meas := sha384 (slice s.eng.distaff.fw 0 64 ++ body) } ∧
        t.eng.power.phase = .s5Select ∧ t.eng.spindles = s.eng.spindles ∧ t.eng.distaff.fw = s.eng.distaff.fw ∧
        t.eng.flyer = { s.eng.flyer with
          sram := trimZeros body, entry := some (fieldAt s.eng.distaff.fw 0x10 4), halted := false }) ∧
    (∀ d : Nat, s.eng.power.recoveryAsked = false →
      ((∃ k, row = .uncorrectable k) ∧ d = 3 ∨ (∀ k, row ≠ .uncorrectable k) ∧ fwLoad s.eng.distaff.fw = .error d) →
      ∃ t, exec (.firmwareMeasured row) s = .next t ∧ t.sec = { s.sec with fwBad := true, bootDetail := BitVec.ofNat 8 d } ∧
        t.eng.power = { s.eng.power with phase := .recovery } ∧ t.eng.flyer = s.eng.flyer ∧ t.eng.distaff = s.eng.distaff) ∧
    (s.eng.power.recoveryAsked = true →
      ∃ t, exec (.firmwareMeasured row) s = .next t ∧ t.sec = { s.sec with fwBad := false, bootDetail := 0x80 } ∧
        t.eng.power = { s.eng.power with phase := .recovery } ∧ t.eng.flyer = s.eng.flyer ∧ t.eng.distaff = s.eng.distaff)

/-- RECOVERY_LOAD_DONE, once 64 + FRAME_LEN bytes have come: a load that passes the checks has its 64 header bytes written
into the Firmware region and its body decoded into Flyer SRAM, and a warm reset begins; one that fails sets FW_BAD with
its detail, drops what was received, and the load stays open, with the Distaff as it is (R514).  No key changes.  With no spare block left
the write of the header fails and the region stays (R493; log 117: the model's choice of what follows); that the body stands in Flyer SRAM
before the reset is the model's choice (log 27). -/
def Obligations.RecoveryLoadIsTakenOrStaysOpen : Prop :=
  ∀ s : State, s.eng.power.phase = .recovery → s.eng.flyer.loadFull = true →
    (∀ body : List Byte, fwLoad s.eng.flyer.received = .ok body →
      ∃ t, exec .recoveryLoadDone s = .next t ∧ t.sec = s.sec ∧ t.pending = s.pending ∧
        t.eng.power.phase = .quiesce ∧ t.eng.power.quiesceFrom = s.eng.now ∧ t.eng.flyer = { s.eng.flyer with sram := trimZeros body } ∧
        t.eng.distaff.fw =
          (if s.eng.distaff.canStore then trimZeros (patch s.eng.distaff.fw 0 (s.eng.flyer.received.take 64)) else s.eng.distaff.fw) ∧
        t.eng.distaff.imgA = s.eng.distaff.imgA ∧ t.eng.distaff.imgB = s.eng.distaff.imgB) ∧
    (∀ d : Nat, fwLoad s.eng.flyer.received = .error d →
      exec .recoveryLoadDone s = .next { s with
        sec := { s.sec with fwBad := true, bootDetail := BitVec.ofNat 8 d }
        eng := { s.eng with flyer := { s.eng.flyer with received := [], discard := !s.eng.flyer.ended, ended := false } } })

/-- IMAGE_SELECTED: in step 5 the Flyer reads both stored copies and selects one by R384: the valid one with the higher
SEQ, or the only valid one, with IMAGE_FALLBACK exactly when the other is not valid, has the MAGIC and has a higher SEQ; step 6 then begins.  With no
valid copy, IMAGE_NONE is raised and the start ends with no image.  START_IMAGE_APPLIED binds the selected copy's configuration
(R384, R385, R510).  That copy A is taken of two valid copies with one SEQ is the model's choice (log 16), and so is that an
uncorrectable read makes the copy that was to be taken invalid (log 20). -/
def Obligations.StoredImageIsSelectedAndApplied : Prop :=
  ∀ s : State, s.eng.flyer.halted = false →
    (s.eng.power.phase = .s5Select → ∀ row : Ecc,
      let lost := match row with | .uncorrectable _ => true | _ => false
      let a := s.eng.distaff.imgA
      let b := s.eng.distaff.imgB
      let first := (selectCopy s.sec.keys.img (a, false) (b, false)).1
      let sel := selectCopy s.sec.keys.img (a, lost && first == some 0) (b, lost && first == some 1)
      ∃ t, exec (.imageSelected row) s = .next t ∧ t.sec = s.sec ∧ t.eng.selected = sel.1 ∧
        (sel.1 = none → t.eng.power.phase = .running ∧ t.eng.events = .imageNone :: s.eng.events) ∧
        (sel.1 ≠ none → t.eng.power.phase = .s6Apply ∧ t.eng.events = if sel.2 then .imageFallback :: s.eng.events else s.eng.events)) ∧
    (s.eng.power.phase = .s6Apply → ∀ c : Cfg,
      regionConfig s.sec.keys.img s.eng.sectionNext (s.eng.distaff.region (s.eng.selected.getD 0 + 1)) = some c →
      ∃ t, exec .startImageApplied s = .next t ∧ t.sec = s.sec ∧ t.eng.cfg = some c ∧ t.eng.power.phase = .running ∧
        t.eng.activatedAt = s.eng.now ∧ t.eng.glb.partSeq = 0 ∧ t.eng.glb.imgPartial = false ∧
        t.eng.glb.imgCopy = BitVec.ofNat 2 (s.eng.selected.getD 0) ∧
        t.eng.glb.imgSeq = BitVec.ofNat 64 (copySeq (s.eng.distaff.region (s.eng.selected.getD 0 + 1)))) ∧
    (∀ (k a b : List Byte),
      (∀ badB, (regionConfig k 0 a).isSome = true → (badB = true ∨ regionConfig k 0 b = none) → (selectCopy k (a, false) (b, badB)).1 = some 0) ∧
      (∀ badA, (regionConfig k 0 b).isSome = true → (badA = true ∨ regionConfig k 0 a = none) → (selectCopy k (a, badA) (b, false)).1 = some 1) ∧
      ((regionConfig k 0 a).isSome = true → (regionConfig k 0 b).isSome = true →
        selectCopy k (a, false) (b, false) = (some (if copySeq a < copySeq b then 1 else 0), false)) ∧
      (∀ badA badB : Bool,
        let valid (x : List Byte) (bad : Bool) : Prop := bad = false ∧ (regionConfig k 0 x).isSome = true
        let newer (x y : List Byte) : Prop := fieldAt x 0 4 = magicImage ∧ copySeq y < copySeq x
        ((selectCopy k (a, badA) (b, badB)).2 = true ↔
          valid a badA ∧ ¬ valid b badB ∧ newer b a ∨ valid b badB ∧ ¬ valid a badA ∧ newer a b)))

/-- FLYER_CELL_READ: the Flyer, running, takes the next readable cell of the queue that it chooses, and the cell is
freed; its bytes are what the Flyer received (R313, R314).  The cell's row holds no error, known or newly found. -/
def Obligations.FlyerTakesTheNextCell : Prop :=
  ∀ (s : State) (q : Nat) (x : Cell) (row : CellEcc), s.eng.flyerRuns = true → s.eng.power.phase ≠ .recovery → s.eng.flyerNext = some q →
    (s.eng.creel.q q).next? = some x → s.eng.cellFound q row = .ok →
    exec (.flyerCellRead row) s = .next { s with eng := { s.eng with
      creel := s.eng.creel.take s.eng.now q, flyer := { s.eng.flyer with received := x.data } } }


/-! ## The register file and the test access port (R434, R441 to R461) -/

/-- Bits of the words that software reads back as written: the RW and TV fields of R443, R304, R316, R321, R349, R376,
R377, R419, R467 and R476 whose write has no other action on them. -/
def readBackMask (a : Nat) : Option Word :=
  match pageOf a with
  | (.glb, 0x40) => some 0x7F
  | (.glb, 0x44) => some 0xFFFF
  | (.glb, 0x80) => some 0xFFF
  | (.glb, 0x84) => some 0xFFF
  | (.glb, 0x88) => some 0xFFF
  | (.glb, 0x8C) => some 0xFFF
  | (.glb, 0x94) => some 0xF
  | (.glb, 0xC4) => some 0x3F
  | (.glb, 0x140) => some 0xFFFF
  | (.glb, 0x144) => some 0xF
  | (.glb, 0x148) => some 0xFFFF
  | (.mbx, off) => if off < 0x100 ∧ off % 4 = 0 then some 0xFFFFFFFF else none
  | (.crl, 0x00) => some 0xFFF
  | (.crl, 0x04) => some 0xFFFFFFFF
  | (.crl, 0x08) => some 0xFFFFFFFF
  | (.crl, 0x40) => some 0xFFF
  | (.crl, 0x140) => some 0xFFF
  | (.dof, 0x00) => some 0xFFFFFFC0
  | (.dof, 0x04) => some 0xFFFF
  | (.dof, 0x08) => some 0x1F
  | (.dof, 0x10) => some 0xFFFF
  | (.knt, 0x00) => some 0xFFFF
  | (.tck, 0x00) => some 0xF
  | (.sec, 0xC0) => some 0xFFFFFFFF
  | (.sec, 0xC4) => some 0xFFFFFFFF
  | (.sec, 0xC8) => some 0xFFFFFFFF
  | (.sec, 0xCC) => some 0xFFFFFFFF
  | (.tel, 0x00) => some 0xFFFF
  | (.tel, 0x08) => some 0xFFFFFFC0
  | (.tel, 0x0C) => some 0xFFFF
  | (.tel, 0x10) => some 0x1F
  | (.tel, 0x18) => some 0xFFFFFF
  | (.tel, 0xC0) => some 0x3F
  | (.spn _, 0x04) => some 0xFFFF
  | _ => none

/-- An aligned write of a word that software reads back leaves every writable bit at the value written and every
reserved bit zero; queues, knots, jobs, the configuration and the keys stay (R445, R446). -/
def Obligations.RegisterWriteReadsBack : Prop :=
  ∀ (path : RegPath) (a : BitVec 23) (m v : Word) (s : State), readBackMask a.toNat = some m → s.serves path = true →
    ∃ t, exec (.registerWrite path a 0xF v) s = .next t ∧ readReg t a.toNat = v &&& m ∧
      t.sec.keys = s.sec.keys ∧ t.eng.cfg = s.eng.cfg ∧ t.eng.creel.queues = s.eng.creel.queues ∧
      t.eng.knots.table = s.eng.knots.table ∧ t.eng.mem = s.eng.mem ∧ (∀ n : Sp, (t.eng.sp n).jobs = (s.eng.sp n).jobs)

/-- A write with PSTRB other than 0xF or a misaligned address gets PSLVERR, enters PROTO_LOG with code 0x30, and has no
other effect (R434, R435, R445).  An alias write changes its one bit and nothing else: every other bit of its word, every other writable word of the
global page, and everything outside the global page stay (R460, R461). -/
def Obligations.BadAndAliasWrites : Prop :=
  (∀ (a : BitVec 23) (strb : BitVec 4) (v : Word) (s : State), s.serves .apb = true → strb ≠ 0xF ∨ a.toNat % 4 ≠ 0 →
    ∃ t, exec (.registerWrite .apb a strb v) s = .next t ∧ t.sec = s.sec ∧ t.pending = s.pending ∧
      t.eng.glb.pslverr = true ∧
      (∃ p, t.eng.glb.plog.head? = some p ∧ p.code = 0x30 ∧ p.source = 128 ∧
        (p.repeats = 0 → p.info = a.toNat ∧ p.time = s.eng.now)) ∧
      t.eng = { s.eng with events := t.eng.events, glb := { s.eng.glb with
        pslverr := true, plog := t.eng.glb.plog, plogCnt := t.eng.glb.plogCnt, raised := t.eng.glb.raised } }) ∧
  (∀ (off b : Nat) (m v : Word) (s : State), off < 0x1000 → off % 4 = 0 → b < 32 → readBackMask off = some m → m.getLsbD b = true →
    s.serves .apb = true →
    ∃ t, exec (.aliasWrite (BitVec.ofNat 23 (0x400000 + 32 * off + 4 * b)) v) s = .next t ∧
      (readGlb t off).getLsbD b = v.getLsbD 0 ∧
      (∀ i : Nat, i ≠ b → (readGlb t off).getLsbD i = (readGlb s off).getLsbD i) ∧
      (∀ o : Nat, o < 0x1000 → o ≠ off → (readBackMask o).isSome → readGlb t o = readGlb s o) ∧
      t.sec = s.sec ∧ t.eng = { s.eng with glb := t.eng.glb })

/-- SNAPSHOT_WRITE takes TARGET and clears VALID, and the access stalls; SNAPSHOT_CAPTURE_DONE then copies the field that
TARGET names whole, raises GEN by one and sets VALID, or captures nothing where TARGET names no such field (R457).  A capture whose
access has ended at the stall limit ends so too, before any other (log 36: the model's choice). -/
def Obligations.SnapshotCapturesAWholeField : Prop :=
  (∀ (path : RegPath) (page : SnapPage) (v : Word) (s : State), s.serves path = true →
    ∃ t, exec (.snapshotWrite path page v) s = .next t ∧ (snapOf t page).valid = false ∧
      (snapOf t page).target = BitVec.ofNat 14 (v.toNat / 4) ∧ (snapOf t page).gen = (snapOf s page).gen ∧
      (t.eng.glb.stall.map fun x => x.kind) = some (.capture page)) ∧
  (∀ (page : SnapPage) (s : State),
    (∃ st, s.eng.glb.captures = [] ∧ s.eng.glb.stall = some st ∧ st.kind = .capture page) ∨ (∃ rest, s.eng.glb.captures = page :: rest) →
    ∃ t, exec .snapshotCaptureDone s = .next t ∧ t.eng.glb.captures = s.eng.glb.captures.drop 1 ∧
      t.eng.glb.stall = (if s.eng.glb.captures = [] then none else s.eng.glb.stall) ∧
      (match mbField s page (4 * (snapOf s page).target.toNat) with
       | some ws => snapOf t page = { snapOf s page with valid := true, gen := (snapOf s page).gen + 1, words := ws }
       | none => snapOf t page = snapOf s page))

/-- An access that has stalled for 800 clocks ends with PSLVERR, or with ERR on the debug path: it is recorded in GLB_REG_ERR and
GLB_REG_ERR_CNT and enters PROTO_LOG with code 0x31 and the path in SOURCE, and a knot operation that was not applied leaves its bank
(R448, R449).  A capture's access ends with APPLIED 1, and the capture goes on (log 36: the model's choice).  With none that stalls, the
first access that waits behind others ends so, without any effect, and a debug read captures zero (R447, R449). -/
def Obligations.StallLimitWithdrawsTheAccess : Prop :=
  (∀ (st : Stall) (s : State), s.eng.glb.stall = some st → st.since + 800 ≤ s.eng.now →
    ∃ t, exec .registerStallLimit s = .next t ∧ t.sec = s.sec ∧ t.eng.glb.stall = none ∧ t.eng.glb.waiting = s.eng.glb.waiting ∧
      (st.path = .apb → t.eng.glb.pslverr = true) ∧ (st.path = .debug → t.eng.tap.debugErr = true) ∧
      t.eng.glb.regErrCnt = satInc s.eng.glb.regErrCnt ∧ t.eng.glb.regErr.getLsbD 31 = true ∧
      (∃ p, t.eng.glb.plog.head? = some p ∧ p.code = 0x31 ∧ p.source = (match st.path with | .apb => 128 | .debug => 129)) ∧
      (∀ o : KnotOp, st.kind = .knot o →
        t.eng.knots.banks[knotBank o.knot] = s.eng.knots.banks[knotBank o.knot].erase o ∧ t.eng.knots.table = s.eng.knots.table ∧
        t.eng.glb.regErr.getLsbD 30 = false) ∧
      (∀ page, st.kind = .capture page → t.eng.glb.regErr.getLsbD 30 = true ∧ t.eng.glb.captures = s.eng.glb.captures ++ [page] ∧
        t.eng.knots = s.eng.knots ∧ t.eng.creel = s.eng.creel)) ∧
  (∀ (h : HeldAccess) (rest : List HeldAccess) (s : State), s.eng.glb.stall = none → s.eng.glb.waiting = h :: rest → h.since + 800 ≤ s.eng.now →
    ∃ t, exec .registerStallLimit s = .next t ∧ t.sec = s.sec ∧ t.eng.glb.waiting = rest ∧ t.eng.glb.stall = none ∧
      (h.path = .apb → t.eng.glb.pslverr = true) ∧ (h.path = .debug → t.eng.tap.debugErr = true) ∧
      t.eng.glb.regErrCnt = satInc s.eng.glb.regErrCnt ∧ t.eng.glb.regErr.getLsbD 30 = false ∧
      (∃ p, t.eng.glb.plog.head? = some p ∧ p.code = 0x31 ∧ p.source = (match h.path with | .apb => 128 | .debug => 129)) ∧
      (∀ a : BitVec 23, h.cmd = .engDebug (.read a) → t.eng.tap.capture = 0) ∧
      t.eng.knots = s.eng.knots ∧ t.eng.creel = s.eng.creel ∧ t.eng.spindles = s.eng.spindles)

/-- TV_VOTE leaves the three copies of every TV field at their bitwise majority, whatever single copy disagreed, counts
each field that disagreed, and changes no voted value (R453, R454).  That the last mismatch recorded is the last in address order, where
several fields disagree, is the model's choice (log 139). -/
def Obligations.VoterRepairsEveryCopy : Prop :=
  ∀ s : State, s.eng.power.phase ≠ .unsupplied →
    ∃ t, exec .tvVote s = .next t ∧ t.sec = s.sec ∧
      t.eng.glb.pwrCap = ⟨s.eng.glb.pwrCap.vote, s.eng.glb.pwrCap.vote, s.eng.glb.pwrCap.vote⟩ ∧
      t.eng.glb.spread = ⟨s.eng.glb.spread.vote, s.eng.glb.spread.vote, s.eng.glb.spread.vote⟩ ∧
      t.eng.glb.wakeGap = ⟨s.eng.glb.wakeGap.vote, s.eng.glb.wakeGap.vote, s.eng.glb.wakeGap.vote⟩ ∧
      t.eng.glb.pwrCap.vote = s.eng.glb.pwrCap.vote ∧ t.eng.glb.spread.vote = s.eng.glb.spread.vote ∧ t.eng.glb.wakeGap.vote = s.eng.glb.wakeGap.vote ∧
      t.eng.glb.tvRepairCnt =
        satAdd s.eng.glb.tvRepairCnt (b2n (!s.eng.glb.pwrCap.agrees) + b2n (!s.eng.glb.spread.agrees) + b2n (!s.eng.glb.wakeGap.agrees)) ∧
      t.eng.glb.tvLast = (if s.eng.glb.wakeGap.agrees = false then 0x148 else if s.eng.glb.spread.agrees = false then 0x144
        else if s.eng.glb.pwrCap.agrees = false then 0x140 else s.eng.glb.tvLast) ∧
      (∀ v x : BitVec 16, s.eng.glb.pwrCap = ⟨v, v, x⟩ ∨ s.eng.glb.pwrCap = ⟨v, x, v⟩ ∨ s.eng.glb.pwrCap = ⟨x, v, v⟩ → t.eng.glb.pwrCap = ⟨v, v, v⟩) ∧
      (s.eng.glb.pwrCap.agrees = true → s.eng.glb.spread.agrees = true → s.eng.glb.wakeGap.agrees = true → t = s)

/-- Writes of KNT_COUNT, KNT_THRESH and KNT_ADD send a SET, a SET_THRESH or an ADD of the selected knot to its bank,
behind the operations that it holds, with the dispatch clock as its age, and the access waits for the bank; no knot
changes yet (R361, R362, R377, R448; log 65 says how dispatch clocks are told apart). -/
def Obligations.KnotRegisterWritesWaitForTheBank : Prop :=
  ∀ (path : RegPath) (v : Word) (s : State), s.serves path = true →
    let k := s.eng.knots.sel.toNat
    ∀ (c : Instr) (verb : KnotVerb),
      (c, verb) ∈ [(Instr.kntCountWrite path v, KnotVerb.set), (.kntThreshWrite path v, .setThresh), (.kntAddWrite path v, .add)] →
      ∃ t, exec c s = .next t ∧ t.sec = s.sec ∧ t.eng.knots.table = s.eng.knots.table ∧
        t.eng.knots.banks[knotBank k] = s.eng.knots.banks[knotBank k] ++ [⟨t.eng.knots.clock, .reg, k, verb, v⟩] ∧
        s.eng.knots.clock ≤ t.eng.knots.clock ∧
        (∀ b : Fin 16, b ≠ knotBank k → t.eng.knots.banks[b] = s.eng.knots.banks[b]) ∧
        (t.eng.glb.stall.map fun x => (x.path, x.since)) = some (path, s.eng.now) ∧ t.eng.creel = s.eng.creel

/-- Writes of the completion ring's and the telemetry ring's registers: base and size take the value and the head goes to
0; a tail takes the value and leaves the head (R377, R476, R477).  GLB_EVT_ACK takes the acknowledged count of the selected counted group, after which that group is not pending when
the count equals the raised count; a level group ignores the write (R439, R440, R443).  TCK_PIN_POL takes the polarity
while no PIN input is bound, so that no tick follows (R438). -/
def Obligations.RingsAcknowledgementsAndPolarity : Prop :=
  (∀ (v : Word) (s : State), Safety.portServes s →
    (∀ reg : RingReg, ∃ t, exec (.dofRingConfigWrite reg v) s = .next t ∧ t.sec = s.sec ∧ t.eng.doffer.head = 0 ∧ t.eng.tel = s.eng.tel ∧
      t.eng.doffer.tail = s.eng.doffer.tail ∧ t.eng.doffer.buffers = s.eng.doffer.buffers ∧
      t.eng.doffer.baseLo = (if reg = .baseLo then BitVec.ofNat 26 (v.toNat / 64) else s.eng.doffer.baseLo) ∧
      t.eng.doffer.baseHi = (if reg = .baseHi then BitVec.ofNat 16 v.toNat else s.eng.doffer.baseHi) ∧
      t.eng.doffer.log2 = (if reg = .size then BitVec.ofNat 5 v.toNat else s.eng.doffer.log2)) ∧
    (∃ t, exec (.dofRingTailWrite v) s = .next t ∧ t.sec = s.sec ∧ t.eng.doffer.tail = BitVec.ofNat 16 v.toNat ∧
      t.eng.doffer.head = s.eng.doffer.head ∧ t.eng.doffer.buffers = s.eng.doffer.buffers ∧ t.eng.doffer.accepted = s.eng.doffer.accepted) ∧
    (∀ reg : RingReg, ∃ t, exec (.telRingConfigWrite reg v) s = .next t ∧ t.sec = s.sec ∧ t.eng.doffer = s.eng.doffer ∧
      t.eng.tel = { s.eng.tel with
        head := 0
        baseLo := if reg = .baseLo then BitVec.ofNat 26 (v.toNat / 64) else s.eng.tel.baseLo
        baseHi := if reg = .baseHi then BitVec.ofNat 16 v.toNat else s.eng.tel.baseHi
        log2 := if reg = .size then BitVec.ofNat 5 v.toNat else s.eng.tel.log2 }) ∧
    (∃ t, exec (.telRingTailWrite v) s = .next t ∧ t.sec = s.sec ∧ t.eng.tel = { s.eng.tel with tail := BitVec.ofNat 24 v.toNat })) ∧
  (∀ (v : Word) (s : State), Safety.portServes s →
    (levelGroup s.eng.glb.group = false →
      ∃ t, exec (.glbEvtAckWrite v) s = .next t ∧ t.eng.glb.ack[t.eng.glb.group] = v ∧ t.eng.glb.raised = s.eng.glb.raised ∧
        (∀ g : Fin 12, g ≠ s.eng.glb.group → t.eng.glb.ack[g] = s.eng.glb.ack[g]) ∧
        (groupPending t t.eng.glb.group = true ↔ s.eng.glb.raised[s.eng.glb.group] ≠ v)) ∧
    (levelGroup s.eng.glb.group = true →
      exec (.glbEvtAckWrite v) s = .next { s with eng := { s.eng with glb := { s.eng.glb with pslverr := false } } }) ∧
    ((∀ i : Inp, s.eng.inputOn i 1 = false) → ∃ t, exec (.tckPinPolWrite v) s = .next t ∧ t.eng.ticks.pinPol = BitVec.ofNat 16 v.toNat ∧
      t.eng.ticks.inputs = s.eng.ticks.inputs ∧ t.eng.creel = s.eng.creel))

/-- Test access: BYPASS, IDCODE, WS_BYPASS and WS_EXTEST are always served, IDCODE captures version 1, part number
0x3200, the chip's MFR_ID and a 1, and WS_EXTEST isolates the core (R441, R442).  Test access under a scope: a closed scope selects the bypass register of the port and counts a denial and nothing else; under an
open one WS_INTEST and ENG_SCAN are selected (SCAN), ENG_MBIST is selected and the SRAMs lose their contents (MBIST), and
ENG_DEBUG is selected, halts the Flyer and lets it run, reads a register and writes one (DEBUG) (R416, R441).  The two ports have an active
instruction each.  What the selected WS_INTEST and ENG_SCAN do, and that ENG_SCAN acts on both ports, is the model's choice (log 31), as
are what memories hold after ENG_MBIST (log 32) and that a debug step leaves the Flyer halted (log 33). -/
def Obligations.TestAccessByScope : Prop :=
  (∀ s : State, s.eng.power.phase ≠ .unsupplied →
    exec .bypass s = .next { s with eng := { s.eng with tap := { s.eng.tap with active := .bypass, capture := 0 } } } ∧
    exec .wsBypass s = .next { s with eng := { s.eng with tap := { s.eng.tap with wsActive := .wsBypass } } } ∧
    exec .wsExtest s = .next { s with eng := { s.eng with tap := { s.eng.tap with wsActive := .wsExtest, isolated := true } } } ∧
    (∃ t, exec .idcode s = .next t ∧ t = { s with eng := { s.eng with tap := { s.eng.tap with active := .idcode, capture := t.eng.tap.capture } } } ∧
      t.eng.tap.capture = (0x1 : BitVec 4) ++ (0x3200 : BitVec 16) ++ Config.mfrId ++ (1 : BitVec 1))) ∧
  (∀ s : State, s.eng.power.phase ≠ .unsupplied →
    (∀ (c : Instr) (bit : Nat) (tap : Tap),
      (c, bit, tap) ∈ [(Instr.wsIntest, 2, { s.eng.tap with wsActive := .wsBypass }),
        (.engScan, 2, { s.eng.tap with active := .bypass, capture := 0, wsActive := .wsBypass }),
        (.engMbist, 1, { s.eng.tap with active := .bypass, capture := 0 }),
        (.engDebug .select, 0, { s.eng.tap with active := .bypass, capture := 0 }),
        (.engDebug .halt, 0, { s.eng.tap with active := .bypass, capture := 0 })] →
      bitOf s.sec.scope.toNat bit = false →
      exec c s = .next { s with sec := { s.sec with denyCnt := satInc s.sec.denyCnt }, eng := { s.eng with tap := tap } }) ∧
    (bitOf s.sec.scope.toNat 2 = true →
      exec .wsIntest s = .next { s with eng := { s.eng with tap := { s.eng.tap with wsActive := .wsIntest } } } ∧
      exec .engScan s = .next { s with eng := { s.eng with tap := { s.eng.tap with active := .engScan, capture := 0, wsActive := .engScan } } }) ∧
    (bitOf s.sec.scope.toNat 1 = true → ∃ t, exec .engMbist s = .next t ∧ t.sec = s.sec ∧ t.eng.tap.active = .engMbist ∧
      t.eng.mem = s.eng.mem ∧ t.eng.distaff = s.eng.distaff ∧ s.eng.freeCtr < t.eng.freeCtr ∧
      (∀ n : Sp, (s.eng.sp n).pwr ≠ .on → t.eng.sp n = s.eng.sp n)) ∧
    (bitOf s.sec.scope.toNat 0 = true →
      exec (.engDebug .select) s = .next { s with eng := { s.eng with tap := { s.eng.tap with active := .engDebug, capture := 0 } } } ∧
      (s.eng.tap.active = .engDebug →
        exec (.engDebug .halt) s = .next { s with eng := { s.eng with flyer := { s.eng.flyer with halted := true } } } ∧
        exec (.engDebug .step) s = .next { s with eng := { s.eng with flyer := { s.eng.flyer with halted := true } } } ∧
        exec (.engDebug .run) s = .next { s with eng := { s.eng with flyer := { s.eng.flyer with halted := false } } } ∧
        (∀ a : BitVec 23, s.serves .debug = true → a.toNat % 4 = 0 →
          ∃ t, exec (.engDebug (.read a)) s = .next t ∧ t.sec = s.sec ∧ t.eng.tap.debugErr = false ∧
            t.eng.tap.capture = readReg s a.toNat ∧ t.eng.glb = s.eng.glb) ∧
        (∀ (a : BitVec 23) (m v : Word), s.serves .debug = true → readBackMask a.toNat = some m →
          ∃ t, exec (.engDebug (.write a v)) s = .next t ∧ t.eng.tap.debugErr = false ∧ readReg t a.toNat = v &&& m ∧
            t.sec.keys = s.sec.keys ∧ t.eng.cfg = s.eng.cfg))))

/-! ## Queues and the Creel (R294 to R322, R427 to R429) -/

/-- Every byte that a queue holds, oldest first. -/
def queueBytes (q : Queue) : List Byte :=
  (q.pkts.map fun p => p.bytes).flatten ++ (q.cells.map fun x => x.data).flatten ++ q.tail

/-- The bytes that a producer appends stand in the queue behind those it held, in order and with none between, whichever
MODE the queue has; every other queue stays, and the queue holds no more cells than before or than its LIMIT (R298, R300,
R318).  The premises say what R294 and R318 say of a queue: one of MODE STREAM holds no packets and a tail below 64
bytes, and one of another MODE holds no stream cells. -/
def Obligations.AppendedBytesFollowInOrder : Prop :=
  ∀ (cfg : Cfg) (c c' : Creel) (now n : Nat) (held : Bool) (bs : List Byte),
    Tab.wf {} c.queues = true → (c.q n).drop = .none →
    ((cfg.queue n).mode = 3 → (c.q n).pkts = [] ∧ (c.q n).tail.length < 64) →
    ((cfg.queue n).mode ≠ 3 → (c.q n).cells = [] ∧ (c.q n).tail = []) →
    c.append cfg now n held bs = (c', .all) →
      queueBytes (c'.q n) = queueBytes (c.q n) ++ bs ∧ (∀ m : Nat, m ≠ n → c'.q m = c.q m) ∧
      (c'.q n).cellCount ≤ max (c.q n).cellCount (cfg.queue n).limit

/-- The checks of R434 and R429 that a leaf-port write to a region of a queue's aperture passes, with no earlier write
waiting at the port or on the queue. -/
def portWriteServed (s : State) (w : PortWrite) (region : Nat) : Prop :=
  s.eng.coreUp = true ∧ s.eng.portWaits w.port = false ∧ (s.eng.creel.q w.queue).waits = [] ∧ burstBad w.burst w.offset w.size w.beats w.special = false ∧
  apRegion w.offset = region ∧ (s.eng.conf.queue w.queue).mode ≠ 0 ∧ (s.eng.conf.queue w.queue).producer = 0x20 ∧
  s.eng.conf.portOk w.port w.queue = true ∧ s.eng.qClosed w.queue = false

/-- A leaf port's answer to a write: the ID of the write as received, and the response. -/
def writeAnswer (s : State) (w : PortWrite) (r : AxiResp) : Vector LeafPort 8 :=
  s.eng.ports.set w.port { s.eng.ports[w.port] with bid := w.id, resp := some r }

/-- Leaf-port writes: a BODY write appends its bytes; an END write appends them and ends the packet, or flushes the tail
of a stream; both are answered OKAY under the ID that was received, and nothing but the Creel and the answer changes (R303, R306, R318,
R421, R427).  The END of a line packet counts the line for its stripe while the frame is open and the stripe lacks lines; a line that may
not be counted is dropped whole, TCK_DROP_LINES rises by one, and FRAME_LONG is raised with TCK_LONG_CNT once for an open frame
(R337, R340). -/
def Obligations.PortWritesAppendAndEnd : Prop :=
  ∀ (w : PortWrite) (s : State) (c' : Creel),
    s.eng.creel.append s.eng.conf s.eng.now w.queue (s.eng.lineHeld w.queue) w.bytes = (c', .all) →
    (portWriteServed s w 0 → exec (.portQueueWriteBody w) s =
      .next { s with eng := { s.eng with
        creel := c', ports := writeAnswer s w .okay } }) ∧
    (portWriteServed s w 1 → (c'.q w.queue).drop = .none → (s.eng.conf.queue w.queue).mode = 3 → exec (.portQueueWriteEnd w) s =
      .next { s with eng := { s.eng with
        creel := c'.flush s.eng.now w.queue, ports := writeAnswer s w .okay } }) ∧
    (portWriteServed s w 1 → (c'.q w.queue).drop = .none → (s.eng.conf.queue w.queue).mode ≠ 3 →
      s.eng.conf.lineOf w.queue = none → (c'.q w.queue).openPkt ≠ none → exec (.portQueueWriteEnd w) s =
      .next { s with eng := { s.eng with
        creel := c'.close s.eng.now w.queue false false, ports := writeAnswer s w .okay } }) ∧
    (∀ (i : Inp) (k : Nat) (p : Pkt), portWriteServed s w 1 → (c'.q w.queue).drop = .none → (s.eng.conf.queue w.queue).mode ≠ 3 →
      s.eng.conf.lineOf w.queue = some (i, k) → (c'.q w.queue).openPkt = some p →
      let f := (s.eng.tick i).frame
      let counts := setAt f.counts k (f.counts.getD k 0 + 1)
      (s.eng.mayCount i k = true →
        (∃ m < (s.eng.conf.tick i.val).stripes, counts.getD m 0 < (s.eng.conf.tick i.val).expected m) →
        exec (.portQueueWriteEnd w) s = .next { s with eng := { (s.eng.modTick i fun x => { x with frame := { x.frame with counts := counts } }) with
          creel := c'.close s.eng.now w.queue false false, ports := writeAnswer s w .okay } }) ∧
      (s.eng.mayCount i k = false → p.taken = 0 →
        let long := f.open_ && !f.long
        ∃ t, exec (.portQueueWriteEnd w) s = .next t ∧ t.sec = s.sec ∧ t.eng.creel = c'.dropLast s.eng.now w.queue ∧
          t.eng.ports = writeAnswer s w .okay ∧ t.eng.spindles = s.eng.spindles ∧
          t.eng.tick i = { s.eng.tick i with
            dropLines := satInc (s.eng.tick i).dropLines, longCnt := satAdd (s.eng.tick i).longCnt (b2n long)
            frame := { f with long := f.long || f.open_ } } ∧
          t.eng.events = (if long then .frameLong i.val :: s.eng.events else s.eng.events)))

/-- A leaf-port ABORT turns the open packet bad: one of which no cell was taken leaves the queue and is counted as
rewound, and one that is being read ends at once as a committed, poisoned packet and is counted so (R308, R309, R311).  An ABORT of a
STREAM queue discards the partial tail, whose cell is free again, and is counted as rewound; visible cells stay, and without a tail it does
nothing (R318). -/
def Obligations.PortAbortRewindsOrPoisons : Prop :=
  (∀ (w : PortWrite) (s : State), portWriteServed s w 2 → (s.eng.conf.queue w.queue).mode = 3 → (s.eng.creel.q w.queue).drop = .none →
    Tab.wf {} s.eng.creel.queues = true → (s.eng.creel.q w.queue).pkts = [] →
    ∃ t, exec (.portQueueWriteAbort w) s = .next t ∧ t.sec = s.sec ∧ t.eng.ports = writeAnswer s w .okay ∧ t.eng.spindles = s.eng.spindles ∧
      (t.eng.creel.q w.queue).cells = (s.eng.creel.q w.queue).cells ∧ (t.eng.creel.q w.queue).tail = [] ∧
      (∀ m : Nat, m ≠ w.queue → t.eng.creel.q m = s.eng.creel.q m) ∧
      ((s.eng.creel.q w.queue).tail = [] → t.eng.creel = s.eng.creel) ∧
      ((s.eng.creel.q w.queue).tail ≠ [] → t.eng.creel.rewindCnt = satInc s.eng.creel.rewindCnt ∧
        (t.eng.creel.q w.queue).cellCount + 1 = (s.eng.creel.q w.queue).cellCount)) ∧
  (∀ (w : PortWrite) (s : State) (p : Pkt), portWriteServed s w 2 → (s.eng.conf.queue w.queue).mode ≠ 3 →
    (s.eng.creel.q w.queue).drop = .none → Tab.wf {} s.eng.creel.queues = true → (s.eng.creel.q w.queue).openPkt = some p →
    s.eng.conf.lineOf w.queue = none →
    ∃ t, exec (.portQueueWriteAbort w) s = .next t ∧ t.sec = s.sec ∧ t.eng.ports[w.port].resp = some .okay ∧
      (p.taken = 0 → (t.eng.creel.q w.queue).pkts = (s.eng.creel.q w.queue).pkts.dropLast ∧
        t.eng.creel.rewindCnt = satInc s.eng.creel.rewindCnt ∧ t.eng.creel.poisonCnt = s.eng.creel.poisonCnt) ∧
      (p.taken ≠ 0 → t.eng.creel.poisonCnt = satInc s.eng.creel.poisonCnt ∧ t.eng.creel.rewindCnt = s.eng.creel.rewindCnt ∧
        (t.eng.creel.q w.queue).openPkt = none ∧
        ∃ q, (t.eng.creel.q w.queue).pkts.getLast? = some q ∧ q.committed = true ∧
          (p.cells ≠ [] → (q.cells.getLast?.map fun x => (x.last, x.poison)) = some (true, true))))

/-- A leaf-port read of BODY takes the next readable cell and returns its 64 bytes, and its link word on RUSER, under the ID that was
received; a queue with no readable cell returns zeros with VALID 0 (R315, R421, R427).  The cell's row holds no error, known or newly found.
A leaf-port access that breaks R434's rules, or names a queue that is off, has another producer or consumer, or is not
its client's, is answered SLVERR, heads PROTO_LOG with its code, 0x01 to 0x04, and the port as SOURCE, and reaches no queue (R429, R434, R435). -/
def Obligations.PortReadsAndBadAccesses : Prop :=
  (∀ (r : PortRead) (row : CellEcc) (s : State), s.eng.coreUp = true → burstBad r.burst r.offset r.size r.beats r.special = false →
    apRegion r.offset = 0 → readKindOk r = true → r.beats = 1 → (s.eng.conf.queue r.queue).mode ≠ 0 → (s.eng.conf.queue r.queue).consumer = 0x20 →
    s.eng.conf.portOk r.port r.queue = true →
    (∀ x : Cell, (s.eng.creel.q r.queue).next? = some x → s.eng.cellFound r.queue row = .ok → exec (.portQueueRead r row) s =
      .next { s with eng := { s.eng with
        creel := s.eng.creel.take s.eng.now r.queue
        ports := s.eng.ports.set r.port { s.eng.ports[r.port] with rid := r.id, resp := some .okay, rdata := x.bytes, ruser := x.link } } }) ∧
    ((s.eng.creel.q r.queue).next? = none → exec (.portQueueRead r row) s =
      .next { s with eng := { s.eng with
        ports := s.eng.ports.set r.port { s.eng.ports[r.port] with rid := r.id, resp := some .okay, rdata := List.replicate 64 0, ruser := 0 } } })) ∧
  (∀ (c : Instr) (region code : Nat) (w : PortWrite) (s : State),
    (c, region) ∈ [(Instr.portQueueWriteBody w, 0), (.portQueueWriteEnd w, 1), (.portQueueWriteAbort w, 2)] →
    s.eng.coreUp = true → s.eng.portWaits w.port = false → apRegion w.offset = region ∨ apRegion w.offset = 3 →
    let bad := burstBad w.burst w.offset w.size w.beats w.special
    let qe := s.eng.conf.queue w.queue
    bad = true ∧ code = 1 ∨ bad = false ∧ apRegion w.offset = 3 ∧ code = 2 ∨
      bad = false ∧ apRegion w.offset = region ∧ (qe.mode = 0 ∨ qe.producer ≠ 0x20 ∨ s.eng.conf.portOk w.port w.queue = false) ∧ code = 4 →
    ∃ t, exec c s = .next t ∧ t.sec = s.sec ∧ t.eng.creel = s.eng.creel ∧ t.eng.ports = writeAnswer s w .slverr ∧
      (∃ p, t.eng.glb.plog.head? = some p ∧ p.code = code ∧ p.source = 32 + w.port.val) ∧
      t.eng.knots = s.eng.knots ∧ t.eng.spindles = s.eng.spindles) ∧
  (∀ (r : PortRead) (cell : CellEcc) (code : Nat) (s : State), s.eng.coreUp = true →
    let bad := burstBad r.burst r.offset r.size r.beats r.special
    let qe := s.eng.conf.queue r.queue
    bad = true ∧ code = 1 ∨ bad = false ∧ apRegion r.offset ≠ 0 ∧ code = 2 ∨ bad = false ∧ apRegion r.offset = 0 ∧ readKindOk r = false ∧ code = 3 ∨
      bad = false ∧ apRegion r.offset = 0 ∧ readKindOk r = true ∧
        (qe.mode = 0 ∨ qe.consumer ≠ 0x20 ∨ s.eng.conf.portOk r.port r.queue = false) ∧ code = 4 →
    ∃ t, exec (.portQueueRead r cell) s = .next t ∧ t.sec = s.sec ∧ t.eng.creel = s.eng.creel ∧
      t.eng.ports = s.eng.ports.set r.port { s.eng.ports[r.port] with rid := r.id, resp := some .slverr } ∧
      (∃ p, t.eng.glb.plog.head? = some p ∧ p.code = code ∧ p.source = 32 + r.port.val) ∧
      t.eng.knots = s.eng.knots ∧ t.eng.spindles = s.eng.spindles)

/-- The register port's narrow path: a PUSH appends the first COUNT bytes of the narrow word, END ends the packet or
flushes the tail, ABORT rewinds an unread packet, and POP brings the next readable cell to CRL_RDATA and CRL_RTAG, or
clears VALID (R304, R316). -/
def Obligations.NarrowPathPushesAndPops : Prop :=
  ∀ (path : RegPath) (s : State), s.serves path = true →
    (∀ (k : BitVec 4) (c' : Creel), 1 ≤ k.toNat → k.toNat ≤ 8 → s.eng.conf.regProduces s.eng.creel.nsel.toNat = true →
      s.eng.qClosed s.eng.creel.nsel.toNat = false →
      s.eng.creel.append s.eng.conf s.eng.now s.eng.creel.nsel.toNat (s.eng.lineHeld s.eng.creel.nsel.toNat) (s.eng.creel.narrow.take k.toNat) = (c', .all) →
      ∃ t, exec (.narrowPush path k false) s = .next t ∧ t.sec = s.sec ∧ t.eng.creel = c' ∧ t.eng.glb.stall = s.eng.glb.stall ∧
        t.eng.spindles = s.eng.spindles) ∧
    (path = .apb → s.eng.conf.regProduces s.eng.creel.nsel.toNat = true → s.eng.qClosed s.eng.creel.nsel.toNat = false →
      s.eng.creel.nsel ≠ 0 → (s.eng.creel.q s.eng.creel.nsel.toNat).drop = .none →
      ((s.eng.conf.queue s.eng.creel.nsel.toNat).mode = 3 →
        ∃ t, exec .narrowEnd s = .next t ∧ t.eng.creel = s.eng.creel.flush s.eng.now s.eng.creel.nsel.toNat) ∧
      ((s.eng.conf.queue s.eng.creel.nsel.toNat).mode ≠ 3 → s.eng.conf.lineOf s.eng.creel.nsel.toNat = none →
        (s.eng.creel.q s.eng.creel.nsel.toNat).openPkt ≠ none →
        ∃ t, exec .narrowEnd s = .next t ∧ t.eng.creel = s.eng.creel.close s.eng.now s.eng.creel.nsel.toNat false false) ∧
      (∀ p : Pkt, (s.eng.conf.queue s.eng.creel.nsel.toNat).mode ≠ 3 → (s.eng.creel.q s.eng.creel.nsel.toNat).openPkt = some p → p.taken = 0 →
        ∃ t, exec .narrowAbort s = .next t ∧ t.eng.creel = { s.eng.creel.dropLast s.eng.now s.eng.creel.nsel.toNat with
          rewindCnt := satInc s.eng.creel.rewindCnt })) ∧
    (path = .apb → (s.eng.conf.queue s.eng.creel.rsel.toNat).mode ≠ 0 → (s.eng.conf.queue s.eng.creel.rsel.toNat).consumer = 0x22 →
      (∀ (x : Cell) (row : CellEcc), (s.eng.creel.q s.eng.creel.rsel.toNat).next? = some x → s.eng.cellFound s.eng.creel.rsel.toNat row = .ok →
        ∃ t, exec (.narrowPop row) s = .next t ∧ t.sec = s.sec ∧ t.eng.creel = { s.eng.creel.take s.eng.now s.eng.creel.rsel.toNat with
          rtagValid := true, rtagLink := x.link, rdata := x.bytes }) ∧
      ((s.eng.creel.q s.eng.creel.rsel.toNat).next? = none →
        ∃ t, exec (.narrowPop .ok) s = .next t ∧ t.sec = s.sec ∧ t.eng.creel = { s.eng.creel with rtagValid := false }))

/-- No read of a stream can fault where it stands: it is read through the Hank decoder, or no span of it is at fault. -/
def readable (s : State) (n : Sp) (st : Strm) : Prop :=
  st.wrapped.isSome = true ∨ ∀ off len : Nat, s.eng.placeFault n false (st.addr.plus off) len = none

/-- The Flyer appends bytes to a queue that names it as producer, and no other queue takes them; a job delivers a word to
its OUT_Q when it has the turn, as the only job that delivers there; and a job reads the next readable cell of its SRC_Q, whose row holds no
error, and its bytes join its line (R296, R305, R314, R353, R517).  That BYTES_OUT grows by 64 for each OUT_Q word, the last one's unused
bytes among them, is the model's choice (log 61), and so is that a line's bytes are taken as they come (log 52). -/
def Obligations.FlyerAndSpindlesUseTheirQueues : Prop :=
  ∀ s : State,
    (∀ (q : Nat) (bs : List Byte) (c' : Creel), s.eng.flyerRuns = true → (s.eng.conf.queue q).mode ≠ 0 → (s.eng.conf.queue q).producer = 0x21 →
      (s.eng.creel.q q).waits = [] → s.eng.qClosed q = false →
      s.eng.creel.append s.eng.conf s.eng.now q (s.eng.lineHeld q) bs = (c', .all) →
      exec (.flyerQueueWrite q bs false) s = .next { s with eng := { s.eng with creel := c' } } ∧
      ((c'.q q).drop = .none → (s.eng.conf.queue q).mode ≠ 3 → s.eng.conf.lineOf q = none → (c'.q q).openPkt ≠ none →
        exec (.flyerQueueWrite q bs true) s = .next { s with eng := { s.eng with creel := c'.close s.eng.now q false false } })) ∧
    (∀ (n : Sp) (j : Nat) (x : Job) (w : FeedWord) (ws : List FeedWord) (c' : Creel), s.eng.live = true → s.eng.job? n j = some x →
      s.eng.jobId? n x.id = some x → x.acts = true → x.words = w :: ws → x.desc.outQ ≠ 0xFFFF → (s.eng.creel.q x.desc.outQ).waits = [] →
      s.eng.hasTurn n x x.desc.outQ = true →
      (∀ y ∈ (s.eng.sp n).jobs, y.id ≠ x.id → y.desc.outQ ≠ x.desc.outQ ∨ y.ended.isSome = true) →
      (s.eng.conf.queue x.desc.outQ).mode ≠ 0 → (s.eng.conf.queue x.desc.outQ).producer = n.val → s.eng.qClosed x.desc.outQ = false →
      (w.last = true → s.eng.conf.lineOf x.desc.outQ = none) →
      s.eng.creel.append s.eng.conf s.eng.now x.desc.outQ (s.eng.lineHeld x.desc.outQ) w.data = (c', .all) →
      ∃ t y, exec (.spindleQueueWrite n j) s = .next t ∧ t.sec = s.sec ∧ t.eng.jobId? n x.id = some y ∧ y.sent = x.sent + 1 ∧
        ((ws = [] ∧ x.allFormed = true) ∨ (x.form = .feed ∧ ∀ st, x.strA = some st → readable s n st) → y.ended = none ∨ y.ended = some ⟨0, 0, 0, 0⟩) ∧
        (y.ended = none ∨ y.ended = some ⟨0, 0, 0, 0⟩ → y.bytesOut = x.bytesOut + 64 ∧
          t.eng.creel = (if w.last then ({ s.eng with creel := c' }.qEnd x.desc.outQ).creel else c') ∧ t.eng.knots = s.eng.knots ∧
          (∀ m : Sp, m ≠ n → t.eng.sp m = s.eng.sp m))) ∧
    (∀ (n : Sp) (j : Nat) (x : Job) (d : Draft) (b : DraftBlk) (c : Cell) (row : CellEcc), s.eng.live = true → s.eng.job? n j = some x → x.acts = true →
      x.draft = some d → x.desc.draft = some b → x.desc.srcKind = 4 → (s.eng.conf.queue x.desc.srcQ).consumer = n.val →
      (s.eng.creel.q x.desc.srcQ).next? = some c → s.eng.cellFound x.desc.srcQ row = .ok → c.poison = false → d.src.length < d.n * srcBytes x.desc b →
      ∃ t, exec (.spindleCellRead n j row) s = .next t ∧ t.sec = s.sec ∧ t.eng.creel = s.eng.creel.take s.eng.now x.desc.srcQ ∧
        t.eng.knots = s.eng.knots ∧ (∀ m : Sp, m ≠ n → t.eng.sp m = s.eng.sp m) ∧
        (c.last = false → ∃ y, t.eng.job? n j = some y ∧ y.inPacket = true ∧ y.lineBuf = x.lineBuf ++ c.data) ∧
        (c.last = true → ∃ y e, t.eng.job? n j = some y ∧ y.inPacket = false ∧ y.draft = some e ∧
          e.src = (d.src ++ (x.lineBuf ++ c.data)).take (d.n * srcBytes x.desc b)))

/-- Waits for cells: CELL_GRANT continues the write that has waited longest of those that may take a cell, here the only
write that waits on its queue, a leaf port's, which is then answered OKAY; a leaf port's producer that has waited
FULL_WAIT, with no other write behind it, makes its packet bad with QUEUE_FULL and SLVERR; and a stale timer that fires
marks its queue stale, counts it and raises STALE_QUEUE (R301, R302, R319, R428). -/
def Obligations.CellWaitsAndStaleTimers : Prop :=
  ∀ (s : State) (q : Nat) (w : CellWait),
    (s.eng.creel.granted s.eng.conf = some q → (s.eng.creel.q q).waits = [w] →
      ∀ (p : Port) (c' : Creel), w.port = some p → w.ends = false → s.eng.qClosed q = false → s.eng.ports[p].writes = [] →
      s.eng.creel.append s.eng.conf s.eng.now q (s.eng.lineHeld q) w.rest = (c', .all) →
      exec .cellGrant s = .next { s with eng := { s.eng with
        creel := c'.stopWait s.eng.now q, ports := s.eng.ports.set p { s.eng.ports[p] with resp := some .okay } } }) ∧
    ((s.eng.creel.q q).waits = [w] → ∀ p : Port, w.port = some p → (s.eng.conf.queue q).producer = 0x20 → s.eng.ports[p].writes = [] →
      s.eng.conf.lineOf q = none → s.eng.passedUs w.since (s.eng.conf.queue q).fullWait = true →
      ∃ t, exec (.cellWaitExpiry q) s = .next t ∧ t.sec = s.sec ∧ t.eng.creel.fullCnt = satInc s.eng.creel.fullCnt ∧
        t.eng.events = .queueFull q :: s.eng.events ∧ t.eng.ports[p].resp = some .slverr ∧ t.eng.spindles = s.eng.spindles) ∧
    (∀ since : Nat, Tab.wf {} s.eng.creel.queues = true → (s.eng.creel.q q).staleFrom = some since → (s.eng.conf.queue q).staleUs ≠ 0 → (s.eng.creel.q q).stale = false →
      (s.eng.creel.q q).isEmpty = false → s.eng.passedUs since (s.eng.conf.queue q).staleUs = true → (s.eng.conf.queue q).mode ≠ 3 →
      ∃ t, exec (.staleTimerExpiry q) s = .next t ∧ t.sec = s.sec ∧ (t.eng.creel.q q).stale = true ∧
        (t.eng.creel.q q).pkts = (s.eng.creel.q q).pkts ∧ t.eng.creel.staleCnt = satInc s.eng.creel.staleCnt ∧
        t.eng.events = .staleQueue q :: s.eng.events)

/-! ## Feed links and leaf ports (R421 to R436) -/

/-- A feed word uses one forward credit and is sent with its sideband; a granted credit adds one, up to 64; a fall of
FLNK_RST leaves no forward credit and grants 32 back credits; and a back word of a tag that a drafting job takes leaves the buffer at once,
gives its back credit back and joins the job's source, as far as it is wanted (R202, R432, R433, R436).  A word of a job that does not yet
act stays in the buffer and keeps its credit (log 49: the model's choice), and a link whose spindle is bound to another client than its tile
carries none (R10; log 138: the model drops the word).  A forward credit beyond 64, or a back word beyond the granted credits, is a violation:
PROTO_LOG is headed by its code, 0x20 or 0x21, and the link resynchronises with FLNK_RST high and no credit, SPN_LINK_RESYNC_CNT rises by
one, and the delivering job, with its lockstep set, and the drafting jobs of its tags fault with BUS_ERROR, detail 7 (R433 to R436). -/
def Obligations.FeedLinkCreditsAndViolations : Prop :=
  (∀ (n : Sp) (s : State),
    (∀ (j waited : Nat) (x : Job) (w : FeedWord) (ws : List FeedWord), s.eng.live = true → s.eng.job? n j = some x →
      s.eng.jobId? n x.id = some x → x.acts = true → x.words = w :: ws → x.desc.outQ = 0xFFFF → (s.eng.sp n).link.fwdCredits ≠ 0 →
      (s.eng.sp n).link.rst = false → s.eng.hasTurn n x 0xFFFF = true →
      ∃ t y, exec (.feedWordSend n j waited) s = .next t ∧ t.sec = s.sec ∧
        (t.eng.sp n).link.fwdCredits = (s.eng.sp n).link.fwdCredits - 1 ∧
        (t.eng.sp n).link.fwdOut = some { w with member := if x.desc.lock then x.desc.setIndex else 0, resume := x.resume } ∧
        (t.eng.sp n).work.linkStall = satAdd (s.eng.sp n).work.linkStall waited ∧
        t.eng.jobId? n x.id = some y ∧ y.sent = x.sent + 1 ∧
        ((ws = [] ∧ x.allFormed = true) ∨ (x.form = .feed ∧ ∀ st, x.strA = some st → readable s n st) →
          (∀ z ∈ (s.eng.sp n).jobs, z.id ≠ x.id → z.desc.outQ ≠ 0xFFFF ∨ z.ended.isSome = true) →
          (y.ended = none ∨ y.ended = some ⟨0, 0, 0, 0⟩) ∧ y.bytesOut = x.bytesOut + w.bytes ∧ t.eng.creel = s.eng.creel ∧
          (∀ m : Sp, m ≠ n → t.eng.sp m = s.eng.sp m))) ∧
    (s.eng.linkUp n = true → (s.eng.sp n).link.rst = false → (s.eng.sp n).link.fwdCredits < 64 →
      ∃ t, exec (.fwdCreditGrant n) s = .next t ∧ t.sec = s.sec ∧
        (t.eng.sp n).link.fwdCredits = (s.eng.sp n).link.fwdCredits + 1 ∧ (t.eng.sp n).link.resync = false ∧ (t.eng.sp n).link.rst = false ∧
        ((∀ x ∈ (s.eng.sp n).jobs, x.acts = true → x.desc.feeds = true → x.desc.outQ ≠ 0xFFFF) →
          t.eng = { s.eng with spindles := t.eng.spindles } ∧
          t.eng.sp n = { s.eng.sp n with link := { (s.eng.sp n).link with fwdCredits := (s.eng.sp n).link.fwdCredits + 1, resync := false } } ∧
          (∀ m : Sp, m ≠ n → t.eng.sp m = s.eng.sp m))) ∧
    ((s.eng.sp n).link.rst = true →
      ∃ t, exec (.flnkRstEnd n) s = .next t ∧ t.sec = s.sec ∧
        t.eng.sp n = { s.eng.sp n with link := { (s.eng.sp n).link with rst := false, fwdCredits := 0, backCredits := 32, backBuf := [] } } ∧
        (∀ m : Sp, m ≠ n → t.eng.sp m = s.eng.sp m)) ∧
    (∀ (tag : BitVec 2) (count : BitVec 6) (data : List Byte), s.eng.linkUp n = true → (s.eng.sp n).link.rst = false →
      (s.eng.linkIdle n = true → exec (.backWordArrive n tag count data) s = .next s) ∧
      (∀ (x : Job) (d : Draft) (b : DraftBlk), s.eng.linkIdle n = false → (s.eng.sp n).link.backCredits ≠ 0 → (s.eng.sp n).link.backBuf = [] →
        1 ≤ count.toNat → count.toNat ≤ 32 → s.eng.tagJob n tag.toNat = some x → x.draft = some d → x.desc.draft = some b →
        d.src.length + count.toNat ≤ d.n * srcBytes x.desc b →
        (x.acts = true → exec (.backWordArrive n tag count data) s = .next (s.onEng fun e =>
          (e.modJob n x.id fun x => { x with draft := x.draft.map fun d' => { d' with src := d.src ++ slice data 0 count.toNat } }).modSp n fun sp =>
            { sp with srcRead := sp.srcRead + count.toNat })) ∧
        (x.acts = false → exec (.backWordArrive n tag count data) s = .next (s.onEng fun e =>
          e.modLink n fun l => { l with backCredits := l.backCredits - 1, backBuf := [(tag.toNat, slice data 0 count.toNat)] }))))) ∧
  (∀ (n : Sp) (s : State) (c : Instr) (code source : Nat), s.eng.linkUp n = true → (s.eng.sp n).link.rst = false →
    (c = .fwdCreditGrant n ∧ 64 ≤ (s.eng.sp n).link.fwdCredits ∧ code = 0x20 ∧ source = 64 + n.val ∨
      (∃ (tag : BitVec 2) (count : BitVec 6) (data : List Byte), c = .backWordArrive n tag count data) ∧ s.eng.linkIdle n = false ∧
        (s.eng.sp n).link.backCredits = 0 ∧ code = 0x21 ∧ source = 96 + n.val) →
    ∃ t, exec c s = .next t ∧ t.sec = s.sec ∧
      (∃ p, t.eng.glb.plog.head? = some p ∧ p.code = code ∧ p.source = source) ∧
      (t.eng.sp n).link.rst = true ∧ (t.eng.sp n).link.fwdCredits = 0 ∧ (t.eng.sp n).link.backCredits = 0 ∧ (t.eng.sp n).link.resync = true ∧
      (t.eng.sp n).link.backBuf = [] ∧ (t.eng.sp n).link.resyncCnt = satInc (s.eng.sp n).link.resyncCnt ∧
      (∀ x : Job, s.eng.jobId? n x.id = some x → x.ended = none → x.desc.step = false →
        (∃ z, s.eng.turn n 0xFFFF = some z ∧
          (z = x ∧ x.desc.lock = false ∨
            z.desc.lock = true ∧ x.desc.lock = true ∧ x.desc.setId = z.desc.setId ∧ x.desc.outQ = 0xFFFF)) ∨
          x.desc.srcKind = 2 ∧ x.draft.isSome = true ∧ x.run = .running →
        ∃ y, t.eng.jobId? n x.id = some y ∧ y.ended = some ⟨1, 0x18, 7, 0⟩))

/-! ## Images and rebinding (R393 to R400, R414) -/

/-- The stage that an activation which has become pending has: it drains at once when its boundary is 0xFF (R395). -/
def pendingStage (s : State) (a : Activation) : ActStage := if a.boundary = 0xFF then .draining s.eng.now else .pending

/-- IMAGE_ACTIVATE reads the copy at ADDR and checks it: a copy that fails is refused with its detail and changes no
configuration, with detail 13 whatever else it fails while another activation is pending or being applied (R399); a FULL copy is being stored
in the region chosen, with no result yet; and a PARTIAL is pending, with RESULT OK (R394, R395, R417).  That a read that gets an error response
finds no copy, refused with detail 1, is the model's choice (log 18), and so is that a FULL copy larger than its region is refused with
detail 14 before anything is written (log 19).  A spare block is left for the frame's COUNTER (R412, R493). -/
def Obligations.ImageActivateChecksItsCopy : Prop :=
  ∀ (s : State) (copy : List Byte), Safety.accepted s 1 → s.eng.distaff.canStore = true → s.eng.flyerFree = true → fieldAt s.sec.frame 0x10 8 % 64 = 0 →
    fieldAt s.sec.frame 0x10 8 < 2 ^ 48 →
    let e := s.frameAccepted.eng
    let h := CopyHdr.parse copy
    (∀ d : Nat, e.checkCopy s.sec.keys.img copy = .error d →
      ∃ t, exec (.imageActivate .okay copy) s = .next t ∧ t.sec.busy = false ∧ t.sec.result = 6 ∧ t.sec.detail = BitVec.ofNat 8 d ∧
        t.eng.glb.imgReject = BitVec.ofNat 8 d ∧ t.eng.cfg = s.eng.cfg ∧ t.eng.act = s.eng.act ∧ t.eng.creel = s.eng.creel) ∧
    (∀ c : Cfg, e.checkCopy s.sec.keys.img copy = .ok c → h.kind = 0 → 64 + h.frameLen ≤ 1048576 →
      ∃ t a, exec (.imageActivate .okay copy) s = .next t ∧ t.sec.busy = true ∧ t.eng.cfg = s.eng.cfg ∧ t.eng.act = some a ∧
        a.stage = .storing (targetRegion s.sec.keys.img e.distaff) (slice copy 0 (64 + h.frameLen)) ∧ a.full = true ∧ a.newCfg = c ∧
        a.affected = affectAll ∧ a.boundary = h.boundary) ∧
    (∀ c : Cfg, e.checkCopy s.sec.keys.img copy = .ok c → h.kind = 0 → 1048576 < 64 + h.frameLen →
      ∃ t, exec (.imageActivate .okay copy) s = .next t ∧ t.sec.busy = false ∧ t.sec.result = 6 ∧ t.sec.detail = 14 ∧
        t.eng.glb.imgReject = 14 ∧ t.eng.cfg = s.eng.cfg ∧ t.eng.act = s.eng.act ∧ t.eng.distaff.writes = s.eng.distaff.writes) ∧
    (∀ c : Cfg, e.checkCopy s.sec.keys.img copy = .ok c → h.kind ≠ 0 →
      ∃ t a, exec (.imageActivate .okay copy) s = .next t ∧ t.sec.busy = false ∧ t.sec.result = 0 ∧ t.eng.cfg = s.eng.cfg ∧
        t.eng.act = some a ∧ a.stage = pendingStage s a ∧ a.full = false ∧ a.newCfg = c ∧ a.affected = affectOf s.eng.conf c) ∧
    (∀ (resp : AxiResp) (d : Nat), resp ≠ .okay ∧ s.eng.act = none ∧ d = 1 ∨ s.eng.act.isSome = true ∧ d = 13 →
      ∃ t, exec (.imageActivate resp copy) s = .next t ∧ t.sec.busy = false ∧ t.sec.result = 6 ∧ t.sec.detail = BitVec.ofNat 8 d ∧
        t.eng.glb.imgReject = BitVec.ofNat 8 d ∧ t.eng.cfg = s.eng.cfg ∧ t.eng.act = s.eng.act ∧
        (resp ≠ .okay → t.eng.mem = s.eng.mem))

/-- A stored copy that reads back as it was written makes the image pending, with RESULT OK, and one that does not ends the
activation with detail 14 (R394).  REBIND makes the binding of the named units pending, or refuses it with its detail
(R414), 13 whatever else it fails while another activation is pending or being applied (R399).  A spare block is left for the frame's
COUNTER (R412, R493). -/
def Obligations.StoredCopyAndRebindBecomePending : Prop :=
  ∀ s : State,
    (∀ (a : Activation) (r : Nat) (copy : List Byte), s.eng.act = some a → a.stage = .storing r copy → s.eng.distaff.writes = [] →
      (s.eng.readBackOk s.sec.keys.img r copy = true →
        ∃ t, exec .imageStoreDone s = .next t ∧ t.eng.act = some { a with stage := pendingStage s a } ∧ t.eng.cfg = s.eng.cfg ∧
          t.sec.result = 0 ∧ t.sec.busy = false ∧ t.sec.keys = s.sec.keys) ∧
      (s.eng.readBackOk s.sec.keys.img r copy = false →
        ∃ t, exec .imageStoreDone s = .next t ∧ t.eng.act = none ∧ t.eng.cfg = s.eng.cfg ∧ t.sec.result = 6 ∧ t.sec.detail = 14 ∧
          t.sec.busy = false ∧ t.sec.keys = s.sec.keys)) ∧
    (Safety.accepted s 2 → s.eng.distaff.canStore = true → s.eng.flyerFree = true →
      let r := RebindCmd.parse s.sec.frame
      (r.ok = false → ∃ t, exec .rebind s = .next t ∧ t.sec.result = 5 ∧ t.sec.busy = false ∧ t.eng.act = s.eng.act ∧ t.eng.cfg = s.eng.cfg) ∧
      (r.ok = true → ∀ d : Nat, s.eng.rebindFail (r.apply s.eng.conf) r.boundary = some d →
        ∃ t, exec .rebind s = .next t ∧ t.sec.result = 6 ∧ t.sec.detail = BitVec.ofNat 8 d ∧ t.eng.act = s.eng.act ∧ t.eng.cfg = s.eng.cfg) ∧
      (s.eng.act.isSome = true → s.eng.rebindFail (r.apply s.eng.conf) r.boundary = some 13) ∧
      (r.ok = true → s.eng.rebindFail (r.apply s.eng.conf) r.boundary = none →
        ∃ t a, exec .rebind s = .next t ∧ t.sec.result = 0 ∧ t.sec.busy = false ∧ t.eng.cfg = s.eng.cfg ∧ t.eng.act = some a ∧
          a.stage = pendingStage s a ∧ a.command = true ∧ a.boundary = r.boundary ∧ a.newCfg = r.apply s.eng.conf ∧ a.affected = r.named))

/-- At the end of a rebind's drain the new configuration stands, the activation is over, and queues take packets again; an
image's sequence number and the time the rebind took are reported, and a REBIND command changes neither image's number
(R394, R396, R400, R414). -/
def Obligations.DrainedRebindChangesTheConfiguration : Prop :=
  ∀ (s : State) (a : Activation) (since : Nat), s.eng.act = some a → a.stage = .draining since → s.eng.live = true →
    s.eng.rebindReady a since = true →
    ∃ t, exec .rebindDrainEnd s = .next t ∧ t.sec = s.sec ∧ t.pending = s.pending ∧ t.eng.cfg = some a.newCfg ∧ t.eng.act = none ∧
      t.eng.creel.closed = [] ∧ t.eng.glb.rebindUs = w32 (clocksUs (s.eng.now - since)) ∧
      (a.command = true → t.eng.glb.imgSeq = s.eng.glb.imgSeq ∧ t.eng.glb.partSeq = s.eng.glb.partSeq ∧ t.eng.glb.imgPartial = true) ∧
      (a.command = false → a.full = true → t.eng.glb.imgSeq = a.seq ∧ t.eng.glb.partSeq = 0 ∧ t.eng.glb.imgPartial = false ∧
        t.eng.activatedAt = s.eng.now) ∧
      (a.command = false → a.full = false → t.eng.glb.partSeq = a.seq ∧ t.eng.glb.imgSeq = s.eng.glb.imgSeq ∧ t.eng.glb.imgPartial = true)

/-! ## Spindle control and domains (R22, R371 to R374, R497 to R500) -/

/-- The started jobs of spindle n that satisfy `p` have ended; no started job has left its spindle's list or changed its number,
and one that had ended before has the ending that it had, but for a member of a step set, which ends with its set (R204). -/
def endedWhere (s t : State) (n : Sp) (p : Job → Bool) : Prop :=
  ∀ m : Sp, (t.eng.sp m).jobs.length = (s.eng.sp m).jobs.length ∧
    ∀ (j : Nat) (x : Job), s.eng.job? m j = some x → ∃ y, t.eng.job? m j = some y ∧ y.id = x.id ∧ y.desc = x.desc ∧
      (x.ended.isSome = true → y.ended.isSome = true ∧ (x.desc.step = false → y.ended = x.ended)) ∧ (m = n → p x = true → y.ended.isSome = true)

/-- ENABLE, HANK_EN, PLY_EN and RING_EN take the bit written, and clearing one that was set starts its drain; when the
drain limit has passed, the started jobs of a disabled spindle have ended; and SPN_ABORT ends the started jobs that carry
its tag (R371, R372, R374).  Started jobs have different numbers. -/
def Obligations.SpindleControlWrites : Prop :=
  ∀ (n : Sp) (on : Bool) (s : State), s.serves .apb = true →
    let x := s.eng.sp n
    let from_ (was : Bool) (old : Option Nat) : Option Nat := if on then none else if was then some s.eng.now else old
    (∃ t, exec (.enableWrite n on) s = .next t ∧ t.sec = s.sec ∧ (t.eng.sp n).enable = on ∧ (t.eng.sp n).drainFrom = from_ x.enable x.drainFrom ∧
      (t.eng.sp n).hankEn = x.hankEn ∧ (t.eng.sp n).plyEn = x.plyEn ∧ (t.eng.sp n).ringEn = x.ringEn ∧ (on = true → t.eng.creel = s.eng.creel)) ∧
    (∃ t, exec (.hankEnWrite n on) s = .next t ∧ t.sec = s.sec ∧ t.eng.sp n = { x with hankEn := on, drainHank := from_ x.hankEn x.drainHank }) ∧
    (∃ t, exec (.plyEnWrite n on) s = .next t ∧ t.sec = s.sec ∧ t.eng.sp n = { x with plyEn := on, drainPly := from_ x.plyEn x.drainPly }) ∧
    (∃ t, exec (.ringEnWrite n on) s = .next t ∧ t.sec = s.sec ∧ t.eng.sp n = { x with ringEn := on, drainRing := from_ x.ringEn x.drainRing }) ∧
    ((x.jobs.map fun y => y.id).Nodup →
      (∀ tag : Word, ∃ t, exec (.spnAbortWrite n tag) s = .next t ∧ t.sec = s.sec ∧ endedWhere s t n fun y => y.desc.tag == tag) ∧
      (∀ since : Nat, x.drainFrom = some since → s.eng.passedUs since x.limitUs.toNat = true →
        ∃ t, exec (.drainLimitExpiry n) s = .next t ∧ t.sec = s.sec ∧ (t.eng.sp n).drainFrom = none ∧ endedWhere s t n fun _ => true))

/-- Wakes are requested in order and start in it, a completed wake leaves its domain on with a zeroed SRAM, and a spindle that
has been drained or idle for 100 us is switched off, with the Bobbin domain when nothing needs it; the Distaff goes off after 1 ms without access
(R21, R22, R497 to R499). -/
def Obligations.DomainsWakeAndSwitchOff : Prop :=
  ∀ s : State,
    (∀ n : Sp, s.eng.live = true → (s.eng.sp n).enable = true → s.eng.headWaits n = true → (s.eng.sp n).pwr = .off →
      ∃ t, exec (.spindleWakeRequest n) s = .next t ∧ t.sec = s.sec ∧ (t.eng.sp n).pwr = .requested ∧
        t.eng.power.wakes = insertWake (.spindle n) s.eng.now
          (if s.eng.power.bobbin = .off then insertWake .bobbin s.eng.now s.eng.power.wakes else s.eng.power.wakes) ∧
        t.eng.creel = s.eng.creel) ∧
    (∀ (d : WakeDomain) (since : Nat) (rest : List (WakeDomain × Nat)), s.eng.power.wakes = (d, since) :: rest → s.eng.up = true → s.eng.mayWake d = true →
      ∃ t, exec .wakeStart s = .next t ∧ t.sec = s.sec ∧ t.eng.pwrOf d = .waking ∧ t.eng.power.wakes = rest ∧
        t.eng.power.waking = s.eng.power.waking ++ [(d, s.eng.now)] ∧ t.eng.power.lastWake = some s.eng.now) ∧
    (∀ d : WakeDomain, s.eng.up = true → (s.eng.power.waking.any fun w => w.1 == d) = true →
      ∃ t, exec (.wakeComplete d) s = .next t ∧ t.sec = s.sec ∧ t.eng.pwrOf d = .on ∧ (∀ w ∈ t.eng.power.waking, w.1 ≠ d) ∧
        (∀ n : Sp, d = .spindle n → (t.eng.sp n).store = [] ∧ (t.eng.sp n).steps = 32 ∧ (t.eng.sp n).link.backCredits = 32) ∧
        (d = .bobbin → t.eng.bobbin = [])) ∧
    (∀ n : Sp, s.eng.live = true → (s.eng.sp n).pwr = .on →
      (s.eng.sp n).drained = true ∧ s.eng.passedUs (s.eng.sp n).drainedFrom 100 = true ∨
        s.eng.idleSpindle n = true ∧ s.eng.passedUs (s.eng.sp n).quietFrom 100 = true →
      ∃ t, exec (.spindlePowerOff n) s = .next t ∧ t.sec = s.sec ∧ (t.eng.sp n).pwr = .off ∧ (t.eng.sp n).store = [] ∧
        (∀ m : Sp, m ≠ n → t.eng.sp m = s.eng.sp m) ∧
        (s.eng.conf.bankBound = false → (∀ m : Sp, m ≠ n → (s.eng.sp m).pwr = .off) → t.eng.power.bobbin = .off ∧ t.eng.bobbin = [])) ∧
    (s.eng.up = true → s.eng.distaff.pwr = .on → s.eng.distaff.writes = [] → s.eng.passedUs s.eng.distaff.lastAccess 1000 = true →
      exec .distaffPowerOff s = .next { s with eng := { s.eng with distaff := { s.eng.distaff with pwr := .off } } })

/-! ## Background work (R480 to R504) -/

/-- The governor takes a step from each spindle of the tier it trims, down to 8, or gives one to each of the tier it raises,
up to 32, and the estimate enters TEL_ENERGY, which saturates; a sweep takes the depth of GLB_SPREAD; and a block write of the Distaff is
done, or retires its block (R490 to R493, R501 to R504).  That the spare used and retired is the first of the list is the model's choice
(log 24), and so is the estimate's part below 1 mW (log 127) and that the writes which another command makes at once are reported after it
(log 14). -/
def Obligations.GovernorSweepAndBlockWrites : Prop :=
  ∀ s : State, s.eng.up = true →
    (∀ (mw fraction : Nat) (temp : BitVec 16), ∃ t, exec (.governorInterval mw temp fraction) s = .next t ∧ t.sec = s.sec ∧
      let uw := 1000 * mw + fraction
      t.eng.tel.temp = temp ∧ t.eng.tel.energy = min (s.eng.tel.energy + uw) (1000000 * 2 ^ 64 - 1) ∧ t.eng.creel = s.eng.creel ∧
      ∀ n : Sp, t.eng.sp n = { s.eng.sp n with steps := (
        if (s.eng.sp n).pwr = .on ∧ govOver s.eng.glb uw temp = true ∧ s.eng.trimTier = some (s.eng.tier (s.eng.sp n)) then max 8 ((s.eng.sp n).steps - 1)
        else if (s.eng.sp n).pwr = .on ∧ govUnder s.eng.glb uw temp = true ∧ s.eng.raiseTier = some (s.eng.tier (s.eng.sp n)) then
          min 32 ((s.eng.sp n).steps + 1)
        else (s.eng.sp n).steps) }) ∧
    exec .spreadSweepStart s = .next { s with eng := { s.eng with power := { s.eng.power with sweepDepth := s.eng.glb.depth } } } ∧
    (∀ (w : DistaffWrite) (rest : List DistaffWrite) (p : Nat) (ps : List Nat), s.eng.distaff.pwr = .on → s.eng.distaff.writes = w :: rest →
      s.eng.distaff.spares = p :: ps →
      exec (.distaffBlockWriteDone false) s = .next { s with eng := { s.eng with
        distaff := { (s.eng.distaff.writeRegion w) with writes := rest, lastAccess := s.eng.now } } } ∧
      ∃ t, exec (.distaffBlockWriteDone true) s = .next t ∧ t.sec = s.sec ∧ t.eng.distaff.retired = s.eng.distaff.retired ++ [p] ∧
        t.eng.distaff.spares = ps ∧ t.eng.distaff.writes = (if ps = [] then [] else w :: rest) ∧
        (ps = [] → t.eng.distaff.writeFailed = true)) ∧
    (∀ (l p : Nat) (rest : List (Nat × Nat)), s.eng.distaff.pwr = .on → s.eng.distaff.writes = [] → s.eng.distaff.recent = (l, p) :: rest →
      exec (.distaffBlockWriteDone false) s = .next { s with eng := { s.eng with distaff := { s.eng.distaff with recent := rest } } } ∧
      ∃ t, exec (.distaffBlockWriteDone true) s = .next t ∧ t.sec = s.sec ∧ t.eng.distaff.retired = s.eng.distaff.retired ++ [p] ∧
        p ∉ t.eng.distaff.spares ∧ t.eng.distaff.fw = s.eng.distaff.fw ∧ t.eng.distaff.imgA = s.eng.distaff.imgA ∧
        t.eng.distaff.imgB = s.eng.distaff.imgB ∧
        t.eng.events = (if t.eng.distaff.spares.length < 32 then .distaffWear :: s.eng.events else s.eng.events) ∧
        (s.eng.distaff.phys l = p → ∀ q qs, s.eng.distaff.spares = q :: qs → q ≠ l → t.eng.distaff.phys l = q ∧ t.eng.distaff.recent = (l, q) :: rest))

/-- The scrubber visits the rows of each powered memory in turn, and every patrol starts again at the first row (R480; that the rows come in
ascending number is log 28: the model's choice).  A row without error stays; a corrected error is written back and counted for its memory,
with SRAM_CE_HIGH at most once per memory and patrol (R482); an uncorrectable row of a store or a Whorl table is reported and stays so, a
lost hash head is emptied with no event, an uncorrectable knot takes its repair value, and an uncorrectable row of Flyer SRAM begins a warm
reset with the Flyer halted (R220, R483; log 40: errors are counted for each unit of a memory).  A calibration
result is folded into its class, whose sample count rises (R485, R486); and a SAMPLE restarts the counts that the next one takes differences
of (R495). -/
def Obligations.ScrubCalibrationAndSamples : Prop :=
  ∀ s : State, s.eng.coreUp = true →
    (∀ (r : SramRow) (found : Ecc) (ends : Bool), s.eng.rowTurn r ends = false → exec (.scrubVisit r found ends) s = .next s) ∧
    (∀ (r : SramRow) (found : Ecc) (ends : Bool), s.eng.rowTurn r ends = true →
      (s.eng.visit r found = .clean → exec (.scrubVisit r found ends) s = .next { s with eng := { s.eng with scrub := { s.eng.scrub with
        found := if ends then Tab.del s.eng.scrub.found (memKey r) else s.eng.scrub.found
        high := if ends then s.eng.scrub.high.filter (· != memKey r) else s.eng.scrub.high
        next := Tab.put s.eng.scrub.next 0 (memKey r) (if ends then 0 else (rowPlace r).2.2 + 1) } } }) ∧
      (s.eng.visit r found = .weak → Tab.wf 0 s.eng.scrub.found = true →
        ∃ t, exec (.scrubVisit r found ends) s = .next t ∧ t.sec = s.sec ∧ t.eng.spindles = s.eng.spindles ∧
          t.eng.creel.queues = s.eng.creel.queues ∧ t.eng.visit r .ok = .clean ∧
          (ends = false → Tab.getD t.eng.scrub.found (memKey r) 0 = Tab.getD s.eng.scrub.found (memKey r) 0 + 1) ∧
          (ends = true → Tab.getD t.eng.scrub.found (memKey r) 0 = 0) ∧
          t.eng.events = (if s.eng.scrub.pol.ceLimit < Tab.getD s.eng.scrub.found (memKey r) 0 + 1 ∧ memKey r ∉ s.eng.scrub.high then
            .sramCeHigh (rowPlace r).1 :: s.eng.events else s.eng.events)) ∧
      ((∃ n k, r = .spindleStore n k) ∨ (∃ b k, r = .bobbin b k) ∨ (∃ n k, r = .whorl n k) → s.eng.visit r found = .lost r →
        ∃ t, exec (.scrubVisit r found ends) s = .next t ∧ t.sec = s.sec ∧ t.eng.spindles = s.eng.spindles ∧
          t.eng.creel = s.eng.creel ∧ t.eng.events = .sramUe (rowPlace r).1 :: s.eng.events ∧ t.eng.visit r .ok = .lost r) ∧
      (∀ (n : Sp) (h : Nat), r = .hankHash n h → s.eng.visit r found = .lost r →
        ∃ t, exec (.scrubVisit r found ends) s = .next t ∧ t.sec = s.sec ∧ t.eng.events = s.eng.events ∧ t.eng.creel = s.eng.creel ∧
          t.eng.sp n = { s.eng.sp n with hankHeads := Tab.del (s.eng.sp n).hankHeads h } ∧ (∀ m : Sp, m ≠ n → t.eng.sp m = s.eng.sp m)) ∧
      (∀ k : Nat, r = .knot k → k < 65536 → Tab.wf {} s.eng.knots.table = true → s.eng.visit r found = .lost r →
        ∃ t, exec (.scrubVisit r found ends) s = .next t ∧ t.sec = s.sec ∧ t.eng.knot k = { count := 0, thresh := 0xFFFFFFFF } ∧
          (∀ m : Nat, m ≠ k → t.eng.knot m = s.eng.knot m)) ∧
      (∀ k : Nat, r = .flyer k → s.eng.visit r found = .lost r →
        ∃ t, exec (.scrubVisit r found ends) s = .next t ∧ t.sec = s.sec ∧ t.eng.flyer = { s.eng.flyer with halted := true } ∧
          t.eng.power.phase = .quiesce)) ∧
    (∀ (c : CalSample) (rest : List CalSample), s.eng.live = true → s.eng.tel.calQueue = c :: rest →
      ∃ t k, exec .calibrationFold s = .next t ∧ t.sec = s.sec ∧ t.eng.tel.calQueue = rest ∧ Tab.get? t.eng.tel.cal c.cls = some k ∧
        k.samples.toNat = min 65535 (((Tab.get? s.eng.tel.cal c.cls).map fun x => x.samples.toNat).getD 0 + 1) ∧
        (∀ m : Nat, m ≠ c.cls → Tab.get? t.eng.tel.cal m = Tab.get? s.eng.tel.cal m)) ∧
    (s.eng.passedUs s.eng.tel.lastSample s.eng.tel.period = true →
      ∃ t, exec .telemetrySample s = .next t ∧ t.sec = s.sec ∧ t.eng.tel.lastSample = s.eng.now ∧ t.eng.tel.lastEnergy = s.eng.tel.energyUj ∧
        t.eng.scrub.ceDelta = 0 ∧ t.eng.creel = s.eng.creel ∧
        ∀ n : Sp, t.eng.sp n = { s.eng.sp n with delivered := 0, srcRead := 0 })

/-! ## Ticks, instances and frames (R325 to R344) -/

/-- Input i has nothing to settle. -/
def settled (s : State) (i : Inp) : Prop :=
  (s.eng.tick i).due = false ∧ (s.eng.tick i).lostDue = false ∧ (s.eng.tick i).closeDue = false ∧ (s.eng.tick i).budgetDue = false

/-- A state at the end of a control clock: no command and no register access waits, an image is bound, no key roll is under way, and inputs other than
i have nothing to settle. -/
def clockEnds (s : State) (i : Inp) : Prop :=
  s.pending = [] ∧ s.eng.bound.isSome = true ∧ s.sec.busy = false ∧ s.eng.glb.waiting = [] ∧ ∀ k : Inp, k ≠ i → settled s k

/-- A tick before MIN_GAP is refused and counted as early; an accepted one is counted, becomes the last tick, opens a frame,
and is due; a gap beyond MAX_GAP raises TICK_LOST once, and CLOSE_US and BUDGET_US that have passed are noted (R325 to R327,
R337, R338, R343).  At the end of the control clock what is due takes effect: a tick releases its plan, with the tick's time as
the instance's start; TICK_LOST ends the running instance, which counts as missed unless its records are all in; CLOSE_US
closes the frame, short when lines are missing; and an instance past its budget whose records are not all in is marked once
(R327, R329, R338, R339, R342 to R344).  A tick accepted in the clock in which CLOSE_US of the open frame passes leaves that frame open until
the clock ends (R338, R344).  What the model takes as one clock, and that commands note what its end settles, is its choice (log 11), and so
are that a record counts when it is accepted, before its steps (log 54), and that a deadline due in the same clock, its command come or not,
keeps BUDGET_OVER from being raised (log 55). -/
def Obligations.TicksGapsFramesAndBudgets : Prop :=
  ∀ (i : Inp) (s : State),
    (∀ c : Instr, (c = .tickArrive i ∧ s.eng.inputOn i 1 = true ∨
        c = .syntheticTick i ∧ s.eng.inputOn i 2 = true ∧ ∃ k : Nat, (s.eng.tick i).synNext = some k ∧ k ≤ s.eng.now) →
      (s.eng.tooEarly i = true → ∃ t, exec c s = .next t ∧ t.sec = s.sec ∧ (t.eng.tick i).earlyCnt = satInc (s.eng.tick i).earlyCnt ∧
        (t.eng.tick i).lastTick = (s.eng.tick i).lastTick ∧ (t.eng.tick i).inst = (s.eng.tick i).inst ∧
        (t.eng.tick i).due = (s.eng.tick i).due ∧ (t.eng.tick i).frame = (s.eng.tick i).frame ∧
        t.eng.events = .tickEarly i.val :: s.eng.events ∧ t.eng.creel = s.eng.creel ∧ t.eng.knots = s.eng.knots ∧
        t.eng.spindles = s.eng.spindles) ∧
      (s.eng.tooEarly i = false → (s.eng.tick i).frame.open_ = false → (s.eng.tick i).closeDue = false →
        ∃ t, exec c s = .next t ∧ t.sec = s.sec ∧ (t.eng.tick i).lastTick = some s.eng.now ∧ (t.eng.tick i).lost = false ∧
          (t.eng.tick i).tickCnt = satInc (s.eng.tick i).tickCnt ∧ (t.eng.tick i).due = true ∧ (t.eng.tick i).inst = (s.eng.tick i).inst ∧
          ((s.eng.conf.tick i.val).frames = true → (t.eng.tick i).frame.open_ = true ∧
            (t.eng.tick i).frame.counts = List.replicate (s.eng.conf.tick i.val).stripes 0) ∧
          t.eng.creel = s.eng.creel ∧ t.eng.spindles = s.eng.spindles ∧ t.eng.knots = s.eng.knots) ∧
      (s.eng.tooEarly i = false → s.eng.closesNow i = true →
        ∃ t, exec c s = .next t ∧ t.sec = s.sec ∧ (t.eng.tick i).lastTick = some s.eng.now ∧ (t.eng.tick i).due = true ∧
          (t.eng.tick i).closeDue = true ∧ (t.eng.tick i).frame = (s.eng.tick i).frame ∧ (t.eng.tick i).tickCnt = satInc (s.eng.tick i).tickCnt ∧
          t.eng.creel = s.eng.creel ∧ t.eng.spindles = s.eng.spindles ∧ t.eng.knots = s.eng.knots)) ∧
    (s.eng.gapPassed i = true →
      ∃ t, exec (.maxGapExpiry i) s = .next t ∧ t.sec = s.sec ∧ (t.eng.tick i).lost = true ∧ (t.eng.tick i).lostDue = true ∧
        t.eng.gapPassed i = false ∧ t.eng.events = .tickLost i.val :: s.eng.events ∧ t.eng.creel = s.eng.creel ∧
        (t.eng.tick i).lastTick = (s.eng.tick i).lastTick ∧ (t.eng.tick i).inst = (s.eng.tick i).inst) ∧
    (∀ l : Nat, (s.eng.tick i).lastTick = some l → s.eng.bound.isSome = true → s.eng.passedUs l (s.eng.conf.tick i.val).closeUs = true →
      ∃ t, exec (.closeExpiry i) s = .next t ∧ t.sec = s.sec ∧ t.eng.tick i = { s.eng.tick i with closeDue := true } ∧ t.eng.creel = s.eng.creel) ∧
    (∀ x : Instance, (s.eng.tick i).inst = some x → x.overBudget = false → s.eng.bound.isSome = true →
      s.eng.passedUs x.start (s.eng.conf.tick i.val).budgetUs = true →
      ∃ t, exec (.budgetExpiry i) s = .next t ∧ t.sec = s.sec ∧ t.eng.tick i = { s.eng.tick i with budgetDue := true } ∧ t.eng.creel = s.eng.creel) ∧
    (clockEnds s i → (s.eng.tick i).due = true → (s.eng.tick i).lostDue = false → (s.eng.tick i).closeDue = false → s.eng.act = none →
      ∃ t, step s = .next t ∧ (t.eng.tick i).due = false ∧ (t.eng.tick i).budgetDue = false ∧
        (∀ x : Instance, (t.eng.tick i).inst = some x → x.start = s.eng.now ∧ x.accepted = 0)) ∧
    (clockEnds s i → (s.eng.tick i).lostDue = true → (s.eng.tick i).due = false → (s.eng.tick i).closeDue = false →
      ∃ t, step s = .next t ∧ (t.eng.tick i).inst = none ∧ (t.eng.tick i).lostDue = false ∧
        (∀ x : Instance, (s.eng.tick i).inst = some x → x.accepted + (s.eng.uncounted i).1 < x.jobs →
          (t.eng.tick i).missCnt = satInc (s.eng.tick i).missCnt)) ∧
    (clockEnds s i → (s.eng.tick i).closeDue = true → (s.eng.tick i).due = false → (s.eng.tick i).lostDue = false → (s.eng.tick i).budgetDue = false →
      (s.eng.tick i).frame.open_ = true → (∀ n : Sp, ∀ x ∈ (s.eng.sp n).jobs, x.desc.srcKind ≠ 4) →
      ∃ t, step s = .next t ∧ (t.eng.tick i).frame.open_ = false ∧ (t.eng.tick i).closeDue = false ∧
        (t.eng.tick i).lastLines = w32 (s.eng.tick i).frame.counts.sum ∧
        ((s.eng.tick i).frame.counts.sum < (s.eng.conf.tick i.val).frameLines → (t.eng.tick i).shortCnt = satInc (s.eng.tick i).shortCnt ∧
          .frameShort i.val (unbroken (s.eng.conf.tick i.val) 0 (s.eng.tick i).frame.counts) ∈ t.eng.events)) ∧
    (∀ x : Instance, clockEnds s i → (s.eng.tick i).budgetDue = true → (s.eng.tick i).due = false → (s.eng.tick i).lostDue = false →
      (s.eng.tick i).closeDue = false → (s.eng.tick i).inst = some x → x.overBudget = false →
      s.eng.passedUs x.start (s.eng.conf.tick i.val).budgetUs = true → s.eng.gapPassed i = false → s.eng.synDue i = false →
      x.accepted + (s.eng.uncounted i).1 < x.jobs →
      ∃ t, step s = .next t ∧ (t.eng.tick i).inst = some { x with overBudget := true } ∧
        (t.eng.tick i).overCnt = satInc (s.eng.tick i).overCnt ∧ t.eng.events = .budgetOver i.val :: s.eng.events ∧
        t.eng.creel = s.eng.creel ∧ t.eng.spindles = s.eng.spindles)

/-! ## Dispatch, switching and completion (R288, R333 to R336, R356, R357, R364 to R367) -/

/-- The dispatcher starts the first ready head, as a job with the spindle's next number, or as one that ended with DESC_BAD; an
ended job whose duties are met posts its record and leaves its place; and a waiting claim is granted when the banks are
free and no job dispatched before has a claim still to be granted (R288, R356, R357, R366, R367).  That a claim takes the lowest free banks is
the model's choice (log 118). -/
def Obligations.JobsStartAndPostTheirRecords : Prop :=
  ∀ (n : Sp) (s : State),
    (∀ h : Head, s.eng.firstReady n = some h → s.eng.mustGiveWay n h = [] →
      ∃ t y, exec (.jobStart n) s = .next t ∧ t.sec = s.sec ∧ (t.eng.sp n).jobs.length = (s.eng.sp n).jobs.length + 1 ∧
        (t.eng.sp n).jobNext = (s.eng.sp n).jobNext + 1 ∧ t.eng.job? n (s.eng.sp n).jobs.length = some y ∧ y.id = (s.eng.sp n).jobNext ∧
        y.desc = Desc.parse h.pkt.bytes ∧ y.level = h.level ∧
        (∀ d : Nat, s.eng.descFault n h.pkt.bytes = some d → y.ended = some ⟨1, 1, d, 0⟩ ∧ (t.eng.sp n).cnt.jobs = (s.eng.sp n).cnt.jobs) ∧
        (s.eng.descFault n h.pkt.bytes = none → (t.eng.sp n).cnt.jobs = satInc (s.eng.sp n).cnt.jobs)) ∧
    (∀ (j clocks stalled : Nat) (x : Job) (en : Ending), s.eng.job? n j = some x → s.eng.jobId? n x.id = some x → x.ended = some en →
      s.eng.live = true → s.eng.dutiesMet n x en = true → s.eng.doffer.buffers[n].length < 16 →
      ∃ t, exec (.completionPost n j clocks stalled) s = .next t ∧ t.sec = s.sec ∧
        t.eng.doffer.buffers[n] = s.eng.doffer.buffers[n] ++ [x.record n en clocks] ∧
        t.eng.doffer.fullStall = satAdd s.eng.doffer.fullStall stalled ∧ (∀ y ∈ (t.eng.sp n).jobs, y.id ≠ x.id)) ∧
    (∀ (x : Job) (k : Nat), ((s.eng.sp n).jobs.find? fun x => x.claim.isSome && x.ended.isNone) = some x → s.eng.jobId? n x.id = some x →
      x.claim = some k → s.eng.live = true → k ≤ (s.eng.freeBanks n).length → s.eng.claimBehind n x.id = false →
      ∃ t y, exec (.workClaimGrant n) s = .next t ∧ t.sec = s.sec ∧ t.eng.jobId? n x.id = some y ∧ y.desc = x.desc ∧
        (x.desc.hank = none → y.claim = none ∧ (y.ended = none → y.banks = x.banks ++ (s.eng.freeBanks n).take k)))

/-- A job at a switch point gives way, with its set, to a head of a lower LEVEL, unless the head's claims are held, which is
counted once for a head; a job that is being saved is switched out, and counted, when its context is saved; the lowest
switched-out job is restored when no work of a lower LEVEL is left; and a restored job runs again (R333 to R336).  Which of several running
jobs gives way first is the model's choice (log 69). -/
def Obligations.SwitchedJobsGiveWayAndReturn : Prop :=
  ∀ (n : Sp) (s : State),
    (∀ (h : Head) (x : Job), s.eng.firstReady n = some h →
      ((s.eng.mustGiveWay n h).find? fun x => s.eng.maySwitch n (s.eng.switchGroup n x) h.level) = some x →
      (s.eng.headHeld n (Desc.parse h.pkt.bytes) = false →
        ∃ t, exec (.switchPointReached n) s = .next t ∧ t.sec = s.sec ∧ t.eng.creel = s.eng.creel ∧
          (t.eng.sp n).jobs.length = (s.eng.sp n).jobs.length ∧
          ∀ (j : Nat) (y : Job), s.eng.job? n j = some y → t.eng.job? n j = some (if ((s.eng.switchGroup n x).any fun z => z.id == y.id) = true then
            { y with run := .saving } else y)) ∧
      (s.eng.headHeld n (Desc.parse h.pkt.bytes) = true → (s.eng.sp n).heldCounted ≠ some (h.queue, h.pkt.visAt) →
        ∃ t, exec (.switchPointReached n) s = .next t ∧ t.sec = s.sec ∧ (t.eng.sp n).jobs = (s.eng.sp n).jobs ∧
          (t.eng.sp n).cnt.switchHeld = satInc (s.eng.sp n).cnt.switchHeld)) ∧
    (∀ (ns j : Nat) (y : Job), s.eng.live = true → s.eng.job? n j = some y → y.run = .saving →
      ∃ t z, exec (.contextSaveDone n ns) s = .next t ∧ t.sec = s.sec ∧ (t.eng.sp n).cnt.switches = satInc (s.eng.sp n).cnt.switches ∧
        t.eng.job? n j = some z ∧ z.id = y.id ∧ z.desc = y.desc ∧ z.switched = true ∧ (z.run = .out ∨ z.ended.isSome = true)) ∧
    (∀ x : Job, s.eng.firstOut n = some x → s.eng.live = true → s.eng.lowerWaits n x.level = false →
      ((s.eng.sp n).jobs.any fun y => y.ended.isNone && (y.run == .saving || y.run == .restoring || (y.run == .running && decide (y.level < x.level)))) = false →
      ∃ t, exec (.jobResume n) s = .next t ∧ t.sec = s.sec ∧ t.eng.creel = s.eng.creel ∧ (t.eng.sp n).jobs.length = (s.eng.sp n).jobs.length ∧
        ∀ (j : Nat) (y : Job), s.eng.job? n j = some y →
          t.eng.job? n j = some (if ((s.eng.switchGroup n x).any fun z => z.id == y.id && z.run == .out) = true then { y with run := .restoring } else y)) ∧
    (∀ (ns j : Nat) (y : Job), s.eng.live = true → s.eng.job? n j = some y → y.run = .restoring →
      ∃ t z, exec (.contextRestoreDone n ns) s = .next t ∧ t.sec = s.sec ∧ t.eng.job? n j = some z ∧ z.id = y.id ∧ z.desc = y.desc ∧
        z.run = .running)

/-! ## The Doffer and the knots (R125 to R127, R361 to R363, R368 to R370) -/

/-- DOFFER_ACCEPT takes the oldest record of the spindle whose turn it is (R366, R368); that a record which waits for that spindle's buffer
takes the free place is the model's choice (log 43).  RECORD_STEPS_BEGIN evaluates a record's folds up to the first that must read a weight
stream's header, or, with none, sends its knot effects to their banks in order and writes its 32 bytes at the ring's head, which then
advances (R125, R369, R370); FOLD_HEADER_READ_DONE writes the fold's word to its DEST, and FOLD_DEST_ACK ends the record's steps (R126, R127,
R369; one response acknowledging all DEST writes is log 64: the model's choice); and KNOT_BANK_APPLY applies the oldest operation that a bank
holds to its knot alone (R361, R362). -/
def Obligations.RecordsFoldsAndKnotOperations : Prop :=
  ∀ s : State,
    (∀ (n : Sp) (r : CompRec) (rest : List CompRec), s.eng.doffer.nextSpindle = some n → s.eng.doffer.buffers[n] = r :: rest → s.eng.live = true →
      s.eng.doffer.accepted.length < 32 →
      ∃ t, exec .dofferAccept s = .next t ∧ t.sec = s.sec ∧ t.pending = s.pending ∧
        t.eng.doffer.buffers[n] = rest ++ ((s.eng.doffer.waiting.find? fun w => w.1 == n.val).map fun w => w.2).toList ∧
        t.eng.doffer.accepted = s.eng.doffer.accepted ++ [{ r with acceptedAt := s.eng.now }] ∧
        t.eng.doffer.acceptCnt = satInc s.eng.doffer.acceptCnt ∧ t.eng.doffer.lastServed = n.val ∧
        (∀ m : Sp, m ≠ n → t.eng.doffer.buffers[m] = s.eng.doffer.buffers[m]) ∧ t.eng.creel = s.eng.creel ∧ t.eng.knots = s.eng.knots) ∧
    (∀ (r : CompRec) (rest : List CompRec), s.eng.doffer.current = none → s.eng.doffer.accepted = r :: rest → s.eng.live = true →
      ∃ t, exec .recordStepsBegin s = .next t ∧ t.sec = s.sec ∧ t.eng.doffer.accepted = rest ∧
        (s.eng.conf.foldsOf r.tag ≠ [] → t.eng.doffer.current = some (r,
          match (s.eng.conf.foldsOf r.tag).dropWhile fun f => !(r.scale.isSome && f.fromHeader) with
          | [] => .dest
          | f :: fs => .header (f :: fs) false)) ∧
        (s.eng.conf.foldsOf r.tag = [] → t.eng.doffer.current = none ∧
          (∀ size : Nat, s.eng.doffer.ringSize = some size → s.eng.doffer.full size = false → (r.notify || r.status != 0) = true →
            t.eng.doffer.head = BitVec.ofNat 16 ((s.eng.doffer.head.toNat + 1) % size) ∧
            (Tab.wf 0 s.eng.mem = true → readBytes t.eng.mem (s.eng.doffer.base + 32 * s.eng.doffer.head.toNat) 32 = r.toBytes)) ∧
          (∀ b : Fin 16, (t.eng.knots.banks[b].map fun o => (o.issuer, o.knot, o.verb, o.value)) =
            (s.eng.knots.banks[b].map fun o => (o.issuer, o.knot, o.verb, o.value)) ++
              ((r.applied.filter fun x => knotBank x.knot == b).map fun x => (Issuer.doffer, x.knot % 65536, x.verb, w32 x.value))))) ∧
    (∀ (r : CompRec) (f : FoldRec) (data : List Byte), s.eng.doffer.current = some (r, .header [f] false) → s.eng.portsUp = true → s.eng.quiescing = false →
      (∀ u ∈ s.eng.unitTxns, u.fold = true → u.write = false → u.slot < 64) → Tab.wf 0 s.eng.mem = true →
      let bs := slice data 0 44
      let sw := if fieldAt bs 0 4 = magicSkein then w32 (fieldAt bs 0x28 4) else 0
      ∃ t, exec (.foldHeaderReadDone .okay data) s = .next t ∧ t.sec = s.sec ∧ t.eng.doffer.current = some (r, .dest) ∧
        t.eng.mem = writeBytes (writeBytes s.eng.mem (f.weightStream % 2 ^ 48) bs) (f.dest % 2 ^ 48) (leBytes 4 (foldValue (r.scale.getD 0) sw f).toNat)) ∧
    (∀ (r : CompRec), s.eng.doffer.current = some (r, .dest) → s.eng.portsUp = true → s.eng.quiescing = false →
      (∀ u ∈ s.eng.unitTxns, u.fold = true → u.write = true → u.slot < 64) →
      ∃ t, exec (.foldDestAck .okay) s = .next t ∧ t.sec = s.sec ∧ t.eng.doffer.current = none ∧ t.eng.doffer.accepted = s.eng.doffer.accepted) ∧
    (∀ (b : Fin 16) (o : KnotOp) (rest : List KnotOp), Tab.wf {} s.eng.knots.table = true → s.eng.up = true → pickOldest s.eng.knots.banks[b] = some (o, rest) →
      ∃ t, exec (.knotBankApply b .ok) s = .next t ∧ t.sec = s.sec ∧ t.eng.knots.banks = s.eng.knots.banks.set b rest ∧
        t.eng.knot o.knot = ((s.eng.knot o.knot).apply o.verb o.value).1 ∧ (∀ k : Nat, k ≠ o.knot → t.eng.knot k = s.eng.knot k))

/-! ## Placement (R278 to R286) -/

/-- PLACEMENT_DECISION answers the placement request that comes first, and its tensor is placed (R278 to R280; that the allocators' requests
come before the Flyer's is the model's choice, log 105);
STAGED_COPY_DONE, once the copy's reads are all answered, ends the staging where it rests (R280); TENSOR_FREE unplaces a
tensor that waits to be freed and that no job holds open, and keeps the length it had (R285, R286); and TRANSLATION_MISS_FILL
enters a tensor that an access waits for into the spindle's translation cache, and counts the miss (R284). -/
def Obligations.TensorsArePlacedAndFreed : Prop :=
  ∀ s : State, Tab.wf {} s.eng.tensors = true →
    (∀ r : PlaceReq, s.eng.nextPlace = some r → s.eng.live = true → r.job ≠ thiefJob → (s.eng.jobId? (spOf r.spindle) r.job).isSome = true →
      ∃ t, exec .placementDecision s = .next t ∧ t.sec = s.sec ∧ (t.eng.tensor r.tensor).placed = true) ∧
    (∀ tn : Nat, (s.eng.tensor tn).staging = true →
      (s.eng.sp (spOf (s.eng.tensor tn).stager.1)).waitsFor (s.eng.tensor tn).stager.2 (pStage tn) = false →
      ∃ t, exec (.stagedCopyDone tn) s = .next t ∧ t.sec = s.sec ∧ (t.eng.tensor tn).staging = false ∧
        (t.eng.tensor tn).sPart = (s.eng.tensor tn).sPart ∧ (t.eng.tensor tn).bPart = (s.eng.tensor tn).bPart) ∧
    (∀ tn : Nat, (s.eng.tensor tn).freeWaits = true → s.eng.heldOpen tn = false →
      ∃ t, exec (.tensorFree tn) s = .next t ∧ t.sec = s.sec ∧ t.eng.spindles = s.eng.spindles ∧
        t.eng.tensor tn = {
          lastLen := if (s.eng.tensor tn).placed = true ∨ 0 < (s.eng.tensor tn).high then (s.eng.tensor tn).high else (s.eng.tensor tn).lastLen
          lost := (s.eng.tensor tn).lost } ∧
        (∀ k : Nat, k ≠ tn → t.eng.tensor k = s.eng.tensor k)) ∧
    (∀ (n : Sp) (tn : Nat), s.eng.live = true → (s.eng.sp n).xlateWait.contains tn = true →
      ∃ t, exec (.translationMissFill n tn) s = .next t ∧ t.sec = s.sec ∧ (t.eng.sp n).xlate = (tn :: (s.eng.sp n).xlate).take 16 ∧
        (t.eng.sp n).cnt.xlateMiss = satInc (s.eng.sp n).cnt.xlateMiss)

/-! ## Leaf-port transactions (R421 to R426) -/

/-- A good read response brings its 64 bytes and frees its slot; a good write response frees its slot and its job goes on; an
error response faults the job with BUS_ERROR and the detail of R425 before anything more is issued; in a quiesce a good response
only leaves its slot, and nothing more is issued (R508 step 3; that WS_EXTEST's isolation does the same is log 31); a response to
no transaction that is out is logged with code 0x10 and changes no spindle (R422, R426, R434); a good write response to a shared
unit frees its slot (R421); a transaction that is late is timed out, keeps its slot and faults its job with detail 6 (R425); and a
share window ends after 10 µs, and the next begins with the bytes issued in it so far (R424; that a window's command may come late
is the model's, log 47). -/
def Obligations.ResponsesTimeoutsAndShares : Prop :=
  ∀ s : State, s.eng.portsUp = true →
    (∀ (p : Port) (id : BitVec 10) (x : Txn), idShared id = false → s.eng.txnAt (idSpindle p id) (idSlot id) = some x → x.timedOut = false →
      x.discarded = false →
      let n := idSpindle p id
      let left := s.eng.leaveSlot n x
      (x.write = false → s.eng.quiescing = false → ∀ data : List Byte, exec (.leafReadResponse p id .okay false true data) s =
        .next { s with eng := (({ left with mem := writeBytes left.mem x.addr (slice data 0 64) }).afterAnswer n x).portGoes n }) ∧
      (x.write = true → s.eng.quiescing = false →
        exec (.leafWriteResponse p id .okay true) s = .next { s with eng := (left.afterAnswer n x).portGoes n }) ∧
      (x.write = false → s.eng.quiescing = true → ∀ data : List Byte, exec (.leafReadResponse p id .okay false true data) s =
        .next { s with eng := left.markWaits (homePort n) }) ∧
      (x.write = true → s.eng.quiescing = true → exec (.leafWriteResponse p id .okay true) s = .next { s with eng := left.markWaits (homePort n) }) ∧
      (s.eng.quiescing = false → ∀ (y : Job) (resp : AxiResp) (d : Nat) (data : List Byte), x.job ≠ thiefJob → s.eng.jobId? (idSpindle p id) x.job = some y → y.ended = none →
        respDetail x.write resp = some d →
        ∃ t z, (if x.write then exec (.leafWriteResponse p id resp true) s else exec (.leafReadResponse p id resp false true data) s) = .next t ∧
          t.sec = s.sec ∧ t.eng.jobId? (idSpindle p id) x.job = some z ∧ z.ended = some ⟨1, 0x18, d, 0⟩) ∧
      (s.eng.quiescing = false → ∀ y : Job, x.job ≠ thiefJob → s.eng.late x.issued = true → s.eng.jobId? (idSpindle p id) x.job = some y → y.ended = none →
        ∃ t z, exec (.axiTimeout p id) s = .next t ∧ t.sec = s.sec ∧ t.eng.jobId? (idSpindle p id) x.job = some z ∧
          z.ended = some ⟨1, 0x18, 6, 0⟩ ∧
          ∃ u ∈ (t.eng.sp (idSpindle p id)).txns, u.slot = some (idSlot id) ∧ u.timedOut = true)) ∧
    (∀ (p : Port) (id : BitVec 10), idShared id = false → s.eng.txnAt (idSpindle p id) (idSlot id) = none →
      (∀ (resp : AxiResp) (poisoned rlast : Bool) (data : List Byte), ∃ t q, exec (.leafReadResponse p id resp poisoned rlast data) s = .next t ∧
        t.sec = s.sec ∧ t.eng.spindles = s.eng.spindles ∧ t.eng.mem = s.eng.mem ∧ t.eng.glb.plog.head? = some q ∧ q.code = 0x10) ∧
      (∀ (resp : AxiResp) (sent : Bool), ∃ t q, exec (.leafWriteResponse p id resp sent) s = .next t ∧
        t.sec = s.sec ∧ t.eng.spindles = s.eng.spindles ∧ t.eng.mem = s.eng.mem ∧ t.eng.glb.plog.head? = some q ∧ q.code = 0x10)) ∧
    (∀ (id : BitVec 10) (u : UnitTxn), idShared id = true → s.eng.unitOf 0 id = some u → u.write = true →
      u.timedOut = false → u.fold = false →
      exec (.leafWriteResponse 0 id .okay true) s = .next { s with eng := s.eng.unitFree u }) ∧
    (s.eng.bound.isSome = true → s.eng.passedUs s.eng.windowStart 10 = true →
      ∃ t, exec .shareWindowEnd s = .next t ∧ t.sec = s.sec ∧ t.eng.shareFrom = s.eng.windowStart + usClocks 10 ∧
        t.eng.spindles = s.eng.spindles ∧ t.eng.creel = s.eng.creel ∧ ∀ p : Port,
          let early := s.eng.ports[p].later.filter fun c => decide (c.issued < s.eng.windowStart + 2 * usClocks 10)
          t.eng.ports[p].issued = 64 * early.length ∧ t.eng.ports[p].unitSpent = [] ∧
            (early = [] → t.eng.ports[p].winner = none ∧ t.eng.ports[p].unitBytes = []))

/-! ## Streams and the dense Ply array (R130 to R164, R518) -/

/-- The working job at place j of spindle n. -/
def worksAt (s : State) (n : Sp) (j : Nat) (x : Job) : Prop :=
  s.eng.live = true ∧ s.eng.job? n j = some x ∧ s.eng.jobId? n x.id = some x ∧ x.acts = true

/-- A read of a job has been answered and may be taken: no transaction of its purpose is open, its address is translated,
its place is not at fault, and the rows of the stores it lies in are not known to have an error. -/
def readIsIn (s : State) (n : Sp) (x : Job) (purpose : Nat × Nat) (a : Addr) (len : Nat) : Prop :=
  (s.eng.sp n).waitsFor x.id purpose = false ∧ s.eng.translated n a = true ∧ s.eng.placeFault n false a len = none ∧
    s.eng.readSram a len .ok = (s.eng, false)

/-- A stream's header, table entries and payloads are taken as they come, here of a stream that is read where it lies.  A header
that starts a Hank frame makes the stream a wrapped one, or faults the job with HANK_BAD_CODE (R239); where HANK_EN is clear and its
drain is over, the job is aborted as the drain limit aborts one (R372; that this is where it shows is log 116); a list's header that
breaks R162 faults it with LIST_HEADER, and a stream's that breaks R67 with SKEIN_HEADER; a good one, of a job outside a
lockstep set and with its scale in the stream, opens the table.  A good entry joins the table, and a bad one faults the job
with SKEIN_TILE; a set-up opens the operand; a good payload counts as decoded, and a bad one faults the job with the code of its
data, WHERE being the tile (R131, R136, R138, R139). -/
def Obligations.StreamsAreReadInOrder : Prop :=
  ∀ (n : Sp) (j : Nat) (o : Opnd) (s : State) (x : Job) (st : Strm), worksAt s n j x → x.strm o = some st → st.wrapped = none →
    let ends (t : State) (code detail where_ : Nat) : Prop := ∃ y, t.eng.jobId? n x.id = some y ∧ y.ended = some ⟨1, code, detail, where_⟩
    let hb := s.eng.readAt st.addr 64
    let isList : Prop := (x.form = .sparse ∨ st.blk.dest = 3) ∧ fieldAt hb 0 4 ≠ magicSkein
    (st.phase = .header → st.blk.scaleSrc ≠ 1 → (s.eng.sp n).waitsFor x.id (pFold o) = false → readIsIn s n x (pHeader o) st.addr 64 →
      let c : Instr := .streamHeaderArrive n j o .ok
      let h := SkeinHdr.parse hb
      let u0 := st.opened x o h none 0
      (∀ d : Nat, fieldAt hb 0 4 = magicHank → hankOpenError hb = some d →
        ∃ t, exec c s = .next t ∧ t.sec = s.sec ∧ (t.eng.sp n).work.hankErr = satInc (s.eng.sp n).work.hankErr ∧ ends t 0x0A d 0) ∧
      (fieldAt hb 0 4 = magicHank → hankOpenError hb = none → (s.eng.sp n).hankEn = false → (s.eng.sp n).drainHank = none →
        ∃ t y, exec c s = .next t ∧ t.sec = s.sec ∧ t.eng.jobId? n x.id = some y ∧ y.ended = some ⟨2, 0x17, 2, 0⟩) ∧
      (fieldAt hb 0 4 = magicHank → hankOpenError hb = none → ((s.eng.sp n).hankEn = true ∨ (s.eng.sp n).drainHank.isSome = true) →
        ∃ t y u, exec c s = .next t ∧ t.sec = s.sec ∧ t.eng.jobId? n x.id = some y ∧ y.hank.isSome = true ∧ y.strm o = some u ∧
          u.wrapped = some (HankHdr.parse hb)) ∧
      (fieldAt hb 0 4 ≠ magicHank → isList → fieldAt hb 0 4 ≠ magicList ∨ (ListHdr.parse hb).ok x.grids (fieldAt hb 5 1) = false →
        ∃ t, exec c s = .next t ∧ t.sec = s.sec ∧ ends t 5 0 0) ∧
      (fieldAt hb 0 4 ≠ magicHank → ¬ isList → h.ok x.grids = false → ∃ t, exec c s = .next t ∧ t.sec = s.sec ∧ ends t 2 0 0) ∧
      (fieldAt hb 0 4 ≠ magicHank → ¬ isList → h.ok x.grids = true → x.desc.lock = false → blockOk x o u0 = true →
        (x.isSecond o = false ∨ ∃ v, x.strm (otherOpnd o) = some v ∧ (match o with | .a => pairOk x u0 v | .b => pairOk x v u0) = true) →
        ∃ t y u, exec c s = .next t ∧ t.sec = s.sec ∧ t.eng.jobId? n x.id = some y ∧ y.strm o = some u ∧ u.hdr = h ∧
          (y.ended = none → u.phase = .entry) ∧ (x.form ≠ .window → x.form ≠ .crop → readable s n st → y.ended = none))) ∧
    (∀ k : Nat, st.lst = none → x.form ≠ .window → x.form ≠ .crop → (st.phase = .entry ∨ st.phase = .setup ∨ st.phase = .open) →
      x.readTile o st st.entries.length = some k → st.decoded + st.entries.length < st.asked →
      let a := st.addr.plus (st.hdr.tableOffset + 8 * k)
      let en := TileEntry.parse (s.eng.readAt a 8)
      readIsIn s n x (pEntry o (st.decoded + st.entries.length)) a 8 →
      (en.ok st.hdr k = true →
        ∃ t y u, exec (.tileEntryArrive n j o .ok) s = .next t ∧ t.sec = s.sec ∧ t.eng.jobId? n x.id = some y ∧ y.strm o = some u ∧
          u.entries = st.entries ++ [en] ∧ u.decoded = st.decoded ∧ (readable s n st → y.ended = none)) ∧
      (en.ok st.hdr k = false → ∃ t, exec (.tileEntryArrive n j o .ok) s = .next t ∧ t.sec = s.sec ∧ ends t 3 0 k)) ∧
    (st.phase = .setup → ∃ t y u, exec (.streamSetupDone n j o) s = .next t ∧ t.sec = s.sec ∧ t.eng.jobId? n x.id = some y ∧ y.strm o = some u ∧
      u.phase = .open) ∧
    (∀ (en : TileEntry) (rest : List TileEntry) (k : Nat), st.phase = .open → st.lst = none → x.form ≠ .window → x.form ≠ .crop →
      (x.form = .feed → x.words = []) → x.mayDecode o st = true → st.entries = en :: rest → x.readTile o st 0 = some k → st.decoded < st.paid →
      en.zero = false → readIsIn s n x (pPayload o st.decoded) (st.addr.plus en.offset) en.length →
      ∀ waited : Nat,
      (∀ cs : List (Option Nat), decodeTile st.hdr k en (s.eng.readAt (st.addr.plus en.offset) en.length) = .ok cs →
        ∃ t y u, exec (.tilePayloadArrive n j o .ok waited) s = .next t ∧ t.sec = s.sec ∧ t.eng.jobId? n x.id = some y ∧ y.strm o = some u ∧
          u.decoded = st.decoded + 1 ∧ (x.form = .feed → u.entries = rest ∧ (readable s n st → y.ended = none))) ∧
      (∀ d : Nat, decodeTile st.hdr k en (s.eng.readAt (st.addr.plus en.offset) en.length) = .error d →
        ∃ t, exec (.tilePayloadArrive n j o .ok waited) s = .next t ∧ t.sec = s.sec ∧ ends t 4 d k))

/-- The accumulator of a lane after a bank is read into it: clock by clock, the products of that clock's weights with the bank's entries
are summed and added, as integers or in binary32 (R94, R96, R146, R147). -/
def laneSum (x : Job) (a w : Strm) (b : WhorlBank) (col : Nat × Nat × Nat) (acc : Word) : Word :=
  let k := productsPerClock a w
  (weightTerms w k col (512 * b.seg) b.entries.length).foldl (fun v clock =>
    if intMode a w then
      (addI32 v ((clock.map fun t => (match b.entries.getD t.1 [] with | c :: _ => intCode a.ct c.toNat | [] => 0) * intCode w.ct (t.2.getD 0)).sum)).1
    else
      (addProducts v ((clock.map fun t =>
          entryProduct (whorlMode w) a.ct w.ct (gridOf x.grids a.ct a.slot) (gridOf x.grids w.ct w.slot) (b.entries.getD t.1 []) t.2) ++
        List.replicate (k - clock.length) (0, false))).1) acc

/-- A dense Ply job that has the array: WHORL_BANK_FILLED adds the next bank, of at most 512 elements, once the vector's tiles are
decoded, and moves the fill unit on (R144, R518); PLY_BANK_READ_DONE reads the oldest bank for its next lane group into that
group's accumulators, lane by lane, once the weight tiles are decoded, and counts the waits (R146, R147, R149), or faults the job
with SRAM_UE where a row of the bank cannot be read (R483); and ACCUMULATOR_DRAIN drains a complete lane group's values into the
job's source (R149).  The job ends in the other steps only where a read that follows is at fault.  The order in which the weight tiles
come (log 132), and how often an activation tile is read (log 131), are the model's choices. -/
def Obligations.PlyArrayFillsReadsAndDrains : Prop :=
  ∀ (n : Sp) (j : Nat) (s : State) (x : Job) (p : Ply) (a w : Strm), worksAt s n j x → x.form = .ply → x.ply = some p → x.strA = some a →
    x.strB = some w → s.eng.arrayFor n x.id = true →
    let segs := segCount a.hdr.dim0
    let groups := laneGroups w.cols
    (p.banks.length < 2 → p.vec < a.positions → a.readyFor p.vec (fillKey segs groups p.vec p.pair) = true →
      ∃ t y, exec (.whorlBankFilled n j) s = .next t ∧ t.sec = s.sec ∧ t.eng.creel = s.eng.creel ∧ t.eng.jobId? n x.id = some y ∧
        (readable s n a → readable s n w → y.ended = none) ∧
        (y.ended = none → ∃ b, y.ply = some { p.advance segs groups with banks := p.banks ++ [b] } ∧ b.vec = p.vec ∧ b.pair = p.pair ∧
          b.seg = p.seg ∧ (∀ o ∈ p.banks, o.half < 2 → b.half = 1 - o.half) ∧ b.groups = p.fillGroups segs groups ∧ b.entries.length = min 512 (a.hdr.dim0 - 512 * p.seg))) ∧
    (∀ (b : WhorlBank) (rest : List WhorlBank) (g : Nat) (gs : List Nat) (whorlWait drainWait : Nat), p.banks = b :: rest → b.groups = g :: gs →
      p.canRead = true → w.readyFor b.vec p.reads = true →
      (∀ r : RowAt, s.eng.scrub.unreadable (whorlRows n b.half b.entries.length) .ok = some r →
        ∃ t y, exec (.plyBankReadDone n j .ok whorlWait drainWait) s = .next t ∧ t.sec = s.sec ∧ t.eng.jobId? n x.id = some y ∧
          y.ended = some ⟨1, 0x19, 4, 0⟩) ∧
      (s.eng.scrub.unreadable (whorlRows n b.half b.entries.length) .ok = none →
        ∃ t y, exec (.plyBankReadDone n j .ok whorlWait drainWait) s = .next t ∧ t.sec = s.sec ∧ t.eng.creel = s.eng.creel ∧
          (t.eng.sp n).work.whorlStall = satAdd (s.eng.sp n).work.whorlStall whorlWait ∧
          (t.eng.sp n).work.drainStall = satAdd (s.eng.sp n).work.drainStall drainWait ∧ t.eng.jobId? n x.id = some y ∧
          (readable s n a → readable s n w → y.ended = none) ∧
          (y.ended = none → ∃ q c, y.ply = some q ∧ q.banks = (if gs = [] then rest else { b with groups := gs } :: rest) ∧ q.reads = p.reads + 1 ∧
            c ∈ q.accs ∧ c.vec = b.vec ∧ c.group = g ∧ c.full = (b.seg + 1 == segs) ∧
            c.acc = (List.range 64).map fun l =>
              let before := (((p.accs.find? fun c => c.vec == b.vec && c.group == g).map fun c => c.acc).getD (List.replicate 64 0)).getD l 0
              match w.outCols[64 * g + l]? with
              | some col => laneSum x a w b col before
              | none => before))) ∧
    (∀ (g : AccGroup) (rest : List AccGroup), p.accs = g :: rest → g.full = true →
      let last := p.drained + 1 == a.positions * groups
      ∃ t y, exec (.accumulatorDrain n j) s = .next t ∧ t.sec = s.sec ∧ t.eng.creel = s.eng.creel ∧ t.eng.jobId? n x.id = some y ∧ y.ended = none ∧
        y.ply = (if last then none else some { p with accs := rest, drained := p.drained + 1 }) ∧
        y.draft = x.draft.map fun d => { d with
          src := d.src ++ (g.acc.take (min 64 (w.cols - 64 * g.group))).flatMap (fun v => leBytes 4 v.toNat)
          srcDone := d.srcDone || last })

/-! ## Drafting (R104 to R124, R205) -/

/-- The Carder bins the next 32 bytes of a source that has come over the link, a queue or the Ply array (R104 to R107); the scale
that its bins give begins the Drafter's pass (R108 to R111); the Drafter narrows the next 32 bytes, from the buffer or from
the scratch space where the source is stored, or faults the job at a SLUB (R113, R120, R174) or at a stored row that cannot be read
(R483); and the acknowledged header
ends the job's drafting (R35, R115). -/
def Obligations.CarderAndDrafterPasses : Prop :=
  ∀ (n : Sp) (j : Nat) (s : State) (x : Job) (d : Draft) (b : DraftBlk), worksAt s n j x → x.draft = some d → x.desc.draft = some b →
    let w := srcBytes x.desc b
    let len (k : Nat) : Nat := chunkLen x.desc b d k * w
    let vals (k : Nat) : List Val := (chunks w (slice d.src (k * w) (len k))).map (srcVal x.desc b d)
    let stored (k : Nat) : List Val := match x.storedAt b with
      | some p => (chunks w (s.eng.readAt (s.eng.scratchAddr n p (k * w)) (len k))).map (srcVal x.desc b d)
      | none => vals k
    let there (k : Nat) : Prop := x.desc.srcKind ≠ 1 ∧ (k * w + len k) ≤ d.src.length ∧ (s.eng.sp n).waitsFor x.id (pCarder k) = false
    (s.eng.mayPass n x false = true → there d.carded →
      ∃ t y c, exec (.carderSourceRead n j .ok) s = .next t ∧ t.sec = s.sec ∧ t.eng.jobId? n x.id = some y ∧ y.draft = some c ∧
        c.carded = d.carded + chunkLen x.desc b d d.carded ∧ c.carder = (vals d.carded).foldl (fun c v => c.add b.histBase v) d.carder ∧
        c.drafted = d.drafted ∧ c.codes = d.codes) ∧
    (d.phase = .carding → b.twoPass = true → b.group = false → d.carded = d.n → d.n ≠ 0 →
      ∃ t y c, exec (.scaleChosen n j) s = .next t ∧ t.sec = s.sec ∧ t.eng.jobId? n x.id = some y ∧ y.draft = some c ∧ c.phase = .drafting ∧
        c.scale = some (chooseScale x.grids b d.carder) ∧ c.carder = d.carder) ∧
    let lost (k : Nat) : Bool := b.twoPass && (match x.storedAt b with
      | some p => (s.eng.readSram (s.eng.scratchAddr n p (k * w)) (len k) .ok).2
      | none => (s.eng.readRows (bankRows n x.srcBanks (k * w) (len k)) .ok false).2)
    (s.eng.mayPass n x true = true → there d.drafted → (b.twoPass = true ∨ d.drafted + chunkLen x.desc b d d.drafted ≤ d.carded) →
      lost d.drafted = true → ∃ t y v, exec (.drafterSourceRead n j .ok) s = .next t ∧ t.sec = s.sec ∧ t.eng.jobId? n x.id = some y ∧
        y.ended = some ⟨1, 0x19, v, 0⟩ ∧ (x.storedAt b = none → v = 1)) ∧
    (s.eng.mayPass n x true = true → there d.drafted → (b.twoPass = true ∨ d.drafted + chunkLen x.desc b d d.drafted ≤ d.carded) →
      lost d.drafted = false →
      let r := narrowRun x.grids b (d.scale.getD f32One) (stored d.drafted)
      (r.slub = true → ∃ t y, exec (.drafterSourceRead n j .ok) s = .next t ∧ t.sec = s.sec ∧ t.eng.jobId? n x.id = some y ∧
        y.ended = some ⟨1, 4, 7, 0⟩) ∧
      (r.slub = false → ∃ t y c, exec (.drafterSourceRead n j .ok) s = .next t ∧ t.sec = s.sec ∧ t.eng.jobId? n x.id = some y ∧
        y.draft = some c ∧ c.drafted = d.drafted + chunkLen x.desc b d d.drafted ∧ c.codes = d.codes ++ r.codes ∧
        c.clipped = d.clipped + r.clipped)) ∧
    (d.phase = .header → s.eng.writesOut n x [32, 33, 34] = false →
      ∃ t y c, exec (.streamHeaderWriteAck n j) s = .next t ∧ t.sec = s.sec ∧ t.eng.creel = s.eng.creel ∧ t.eng.jobId? n x.id = some y ∧
        y.draft = some c ∧ c.phase = .done ∧ (y.ended = if x.halves.all (fun h => h.acked) then some ⟨0, 0, 0, 0⟩ else none))

/-- A scale group: the acknowledged slot increments GROUP_KNOT; when the knot has reached GROUP_COUNT, the slots give one scale,
or fault the job when their members do not agree; and a step set whose jobs have all drafted writes its headers
(R116 to R118, R205). -/
def Obligations.GroupSlotsAndStepSets : Prop :=
  ∀ (n : Sp) (j : Nat) (s : State) (x : Job) (d : Draft) (b : DraftBlk), s.eng.job? n j = some x → s.eng.jobId? n x.id = some x →
    x.draft = some d → x.desc.draft = some b → s.eng.live = true →
    (d.phase = .slot → d.knotDone = false → s.eng.writesOut n x [35] = false →
      ∃ t y c, exec (.groupSlotWriteAck n j) s = .next t ∧ t.sec = s.sec ∧ t.eng.jobId? n x.id = some y ∧ y.draft = some c ∧
        c = { d with phase := .groupWait, knotDone := true } ∧
        t.eng.knots.banks[knotBank b.groupKnot] = s.eng.knots.banks[knotBank b.groupKnot] ++
          [⟨t.eng.knots.clock, .spindle n.val, b.groupKnot % 65536, .add, 1⟩]) ∧
    (x.acts = true → d.phase = .groupWait → d.asked = true → b.groupCount ≤ (s.eng.knot b.groupKnot).count.toNat →
      readIsIn s n x pSlots (b.slotAddr 0) (576 * b.groupCount) → x.desc.step = false →
      (mergeSlots b.groupCount (chunks 576 (s.eng.readAt (b.slotAddr 0) (576 * b.groupCount))) = none →
        ∃ t y, exec (.groupWaitEnd n j) s = .next t ∧ t.sec = s.sec ∧ t.eng.jobId? n x.id = some y ∧ y.ended = some ⟨1, 6, 0, 0⟩) ∧
      (∀ c : Carder, mergeSlots b.groupCount (chunks 576 (s.eng.readAt (b.slotAddr 0) (576 * b.groupCount))) = some c →
        ∃ t y e, exec (.groupWaitEnd n j) s = .next t ∧ t.sec = s.sec ∧ t.eng.jobId? n x.id = some y ∧ y.draft = some e ∧ e.grouped = true ∧
          e.scale = some (chooseScale x.grids b c))) ∧
    (∀ setId : Nat,
      let members := (s.eng.sp n).jobs.filter fun x => x.desc.step && x.desc.setId == setId
      ((s.eng.sp n).jobs.map fun y => y.id).Nodup → x ∈ members → members.length = x.desc.stepSize → (∀ y ∈ members, y.desc.stepSize = x.desc.stepSize ∧
        (y.ended = none ∨ ∃ en, y.ended = some en ∧ en.status = 0) ∧
        (∀ e : Draft, y.draft = some e → y.acts = true ∧ y.desc.draft.isSome = true ∧ e.phase = .setWait ∧ s.eng.writesOut n y [32] = false ∧
          (∀ h ∈ y.held, h.purpose ≠ wStats))) →
      ∃ t y, exec (.stepSetCommit n setId) s = .next t ∧ t.sec = s.sec ∧ t.eng.jobId? n x.id = some y ∧
        (y.ended.isSome = true ∨ ∃ e, y.draft = some e ∧ e.phase = .header) ∧
        ((∀ z ∈ members, s.eng.writeFault n (Addr.parse z.desc.dstAddr) 64 = none ∧ 64 ≤ z.desc.dstSpace) → y.ended = none))

/-! ## Sparse matching (R163 to R187) -/

/-- Lane l of spindle n. -/
def laneAt (s : State) (n : Sp) (l : Nat) : Lane := (s.eng.sp n).lane l

/-- A lane without the reads of a thief's segment. -/
def unread (x : Lane) : Lane := { x with read := {} }

/-- A lane's search completes (R167).  A merged segment adds its dropped entries to NEP and its products to the lane's partial,
and leaves the output one segment fewer; a descending index faults the job with SLUB 5, and a Whorl row that cannot be read with
SRAM_UE; a thief's segment goes to its record, with FAULT where a check fails and OVERFLOW for what overflowed before it
(R168, R175, R177, R183, R184, R483).  A lane that may steal asks its right neighbour first and its left neighbour next; a victim gives the
later half of its unstarted segments to the lowest lane that asks; the answer is taken up; and a lane refused twice waits
and asks again (R178 to R180). -/
def Obligations.LanesMergeAndSteal : Prop :=
  ∀ (n : Sp) (l : Fin 64) (s : State), Tab.wf {} (s.eng.sp n).lanes = true →
    let sp := s.eng.sp n
    let x := sp.lane l
    (∀ g : Seg, x.cur = some (g, false) →
      ∃ t, exec (.searchDone n l) s = .next t ∧ t.sec = s.sec ∧ laneAt t n l = { x with cur := some (g, true) } ∧
        (∀ m : Nat, m ≠ l.val → laneAt t n m = sp.lane m) ∧ t.eng.creel = s.eng.creel) ∧
    (∀ (c : MergeCtx) (g : Seg) (w d : Nat) (r : RowAt), sp.merge = some c → x.cur = some (g, true) → s.eng.bankThere n c l g = true →
      c.owner = n.val → s.eng.scrub.unreadable (c.whorlRows n g) .ok = some r → s.eng.jobLive n c.job = true →
      ∃ t z, exec (.mergeSegmentDone n ⟨l, w, d, .ok⟩) s = .next t ∧ t.sec = s.sec ∧ t.eng.jobId? n c.job = some z ∧
        z.ended = some ⟨1, 0x19, 4, 0⟩) ∧
    (∀ (c : MergeCtx) (g : Seg) (w d : Nat), sp.merge = some c → x.cur = some (g, true) → s.eng.bankThere n c l g = true →
      s.eng.scrub.unreadable (c.whorlRows n g) .ok = none →
      let rows := s.eng.segRows n c l g
      let run := segPairs c g rows.1 rows.2
      let k := g.record.getD 0
      (∀ (y : Job) (q : Sparse), c.owner = n.val → run.bad = none → s.eng.jobId? n c.job = some y → y.sparse = some q →
        let acc := ((x.partials.find? fun p => p.output == g.output).map fun p => p.acc).getD 0
        ∃ t z, exec (.mergeSegmentDone n ⟨l, w, d, .ok⟩) s = .next t ∧ t.sec = s.sec ∧ t.eng.creel = s.eng.creel ∧
          (t.eng.sp n).work.nep = satAdd sp.work.nep run.nep ∧ (t.eng.sp n).work.whorlStall = satAdd sp.work.whorlStall w ∧
          (t.eng.sp n).work.drainStall = satAdd sp.work.drainStall d ∧
          laneAt t n l = ({ x with cur := none, prev := some g, partials := addPartial x.partials g.output fun _ =>
            (segSum c run acc).1 } : Lane).takeUp c ∧
          t.eng.jobId? n c.job = some z ∧ z.nep = y.nep + run.nep ∧ z.ended = y.ended ∧
          z.sparse = some { q with outstanding := Tab.put q.outstanding 0 g.output (Tab.getD q.outstanding g.output 0 - 1) }) ∧
      (∀ (y : Job) (o : Opnd), c.owner = n.val → run.bad = some o → s.eng.jobId? n c.job = some y → y.ended = none →
        ∃ t z, exec (.mergeSegmentDone n ⟨l, w, d, .ok⟩) s = .next t ∧ t.sec = s.sec ∧ t.eng.jobId? n c.job = some z ∧
          z.ended = some ⟨1, 4, 5, (match o with | .a => c.opA.first + g.row | .b => c.opB.first + g.bRow)⟩) ∧
      (∀ a : Nat, c.owner ≠ n.val → x.read.fail = none → Addr.parse c.stealArea = .mem a → a + 16 * k + 16 ≤ 2 ^ 32 →
        Tab.wf 0 s.eng.mem = true →
        ∃ t, exec (.mergeSegmentDone n ⟨l, w, d, .ok⟩) s = .next t ∧ t.sec = s.sec ∧ (t.eng.sp n).work.nep = satAdd sp.work.nep run.nep ∧
          (t.eng.sp n).ringRecs = sp.ringRecs ++ [⟨c.owner, c.job, k, c.stealKnot, none⟩] ∧
          t.eng.readAt (.mem (a + 16 * k)) 16 =
            if run.bad.isSome then stealRecord g.output (64 * n.val + l.val) (2 + 4 * b2n (segSum c run 0).2) 5 0 run.nep
            else stealRecord g.output (64 * n.val + l.val) (4 * b2n (segSum c run 0).2) 0 (segSum c run 0).1 run.nep)) ∧
    (sp.mayAsk n l = true → x.steal = .idle →
      ∃ t, exec (.laneStealRequest n l) s = .next t ∧ t.sec = s.sec ∧ (laneAt t n l).steal = .askedFirst ∧
        (laneAt t n ((l + 1) % 64)).asked = (sp.lane ((l + 1) % 64)).asked ++ [l.val]) ∧
    (x.asked ≠ [] →
      ∃ t, exec (.laneStealDecide n l) s = .next t ∧ t.sec = s.sec ∧ (laneAt t n l).unstarted = x.unstarted.take (x.unstarted.length / 2) ∧
        (laneAt t n (leastLane x.asked)).answer = some (x.unstarted.drop (x.unstarted.length / 2)) ∧
        (t.eng.sp n).work.stealLane = satAdd sp.work.stealLane (x.unstarted.length - x.unstarted.length / 2)) ∧
    (∀ (c : MergeCtx) (g : Seg) (gs : List Seg), sp.merge = some c → x.answer = some (g :: gs) →
      ∃ t, exec (.laneStealAnswer n l) s = .next t ∧ t.sec = s.sec ∧
        unread (laneAt t n l) = unread (({ x with answer := none, steal := .idle, unstarted := x.unstarted ++ g :: gs } : Lane).takeUp c)) ∧
    (x.answer = some [] → x.steal = .askedFirst →
      ∃ t, exec (.laneStealAnswer n l) s = .next t ∧ t.sec = s.sec ∧ (laneAt t n l).answer = none ∧ (laneAt t n l).steal =
        (if (sp.modLane l fun x => { x with answer := none }).mayAsk n l then .askedSecond else .idle)) ∧
    (x.answer = some [] → x.steal = .askedSecond →
      ∃ t, exec (.laneStealAnswer n l) s = .next t ∧ t.sec = s.sec ∧ unread (laneAt t n l) = unread { x with answer := none, steal := .waiting }) ∧
    (x.steal = .waiting →
      ∃ t, exec (.laneStealRetry n l) s = .next t ∧ t.sec = s.sec ∧ (laneAt t n l).steal = (if sp.mayAsk n l then .askedFirst else .idle))

/-- Spindle n has asked its ring neighbour m, from state s to state t.  The victim grants the later half, rounded up, of the unstarted
segments of its fullest lane, at most 64 and at most as many as its job may still grant; it refuses with no such segments, without
RING_STEAL or RING_EN, to another client, to the spindle that gave it the segments, and of a job whose notice of abandonment is under
way (R181, R182, R185). -/
def ringAsked (s t : State) (n m : Sp) : Prop :=
  let v := s.eng.sp m
  match v.merge with
  | none => (t.eng.sp n).ringAnswer = some none
  | some c => Tab.wf {} v.lanes = true →
    let l := v.fullestLane.1
    let un := (v.lane l).unstarted
    let given := match (s.eng.jobId? (spOf c.owner) c.job).bind fun x => x.sparse with | some q => q.granted.length | none => 4096
    let k := min (min (un.length - un.length / 2) 64) (if c.owner = m.val then 4096 - given else 64)
    if c.ringSteal = true ∧ v.ringEn = true ∧ (c.owner, c.job) ∉ v.abandons ∧ s.eng.conf.clientOf m = s.eng.conf.clientOf n ∧ k ≠ 0 ∧
        (c.owner = m.val ∨ c.giver ≠ n.val) then
      ∃ segs : List Seg, (t.eng.sp n).ringAnswer = some (some ({ c with rowsA := [], rowsB := [], whorl := [], giver := m.val }, segs)) ∧
        segs.map (fun g => { g with record := none }) = (un.drop (un.length - k)).map (fun g => { g with record := none }) ∧
        (t.eng.sp m).work.stealOut = satAdd v.work.stealOut k ∧
        (c.owner = m.val → (laneAt t m l).unstarted = un.take (un.length - k))
    else (t.eng.sp n).ringAnswer = some none

/-- An idle spindle asks its neighbour n + 1 first; refused there, it asks n - 1 = n + 31; refused there too, it waits and
asks again (R182).  Granted segments become its own work on lane 0, and no other spindle changes.  The first acknowledged
record adds 1 to its STEAL_KNOT (R183), and a notice of abandonment of a job that has ended takes the thief's segments away,
each with its record (R185).  That a victim decides in the clock of the request, although the answer comes 64 clocks later, is the
model's choice (log 81). -/
def Obligations.SpindlesStealAroundTheRing : Prop :=
  ∀ (n : Sp) (s : State),
    let sp := s.eng.sp n
    (s.eng.mayRingSteal n = true → sp.ringSteal = .idle → sp.ringAnswer = none →
      ∃ t, exec (.ringStealRequest n) s = .next t ∧ t.sec = s.sec ∧ (t.eng.sp n).ringSteal = .askedFirst ∧ ringAsked s t n (n + 1)) ∧
    (∀ (c : MergeCtx) (segs : List Seg), sp.ringAnswer = some (some (c, segs)) →
      ∃ t, exec (.ringStealAnswer n) s = .next t ∧ t.sec = s.sec ∧ (t.eng.sp n).ringAnswer = none ∧ (t.eng.sp n).ringSteal = .idle ∧
        (t.eng.sp n).merge = some c ∧ (t.eng.sp n).work.stealIn = satAdd sp.work.stealIn segs.length ∧
        unread (laneAt t n 0) = unread (({ unstarted := segs } : Lane).takeUp c) ∧ (∀ m : Sp, m ≠ n → t.eng.sp m = s.eng.sp m)) ∧
    (sp.ringAnswer = some none → sp.ringSteal = .askedFirst →
      ∃ t, exec (.ringStealAnswer n) s = .next t ∧ t.sec = s.sec ∧
        (t.eng.sp n).ringSteal = (if s.eng.mayRingSteal n then .askedSecond else .idle) ∧
        (s.eng.mayRingSteal n = false → (t.eng.sp n).ringAnswer = none) ∧ (s.eng.mayRingSteal n = true → ringAsked s t n (n + 31))) ∧
    (sp.ringAnswer = some none → sp.ringSteal = .askedSecond →
      ∃ t, exec (.ringStealAnswer n) s = .next t ∧ t.sec = s.sec ∧ t.eng.sp n = { sp with ringAnswer := none, ringSteal := .waiting }) ∧
    (sp.ringSteal = .waiting →
      ∃ t, exec (.ringStealRetry n) s = .next t ∧ t.sec = s.sec ∧ (t.eng.sp n).ringSteal = (if s.eng.mayRingSteal n then .askedFirst else .idle) ∧
        (s.eng.mayRingSteal n = true → ringAsked s t n (n + 1))) ∧
    (∀ r : RingRec, (sp.ringRecs.find? fun r => r.held.isNone && !sp.waitsFor thiefJob (wRecord r.record)) = some r →
      exec (.ringRecordWriteAck n) s = .next (s.onEng fun e =>
        (e.modSp n fun s => { s with ringRecs := s.ringRecs.erase r }).knotIssue (.spindle n.val) r.knot .add 1)) ∧
    (∀ (o id : Nat) (rest : List (Nat × Nat)), sp.abandons = (o, id) :: rest → s.eng.jobLive (spOf o) id = false →
      ∃ t, exec (.abandonNotice n) s = .next t ∧ t.sec = s.sec ∧ (t.eng.sp n).abandons = rest ∧
        (∀ c : MergeCtx, sp.merge = some c → c.owner = o → c.job = id → o ≠ n.val → (∀ p, sp.ringAnswer ≠ some (some p)) →
          (t.eng.sp n).ringRecs.map (fun r => (r.owner, r.job, r.record, r.knot)) =
            sp.ringRecs.map (fun r => (r.owner, r.job, r.record, r.knot)) ++
              sp.segments.map fun p => (o, id, p.2.record.getD 0, c.stealKnot)))

/-- The partials of an output in the order in which R186 adds them: the owner's lanes, and the records that are not void. -/
def placedOf (s : State) (n : Sp) (output : Nat) (recs : List (Nat × List Byte)) : List Placed :=
  (((s.eng.sp n).lanes.flatMap fun l => (l.2.partials.filter fun p => p.output == output).map fun p =>
      (⟨64 * n.val + l.1, 0, p.acc⟩ : Placed)) ++
    (recs.filter fun r => !bitOf (fieldAt r.2 6 1) 0).map fun r => (⟨fieldAt r.2 4 2, r.1 + 1, w32 (fieldAt r.2 8 4)⟩ : Placed)).foldl
    (fun acc p => insertPlaced p acc) []

/-- A pass of the sorter over a row: the last pass leaves the row sorted, or faults the job with SLUB 6 when two indices are
equal (R170, R171); the first pass over a row of more than 65,536 entries also places the sorted runs, and may fault the job
for want of scratch (R289).  An output whose segments are all merged and whose records are in is reduced to the sum of its
partials in R186's order, or faults the job with the SLUB of a record that carries a fault; that the first PARTIAL_REDUCE of an output
with records reads them, and one after their answers reduces, is the model's choice (R183, R184, R186; log 81). -/
def Obligations.RowsAreSortedAndPartialsReduced : Prop :=
  ∀ (n : Sp) (j : Nat) (s : State) (x : Job), worksAt s n j x →
    (∀ (o : Opnd) (st : Strm) (m : MatchBlk), x.strm o = some st → x.desc.mtch = some m → (match o with | .a => m.unsortedA | .b => m.unsortedB) = true →
      st.phase = .open → st.sorted < st.decoded → (s.eng.sp n).waits x.id true 40 = false → (s.eng.sp n).waits x.id false 22 = false →
      let row := st.rows.getD st.sorted []
      (st.passes = 0 → 65536 < row.length → ∃ t y, exec (.sortPassDone n j o) s = .next t ∧ t.sec = s.sec ∧ t.eng.jobId? n x.id = some y ∧
        y.strm o = some (if y.ended = none then { st with passes := 1 } else st)) ∧
      (st.passes ≠ 0 ∨ row.length ≤ 65536 →
        (st.passes + 1 < sortPasses row.length →
          ∃ t y, exec (.sortPassDone n j o) s = .next t ∧ t.sec = s.sec ∧ t.eng.jobId? n x.id = some y ∧ y.ended = none ∧
            y.strm o = some { st with passes := st.passes + 1 }) ∧
        (sortPasses row.length ≤ st.passes + 1 →
          (ascending ((sortRow row).map (·.1)) = true → ∃ t y u, exec (.sortPassDone n j o) s = .next t ∧ t.sec = s.sec ∧
            t.eng.jobId? n x.id = some y ∧ y.strm o = some u ∧ u.rows = setAt st.rows st.sorted (sortRow row) ∧ u.sorted = st.sorted + 1 ∧ u.passes = 0) ∧
          (ascending ((sortRow row).map (·.1)) = false → ∃ t y, exec (.sortPassDone n j o) s = .next t ∧ t.sec = s.sec ∧
            t.eng.jobId? n x.id = some y ∧ y.ended = some ⟨1, 4, 6, st.first + st.sorted⟩)))) ∧
    (∀ (output : Nat) (sp : Sparse) (c : MergeCtx), x.sparse = some sp → (s.eng.sp n).merge = some c → c.owner = n.val → c.job = x.id →
      output < min (64 * sp.opened) (c.ra * c.rb) → 64 * sp.drained ≤ output → Tab.getD sp.outstanding output 0 = 0 →
      (sp.results.any fun r => r.output == output) = false →
      let mine := sp.granted.filter fun r => r.2 == output
      let place (k : Nat) : Addr := (Addr.parse c.stealArea).plus (16 * k)
      let recs := mine.map fun r => (r.1, s.eng.readAt (place r.1) 16)
      let add (a b : Word) : Word × Bool := if c.intMode then addI32 a b.toInt else addF32 a b
      (mine = [] ∨ (s.eng.recordsIn x = true ∧ sp.recAsked.contains output = true ∧ (s.eng.sp n).waitsFor x.id (pRecords output) = false ∧
          s.eng.translated n (place 0) = true) →
        (∀ r, (recs.find? fun r => bitOf (fieldAt r.2 6 1) 1) = some r →
          ∃ t y, exec (.partialReduce n j output) s = .next t ∧ t.sec = s.sec ∧ t.eng.jobId? n x.id = some y ∧
            y.ended = some ⟨1, 4, fieldAt r.2 7 1, 0⟩) ∧
        ((recs.find? fun r => bitOf (fieldAt r.2 6 1) 1) = none →
          ∃ t y q r, exec (.partialReduce n j output) s = .next t ∧ t.sec = s.sec ∧ t.eng.creel = s.eng.creel ∧ t.eng.jobId? n x.id = some y ∧
            y.ended = none ∧ y.sparse = some q ∧ q.results = sp.results ++ [⟨output, r⟩] ∧ q.drained = sp.drained ∧
            y.nep = x.nep + (recs.map fun r => fieldAt r.2 12 4).sum ∧
            r = match placedOf s n output recs with
              | [] => 0
              | p :: ps => ps.foldl (fun a q => (add a q.acc).1) p.acc)) ∧
      (mine ≠ [] → s.eng.recordsIn x = true → sp.recAsked.contains output = false →
        (∀ r ∈ mine, s.eng.placeFault n false (place r.1) 16 = none) →
        ∃ t y q, exec (.partialReduce n j output) s = .next t ∧ t.sec = s.sec ∧ t.eng.jobId? n x.id = some y ∧ y.sparse = some q ∧
          q.recAsked = sp.recAsked ++ [output]))

/-! ## Hank, halo rings and boxes (R210 to R241, R253 to R265) -/

/-- No read of a job's span from an address on can fault where it stands. -/
def freeToRead (s : State) (n : Sp) (a : Addr) : Prop := ∀ off len : Nat, s.eng.placeFault n false (a.plus off) len = none

/-- The first job in dispatch order that waits for a free Hank side holds it, and its waiting is counted (R235, R241; that order is log
122: the model's choice).  An encoder's match stage takes
the next block with the generation, heads and links of its spindle, the build stage chooses the block's form, and the emit
stage counts it and adds its table entry, or faults the job where the destination is too small (R217 to R227).  A decoder
takes the frame's header, or faults the job with HANK_BAD_CODE; it sets up an entry that has come, or faults the job at one
that is not allowed; and a block that is set up is decoded as a whole and counted, or faults the job with its number
(R232 to R234, R238). -/
def Obligations.HankStagesTakeBlocksInOrder : Prop :=
  ∀ (n : Sp) (s : State),
    (∀ (side : HankSide) (x : Job) (b : HankBlk) (waited : Nat), s.eng.sideWaiter n side = some x → s.eng.jobId? n x.id = some x →
      x.desc.hank = some b → s.eng.live = true → s.eng.sideFree n side = true →
      ∃ t y k, exec (.hankSideGrant n side waited) s = .next t ∧ t.sec = s.sec ∧ t.eng.jobId? n x.id = some y ∧
        (y.ended = none ∨ x.desc.step = false → (t.eng.sp n).work.hankWait = satAdd (s.eng.sp n).work.hankWait waited) ∧
        y.hank = some k ∧ (k.held = true ∨ y.ended.isSome = true) ∧
        (freeToRead s n (Addr.parse b.srcAddr) → s.eng.writeFault n (Addr.parse b.dstAddr) 4 = none → 4 ≤ b.dstSpace →
          k.held = true ∧ y.ended = none)) ∧
    (∀ (side : HankSide) (x : Job) (waited : Nat), s.eng.sideWaiter n side = some x → s.eng.jobId? n x.id = some x → x.desc.hank = none →
      s.eng.live = true → s.eng.sideFree n side = true →
      ∃ t y k, exec (.hankSideGrant n side waited) s = .next t ∧ t.sec = s.sec ∧ (t.eng.sp n).work.hankWait = satAdd (s.eng.sp n).work.hankWait waited ∧
        t.eng.jobId? n x.id = some y ∧ y.hank = some k ∧ k.held = true ∧ y.ended = x.ended) ∧
    (∀ (j : Nat) (x : Job) (k : Hank) (b : HankBlk), worksAt s n j x → x.hank = some k → x.desc.hank = some b →
      let src := Addr.parse b.srcAddr
      let sp := s.eng.sp n
      let ends (t : State) (code detail where_ : Nat) : Prop := ∃ y, t.eng.jobId? n x.id = some y ∧ y.ended = some ⟨1, code, detail, where_⟩
      (∀ bad : List (Fin 65536), b.op = 0 → k.held = true → x.begun = true → k.matched = none → k.next < b.frame.blockCount →
        let a := src.plus (k.next * hankB b.blockSize)
        let r := hankMatch b.blockSize b.chainDepth (sp.hankGen + 1).toNat sp.hankHeads sp.hankLinks (bad.map (·.val))
          (s.eng.readAt a (b.frame.blockLen k.next))
        readIsIn s n x (pHankData k.next) a (b.frame.blockLen k.next) →
        ∃ t y q, exec (.hankMatchDone n ⟨j, bad⟩) s = .next t ∧ t.sec = s.sec ∧ (t.eng.sp n).hankGen = sp.hankGen + 1 ∧
          (t.eng.sp n).hankHeads = r.2.1 ∧ (t.eng.sp n).hankLinks = r.2.2 ∧
          t.eng.jobId? n x.id = some y ∧ y.hank = some q ∧ q.next = k.next + 1 ∧ q.matched = some (k.next, r.1) ∧
          (freeToRead s n src → y.ended = none)) ∧
      (∀ (i : Nat) (syms : List (Nat × Nat)), k.matched = some (i, syms) → k.built = none →
        ∃ t y, exec (.hankBuildDone n j) s = .next t ∧ t.sec = s.sec ∧ t.eng.creel = s.eng.creel ∧ t.eng.jobId? n x.id = some y ∧
          y.hank = some { k with matched := none, built := some (i, (hankBuild (symbolData syms) syms).1, (hankBuild (symbolData syms) syms).2) }) ∧
      (∀ (i : Nat) (bs : List Byte) (stored : Bool), k.built = some (i, bs, stored) →
        let off := roundUp k.cursor 16
        (b.dstSpace < off + bs.length →
          ∃ t, exec (.hankEmitDone n j) s = .next t ∧ t.sec = s.sec ∧ (t.eng.sp n).work.hankEnc = sp.work.hankEnc ∧ ends t 0x16 5 0) ∧
        (off + bs.length ≤ b.dstSpace → s.eng.writeFault n ((Addr.parse b.dstAddr).plus k.cursor) (off - k.cursor + bs.length) = none →
          ∃ t y q, exec (.hankEmitDone n j) s = .next t ∧ t.sec = s.sec ∧ (t.eng.sp n).work.hankEnc = satInc sp.work.hankEnc ∧
            (t.eng.sp n).work.hankStored = satAdd sp.work.hankStored (b2n stored) ∧
            t.eng.jobId? n x.id = some y ∧ y.hank = some q ∧ q.built = none ∧ q.entries = k.entries ++ [(off, bs.length, stored)] ∧
            q.cursor = off + bs.length ∧ (i + 1 ≠ b.frame.blockCount → y.ended = none))) ∧
      (k.held = true → x.begun = true → b.op = 1 → k.closing = false → k.hdr = none → readIsIn s n x pHankHdr src 64 →
        let h := HankHdr.parse (s.eng.readAt src 64)
        let run := b.run h
        (∀ d : Nat, hankOpenError (s.eng.readAt src 64) = some d →
          ∃ t, exec (.hankDecodeSetupDone n j) s = .next t ∧ t.sec = s.sec ∧ (t.eng.sp n).work.hankErr = satInc sp.work.hankErr ∧ ends t 0x0A d 0) ∧
        (hankOpenError (s.eng.readAt src 64) = none → b.blockFirst < h.blockCount → b.blockFirst + run ≤ h.blockCount →
          ((List.range run).map fun i => h.blockLen (b.blockFirst + i)).sum ≤ b.dstSpace →
          ∃ t y q, exec (.hankDecodeSetupDone n j) s = .next t ∧ t.sec = s.sec ∧ t.eng.jobId? n x.id = some y ∧ y.hank = some q ∧ q.hdr = some h)) ∧
      (∀ (off len : Nat) (st : Bool), s.eng.hankAdvance n x.id = s.eng → k.entries[k.setups]? = some (off, len, st) → b.op = 1 → k.closing = false →
        k.setups < k.next + 2 →
        (hankEntryOk off len = true → readIsIn s n x (pHankData k.setups) (src.plus off) len →
          ∃ t y, exec (.hankDecodeSetupDone n j) s = .next t ∧ t.sec = s.sec ∧ t.eng.creel = s.eng.creel ∧ t.eng.jobId? n x.id = some y ∧
            y.hank = some { k with setups := k.setups + 1 }) ∧
        (hankEntryOk off len = false → k.setups = k.next →
          ∃ t, exec (.hankDecodeSetupDone n j) s = .next t ∧ t.sec = s.sec ∧ (t.eng.sp n).work.hankErr = satInc sp.work.hankErr ∧
            ends t 0x0A 4 (b.blockFirst + k.setups))) ∧
      (∀ (h : HankHdr) (off len : Nat) (st : Bool), k.hdr = some h → k.entries[k.next]? = some (off, len, st) → b.op = 1 → k.closing = false →
        k.next < k.setups →
        let dst := (Addr.parse b.dstAddr).plus (k.next * hankB h.blockSize)
        (∀ out : List Byte, hankDecode (h.blockLen (b.blockFirst + k.next)) (s.eng.readAt (src.plus off) len) = .ok out →
          ∃ t y q, exec (.hankBlockDecoded n j) s = .next t ∧ t.sec = s.sec ∧ (t.eng.sp n).work.hankDec = satInc sp.work.hankDec ∧
            t.eng.jobId? n x.id = some y ∧ y.hank = some q ∧ q.next = k.next + 1 ∧ q.closing = (k.next + 1 == b.run h) ∧
            (freeToRead s n src → s.eng.writeFault n dst out.length = none → y.ended = none ∨ y.ended = some ⟨0, 0, 0, 0⟩)) ∧
        (∀ f d : Nat, hankDecode (h.blockLen (b.blockFirst + k.next)) (s.eng.readAt (src.plus off) len) = .error (f, d) →
          ∃ t, exec (.hankBlockDecoded n j) s = .next t ∧ t.sec = s.sec ∧ (t.eng.sp n).work.hankErr = satInc sp.work.hankErr ∧
            ends t f d (b.blockFirst + k.next))))

/-- A reader's half stands at an address: it is opened, or the job faults with the code of the first check that fails; that the MAGIC is
checked before R67's checks, and these before R260's others, is log 99: the model's choice (R67, R260). -/
def halfOpened (s : State) (n : Sp) (x : Job) (st : Strm) (above : Bool) (r : RingDesc) (addr : Nat) (c : Instr) : Prop :=
  let h := SkeinHdr.parse (s.eng.readAt (Addr.parse addr) 64)
  let fits : Prop := h.codeType = st.hdr.codeType ∧ h.dim0 = st.hdr.dim0 ∧ h.dim1 = st.hdr.dim1 ∧
    h.tileChans = st.hdr.tileChans ∧ h.tileCols = st.hdr.tileCols
  let ends (code detail : Nat) : Prop :=
    ∃ t y, exec c s = .next t ∧ t.sec = s.sec ∧ t.eng.jobId? n x.id = some y ∧ y.ended = some ⟨1, code, detail, 0⟩
  (h.magic ≠ magicSkein → ends 0x0F 1) ∧
  (h.magic = magicSkein → h.ok x.grids = false → ends 2 0) ∧
  (h.magic = magicSkein → h.ok x.grids = true → ¬ fits → ends 0x0F 2) ∧
  (h.magic = magicSkein → h.ok x.grids = true → fits → st.blk.scaleSrc = 2 → h.scale ≠ st.hdr.scale → ends 0x0F 3) ∧
  (h.magic = magicSkein → h.ok x.grids = true → fits → (st.blk.scaleSrc = 2 → h.scale = st.hdr.scale) →
    ∃ t y v, exec c s = .next t ∧ t.sec = s.sec ∧ t.eng.jobId? n x.id = some y ∧ y.window = some v ∧
      (v.half above = .opened r addr h ∨ v.half above = .released))

/-- A publisher writes the halves whose slots are free and counts its waiting (R258); each acknowledged half adds 1 to its READY
knot (R257); a reader whose half's knot has reached the round counts its waiting and takes the half: from its SPILL_ADDR where
the slot says so, else it opens the half or faults the job with the code of the first check that fails (R259, R260).  A box
list's header is checked, or faults the job with BOX_LIST, and its boxes are read after it (R264). -/
def Obligations.HalvesArePublishedReadAndBoxesListed : Prop :=
  ∀ (n : Sp) (j : Nat) (s : State) (x : Job), s.eng.live = true → s.eng.job? n j = some x → s.eng.jobId? n x.id = some x →
    let sp := s.eng.sp n
    let ends (t : State) (code detail : Nat) : Prop := ∃ y, t.eng.jobId? n x.id = some y ∧ y.ended = some ⟨1, code, detail, 0⟩
    (∀ waited : Nat, (x.halves.any fun h => h.bytes.isSome && !h.written && s.eng.slotFree h.ring x.round) = true →
      ∃ t y, exec (.haloSlotWaitEnd n j waited) s = .next t ∧ t.sec = s.sec ∧ (t.eng.sp n).work.slotWait = satAdd sp.work.slotWait waited ∧
        t.eng.jobId? n x.id = some y ∧ y.halves.length = x.halves.length ∧
        ((∀ h ∈ x.halves, ∀ bs, h.bytes = some bs → bs.length ≤ max h.ring.halfSize h.ring.spillSize ∧ ∀ len ≤ max 64 bs.length,
            s.eng.writeFault n (Addr.parse (h.ring.halfAddr x.round h.down)) len = none ∧
            s.eng.writeFault n (Addr.parse (h.ring.spillPlace x.round h.down)) len = none) → y.ended = x.ended) ∧
        (y.ended = x.ended → ∀ (i : Nat) (h : HalfOut), x.halves[i]? = some h → s.eng.slotFree h.ring x.round = true →
          (∃ bs, h.bytes = some bs ∧ bs.length ≤ max h.ring.halfSize h.ring.spillSize) →
          (y.halves[i]?.map fun h => h.written) = some true)) ∧
    (∀ (i : Nat) (h : HalfOut), ((List.range x.halves.length).find? fun i => match x.halves[i]? with
        | some h => h.written && !h.acked && !sp.waitsFor x.id (wHalf i) && !(x.held.any fun w => w.purpose == wHalf i)
        | none => false) = some i → x.halves[i]? = some h →
      ∃ t y, exec (.halfPublishAck n j) s = .next t ∧ t.sec = s.sec ∧ t.eng.creel = s.eng.creel ∧ t.eng.jobId? n x.id = some y ∧
        y.halves = setAt x.halves i { h with acked := true } ∧
        t.eng.knots.banks[knotBank (h.ring.ready h.down)] = s.eng.knots.banks[knotBank (h.ring.ready h.down)] ++
          [⟨t.eng.knots.clock, .spindle n.val, h.ring.ready h.down % 65536, .add, 1⟩]) ∧
    (x.acts = true → ∀ (w : Window) (b : WindowBlk) (above : Bool) (r : RingDesc) (st : Strm), x.window = some w → x.desc.window = some b →
      x.strA = some st → w.waiting = some above →
      let addr := r.halfAddr b.round above
      let away := r.spillPlace b.round above
      let hb := s.eng.readAt (Addr.parse addr) 64
      (∀ waited : Nat, w.half above = .owed r → b.round + 1 ≤ (s.eng.knot (r.ready above)).count.toNat → s.eng.placeFault n false (Addr.parse addr) 64 = none →
        let c : Instr := .haloReadyWaitEnd n j waited
        (∃ t y, exec c s = .next t ∧ t.sec = s.sec ∧ t.eng.jobId? n x.id = some y ∧
          (y.ended = none ∨ x.desc.step = false → (t.eng.sp n).work.haloWait = satAdd sp.work.haloWait waited)) ∧
        (fieldAt hb 0 4 = magicSpill → s.eng.placeFault n false (Addr.parse away) 64 = none →
          ∃ t y v, exec c s = .next t ∧ t.eng.jobId? n x.id = some y ∧ y.ended = none ∧ y.window = some v ∧ v.half above = .spilled r) ∧
        (fieldAt hb 0 4 ≠ magicSpill → halfOpened s n x st above r addr c)) ∧
      (∀ waited : Nat, w.half above = .spilled r → readIsIn s n x (pHalf (b2n above)) (Addr.parse away) 64 →
        halfOpened s n x st above r away (.haloReadyWaitEnd n j waited))) ∧
    (x.acts = true → ∀ (c : Crop) (b : CropBlk), x.crop = some c → x.desc.crop = some b → c.open_ = false →
      let base := Addr.parse b.boxAddr
      (c.list = none → readIsIn s n x pBoxes base 64 →
        let hb := s.eng.readAt base 64
        let count := fieldAt hb 8 4
        let run := if b.boxRun = 0 then count - b.boxFirst else b.boxRun
        let good := fieldAt hb 0 4 = magicBox ∧ fieldAt hb 4 1 = 1 ∧ 1 ≤ count ∧ count ≤ 65535 ∧ fieldAt hb 12 4 % 16 = 0 ∧ 64 ≤ fieldAt hb 12 4 ∧
          b.boxFirst < count ∧ b.boxFirst + run ≤ count
        (good → ∃ t y v, exec (.boxListHeaderArrive n j) s = .next t ∧ t.sec = s.sec ∧ t.eng.jobId? n x.id = some y ∧ y.crop = some v ∧
          v.list = some (fieldAt hb 12 4, run) ∧ v.open_ = false ∧ v.extrap = w32 (fieldAt hb 16 4) ∧ (freeToRead s n base → y.ended = none)) ∧
        (¬ good → ∃ t, exec (.boxListHeaderArrive n j) s = .next t ∧ t.sec = s.sec ∧ ends t 0x10 0)) ∧
      (∀ off run : Nat, c.list = some (off, run) → readIsIn s n x pBoxes (base.plus (off + 16 * b.boxFirst)) (16 * run) →
        ∃ t y v, exec (.boxListHeaderArrive n j) s = .next t ∧ t.sec = s.sec ∧ t.eng.jobId? n x.id = some y ∧ y.crop = some v ∧ v.open_ = true ∧
          v.boxes = (chunks 16 (s.eng.readAt (base.plus (off + 16 * b.boxFirst)) (16 * run))).map Box.parse))

/-! ## Stores, queues and jobs (R18, R19, R318, R357) -/

/-- Every step keeps the stores, the queues and the jobs sound: the view of chip memory, the Bobbin store, the spindle stores, the Distaff's
regions and the Flyer SRAM stay in canonical form; a STREAM queue never holds 64 bytes back, because a full cell becomes visible at once
(R318); and a spindle's jobs keep distinct numbers in dispatch order.  The numbers and the canonical form are the model's own, not the
spec's. -/
def Obligations.StoresQueuesAndJobsStaySound : Prop :=
  ∀ s t : State, Safety.storesSound s → step s = .next t → Safety.storesSound t
end

