-- ==== Sys2Proof/Laws/State.lean ====
section
/-! SUPPORT. One lemma for each field under each small update of the state, true by definition and
tagged simp, so that no proof unfolds a record update. -/

namespace Sys2Proof.Machine

/-! ## Updates of the whole machine -/

@[simp] theorem State.onEng_eng (s : State) (f : Engine → Engine) : (s.onEng f).eng = f s.eng := rfl
@[simp] theorem State.onEng_sec (s : State) (f : Engine → Engine) : (s.onEng f).sec = s.sec := rfl
@[simp] theorem State.onEng_pending (s : State) (f : Engine → Engine) : (s.onEng f).pending = s.pending := rfl
@[simp] theorem State.onSec_eng (s : State) (f : Security → Security) : (s.onSec f).eng = s.eng := rfl
@[simp] theorem State.onSec_sec (s : State) (f : Security → Security) : (s.onSec f).sec = f s.sec := rfl
@[simp] theorem State.onSec_pending (s : State) (f : Security → Security) : (s.onSec f).pending = s.pending := rfl
@[simp] theorem State.post_eng (s : State) (r d : Nat) : (s.post r d).eng = s.eng := rfl
@[simp] theorem State.post_pending (s : State) (r d : Nat) : (s.post r d).pending = s.pending := rfl
@[simp] theorem State.post_keys (s : State) (r d : Nat) : (s.post r d).sec.keys = s.sec.keys := rfl
@[simp] theorem State.post_failRun (s : State) (r d : Nat) : (s.post r d).sec.failRun = s.sec.failRun := rfl
@[simp] theorem State.post_locked (s : State) (r d : Nat) : (s.post r d).sec.locked = s.sec.locked := rfl
@[simp] theorem State.post_busy (s : State) (r d : Nat) : (s.post r d).sec.busy = false := rfl
@[simp] theorem State.post_result (s : State) (r d : Nat) : (s.post r d).sec.result = BitVec.ofNat 8 r := rfl

/-! ## Updates of the engine: one part is replaced, every other part stays -/

@[simp] theorem Engine.onCreel_now (e : Engine) (f : Creel → Creel) : (e.onCreel f).now = e.now := rfl
@[simp] theorem Engine.onCreel_freeCtr (e : Engine) (f : Creel → Creel) : (e.onCreel f).freeCtr = e.freeCtr := rfl
@[simp] theorem Engine.onCreel_events (e : Engine) (f : Creel → Creel) : (e.onCreel f).events = e.events := rfl
@[simp] theorem Engine.onCreel_power (e : Engine) (f : Creel → Creel) : (e.onCreel f).power = e.power := rfl
@[simp] theorem Engine.onCreel_glb (e : Engine) (f : Creel → Creel) : (e.onCreel f).glb = e.glb := rfl
@[simp] theorem Engine.onCreel_spindles (e : Engine) (f : Creel → Creel) : (e.onCreel f).spindles = e.spindles := rfl
@[simp] theorem Engine.onCreel_creel (e : Engine) (f : Creel → Creel) : (e.onCreel f).creel = f e.creel := rfl
@[simp] theorem Engine.onCreel_knots (e : Engine) (f : Creel → Creel) : (e.onCreel f).knots = e.knots := rfl
@[simp] theorem Engine.onCreel_doffer (e : Engine) (f : Creel → Creel) : (e.onCreel f).doffer = e.doffer := rfl
@[simp] theorem Engine.onCreel_ticks (e : Engine) (f : Creel → Creel) : (e.onCreel f).ticks = e.ticks := rfl
@[simp] theorem Engine.onCreel_cfg (e : Engine) (f : Creel → Creel) : (e.onCreel f).cfg = e.cfg := rfl
@[simp] theorem Engine.onCreel_activatedAt (e : Engine) (f : Creel → Creel) : (e.onCreel f).activatedAt = e.activatedAt := rfl
@[simp] theorem Engine.onCreel_shareFrom (e : Engine) (f : Creel → Creel) : (e.onCreel f).shareFrom = e.shareFrom := rfl
@[simp] theorem Engine.onCreel_selected (e : Engine) (f : Creel → Creel) : (e.onCreel f).selected = e.selected := rfl
@[simp] theorem Engine.onCreel_partials (e : Engine) (f : Creel → Creel) : (e.onCreel f).partials = e.partials := rfl
@[simp] theorem Engine.onCreel_sectionNext (e : Engine) (f : Creel → Creel) : (e.onCreel f).sectionNext = e.sectionNext := rfl
@[simp] theorem Engine.onCreel_act (e : Engine) (f : Creel → Creel) : (e.onCreel f).act = e.act := rfl
@[simp] theorem Engine.onCreel_tensors (e : Engine) (f : Creel → Creel) : (e.onCreel f).tensors = e.tensors := rfl
@[simp] theorem Engine.onCreel_placeReqs (e : Engine) (f : Creel → Creel) : (e.onCreel f).placeReqs = e.placeReqs := rfl
@[simp] theorem Engine.onCreel_mem (e : Engine) (f : Creel → Creel) : (e.onCreel f).mem = e.mem := rfl
@[simp] theorem Engine.onCreel_bobbin (e : Engine) (f : Creel → Creel) : (e.onCreel f).bobbin = e.bobbin := rfl
@[simp] theorem Engine.onCreel_distaff (e : Engine) (f : Creel → Creel) : (e.onCreel f).distaff = e.distaff := rfl
@[simp] theorem Engine.onCreel_flyer (e : Engine) (f : Creel → Creel) : (e.onCreel f).flyer = e.flyer := rfl
@[simp] theorem Engine.onCreel_scrub (e : Engine) (f : Creel → Creel) : (e.onCreel f).scrub = e.scrub := rfl
@[simp] theorem Engine.onCreel_tel (e : Engine) (f : Creel → Creel) : (e.onCreel f).tel = e.tel := rfl
@[simp] theorem Engine.onCreel_ports (e : Engine) (f : Creel → Creel) : (e.onCreel f).ports = e.ports := rfl
@[simp] theorem Engine.onCreel_unitTxns (e : Engine) (f : Creel → Creel) : (e.onCreel f).unitTxns = e.unitTxns := rfl
@[simp] theorem Engine.onCreel_tap (e : Engine) (f : Creel → Creel) : (e.onCreel f).tap = e.tap := rfl
@[simp] theorem Engine.modSp_now (e : Engine) (n : Sp) (f : Spindle → Spindle) : (e.modSp n f).now = e.now := rfl
@[simp] theorem Engine.modSp_freeCtr (e : Engine) (n : Sp) (f : Spindle → Spindle) : (e.modSp n f).freeCtr = e.freeCtr := rfl
@[simp] theorem Engine.modSp_events (e : Engine) (n : Sp) (f : Spindle → Spindle) : (e.modSp n f).events = e.events := rfl
@[simp] theorem Engine.modSp_power (e : Engine) (n : Sp) (f : Spindle → Spindle) : (e.modSp n f).power = e.power := rfl
@[simp] theorem Engine.modSp_glb (e : Engine) (n : Sp) (f : Spindle → Spindle) : (e.modSp n f).glb = e.glb := rfl
@[simp] theorem Engine.modSp_spindles (e : Engine) (n : Sp) (f : Spindle → Spindle) : (e.modSp n f).spindles = e.spindles.set n (f e.spindles[n]) := rfl
@[simp] theorem Engine.modSp_creel (e : Engine) (n : Sp) (f : Spindle → Spindle) : (e.modSp n f).creel = e.creel := rfl
@[simp] theorem Engine.modSp_knots (e : Engine) (n : Sp) (f : Spindle → Spindle) : (e.modSp n f).knots = e.knots := rfl
@[simp] theorem Engine.modSp_doffer (e : Engine) (n : Sp) (f : Spindle → Spindle) : (e.modSp n f).doffer = e.doffer := rfl
@[simp] theorem Engine.modSp_ticks (e : Engine) (n : Sp) (f : Spindle → Spindle) : (e.modSp n f).ticks = e.ticks := rfl
@[simp] theorem Engine.modSp_cfg (e : Engine) (n : Sp) (f : Spindle → Spindle) : (e.modSp n f).cfg = e.cfg := rfl
@[simp] theorem Engine.modSp_activatedAt (e : Engine) (n : Sp) (f : Spindle → Spindle) : (e.modSp n f).activatedAt = e.activatedAt := rfl
@[simp] theorem Engine.modSp_shareFrom (e : Engine) (n : Sp) (f : Spindle → Spindle) : (e.modSp n f).shareFrom = e.shareFrom := rfl
@[simp] theorem Engine.modSp_selected (e : Engine) (n : Sp) (f : Spindle → Spindle) : (e.modSp n f).selected = e.selected := rfl
@[simp] theorem Engine.modSp_partials (e : Engine) (n : Sp) (f : Spindle → Spindle) : (e.modSp n f).partials = e.partials := rfl
@[simp] theorem Engine.modSp_sectionNext (e : Engine) (n : Sp) (f : Spindle → Spindle) : (e.modSp n f).sectionNext = e.sectionNext := rfl
@[simp] theorem Engine.modSp_act (e : Engine) (n : Sp) (f : Spindle → Spindle) : (e.modSp n f).act = e.act := rfl
@[simp] theorem Engine.modSp_tensors (e : Engine) (n : Sp) (f : Spindle → Spindle) : (e.modSp n f).tensors = e.tensors := rfl
@[simp] theorem Engine.modSp_placeReqs (e : Engine) (n : Sp) (f : Spindle → Spindle) : (e.modSp n f).placeReqs = e.placeReqs := rfl
@[simp] theorem Engine.modSp_mem (e : Engine) (n : Sp) (f : Spindle → Spindle) : (e.modSp n f).mem = e.mem := rfl
@[simp] theorem Engine.modSp_bobbin (e : Engine) (n : Sp) (f : Spindle → Spindle) : (e.modSp n f).bobbin = e.bobbin := rfl
@[simp] theorem Engine.modSp_distaff (e : Engine) (n : Sp) (f : Spindle → Spindle) : (e.modSp n f).distaff = e.distaff := rfl
@[simp] theorem Engine.modSp_flyer (e : Engine) (n : Sp) (f : Spindle → Spindle) : (e.modSp n f).flyer = e.flyer := rfl
@[simp] theorem Engine.modSp_scrub (e : Engine) (n : Sp) (f : Spindle → Spindle) : (e.modSp n f).scrub = e.scrub := rfl
@[simp] theorem Engine.modSp_tel (e : Engine) (n : Sp) (f : Spindle → Spindle) : (e.modSp n f).tel = e.tel := rfl
@[simp] theorem Engine.modSp_ports (e : Engine) (n : Sp) (f : Spindle → Spindle) : (e.modSp n f).ports = e.ports := rfl
@[simp] theorem Engine.modSp_unitTxns (e : Engine) (n : Sp) (f : Spindle → Spindle) : (e.modSp n f).unitTxns = e.unitTxns := rfl
@[simp] theorem Engine.modSp_tap (e : Engine) (n : Sp) (f : Spindle → Spindle) : (e.modSp n f).tap = e.tap := rfl
@[simp] theorem Engine.modJob_now (e : Engine) (n : Sp) (id : Nat) (f : Job → Job) : (e.modJob n id f).now = e.now := rfl
@[simp] theorem Engine.modJob_freeCtr (e : Engine) (n : Sp) (id : Nat) (f : Job → Job) : (e.modJob n id f).freeCtr = e.freeCtr := rfl
@[simp] theorem Engine.modJob_events (e : Engine) (n : Sp) (id : Nat) (f : Job → Job) : (e.modJob n id f).events = e.events := rfl
@[simp] theorem Engine.modJob_power (e : Engine) (n : Sp) (id : Nat) (f : Job → Job) : (e.modJob n id f).power = e.power := rfl
@[simp] theorem Engine.modJob_glb (e : Engine) (n : Sp) (id : Nat) (f : Job → Job) : (e.modJob n id f).glb = e.glb := rfl
@[simp] theorem Engine.modJob_creel (e : Engine) (n : Sp) (id : Nat) (f : Job → Job) : (e.modJob n id f).creel = e.creel := rfl
@[simp] theorem Engine.modJob_knots (e : Engine) (n : Sp) (id : Nat) (f : Job → Job) : (e.modJob n id f).knots = e.knots := rfl
@[simp] theorem Engine.modJob_doffer (e : Engine) (n : Sp) (id : Nat) (f : Job → Job) : (e.modJob n id f).doffer = e.doffer := rfl
@[simp] theorem Engine.modJob_ticks (e : Engine) (n : Sp) (id : Nat) (f : Job → Job) : (e.modJob n id f).ticks = e.ticks := rfl
@[simp] theorem Engine.modJob_cfg (e : Engine) (n : Sp) (id : Nat) (f : Job → Job) : (e.modJob n id f).cfg = e.cfg := rfl
@[simp] theorem Engine.modJob_activatedAt (e : Engine) (n : Sp) (id : Nat) (f : Job → Job) : (e.modJob n id f).activatedAt = e.activatedAt := rfl
@[simp] theorem Engine.modJob_shareFrom (e : Engine) (n : Sp) (id : Nat) (f : Job → Job) : (e.modJob n id f).shareFrom = e.shareFrom := rfl
@[simp] theorem Engine.modJob_selected (e : Engine) (n : Sp) (id : Nat) (f : Job → Job) : (e.modJob n id f).selected = e.selected := rfl
@[simp] theorem Engine.modJob_partials (e : Engine) (n : Sp) (id : Nat) (f : Job → Job) : (e.modJob n id f).partials = e.partials := rfl
@[simp] theorem Engine.modJob_sectionNext (e : Engine) (n : Sp) (id : Nat) (f : Job → Job) : (e.modJob n id f).sectionNext = e.sectionNext := rfl
@[simp] theorem Engine.modJob_act (e : Engine) (n : Sp) (id : Nat) (f : Job → Job) : (e.modJob n id f).act = e.act := rfl
@[simp] theorem Engine.modJob_tensors (e : Engine) (n : Sp) (id : Nat) (f : Job → Job) : (e.modJob n id f).tensors = e.tensors := rfl
@[simp] theorem Engine.modJob_placeReqs (e : Engine) (n : Sp) (id : Nat) (f : Job → Job) : (e.modJob n id f).placeReqs = e.placeReqs := rfl
@[simp] theorem Engine.modJob_mem (e : Engine) (n : Sp) (id : Nat) (f : Job → Job) : (e.modJob n id f).mem = e.mem := rfl
@[simp] theorem Engine.modJob_bobbin (e : Engine) (n : Sp) (id : Nat) (f : Job → Job) : (e.modJob n id f).bobbin = e.bobbin := rfl
@[simp] theorem Engine.modJob_distaff (e : Engine) (n : Sp) (id : Nat) (f : Job → Job) : (e.modJob n id f).distaff = e.distaff := rfl
@[simp] theorem Engine.modJob_flyer (e : Engine) (n : Sp) (id : Nat) (f : Job → Job) : (e.modJob n id f).flyer = e.flyer := rfl
@[simp] theorem Engine.modJob_scrub (e : Engine) (n : Sp) (id : Nat) (f : Job → Job) : (e.modJob n id f).scrub = e.scrub := rfl
@[simp] theorem Engine.modJob_tel (e : Engine) (n : Sp) (id : Nat) (f : Job → Job) : (e.modJob n id f).tel = e.tel := rfl
@[simp] theorem Engine.modJob_ports (e : Engine) (n : Sp) (id : Nat) (f : Job → Job) : (e.modJob n id f).ports = e.ports := rfl
@[simp] theorem Engine.modJob_unitTxns (e : Engine) (n : Sp) (id : Nat) (f : Job → Job) : (e.modJob n id f).unitTxns = e.unitTxns := rfl
@[simp] theorem Engine.modJob_tap (e : Engine) (n : Sp) (id : Nat) (f : Job → Job) : (e.modJob n id f).tap = e.tap := rfl
@[simp] theorem Engine.modTick_now (e : Engine) (t : Inp) (f : Tick → Tick) : (e.modTick t f).now = e.now := rfl
@[simp] theorem Engine.modTick_freeCtr (e : Engine) (t : Inp) (f : Tick → Tick) : (e.modTick t f).freeCtr = e.freeCtr := rfl
@[simp] theorem Engine.modTick_events (e : Engine) (t : Inp) (f : Tick → Tick) : (e.modTick t f).events = e.events := rfl
@[simp] theorem Engine.modTick_power (e : Engine) (t : Inp) (f : Tick → Tick) : (e.modTick t f).power = e.power := rfl
@[simp] theorem Engine.modTick_glb (e : Engine) (t : Inp) (f : Tick → Tick) : (e.modTick t f).glb = e.glb := rfl
@[simp] theorem Engine.modTick_spindles (e : Engine) (t : Inp) (f : Tick → Tick) : (e.modTick t f).spindles = e.spindles := rfl
@[simp] theorem Engine.modTick_creel (e : Engine) (t : Inp) (f : Tick → Tick) : (e.modTick t f).creel = e.creel := rfl
@[simp] theorem Engine.modTick_knots (e : Engine) (t : Inp) (f : Tick → Tick) : (e.modTick t f).knots = e.knots := rfl
@[simp] theorem Engine.modTick_doffer (e : Engine) (t : Inp) (f : Tick → Tick) : (e.modTick t f).doffer = e.doffer := rfl
@[simp] theorem Engine.modTick_cfg (e : Engine) (t : Inp) (f : Tick → Tick) : (e.modTick t f).cfg = e.cfg := rfl
@[simp] theorem Engine.modTick_activatedAt (e : Engine) (t : Inp) (f : Tick → Tick) : (e.modTick t f).activatedAt = e.activatedAt := rfl
@[simp] theorem Engine.modTick_shareFrom (e : Engine) (t : Inp) (f : Tick → Tick) : (e.modTick t f).shareFrom = e.shareFrom := rfl
@[simp] theorem Engine.modTick_selected (e : Engine) (t : Inp) (f : Tick → Tick) : (e.modTick t f).selected = e.selected := rfl
@[simp] theorem Engine.modTick_partials (e : Engine) (t : Inp) (f : Tick → Tick) : (e.modTick t f).partials = e.partials := rfl
@[simp] theorem Engine.modTick_sectionNext (e : Engine) (t : Inp) (f : Tick → Tick) : (e.modTick t f).sectionNext = e.sectionNext := rfl
@[simp] theorem Engine.modTick_act (e : Engine) (t : Inp) (f : Tick → Tick) : (e.modTick t f).act = e.act := rfl
@[simp] theorem Engine.modTick_tensors (e : Engine) (t : Inp) (f : Tick → Tick) : (e.modTick t f).tensors = e.tensors := rfl
@[simp] theorem Engine.modTick_placeReqs (e : Engine) (t : Inp) (f : Tick → Tick) : (e.modTick t f).placeReqs = e.placeReqs := rfl
@[simp] theorem Engine.modTick_mem (e : Engine) (t : Inp) (f : Tick → Tick) : (e.modTick t f).mem = e.mem := rfl
@[simp] theorem Engine.modTick_bobbin (e : Engine) (t : Inp) (f : Tick → Tick) : (e.modTick t f).bobbin = e.bobbin := rfl
@[simp] theorem Engine.modTick_distaff (e : Engine) (t : Inp) (f : Tick → Tick) : (e.modTick t f).distaff = e.distaff := rfl
@[simp] theorem Engine.modTick_flyer (e : Engine) (t : Inp) (f : Tick → Tick) : (e.modTick t f).flyer = e.flyer := rfl
@[simp] theorem Engine.modTick_scrub (e : Engine) (t : Inp) (f : Tick → Tick) : (e.modTick t f).scrub = e.scrub := rfl
@[simp] theorem Engine.modTick_tel (e : Engine) (t : Inp) (f : Tick → Tick) : (e.modTick t f).tel = e.tel := rfl
@[simp] theorem Engine.modTick_ports (e : Engine) (t : Inp) (f : Tick → Tick) : (e.modTick t f).ports = e.ports := rfl
@[simp] theorem Engine.modTick_unitTxns (e : Engine) (t : Inp) (f : Tick → Tick) : (e.modTick t f).unitTxns = e.unitTxns := rfl
@[simp] theorem Engine.modTick_tap (e : Engine) (t : Inp) (f : Tick → Tick) : (e.modTick t f).tap = e.tap := rfl
@[simp] theorem Engine.modPort_now (e : Engine) (p : Port) (f : LeafPort → LeafPort) : (e.modPort p f).now = e.now := rfl
@[simp] theorem Engine.modPort_freeCtr (e : Engine) (p : Port) (f : LeafPort → LeafPort) : (e.modPort p f).freeCtr = e.freeCtr := rfl
@[simp] theorem Engine.modPort_events (e : Engine) (p : Port) (f : LeafPort → LeafPort) : (e.modPort p f).events = e.events := rfl
@[simp] theorem Engine.modPort_power (e : Engine) (p : Port) (f : LeafPort → LeafPort) : (e.modPort p f).power = e.power := rfl
@[simp] theorem Engine.modPort_glb (e : Engine) (p : Port) (f : LeafPort → LeafPort) : (e.modPort p f).glb = e.glb := rfl
@[simp] theorem Engine.modPort_spindles (e : Engine) (p : Port) (f : LeafPort → LeafPort) : (e.modPort p f).spindles = e.spindles := rfl
@[simp] theorem Engine.modPort_creel (e : Engine) (p : Port) (f : LeafPort → LeafPort) : (e.modPort p f).creel = e.creel := rfl
@[simp] theorem Engine.modPort_knots (e : Engine) (p : Port) (f : LeafPort → LeafPort) : (e.modPort p f).knots = e.knots := rfl
@[simp] theorem Engine.modPort_doffer (e : Engine) (p : Port) (f : LeafPort → LeafPort) : (e.modPort p f).doffer = e.doffer := rfl
@[simp] theorem Engine.modPort_ticks (e : Engine) (p : Port) (f : LeafPort → LeafPort) : (e.modPort p f).ticks = e.ticks := rfl
@[simp] theorem Engine.modPort_cfg (e : Engine) (p : Port) (f : LeafPort → LeafPort) : (e.modPort p f).cfg = e.cfg := rfl
@[simp] theorem Engine.modPort_activatedAt (e : Engine) (p : Port) (f : LeafPort → LeafPort) : (e.modPort p f).activatedAt = e.activatedAt := rfl
@[simp] theorem Engine.modPort_shareFrom (e : Engine) (p : Port) (f : LeafPort → LeafPort) : (e.modPort p f).shareFrom = e.shareFrom := rfl
@[simp] theorem Engine.modPort_selected (e : Engine) (p : Port) (f : LeafPort → LeafPort) : (e.modPort p f).selected = e.selected := rfl
@[simp] theorem Engine.modPort_partials (e : Engine) (p : Port) (f : LeafPort → LeafPort) : (e.modPort p f).partials = e.partials := rfl
@[simp] theorem Engine.modPort_sectionNext (e : Engine) (p : Port) (f : LeafPort → LeafPort) : (e.modPort p f).sectionNext = e.sectionNext := rfl
@[simp] theorem Engine.modPort_act (e : Engine) (p : Port) (f : LeafPort → LeafPort) : (e.modPort p f).act = e.act := rfl
@[simp] theorem Engine.modPort_tensors (e : Engine) (p : Port) (f : LeafPort → LeafPort) : (e.modPort p f).tensors = e.tensors := rfl
@[simp] theorem Engine.modPort_placeReqs (e : Engine) (p : Port) (f : LeafPort → LeafPort) : (e.modPort p f).placeReqs = e.placeReqs := rfl
@[simp] theorem Engine.modPort_mem (e : Engine) (p : Port) (f : LeafPort → LeafPort) : (e.modPort p f).mem = e.mem := rfl
@[simp] theorem Engine.modPort_bobbin (e : Engine) (p : Port) (f : LeafPort → LeafPort) : (e.modPort p f).bobbin = e.bobbin := rfl
@[simp] theorem Engine.modPort_distaff (e : Engine) (p : Port) (f : LeafPort → LeafPort) : (e.modPort p f).distaff = e.distaff := rfl
@[simp] theorem Engine.modPort_flyer (e : Engine) (p : Port) (f : LeafPort → LeafPort) : (e.modPort p f).flyer = e.flyer := rfl
@[simp] theorem Engine.modPort_scrub (e : Engine) (p : Port) (f : LeafPort → LeafPort) : (e.modPort p f).scrub = e.scrub := rfl
@[simp] theorem Engine.modPort_tel (e : Engine) (p : Port) (f : LeafPort → LeafPort) : (e.modPort p f).tel = e.tel := rfl
@[simp] theorem Engine.modPort_ports (e : Engine) (p : Port) (f : LeafPort → LeafPort) : (e.modPort p f).ports = e.ports.set p (f e.ports[p]) := rfl
@[simp] theorem Engine.modPort_unitTxns (e : Engine) (p : Port) (f : LeafPort → LeafPort) : (e.modPort p f).unitTxns = e.unitTxns := rfl
@[simp] theorem Engine.modPort_tap (e : Engine) (p : Port) (f : LeafPort → LeafPort) : (e.modPort p f).tap = e.tap := rfl
@[simp] theorem Engine.modLink_now (e : Engine) (n : Sp) (f : Link → Link) : (e.modLink n f).now = e.now := rfl
@[simp] theorem Engine.modLink_freeCtr (e : Engine) (n : Sp) (f : Link → Link) : (e.modLink n f).freeCtr = e.freeCtr := rfl
@[simp] theorem Engine.modLink_events (e : Engine) (n : Sp) (f : Link → Link) : (e.modLink n f).events = e.events := rfl
@[simp] theorem Engine.modLink_power (e : Engine) (n : Sp) (f : Link → Link) : (e.modLink n f).power = e.power := rfl
@[simp] theorem Engine.modLink_glb (e : Engine) (n : Sp) (f : Link → Link) : (e.modLink n f).glb = e.glb := rfl
@[simp] theorem Engine.modLink_creel (e : Engine) (n : Sp) (f : Link → Link) : (e.modLink n f).creel = e.creel := rfl
@[simp] theorem Engine.modLink_knots (e : Engine) (n : Sp) (f : Link → Link) : (e.modLink n f).knots = e.knots := rfl
@[simp] theorem Engine.modLink_doffer (e : Engine) (n : Sp) (f : Link → Link) : (e.modLink n f).doffer = e.doffer := rfl
@[simp] theorem Engine.modLink_ticks (e : Engine) (n : Sp) (f : Link → Link) : (e.modLink n f).ticks = e.ticks := rfl
@[simp] theorem Engine.modLink_cfg (e : Engine) (n : Sp) (f : Link → Link) : (e.modLink n f).cfg = e.cfg := rfl
@[simp] theorem Engine.modLink_activatedAt (e : Engine) (n : Sp) (f : Link → Link) : (e.modLink n f).activatedAt = e.activatedAt := rfl
@[simp] theorem Engine.modLink_shareFrom (e : Engine) (n : Sp) (f : Link → Link) : (e.modLink n f).shareFrom = e.shareFrom := rfl
@[simp] theorem Engine.modLink_selected (e : Engine) (n : Sp) (f : Link → Link) : (e.modLink n f).selected = e.selected := rfl
@[simp] theorem Engine.modLink_partials (e : Engine) (n : Sp) (f : Link → Link) : (e.modLink n f).partials = e.partials := rfl
@[simp] theorem Engine.modLink_sectionNext (e : Engine) (n : Sp) (f : Link → Link) : (e.modLink n f).sectionNext = e.sectionNext := rfl
@[simp] theorem Engine.modLink_act (e : Engine) (n : Sp) (f : Link → Link) : (e.modLink n f).act = e.act := rfl
@[simp] theorem Engine.modLink_tensors (e : Engine) (n : Sp) (f : Link → Link) : (e.modLink n f).tensors = e.tensors := rfl
@[simp] theorem Engine.modLink_placeReqs (e : Engine) (n : Sp) (f : Link → Link) : (e.modLink n f).placeReqs = e.placeReqs := rfl
@[simp] theorem Engine.modLink_mem (e : Engine) (n : Sp) (f : Link → Link) : (e.modLink n f).mem = e.mem := rfl
@[simp] theorem Engine.modLink_bobbin (e : Engine) (n : Sp) (f : Link → Link) : (e.modLink n f).bobbin = e.bobbin := rfl
@[simp] theorem Engine.modLink_distaff (e : Engine) (n : Sp) (f : Link → Link) : (e.modLink n f).distaff = e.distaff := rfl
@[simp] theorem Engine.modLink_flyer (e : Engine) (n : Sp) (f : Link → Link) : (e.modLink n f).flyer = e.flyer := rfl
@[simp] theorem Engine.modLink_scrub (e : Engine) (n : Sp) (f : Link → Link) : (e.modLink n f).scrub = e.scrub := rfl
@[simp] theorem Engine.modLink_tel (e : Engine) (n : Sp) (f : Link → Link) : (e.modLink n f).tel = e.tel := rfl
@[simp] theorem Engine.modLink_ports (e : Engine) (n : Sp) (f : Link → Link) : (e.modLink n f).ports = e.ports := rfl
@[simp] theorem Engine.modLink_unitTxns (e : Engine) (n : Sp) (f : Link → Link) : (e.modLink n f).unitTxns = e.unitTxns := rfl
@[simp] theorem Engine.modLink_tap (e : Engine) (n : Sp) (f : Link → Link) : (e.modLink n f).tap = e.tap := rfl
@[simp] theorem Engine.modTensor_now (e : Engine) (t : Nat) (f : Tensor → Tensor) : (e.modTensor t f).now = e.now := rfl
@[simp] theorem Engine.modTensor_freeCtr (e : Engine) (t : Nat) (f : Tensor → Tensor) : (e.modTensor t f).freeCtr = e.freeCtr := rfl
@[simp] theorem Engine.modTensor_events (e : Engine) (t : Nat) (f : Tensor → Tensor) : (e.modTensor t f).events = e.events := rfl
@[simp] theorem Engine.modTensor_power (e : Engine) (t : Nat) (f : Tensor → Tensor) : (e.modTensor t f).power = e.power := rfl
@[simp] theorem Engine.modTensor_glb (e : Engine) (t : Nat) (f : Tensor → Tensor) : (e.modTensor t f).glb = e.glb := rfl
@[simp] theorem Engine.modTensor_spindles (e : Engine) (t : Nat) (f : Tensor → Tensor) : (e.modTensor t f).spindles = e.spindles := rfl
@[simp] theorem Engine.modTensor_creel (e : Engine) (t : Nat) (f : Tensor → Tensor) : (e.modTensor t f).creel = e.creel := rfl
@[simp] theorem Engine.modTensor_knots (e : Engine) (t : Nat) (f : Tensor → Tensor) : (e.modTensor t f).knots = e.knots := rfl
@[simp] theorem Engine.modTensor_doffer (e : Engine) (t : Nat) (f : Tensor → Tensor) : (e.modTensor t f).doffer = e.doffer := rfl
@[simp] theorem Engine.modTensor_ticks (e : Engine) (t : Nat) (f : Tensor → Tensor) : (e.modTensor t f).ticks = e.ticks := rfl
@[simp] theorem Engine.modTensor_cfg (e : Engine) (t : Nat) (f : Tensor → Tensor) : (e.modTensor t f).cfg = e.cfg := rfl
@[simp] theorem Engine.modTensor_activatedAt (e : Engine) (t : Nat) (f : Tensor → Tensor) : (e.modTensor t f).activatedAt = e.activatedAt := rfl
@[simp] theorem Engine.modTensor_shareFrom (e : Engine) (t : Nat) (f : Tensor → Tensor) : (e.modTensor t f).shareFrom = e.shareFrom := rfl
@[simp] theorem Engine.modTensor_selected (e : Engine) (t : Nat) (f : Tensor → Tensor) : (e.modTensor t f).selected = e.selected := rfl
@[simp] theorem Engine.modTensor_partials (e : Engine) (t : Nat) (f : Tensor → Tensor) : (e.modTensor t f).partials = e.partials := rfl
@[simp] theorem Engine.modTensor_sectionNext (e : Engine) (t : Nat) (f : Tensor → Tensor) : (e.modTensor t f).sectionNext = e.sectionNext := rfl
@[simp] theorem Engine.modTensor_act (e : Engine) (t : Nat) (f : Tensor → Tensor) : (e.modTensor t f).act = e.act := rfl
@[simp] theorem Engine.modTensor_placeReqs (e : Engine) (t : Nat) (f : Tensor → Tensor) : (e.modTensor t f).placeReqs = e.placeReqs := rfl
@[simp] theorem Engine.modTensor_mem (e : Engine) (t : Nat) (f : Tensor → Tensor) : (e.modTensor t f).mem = e.mem := rfl
@[simp] theorem Engine.modTensor_bobbin (e : Engine) (t : Nat) (f : Tensor → Tensor) : (e.modTensor t f).bobbin = e.bobbin := rfl
@[simp] theorem Engine.modTensor_distaff (e : Engine) (t : Nat) (f : Tensor → Tensor) : (e.modTensor t f).distaff = e.distaff := rfl
@[simp] theorem Engine.modTensor_flyer (e : Engine) (t : Nat) (f : Tensor → Tensor) : (e.modTensor t f).flyer = e.flyer := rfl
@[simp] theorem Engine.modTensor_scrub (e : Engine) (t : Nat) (f : Tensor → Tensor) : (e.modTensor t f).scrub = e.scrub := rfl
@[simp] theorem Engine.modTensor_tel (e : Engine) (t : Nat) (f : Tensor → Tensor) : (e.modTensor t f).tel = e.tel := rfl
@[simp] theorem Engine.modTensor_ports (e : Engine) (t : Nat) (f : Tensor → Tensor) : (e.modTensor t f).ports = e.ports := rfl
@[simp] theorem Engine.modTensor_unitTxns (e : Engine) (t : Nat) (f : Tensor → Tensor) : (e.modTensor t f).unitTxns = e.unitTxns := rfl
@[simp] theorem Engine.modTensor_tap (e : Engine) (t : Nat) (f : Tensor → Tensor) : (e.modTensor t f).tap = e.tap := rfl
@[simp] theorem Engine.knotIssue_now (e : Engine) (w : Issuer) (k : Nat) (v : KnotVerb) (x : Word) : (e.knotIssue w k v x).now = e.now := rfl
@[simp] theorem Engine.knotIssue_freeCtr (e : Engine) (w : Issuer) (k : Nat) (v : KnotVerb) (x : Word) : (e.knotIssue w k v x).freeCtr = e.freeCtr := rfl
@[simp] theorem Engine.knotIssue_events (e : Engine) (w : Issuer) (k : Nat) (v : KnotVerb) (x : Word) : (e.knotIssue w k v x).events = e.events := rfl
@[simp] theorem Engine.knotIssue_power (e : Engine) (w : Issuer) (k : Nat) (v : KnotVerb) (x : Word) : (e.knotIssue w k v x).power = e.power := rfl
@[simp] theorem Engine.knotIssue_glb (e : Engine) (w : Issuer) (k : Nat) (v : KnotVerb) (x : Word) : (e.knotIssue w k v x).glb = e.glb := rfl
@[simp] theorem Engine.knotIssue_spindles (e : Engine) (w : Issuer) (k : Nat) (v : KnotVerb) (x : Word) : (e.knotIssue w k v x).spindles = e.spindles := rfl
@[simp] theorem Engine.knotIssue_creel (e : Engine) (w : Issuer) (k : Nat) (v : KnotVerb) (x : Word) : (e.knotIssue w k v x).creel = e.creel := rfl
@[simp] theorem Engine.knotIssue_doffer (e : Engine) (w : Issuer) (k : Nat) (v : KnotVerb) (x : Word) : (e.knotIssue w k v x).doffer = e.doffer := rfl
@[simp] theorem Engine.knotIssue_ticks (e : Engine) (w : Issuer) (k : Nat) (v : KnotVerb) (x : Word) : (e.knotIssue w k v x).ticks = e.ticks := rfl
@[simp] theorem Engine.knotIssue_cfg (e : Engine) (w : Issuer) (k : Nat) (v : KnotVerb) (x : Word) : (e.knotIssue w k v x).cfg = e.cfg := rfl
@[simp] theorem Engine.knotIssue_activatedAt (e : Engine) (w : Issuer) (k : Nat) (v : KnotVerb) (x : Word) : (e.knotIssue w k v x).activatedAt = e.activatedAt := rfl
@[simp] theorem Engine.knotIssue_shareFrom (e : Engine) (w : Issuer) (k : Nat) (v : KnotVerb) (x : Word) : (e.knotIssue w k v x).shareFrom = e.shareFrom := rfl
@[simp] theorem Engine.knotIssue_selected (e : Engine) (w : Issuer) (k : Nat) (v : KnotVerb) (x : Word) : (e.knotIssue w k v x).selected = e.selected := rfl
@[simp] theorem Engine.knotIssue_partials (e : Engine) (w : Issuer) (k : Nat) (v : KnotVerb) (x : Word) : (e.knotIssue w k v x).partials = e.partials := rfl
@[simp] theorem Engine.knotIssue_sectionNext (e : Engine) (w : Issuer) (k : Nat) (v : KnotVerb) (x : Word) : (e.knotIssue w k v x).sectionNext = e.sectionNext := rfl
@[simp] theorem Engine.knotIssue_act (e : Engine) (w : Issuer) (k : Nat) (v : KnotVerb) (x : Word) : (e.knotIssue w k v x).act = e.act := rfl
@[simp] theorem Engine.knotIssue_tensors (e : Engine) (w : Issuer) (k : Nat) (v : KnotVerb) (x : Word) : (e.knotIssue w k v x).tensors = e.tensors := rfl
@[simp] theorem Engine.knotIssue_placeReqs (e : Engine) (w : Issuer) (k : Nat) (v : KnotVerb) (x : Word) : (e.knotIssue w k v x).placeReqs = e.placeReqs := rfl
@[simp] theorem Engine.knotIssue_mem (e : Engine) (w : Issuer) (k : Nat) (v : KnotVerb) (x : Word) : (e.knotIssue w k v x).mem = e.mem := rfl
@[simp] theorem Engine.knotIssue_bobbin (e : Engine) (w : Issuer) (k : Nat) (v : KnotVerb) (x : Word) : (e.knotIssue w k v x).bobbin = e.bobbin := rfl
@[simp] theorem Engine.knotIssue_distaff (e : Engine) (w : Issuer) (k : Nat) (v : KnotVerb) (x : Word) : (e.knotIssue w k v x).distaff = e.distaff := rfl
@[simp] theorem Engine.knotIssue_flyer (e : Engine) (w : Issuer) (k : Nat) (v : KnotVerb) (x : Word) : (e.knotIssue w k v x).flyer = e.flyer := rfl
@[simp] theorem Engine.knotIssue_scrub (e : Engine) (w : Issuer) (k : Nat) (v : KnotVerb) (x : Word) : (e.knotIssue w k v x).scrub = e.scrub := rfl
@[simp] theorem Engine.knotIssue_tel (e : Engine) (w : Issuer) (k : Nat) (v : KnotVerb) (x : Word) : (e.knotIssue w k v x).tel = e.tel := rfl
@[simp] theorem Engine.knotIssue_ports (e : Engine) (w : Issuer) (k : Nat) (v : KnotVerb) (x : Word) : (e.knotIssue w k v x).ports = e.ports := rfl
@[simp] theorem Engine.knotIssue_unitTxns (e : Engine) (w : Issuer) (k : Nat) (v : KnotVerb) (x : Word) : (e.knotIssue w k v x).unitTxns = e.unitTxns := rfl
@[simp] theorem Engine.knotIssue_tap (e : Engine) (w : Issuer) (k : Nat) (v : KnotVerb) (x : Word) : (e.knotIssue w k v x).tap = e.tap := rfl
@[simp] theorem Engine.setRun_now (e : Engine) (n : Sp) (p : Job → Bool) (r : JobRun) : (e.setRun n p r).now = e.now := rfl
@[simp] theorem Engine.setRun_freeCtr (e : Engine) (n : Sp) (p : Job → Bool) (r : JobRun) : (e.setRun n p r).freeCtr = e.freeCtr := rfl
@[simp] theorem Engine.setRun_events (e : Engine) (n : Sp) (p : Job → Bool) (r : JobRun) : (e.setRun n p r).events = e.events := rfl
@[simp] theorem Engine.setRun_power (e : Engine) (n : Sp) (p : Job → Bool) (r : JobRun) : (e.setRun n p r).power = e.power := rfl
@[simp] theorem Engine.setRun_glb (e : Engine) (n : Sp) (p : Job → Bool) (r : JobRun) : (e.setRun n p r).glb = e.glb := rfl
@[simp] theorem Engine.setRun_creel (e : Engine) (n : Sp) (p : Job → Bool) (r : JobRun) : (e.setRun n p r).creel = e.creel := rfl
@[simp] theorem Engine.setRun_knots (e : Engine) (n : Sp) (p : Job → Bool) (r : JobRun) : (e.setRun n p r).knots = e.knots := rfl
@[simp] theorem Engine.setRun_doffer (e : Engine) (n : Sp) (p : Job → Bool) (r : JobRun) : (e.setRun n p r).doffer = e.doffer := rfl
@[simp] theorem Engine.setRun_ticks (e : Engine) (n : Sp) (p : Job → Bool) (r : JobRun) : (e.setRun n p r).ticks = e.ticks := rfl
@[simp] theorem Engine.setRun_cfg (e : Engine) (n : Sp) (p : Job → Bool) (r : JobRun) : (e.setRun n p r).cfg = e.cfg := rfl
@[simp] theorem Engine.setRun_activatedAt (e : Engine) (n : Sp) (p : Job → Bool) (r : JobRun) : (e.setRun n p r).activatedAt = e.activatedAt := rfl
@[simp] theorem Engine.setRun_shareFrom (e : Engine) (n : Sp) (p : Job → Bool) (r : JobRun) : (e.setRun n p r).shareFrom = e.shareFrom := rfl
@[simp] theorem Engine.setRun_selected (e : Engine) (n : Sp) (p : Job → Bool) (r : JobRun) : (e.setRun n p r).selected = e.selected := rfl
@[simp] theorem Engine.setRun_partials (e : Engine) (n : Sp) (p : Job → Bool) (r : JobRun) : (e.setRun n p r).partials = e.partials := rfl
@[simp] theorem Engine.setRun_sectionNext (e : Engine) (n : Sp) (p : Job → Bool) (r : JobRun) : (e.setRun n p r).sectionNext = e.sectionNext := rfl
@[simp] theorem Engine.setRun_act (e : Engine) (n : Sp) (p : Job → Bool) (r : JobRun) : (e.setRun n p r).act = e.act := rfl
@[simp] theorem Engine.setRun_tensors (e : Engine) (n : Sp) (p : Job → Bool) (r : JobRun) : (e.setRun n p r).tensors = e.tensors := rfl
@[simp] theorem Engine.setRun_placeReqs (e : Engine) (n : Sp) (p : Job → Bool) (r : JobRun) : (e.setRun n p r).placeReqs = e.placeReqs := rfl
@[simp] theorem Engine.setRun_mem (e : Engine) (n : Sp) (p : Job → Bool) (r : JobRun) : (e.setRun n p r).mem = e.mem := rfl
@[simp] theorem Engine.setRun_bobbin (e : Engine) (n : Sp) (p : Job → Bool) (r : JobRun) : (e.setRun n p r).bobbin = e.bobbin := rfl
@[simp] theorem Engine.setRun_distaff (e : Engine) (n : Sp) (p : Job → Bool) (r : JobRun) : (e.setRun n p r).distaff = e.distaff := rfl
@[simp] theorem Engine.setRun_flyer (e : Engine) (n : Sp) (p : Job → Bool) (r : JobRun) : (e.setRun n p r).flyer = e.flyer := rfl
@[simp] theorem Engine.setRun_scrub (e : Engine) (n : Sp) (p : Job → Bool) (r : JobRun) : (e.setRun n p r).scrub = e.scrub := rfl
@[simp] theorem Engine.setRun_tel (e : Engine) (n : Sp) (p : Job → Bool) (r : JobRun) : (e.setRun n p r).tel = e.tel := rfl
@[simp] theorem Engine.setRun_ports (e : Engine) (n : Sp) (p : Job → Bool) (r : JobRun) : (e.setRun n p r).ports = e.ports := rfl
@[simp] theorem Engine.setRun_unitTxns (e : Engine) (n : Sp) (p : Job → Bool) (r : JobRun) : (e.setRun n p r).unitTxns = e.unitTxns := rfl
@[simp] theorem Engine.setRun_tap (e : Engine) (n : Sp) (p : Job → Bool) (r : JobRun) : (e.setRun n p r).tap = e.tap := rfl
@[simp] theorem Engine.tapSelect_now (e : Engine) (i : TapInstr) (w : Word) : (e.tapSelect i w).now = e.now := rfl
@[simp] theorem Engine.tapSelect_freeCtr (e : Engine) (i : TapInstr) (w : Word) : (e.tapSelect i w).freeCtr = e.freeCtr := rfl
@[simp] theorem Engine.tapSelect_events (e : Engine) (i : TapInstr) (w : Word) : (e.tapSelect i w).events = e.events := rfl
@[simp] theorem Engine.tapSelect_power (e : Engine) (i : TapInstr) (w : Word) : (e.tapSelect i w).power = e.power := rfl
@[simp] theorem Engine.tapSelect_glb (e : Engine) (i : TapInstr) (w : Word) : (e.tapSelect i w).glb = e.glb := rfl
@[simp] theorem Engine.tapSelect_spindles (e : Engine) (i : TapInstr) (w : Word) : (e.tapSelect i w).spindles = e.spindles := rfl
@[simp] theorem Engine.tapSelect_creel (e : Engine) (i : TapInstr) (w : Word) : (e.tapSelect i w).creel = e.creel := rfl
@[simp] theorem Engine.tapSelect_knots (e : Engine) (i : TapInstr) (w : Word) : (e.tapSelect i w).knots = e.knots := rfl
@[simp] theorem Engine.tapSelect_doffer (e : Engine) (i : TapInstr) (w : Word) : (e.tapSelect i w).doffer = e.doffer := rfl
@[simp] theorem Engine.tapSelect_ticks (e : Engine) (i : TapInstr) (w : Word) : (e.tapSelect i w).ticks = e.ticks := rfl
@[simp] theorem Engine.tapSelect_cfg (e : Engine) (i : TapInstr) (w : Word) : (e.tapSelect i w).cfg = e.cfg := rfl
@[simp] theorem Engine.tapSelect_activatedAt (e : Engine) (i : TapInstr) (w : Word) : (e.tapSelect i w).activatedAt = e.activatedAt := rfl
@[simp] theorem Engine.tapSelect_shareFrom (e : Engine) (i : TapInstr) (w : Word) : (e.tapSelect i w).shareFrom = e.shareFrom := rfl
@[simp] theorem Engine.tapSelect_selected (e : Engine) (i : TapInstr) (w : Word) : (e.tapSelect i w).selected = e.selected := rfl
@[simp] theorem Engine.tapSelect_partials (e : Engine) (i : TapInstr) (w : Word) : (e.tapSelect i w).partials = e.partials := rfl
@[simp] theorem Engine.tapSelect_sectionNext (e : Engine) (i : TapInstr) (w : Word) : (e.tapSelect i w).sectionNext = e.sectionNext := rfl
@[simp] theorem Engine.tapSelect_act (e : Engine) (i : TapInstr) (w : Word) : (e.tapSelect i w).act = e.act := rfl
@[simp] theorem Engine.tapSelect_tensors (e : Engine) (i : TapInstr) (w : Word) : (e.tapSelect i w).tensors = e.tensors := rfl
@[simp] theorem Engine.tapSelect_placeReqs (e : Engine) (i : TapInstr) (w : Word) : (e.tapSelect i w).placeReqs = e.placeReqs := rfl
@[simp] theorem Engine.tapSelect_mem (e : Engine) (i : TapInstr) (w : Word) : (e.tapSelect i w).mem = e.mem := rfl
@[simp] theorem Engine.tapSelect_bobbin (e : Engine) (i : TapInstr) (w : Word) : (e.tapSelect i w).bobbin = e.bobbin := rfl
@[simp] theorem Engine.tapSelect_distaff (e : Engine) (i : TapInstr) (w : Word) : (e.tapSelect i w).distaff = e.distaff := rfl
@[simp] theorem Engine.tapSelect_flyer (e : Engine) (i : TapInstr) (w : Word) : (e.tapSelect i w).flyer = e.flyer := rfl
@[simp] theorem Engine.tapSelect_scrub (e : Engine) (i : TapInstr) (w : Word) : (e.tapSelect i w).scrub = e.scrub := rfl
@[simp] theorem Engine.tapSelect_tel (e : Engine) (i : TapInstr) (w : Word) : (e.tapSelect i w).tel = e.tel := rfl
@[simp] theorem Engine.tapSelect_ports (e : Engine) (i : TapInstr) (w : Word) : (e.tapSelect i w).ports = e.ports := rfl
@[simp] theorem Engine.tapSelect_unitTxns (e : Engine) (i : TapInstr) (w : Word) : (e.tapSelect i w).unitTxns = e.unitTxns := rfl
@[simp] theorem Engine.raise_now (e : Engine) (ev : Event) : (e.raise ev).now = e.now := rfl
@[simp] theorem Engine.raise_freeCtr (e : Engine) (ev : Event) : (e.raise ev).freeCtr = e.freeCtr := rfl
@[simp] theorem Engine.raise_events (e : Engine) (ev : Event) : (e.raise ev).events = ev :: e.events := rfl
@[simp] theorem Engine.raise_power (e : Engine) (ev : Event) : (e.raise ev).power = e.power := rfl
@[simp] theorem Engine.raise_glb (e : Engine) (ev : Event) : (e.raise ev).glb = e.glb.count ev.group := rfl
@[simp] theorem Engine.raise_spindles (e : Engine) (ev : Event) : (e.raise ev).spindles = e.spindles := rfl
@[simp] theorem Engine.raise_creel (e : Engine) (ev : Event) : (e.raise ev).creel = e.creel := rfl
@[simp] theorem Engine.raise_knots (e : Engine) (ev : Event) : (e.raise ev).knots = e.knots := rfl
@[simp] theorem Engine.raise_doffer (e : Engine) (ev : Event) : (e.raise ev).doffer = e.doffer := rfl
@[simp] theorem Engine.raise_ticks (e : Engine) (ev : Event) : (e.raise ev).ticks = e.ticks := rfl
@[simp] theorem Engine.raise_cfg (e : Engine) (ev : Event) : (e.raise ev).cfg = e.cfg := rfl
@[simp] theorem Engine.raise_activatedAt (e : Engine) (ev : Event) : (e.raise ev).activatedAt = e.activatedAt := rfl
@[simp] theorem Engine.raise_shareFrom (e : Engine) (ev : Event) : (e.raise ev).shareFrom = e.shareFrom := rfl
@[simp] theorem Engine.raise_selected (e : Engine) (ev : Event) : (e.raise ev).selected = e.selected := rfl
@[simp] theorem Engine.raise_partials (e : Engine) (ev : Event) : (e.raise ev).partials = e.partials := rfl
@[simp] theorem Engine.raise_sectionNext (e : Engine) (ev : Event) : (e.raise ev).sectionNext = e.sectionNext := rfl
@[simp] theorem Engine.raise_act (e : Engine) (ev : Event) : (e.raise ev).act = e.act := rfl
@[simp] theorem Engine.raise_tensors (e : Engine) (ev : Event) : (e.raise ev).tensors = e.tensors := rfl
@[simp] theorem Engine.raise_placeReqs (e : Engine) (ev : Event) : (e.raise ev).placeReqs = e.placeReqs := rfl
@[simp] theorem Engine.raise_mem (e : Engine) (ev : Event) : (e.raise ev).mem = e.mem := rfl
@[simp] theorem Engine.raise_bobbin (e : Engine) (ev : Event) : (e.raise ev).bobbin = e.bobbin := rfl
@[simp] theorem Engine.raise_distaff (e : Engine) (ev : Event) : (e.raise ev).distaff = e.distaff := rfl
@[simp] theorem Engine.raise_flyer (e : Engine) (ev : Event) : (e.raise ev).flyer = e.flyer := rfl
@[simp] theorem Engine.raise_scrub (e : Engine) (ev : Event) : (e.raise ev).scrub = e.scrub := rfl
@[simp] theorem Engine.raise_tel (e : Engine) (ev : Event) : (e.raise ev).tel = e.tel := rfl
@[simp] theorem Engine.raise_ports (e : Engine) (ev : Event) : (e.raise ev).ports = e.ports := rfl
@[simp] theorem Engine.raise_unitTxns (e : Engine) (ev : Event) : (e.raise ev).unitTxns = e.unitTxns := rfl
@[simp] theorem Engine.raise_tap (e : Engine) (ev : Event) : (e.raise ev).tap = e.tap := rfl

/-! ## Reading back what was written -/

theorem Engine.sp_modSp (e : Engine) (n : Sp) (f : Spindle → Spindle) : (e.modSp n f).sp n = f (e.sp n) := by
  simp [Engine.sp]

theorem Engine.sp_modSp_ne (e : Engine) {m n : Sp} (h : m ≠ n) (f : Spindle → Spindle) : (e.modSp n f).sp m = e.sp m := by
  have : n.val ≠ m.val := fun hh => h (Fin.ext hh.symm)
  simp [Engine.sp, this]

theorem Engine.tick_modTick (e : Engine) (t : Inp) (f : Tick → Tick) : (e.modTick t f).tick t = f (e.tick t) := by
  simp [Engine.tick, Engine.modTick]

theorem Engine.tick_modTick_ne (e : Engine) {u t : Inp} (h : u ≠ t) (f : Tick → Tick) : (e.modTick t f).tick u = e.tick u := by
  have : t.val ≠ u.val := fun hh => h (Fin.ext hh.symm)
  simp [Engine.tick, Engine.modTick, this]

theorem Engine.conf_raise (e : Engine) (ev : Event) : (e.raise ev).conf = e.conf := rfl

/-- An access that the register file serves is carried out after its answer is set. -/
theorem State.access_served (s : State) (p : RegPath) (c : Instr) (act : State → State) (h : s.serves p = true) :
    s.access p c act = act (s.onEng fun e => e.answer p false) := by
  simp [State.access, h]

/-- An access behind others waits, and changes nothing else. -/
theorem State.access_waits (s : State) (p : RegPath) (c : Instr) (act : State → State) (h : s.serves p = false)
    (ha : s.answers p = true) : s.access p c act = s.keepAccess p c := by
  simp [State.access, h, ha]

/-- An access on a path that does not answer changes nothing. -/
theorem State.access_unanswered (s : State) (p : RegPath) (c : Instr) (act : State → State) (ha : s.answers p = false) :
    s.access p c act = s := by
  simp [State.access, State.serves, ha]

end Sys2Proof.Machine
end

