-- ==== Sys2Proof/Laws/Ops.lean ====
section
/-! SUPPORT. What shared operations can do, said once: telemetry entries, PROTO_LOG violations, writes of the Distaff,
submitted frames, wakes, SRAM rows and register accesses that wait. -/

namespace Sys2Proof.Machine

/-! ## Accesses of shared units touch memory, their slots and the leaf port's accounts only (R13, R423, R479) -/

@[simp] theorem Engine.latchUnits_now (e : Engine) : e.latchUnits.now = e.now := by
  unfold Engine.latchUnits; dsimp only; split <;> rfl

@[simp] theorem Engine.unitIssue_now (e : Engine) (u : SharedUnit) (w f : Bool) (a n : Nat) : (e.unitIssue u w f a n).now = e.now := by
  unfold Engine.unitIssue; split <;> simp

@[simp] theorem Engine.unitWrite_now (e : Engine) (u : SharedUnit) (a : Nat) (bs : List Byte) : (e.unitWrite u a bs).now = e.now := by
  unfold Engine.unitWrite; split <;> simp

@[simp] theorem Engine.latchUnits_freeCtr (e : Engine) : e.latchUnits.freeCtr = e.freeCtr := by
  unfold Engine.latchUnits; dsimp only; split <;> rfl

@[simp] theorem Engine.unitIssue_freeCtr (e : Engine) (u : SharedUnit) (w f : Bool) (a n : Nat) : (e.unitIssue u w f a n).freeCtr = e.freeCtr := by
  unfold Engine.unitIssue; split <;> simp

@[simp] theorem Engine.unitWrite_freeCtr (e : Engine) (u : SharedUnit) (a : Nat) (bs : List Byte) : (e.unitWrite u a bs).freeCtr = e.freeCtr := by
  unfold Engine.unitWrite; split <;> simp

@[simp] theorem Engine.latchUnits_power (e : Engine) : e.latchUnits.power = e.power := by
  unfold Engine.latchUnits; dsimp only; split <;> rfl

@[simp] theorem Engine.unitIssue_power (e : Engine) (u : SharedUnit) (w f : Bool) (a n : Nat) : (e.unitIssue u w f a n).power = e.power := by
  unfold Engine.unitIssue; split <;> simp

@[simp] theorem Engine.unitWrite_power (e : Engine) (u : SharedUnit) (a : Nat) (bs : List Byte) : (e.unitWrite u a bs).power = e.power := by
  unfold Engine.unitWrite; split <;> simp

@[simp] theorem Engine.latchUnits_glb (e : Engine) : e.latchUnits.glb = e.glb := by
  unfold Engine.latchUnits; dsimp only; split <;> rfl

@[simp] theorem Engine.unitIssue_glb (e : Engine) (u : SharedUnit) (w f : Bool) (a n : Nat) : (e.unitIssue u w f a n).glb = e.glb := by
  unfold Engine.unitIssue; split <;> simp

@[simp] theorem Engine.unitWrite_glb (e : Engine) (u : SharedUnit) (a : Nat) (bs : List Byte) : (e.unitWrite u a bs).glb = e.glb := by
  unfold Engine.unitWrite; split <;> simp

@[simp] theorem Engine.latchUnits_spindles (e : Engine) : e.latchUnits.spindles = e.spindles := by
  unfold Engine.latchUnits; dsimp only; split <;> rfl

@[simp] theorem Engine.unitIssue_spindles (e : Engine) (u : SharedUnit) (w f : Bool) (a n : Nat) : (e.unitIssue u w f a n).spindles = e.spindles := by
  unfold Engine.unitIssue; split <;> simp

@[simp] theorem Engine.unitWrite_spindles (e : Engine) (u : SharedUnit) (a : Nat) (bs : List Byte) : (e.unitWrite u a bs).spindles = e.spindles := by
  unfold Engine.unitWrite; split <;> simp

@[simp] theorem Engine.latchUnits_creel (e : Engine) : e.latchUnits.creel = e.creel := by
  unfold Engine.latchUnits; dsimp only; split <;> rfl

@[simp] theorem Engine.unitIssue_creel (e : Engine) (u : SharedUnit) (w f : Bool) (a n : Nat) : (e.unitIssue u w f a n).creel = e.creel := by
  unfold Engine.unitIssue; split <;> simp

@[simp] theorem Engine.unitWrite_creel (e : Engine) (u : SharedUnit) (a : Nat) (bs : List Byte) : (e.unitWrite u a bs).creel = e.creel := by
  unfold Engine.unitWrite; split <;> simp

@[simp] theorem Engine.latchUnits_knots (e : Engine) : e.latchUnits.knots = e.knots := by
  unfold Engine.latchUnits; dsimp only; split <;> rfl

@[simp] theorem Engine.unitIssue_knots (e : Engine) (u : SharedUnit) (w f : Bool) (a n : Nat) : (e.unitIssue u w f a n).knots = e.knots := by
  unfold Engine.unitIssue; split <;> simp

@[simp] theorem Engine.unitWrite_knots (e : Engine) (u : SharedUnit) (a : Nat) (bs : List Byte) : (e.unitWrite u a bs).knots = e.knots := by
  unfold Engine.unitWrite; split <;> simp

@[simp] theorem Engine.latchUnits_doffer (e : Engine) : e.latchUnits.doffer = e.doffer := by
  unfold Engine.latchUnits; dsimp only; split <;> rfl

@[simp] theorem Engine.unitIssue_doffer (e : Engine) (u : SharedUnit) (w f : Bool) (a n : Nat) : (e.unitIssue u w f a n).doffer = e.doffer := by
  unfold Engine.unitIssue; split <;> simp

@[simp] theorem Engine.unitWrite_doffer (e : Engine) (u : SharedUnit) (a : Nat) (bs : List Byte) : (e.unitWrite u a bs).doffer = e.doffer := by
  unfold Engine.unitWrite; split <;> simp

@[simp] theorem Engine.latchUnits_ticks (e : Engine) : e.latchUnits.ticks = e.ticks := by
  unfold Engine.latchUnits; dsimp only; split <;> rfl

@[simp] theorem Engine.unitIssue_ticks (e : Engine) (u : SharedUnit) (w f : Bool) (a n : Nat) : (e.unitIssue u w f a n).ticks = e.ticks := by
  unfold Engine.unitIssue; split <;> simp

@[simp] theorem Engine.unitWrite_ticks (e : Engine) (u : SharedUnit) (a : Nat) (bs : List Byte) : (e.unitWrite u a bs).ticks = e.ticks := by
  unfold Engine.unitWrite; split <;> simp

@[simp] theorem Engine.latchUnits_cfg (e : Engine) : e.latchUnits.cfg = e.cfg := by
  unfold Engine.latchUnits; dsimp only; split <;> rfl

@[simp] theorem Engine.unitIssue_cfg (e : Engine) (u : SharedUnit) (w f : Bool) (a n : Nat) : (e.unitIssue u w f a n).cfg = e.cfg := by
  unfold Engine.unitIssue; split <;> simp

@[simp] theorem Engine.unitWrite_cfg (e : Engine) (u : SharedUnit) (a : Nat) (bs : List Byte) : (e.unitWrite u a bs).cfg = e.cfg := by
  unfold Engine.unitWrite; split <;> simp

@[simp] theorem Engine.latchUnits_activatedAt (e : Engine) : e.latchUnits.activatedAt = e.activatedAt := by
  unfold Engine.latchUnits; dsimp only; split <;> rfl

@[simp] theorem Engine.unitIssue_activatedAt (e : Engine) (u : SharedUnit) (w f : Bool) (a n : Nat) : (e.unitIssue u w f a n).activatedAt = e.activatedAt := by
  unfold Engine.unitIssue; split <;> simp

@[simp] theorem Engine.unitWrite_activatedAt (e : Engine) (u : SharedUnit) (a : Nat) (bs : List Byte) : (e.unitWrite u a bs).activatedAt = e.activatedAt := by
  unfold Engine.unitWrite; split <;> simp

@[simp] theorem Engine.latchUnits_shareFrom (e : Engine) : e.latchUnits.shareFrom = e.shareFrom := by
  unfold Engine.latchUnits; dsimp only; split <;> rfl

@[simp] theorem Engine.unitIssue_shareFrom (e : Engine) (u : SharedUnit) (w f : Bool) (a n : Nat) : (e.unitIssue u w f a n).shareFrom = e.shareFrom := by
  unfold Engine.unitIssue; split <;> simp

@[simp] theorem Engine.unitWrite_shareFrom (e : Engine) (u : SharedUnit) (a : Nat) (bs : List Byte) : (e.unitWrite u a bs).shareFrom = e.shareFrom := by
  unfold Engine.unitWrite; split <;> simp

@[simp] theorem Engine.latchUnits_selected (e : Engine) : e.latchUnits.selected = e.selected := by
  unfold Engine.latchUnits; dsimp only; split <;> rfl

@[simp] theorem Engine.unitIssue_selected (e : Engine) (u : SharedUnit) (w f : Bool) (a n : Nat) : (e.unitIssue u w f a n).selected = e.selected := by
  unfold Engine.unitIssue; split <;> simp

@[simp] theorem Engine.unitWrite_selected (e : Engine) (u : SharedUnit) (a : Nat) (bs : List Byte) : (e.unitWrite u a bs).selected = e.selected := by
  unfold Engine.unitWrite; split <;> simp

@[simp] theorem Engine.latchUnits_partials (e : Engine) : e.latchUnits.partials = e.partials := by
  unfold Engine.latchUnits; dsimp only; split <;> rfl

@[simp] theorem Engine.unitIssue_partials (e : Engine) (u : SharedUnit) (w f : Bool) (a n : Nat) : (e.unitIssue u w f a n).partials = e.partials := by
  unfold Engine.unitIssue; split <;> simp

@[simp] theorem Engine.unitWrite_partials (e : Engine) (u : SharedUnit) (a : Nat) (bs : List Byte) : (e.unitWrite u a bs).partials = e.partials := by
  unfold Engine.unitWrite; split <;> simp

@[simp] theorem Engine.latchUnits_sectionNext (e : Engine) : e.latchUnits.sectionNext = e.sectionNext := by
  unfold Engine.latchUnits; dsimp only; split <;> rfl

@[simp] theorem Engine.unitIssue_sectionNext (e : Engine) (u : SharedUnit) (w f : Bool) (a n : Nat) : (e.unitIssue u w f a n).sectionNext = e.sectionNext := by
  unfold Engine.unitIssue; split <;> simp

@[simp] theorem Engine.unitWrite_sectionNext (e : Engine) (u : SharedUnit) (a : Nat) (bs : List Byte) : (e.unitWrite u a bs).sectionNext = e.sectionNext := by
  unfold Engine.unitWrite; split <;> simp

@[simp] theorem Engine.latchUnits_act (e : Engine) : e.latchUnits.act = e.act := by
  unfold Engine.latchUnits; dsimp only; split <;> rfl

@[simp] theorem Engine.unitIssue_act (e : Engine) (u : SharedUnit) (w f : Bool) (a n : Nat) : (e.unitIssue u w f a n).act = e.act := by
  unfold Engine.unitIssue; split <;> simp

@[simp] theorem Engine.unitWrite_act (e : Engine) (u : SharedUnit) (a : Nat) (bs : List Byte) : (e.unitWrite u a bs).act = e.act := by
  unfold Engine.unitWrite; split <;> simp

@[simp] theorem Engine.latchUnits_tensors (e : Engine) : e.latchUnits.tensors = e.tensors := by
  unfold Engine.latchUnits; dsimp only; split <;> rfl

@[simp] theorem Engine.unitIssue_tensors (e : Engine) (u : SharedUnit) (w f : Bool) (a n : Nat) : (e.unitIssue u w f a n).tensors = e.tensors := by
  unfold Engine.unitIssue; split <;> simp

@[simp] theorem Engine.unitWrite_tensors (e : Engine) (u : SharedUnit) (a : Nat) (bs : List Byte) : (e.unitWrite u a bs).tensors = e.tensors := by
  unfold Engine.unitWrite; split <;> simp

@[simp] theorem Engine.latchUnits_placeReqs (e : Engine) : e.latchUnits.placeReqs = e.placeReqs := by
  unfold Engine.latchUnits; dsimp only; split <;> rfl

@[simp] theorem Engine.unitIssue_placeReqs (e : Engine) (u : SharedUnit) (w f : Bool) (a n : Nat) : (e.unitIssue u w f a n).placeReqs = e.placeReqs := by
  unfold Engine.unitIssue; split <;> simp

@[simp] theorem Engine.unitWrite_placeReqs (e : Engine) (u : SharedUnit) (a : Nat) (bs : List Byte) : (e.unitWrite u a bs).placeReqs = e.placeReqs := by
  unfold Engine.unitWrite; split <;> simp

@[simp] theorem Engine.latchUnits_bobbin (e : Engine) : e.latchUnits.bobbin = e.bobbin := by
  unfold Engine.latchUnits; dsimp only; split <;> rfl

@[simp] theorem Engine.unitIssue_bobbin (e : Engine) (u : SharedUnit) (w f : Bool) (a n : Nat) : (e.unitIssue u w f a n).bobbin = e.bobbin := by
  unfold Engine.unitIssue; split <;> simp

@[simp] theorem Engine.unitWrite_bobbin (e : Engine) (u : SharedUnit) (a : Nat) (bs : List Byte) : (e.unitWrite u a bs).bobbin = e.bobbin := by
  unfold Engine.unitWrite; split <;> simp

@[simp] theorem Engine.latchUnits_distaff (e : Engine) : e.latchUnits.distaff = e.distaff := by
  unfold Engine.latchUnits; dsimp only; split <;> rfl

@[simp] theorem Engine.unitIssue_distaff (e : Engine) (u : SharedUnit) (w f : Bool) (a n : Nat) : (e.unitIssue u w f a n).distaff = e.distaff := by
  unfold Engine.unitIssue; split <;> simp

@[simp] theorem Engine.unitWrite_distaff (e : Engine) (u : SharedUnit) (a : Nat) (bs : List Byte) : (e.unitWrite u a bs).distaff = e.distaff := by
  unfold Engine.unitWrite; split <;> simp

@[simp] theorem Engine.latchUnits_flyer (e : Engine) : e.latchUnits.flyer = e.flyer := by
  unfold Engine.latchUnits; dsimp only; split <;> rfl

@[simp] theorem Engine.unitIssue_flyer (e : Engine) (u : SharedUnit) (w f : Bool) (a n : Nat) : (e.unitIssue u w f a n).flyer = e.flyer := by
  unfold Engine.unitIssue; split <;> simp

@[simp] theorem Engine.unitWrite_flyer (e : Engine) (u : SharedUnit) (a : Nat) (bs : List Byte) : (e.unitWrite u a bs).flyer = e.flyer := by
  unfold Engine.unitWrite; split <;> simp

@[simp] theorem Engine.latchUnits_scrub (e : Engine) : e.latchUnits.scrub = e.scrub := by
  unfold Engine.latchUnits; dsimp only; split <;> rfl

@[simp] theorem Engine.unitIssue_scrub (e : Engine) (u : SharedUnit) (w f : Bool) (a n : Nat) : (e.unitIssue u w f a n).scrub = e.scrub := by
  unfold Engine.unitIssue; split <;> simp

@[simp] theorem Engine.unitWrite_scrub (e : Engine) (u : SharedUnit) (a : Nat) (bs : List Byte) : (e.unitWrite u a bs).scrub = e.scrub := by
  unfold Engine.unitWrite; split <;> simp

@[simp] theorem Engine.latchUnits_tap (e : Engine) : e.latchUnits.tap = e.tap := by
  unfold Engine.latchUnits; dsimp only; split <;> rfl

@[simp] theorem Engine.unitIssue_tap (e : Engine) (u : SharedUnit) (w f : Bool) (a n : Nat) : (e.unitIssue u w f a n).tap = e.tap := by
  unfold Engine.unitIssue; split <;> simp

@[simp] theorem Engine.unitWrite_tap (e : Engine) (u : SharedUnit) (a : Nat) (bs : List Byte) : (e.unitWrite u a bs).tap = e.tap := by
  unfold Engine.unitWrite; split <;> simp

@[simp] theorem Engine.latchUnits_events (e : Engine) : e.latchUnits.events = e.events := by
  unfold Engine.latchUnits; dsimp only; split <;> rfl

@[simp] theorem Engine.unitIssue_events (e : Engine) (u : SharedUnit) (w f : Bool) (a n : Nat) : (e.unitIssue u w f a n).events = e.events := by
  unfold Engine.unitIssue; split <;> simp

@[simp] theorem Engine.unitWrite_events (e : Engine) (u : SharedUnit) (a : Nat) (bs : List Byte) : (e.unitWrite u a bs).events = e.events := by
  unfold Engine.unitWrite; split <;> simp

@[simp] theorem Engine.latchUnits_tel (e : Engine) : e.latchUnits.tel = e.tel := by
  unfold Engine.latchUnits; dsimp only; split <;> rfl

@[simp] theorem Engine.unitIssue_tel (e : Engine) (u : SharedUnit) (w f : Bool) (a n : Nat) : (e.unitIssue u w f a n).tel = e.tel := by
  unfold Engine.unitIssue; split <;> simp

@[simp] theorem Engine.unitWrite_tel (e : Engine) (u : SharedUnit) (a : Nat) (bs : List Byte) : (e.unitWrite u a bs).tel = e.tel := by
  unfold Engine.unitWrite; split <;> simp

/-! ## Telemetry entries touch the telemetry writer, memory, its write slots and leaf port 0's accounts only -/

@[simp] theorem Engine.telPlace_now (e : Engine) (ty : Nat) (b : List Byte) (n : Nat) : (e.telPlace ty b n).now = e.now := by
  unfold Engine.telPlace; dsimp only; split <;> simp

@[simp] theorem Engine.telEntry_now (e : Engine) (ty : Nat) (b : List Byte) : (e.telEntry ty b).now = e.now := by
  unfold Engine.telEntry; dsimp only; (repeat' split) <;> simp

@[simp] theorem Engine.telPlace_freeCtr (e : Engine) (ty : Nat) (b : List Byte) (n : Nat) : (e.telPlace ty b n).freeCtr = e.freeCtr := by
  unfold Engine.telPlace; dsimp only; split <;> simp

@[simp] theorem Engine.telEntry_freeCtr (e : Engine) (ty : Nat) (b : List Byte) : (e.telEntry ty b).freeCtr = e.freeCtr := by
  unfold Engine.telEntry; dsimp only; (repeat' split) <;> simp

@[simp] theorem Engine.telPlace_power (e : Engine) (ty : Nat) (b : List Byte) (n : Nat) : (e.telPlace ty b n).power = e.power := by
  unfold Engine.telPlace; dsimp only; split <;> simp

@[simp] theorem Engine.telEntry_power (e : Engine) (ty : Nat) (b : List Byte) : (e.telEntry ty b).power = e.power := by
  unfold Engine.telEntry; dsimp only; (repeat' split) <;> simp

@[simp] theorem Engine.telPlace_glb (e : Engine) (ty : Nat) (b : List Byte) (n : Nat) : (e.telPlace ty b n).glb = e.glb := by
  unfold Engine.telPlace; dsimp only; split <;> simp

@[simp] theorem Engine.telEntry_glb (e : Engine) (ty : Nat) (b : List Byte) : (e.telEntry ty b).glb = e.glb := by
  unfold Engine.telEntry; dsimp only; (repeat' split) <;> simp

@[simp] theorem Engine.telPlace_spindles (e : Engine) (ty : Nat) (b : List Byte) (n : Nat) : (e.telPlace ty b n).spindles = e.spindles := by
  unfold Engine.telPlace; dsimp only; split <;> simp

@[simp] theorem Engine.telEntry_spindles (e : Engine) (ty : Nat) (b : List Byte) : (e.telEntry ty b).spindles = e.spindles := by
  unfold Engine.telEntry; dsimp only; (repeat' split) <;> simp

@[simp] theorem Engine.telPlace_creel (e : Engine) (ty : Nat) (b : List Byte) (n : Nat) : (e.telPlace ty b n).creel = e.creel := by
  unfold Engine.telPlace; dsimp only; split <;> simp

@[simp] theorem Engine.telEntry_creel (e : Engine) (ty : Nat) (b : List Byte) : (e.telEntry ty b).creel = e.creel := by
  unfold Engine.telEntry; dsimp only; (repeat' split) <;> simp

@[simp] theorem Engine.telPlace_knots (e : Engine) (ty : Nat) (b : List Byte) (n : Nat) : (e.telPlace ty b n).knots = e.knots := by
  unfold Engine.telPlace; dsimp only; split <;> simp

@[simp] theorem Engine.telEntry_knots (e : Engine) (ty : Nat) (b : List Byte) : (e.telEntry ty b).knots = e.knots := by
  unfold Engine.telEntry; dsimp only; (repeat' split) <;> simp

@[simp] theorem Engine.telPlace_doffer (e : Engine) (ty : Nat) (b : List Byte) (n : Nat) : (e.telPlace ty b n).doffer = e.doffer := by
  unfold Engine.telPlace; dsimp only; split <;> simp

@[simp] theorem Engine.telEntry_doffer (e : Engine) (ty : Nat) (b : List Byte) : (e.telEntry ty b).doffer = e.doffer := by
  unfold Engine.telEntry; dsimp only; (repeat' split) <;> simp

@[simp] theorem Engine.telPlace_ticks (e : Engine) (ty : Nat) (b : List Byte) (n : Nat) : (e.telPlace ty b n).ticks = e.ticks := by
  unfold Engine.telPlace; dsimp only; split <;> simp

@[simp] theorem Engine.telEntry_ticks (e : Engine) (ty : Nat) (b : List Byte) : (e.telEntry ty b).ticks = e.ticks := by
  unfold Engine.telEntry; dsimp only; (repeat' split) <;> simp

@[simp] theorem Engine.telPlace_cfg (e : Engine) (ty : Nat) (b : List Byte) (n : Nat) : (e.telPlace ty b n).cfg = e.cfg := by
  unfold Engine.telPlace; dsimp only; split <;> simp

@[simp] theorem Engine.telEntry_cfg (e : Engine) (ty : Nat) (b : List Byte) : (e.telEntry ty b).cfg = e.cfg := by
  unfold Engine.telEntry; dsimp only; (repeat' split) <;> simp

@[simp] theorem Engine.telPlace_activatedAt (e : Engine) (ty : Nat) (b : List Byte) (n : Nat) : (e.telPlace ty b n).activatedAt = e.activatedAt := by
  unfold Engine.telPlace; dsimp only; split <;> simp

@[simp] theorem Engine.telEntry_activatedAt (e : Engine) (ty : Nat) (b : List Byte) : (e.telEntry ty b).activatedAt = e.activatedAt := by
  unfold Engine.telEntry; dsimp only; (repeat' split) <;> simp

@[simp] theorem Engine.telPlace_shareFrom (e : Engine) (ty : Nat) (b : List Byte) (n : Nat) : (e.telPlace ty b n).shareFrom = e.shareFrom := by
  unfold Engine.telPlace; dsimp only; split <;> simp

@[simp] theorem Engine.telEntry_shareFrom (e : Engine) (ty : Nat) (b : List Byte) : (e.telEntry ty b).shareFrom = e.shareFrom := by
  unfold Engine.telEntry; dsimp only; (repeat' split) <;> simp

@[simp] theorem Engine.telPlace_selected (e : Engine) (ty : Nat) (b : List Byte) (n : Nat) : (e.telPlace ty b n).selected = e.selected := by
  unfold Engine.telPlace; dsimp only; split <;> simp

@[simp] theorem Engine.telEntry_selected (e : Engine) (ty : Nat) (b : List Byte) : (e.telEntry ty b).selected = e.selected := by
  unfold Engine.telEntry; dsimp only; (repeat' split) <;> simp

@[simp] theorem Engine.telPlace_partials (e : Engine) (ty : Nat) (b : List Byte) (n : Nat) : (e.telPlace ty b n).partials = e.partials := by
  unfold Engine.telPlace; dsimp only; split <;> simp

@[simp] theorem Engine.telEntry_partials (e : Engine) (ty : Nat) (b : List Byte) : (e.telEntry ty b).partials = e.partials := by
  unfold Engine.telEntry; dsimp only; (repeat' split) <;> simp

@[simp] theorem Engine.telPlace_sectionNext (e : Engine) (ty : Nat) (b : List Byte) (n : Nat) : (e.telPlace ty b n).sectionNext = e.sectionNext := by
  unfold Engine.telPlace; dsimp only; split <;> simp

@[simp] theorem Engine.telEntry_sectionNext (e : Engine) (ty : Nat) (b : List Byte) : (e.telEntry ty b).sectionNext = e.sectionNext := by
  unfold Engine.telEntry; dsimp only; (repeat' split) <;> simp

@[simp] theorem Engine.telPlace_act (e : Engine) (ty : Nat) (b : List Byte) (n : Nat) : (e.telPlace ty b n).act = e.act := by
  unfold Engine.telPlace; dsimp only; split <;> simp

@[simp] theorem Engine.telEntry_act (e : Engine) (ty : Nat) (b : List Byte) : (e.telEntry ty b).act = e.act := by
  unfold Engine.telEntry; dsimp only; (repeat' split) <;> simp

@[simp] theorem Engine.telPlace_tensors (e : Engine) (ty : Nat) (b : List Byte) (n : Nat) : (e.telPlace ty b n).tensors = e.tensors := by
  unfold Engine.telPlace; dsimp only; split <;> simp

@[simp] theorem Engine.telEntry_tensors (e : Engine) (ty : Nat) (b : List Byte) : (e.telEntry ty b).tensors = e.tensors := by
  unfold Engine.telEntry; dsimp only; (repeat' split) <;> simp

@[simp] theorem Engine.telPlace_placeReqs (e : Engine) (ty : Nat) (b : List Byte) (n : Nat) : (e.telPlace ty b n).placeReqs = e.placeReqs := by
  unfold Engine.telPlace; dsimp only; split <;> simp

@[simp] theorem Engine.telEntry_placeReqs (e : Engine) (ty : Nat) (b : List Byte) : (e.telEntry ty b).placeReqs = e.placeReqs := by
  unfold Engine.telEntry; dsimp only; (repeat' split) <;> simp

@[simp] theorem Engine.telPlace_bobbin (e : Engine) (ty : Nat) (b : List Byte) (n : Nat) : (e.telPlace ty b n).bobbin = e.bobbin := by
  unfold Engine.telPlace; dsimp only; split <;> simp

@[simp] theorem Engine.telEntry_bobbin (e : Engine) (ty : Nat) (b : List Byte) : (e.telEntry ty b).bobbin = e.bobbin := by
  unfold Engine.telEntry; dsimp only; (repeat' split) <;> simp

@[simp] theorem Engine.telPlace_distaff (e : Engine) (ty : Nat) (b : List Byte) (n : Nat) : (e.telPlace ty b n).distaff = e.distaff := by
  unfold Engine.telPlace; dsimp only; split <;> simp

@[simp] theorem Engine.telEntry_distaff (e : Engine) (ty : Nat) (b : List Byte) : (e.telEntry ty b).distaff = e.distaff := by
  unfold Engine.telEntry; dsimp only; (repeat' split) <;> simp

@[simp] theorem Engine.telPlace_flyer (e : Engine) (ty : Nat) (b : List Byte) (n : Nat) : (e.telPlace ty b n).flyer = e.flyer := by
  unfold Engine.telPlace; dsimp only; split <;> simp

@[simp] theorem Engine.telEntry_flyer (e : Engine) (ty : Nat) (b : List Byte) : (e.telEntry ty b).flyer = e.flyer := by
  unfold Engine.telEntry; dsimp only; (repeat' split) <;> simp

@[simp] theorem Engine.telPlace_scrub (e : Engine) (ty : Nat) (b : List Byte) (n : Nat) : (e.telPlace ty b n).scrub = e.scrub := by
  unfold Engine.telPlace; dsimp only; split <;> simp

@[simp] theorem Engine.telEntry_scrub (e : Engine) (ty : Nat) (b : List Byte) : (e.telEntry ty b).scrub = e.scrub := by
  unfold Engine.telEntry; dsimp only; (repeat' split) <;> simp

@[simp] theorem Engine.telPlace_tap (e : Engine) (ty : Nat) (b : List Byte) (n : Nat) : (e.telPlace ty b n).tap = e.tap := by
  unfold Engine.telPlace; dsimp only; split <;> simp

@[simp] theorem Engine.telEntry_tap (e : Engine) (ty : Nat) (b : List Byte) : (e.telEntry ty b).tap = e.tap := by
  unfold Engine.telEntry; dsimp only; (repeat' split) <;> simp

@[simp] theorem Engine.telPlace_events (e : Engine) (ty : Nat) (b : List Byte) (n : Nat) : (e.telPlace ty b n).events = e.events := by
  unfold Engine.telPlace; dsimp only; split <;> simp

@[simp] theorem Engine.telEntry_events (e : Engine) (ty : Nat) (b : List Byte) : (e.telEntry ty b).events = e.events := by
  unfold Engine.telEntry; dsimp only; (repeat' split) <;> simp

/-! ## A violation of a partner touches the PROTO_LOG ring and the counts of events (R435) -/

@[simp] theorem Engine.violation_now (e : Engine) (c q i : Nat) : (e.violation c q i).now = e.now := by
  unfold Engine.violation; (repeat' split) <;> rfl
@[simp] theorem Engine.violation_freeCtr (e : Engine) (c q i : Nat) : (e.violation c q i).freeCtr = e.freeCtr := by
  unfold Engine.violation; (repeat' split) <;> rfl
@[simp] theorem Engine.violation_power (e : Engine) (c q i : Nat) : (e.violation c q i).power = e.power := by
  unfold Engine.violation; (repeat' split) <;> rfl
@[simp] theorem Engine.violation_spindles (e : Engine) (c q i : Nat) : (e.violation c q i).spindles = e.spindles := by
  unfold Engine.violation; (repeat' split) <;> rfl
@[simp] theorem Engine.violation_creel (e : Engine) (c q i : Nat) : (e.violation c q i).creel = e.creel := by
  unfold Engine.violation; (repeat' split) <;> rfl
@[simp] theorem Engine.violation_knots (e : Engine) (c q i : Nat) : (e.violation c q i).knots = e.knots := by
  unfold Engine.violation; (repeat' split) <;> rfl
@[simp] theorem Engine.violation_doffer (e : Engine) (c q i : Nat) : (e.violation c q i).doffer = e.doffer := by
  unfold Engine.violation; (repeat' split) <;> rfl
@[simp] theorem Engine.violation_ticks (e : Engine) (c q i : Nat) : (e.violation c q i).ticks = e.ticks := by
  unfold Engine.violation; (repeat' split) <;> rfl
@[simp] theorem Engine.violation_cfg (e : Engine) (c q i : Nat) : (e.violation c q i).cfg = e.cfg := by
  unfold Engine.violation; (repeat' split) <;> rfl
@[simp] theorem Engine.violation_act (e : Engine) (c q i : Nat) : (e.violation c q i).act = e.act := by
  unfold Engine.violation; (repeat' split) <;> rfl
@[simp] theorem Engine.violation_tensors (e : Engine) (c q i : Nat) : (e.violation c q i).tensors = e.tensors := by
  unfold Engine.violation; (repeat' split) <;> rfl
@[simp] theorem Engine.violation_placeReqs (e : Engine) (c q i : Nat) : (e.violation c q i).placeReqs = e.placeReqs := by
  unfold Engine.violation; (repeat' split) <;> rfl
@[simp] theorem Engine.violation_mem (e : Engine) (c q i : Nat) : (e.violation c q i).mem = e.mem := by
  unfold Engine.violation; (repeat' split) <;> rfl
@[simp] theorem Engine.violation_bobbin (e : Engine) (c q i : Nat) : (e.violation c q i).bobbin = e.bobbin := by
  unfold Engine.violation; (repeat' split) <;> rfl
@[simp] theorem Engine.violation_distaff (e : Engine) (c q i : Nat) : (e.violation c q i).distaff = e.distaff := by
  unfold Engine.violation; (repeat' split) <;> rfl
@[simp] theorem Engine.violation_flyer (e : Engine) (c q i : Nat) : (e.violation c q i).flyer = e.flyer := by
  unfold Engine.violation; (repeat' split) <;> rfl
@[simp] theorem Engine.violation_scrub (e : Engine) (c q i : Nat) : (e.violation c q i).scrub = e.scrub := by
  unfold Engine.violation; (repeat' split) <;> rfl
@[simp] theorem Engine.violation_tel (e : Engine) (c q i : Nat) : (e.violation c q i).tel = e.tel := by
  unfold Engine.violation; (repeat' split) <;> rfl
@[simp] theorem Engine.violation_ports (e : Engine) (c q i : Nat) : (e.violation c q i).ports = e.ports := by
  unfold Engine.violation; (repeat' split) <;> rfl
@[simp] theorem Engine.violation_unitTxns (e : Engine) (c q i : Nat) : (e.violation c q i).unitTxns = e.unitTxns := by
  unfold Engine.violation; (repeat' split) <;> rfl
@[simp] theorem Engine.violation_tap (e : Engine) (c q i : Nat) : (e.violation c q i).tap = e.tap := by
  unfold Engine.violation; (repeat' split) <;> rfl

/-! ## The Distaff (R490 to R493) -/

theorem Distaff.store_full (d : Distaff) (r b : Nat) (bs : List Byte) (h : d.canStore = false) : d.store r b bs = d := by
  simp [Distaff.store, h]

@[simp] theorem State.storeKeys_pending (s : State) (f : Keys → Keys) : (s.storeKeys f).pending = s.pending := by
  unfold State.storeKeys; split <;> rfl

theorem State.storeKeys_keys (s : State) (f : Keys → Keys) :
    (s.storeKeys f).sec.keys = if s.eng.distaff.canStore then f s.sec.keys else s.sec.keys := by
  unfold State.storeKeys; split <;> rfl

@[simp] theorem State.storeKeys_eng (s : State) (f : Keys → Keys) : (s.storeKeys f).eng = s.eng.keysWritten := by
  unfold State.storeKeys; split <;> rfl

/-- What storing keys leaves of the security unit: all but the Keys region. -/
theorem State.storeKeys_sec (s : State) (f : Keys → Keys) : (s.storeKeys f).sec = { s.sec with keys := (s.storeKeys f).sec.keys } := by
  unfold State.storeKeys; split <;> rfl

/-! ## Wakes (R499) -/

@[simp] theorem mem_insertWake (d : WakeDomain) (now : Nat) (x : WakeDomain × Nat) (ws : List (WakeDomain × Nat)) :
    x ∈ insertWake d now ws ↔ x = (d, now) ∨ x ∈ ws := by
  induction ws with
  | nil => simp [insertWake]
  | cons w ws ih =>
    simp only [insertWake]
    split <;> simp_all [or_left_comm]

@[simp] theorem length_insertWake (d : WakeDomain) (now : Nat) (ws : List (WakeDomain × Nat)) : (insertWake d now ws).length = ws.length + 1 := by
  induction ws with
  | nil => rfl
  | cons w ws ih => simp only [insertWake]; split <;> simp_all

/-- A request changes the power state and the list of wakes alone. -/
theorem Engine.requestOne_spindles (e : Engine) (d : WakeDomain) (m : Sp) (h : d ≠ .spindle m) : (e.requestOne d).sp m = e.sp m := by
  unfold Engine.requestOne
  split
  · cases d with
    | bobbin => rfl
    | distaff => rfl
    | spindle n =>
      have : n ≠ m := fun hn => h (by rw [hn])
      simp [Engine.setPwr, Engine.modSp, Engine.sp, Fin.val_ne_of_ne this]
  · rfl

/-! ## Submitted frames (R411) -/

/-- A keyed command that does not reach its own unit leaves the state, and one that does is refused, counted, accepted goes on, finds no spare block, or waits its turn. -/
theorem State.keyed_cases (s : State) (c : Instr) (op : Nat) (act : State → State) :
    s.keyed c op act = s ∨ s.keyed c op act = s.keepAccess .apb c ∨ s.keyed c op act = act s ∨ (∃ r, s.keyed c op act = s.post r 0) ∨
      (∃ r, s.keyed c op act = s.countFailure r) ∨ s.keyed c op act = act s.frameAccepted ∨
      s.keyed c op act = (s.onSec fun c => { c with failRun := 0 }).postNoSpare := by
  unfold State.keyed
  split
  · exact .inl rfl
  · split
    · exact .inr (.inl rfl)
    · split
      · exact .inr (.inr (.inl rfl))
      · cases s.sec.check s.eng.fwRuns with
        | refused r => exact .inr (.inr (.inr (.inl ⟨r, rfl⟩)))
        | failed r => exact .inr (.inr (.inr (.inr (.inl ⟨r, rfl⟩))))
        | passed =>
          dsimp only
          split
          · exact .inr (.inr (.inr (.inr (.inr (.inl rfl)))))
          · exact .inr (.inr (.inr (.inr (.inr (.inr rfl)))))

/-! ## SRAM rows, register accesses that wait, and links (R447, R482, R483, R508) -/

theorem Engine.readSram_clean (e : Engine) (a : Addr) (n : Nat) (h : e.scrub.clean = true) : e.readSram a n .ok = (e, false) := by
  simp [Engine.readSram, h]

theorem Engine.writeAt_clean (e : Engine) (a : Addr) (bs : List Byte) (h : e.scrub.clean = true) : e.writeAt a bs = e.putAll a bs := by
  simp [Engine.writeAt, h]

/-- A foreground read fails exactly where one of its rows cannot be read. -/
theorem Engine.readRows_fails (e : Engine) (rows : List RowAt) (found : Ecc) (ue : Bool) :
    (e.readRows rows found ue).2 = (e.scrub.unreadable rows found).isSome := by
  unfold Engine.readRows; split <;> simp [*]

/-- An access is carried out, waits behind others, or finds no register port that answers. -/
theorem State.access_cases (s : State) (p : RegPath) (c : Instr) (act : State → State) :
    s.access p c act = act (s.onEng fun e => e.answer p false) ∨ s.access p c act = s.keepAccess p c ∨ s.access p c act = s := by
  unfold State.access; repeat' split
  all_goals simp

theorem State.keepAccess_sec (s : State) (p : RegPath) (c : Instr) : (s.keepAccess p c).sec = s.sec := rfl
theorem State.keepAccess_pending (s : State) (p : RegPath) (c : Instr) : (s.keepAccess p c).pending = s.pending := rfl

theorem State.serveWaiting_none (k : Nat) (s : State) (h : s.eng.glb.waiting = []) : s.serveWaiting k = s := by
  cases k with
  | zero => rfl
  | succ k => simp only [State.serveWaiting]; split <;> simp_all

theorem State.serveWaiting_stalled (k : Nat) (s : State) (h : s.eng.glb.stall.isSome = true) : s.serveWaiting k = s := by
  cases k with
  | zero => rfl
  | succ k => simp only [State.serveWaiting]; split <;> simp_all

theorem Engine.markBusy_sp (e : Engine) (n : Sp) :
    e.markBusy.sp n = { e.sp n with
      quietFrom := if e.idleSpindle n then (e.sp n).quietFrom else e.now + 1
      drainedFrom := if (e.sp n).drained then (e.sp n).drainedFrom else e.now + 1 } := by
  simp [Engine.markBusy, Engine.sp]; rfl

theorem Engine.raiseLinks_sp (e : Engine) (n : Sp) :
    e.raiseLinks.sp n = { e.sp n with link := { (e.sp n).link with rst := true } } := by
  simp [Engine.raiseLinks, Engine.sp]

/-- While a warm reset quiesces the engine, no transaction takes a slot (R508 step 3). -/
theorem Engine.pump_quiescing (e : Engine) (n : Sp) (h : e.quiescing = true) : e.pump n = e := by
  simp [Engine.pump, h]

end Sys2Proof.Machine
end

