-- ==== Sys2Proof/Laws/Tab.lean ====
section
/-! SUPPORT. Laws of the sparse tables: what is read after a write, and that every memory operation
keeps the canonical form. -/

namespace Sys2Proof.Machine

/-- A bound below a lower bound is a lower bound. -/
theorem Tab.okFrom_none [DecidableEq α] {d : α} {l : Option Nat} {t : Tab α} (h : Tab.okFrom d l t = true) :
    Tab.okFrom d none t = true := by
  cases t with
  | nil => rfl
  | cons p t => simp only [Tab.okFrom, Bool.and_eq_true] at h ⊢; exact ⟨⟨trivial, h.1.2⟩, h.2⟩

/-- A lower bound may be lowered. -/
theorem Tab.okFrom_weaken [DecidableEq α] {d : α} {l m : Nat} {t : Tab α} (hl : m ≤ l) (h : Tab.okFrom d (some l) t = true) :
    Tab.okFrom d (some m) t = true := by
  cases t with
  | nil => rfl
  | cons p t =>
    simp only [Tab.okFrom, Bool.and_eq_true, decide_eq_true_eq] at h ⊢
    exact ⟨⟨by omega, h.1.2⟩, h.2⟩

/-- A canonical table takes a listed value. -/
theorem Tab.okFrom_ins [DecidableEq α] {d v : α} (hv : v ≠ d) (k : Nat) : ∀ (t : Tab α) (l : Option Nat), (∀ m, l = some m → m < k) →
    Tab.okFrom d l t = true → Tab.okFrom d l (Tab.ins t k v) = true := by
  intro t
  induction t with
  | nil =>
    intro l hl _
    cases l with
    | none => simp [Tab.ins, Tab.okFrom, hv]
    | some m => simp [Tab.ins, Tab.okFrom, hv, hl m rfl]
  | cons p t ih =>
    intro l hl h
    obtain ⟨k', v'⟩ := p
    simp only [Tab.okFrom, Bool.and_eq_true, decide_eq_true_eq] at h
    simp only [Tab.ins]
    split
    · rename_i hk
      simp only [Tab.okFrom, Bool.and_eq_true, decide_eq_true_eq]
      refine ⟨⟨?_, hv⟩, ⟨hk, h.1.2⟩, h.2⟩
      cases l with
      | none => rfl
      | some m => simpa using hl m rfl
    · split
      · rename_i _ hk
        subst hk
        simp only [Tab.okFrom, Bool.and_eq_true, decide_eq_true_eq]
        exact ⟨⟨h.1.1, hv⟩, h.2⟩
      · rename_i h1 h2
        simp only [Tab.okFrom, Bool.and_eq_true, decide_eq_true_eq]
        exact ⟨h.1, ih (some k') (by intro m hm; cases hm; omega) h.2⟩

/-- A canonical table gives up a key. -/
theorem Tab.okFrom_del [DecidableEq α] {d : α} (k : Nat) : ∀ (t : Tab α) (l : Option Nat),
    Tab.okFrom d l t = true → Tab.okFrom d l (Tab.del t k) = true := by
  intro t
  induction t with
  | nil => intro l h; simpa [Tab.del] using h
  | cons p t ih =>
    intro l h
    obtain ⟨k', v'⟩ := p
    simp only [Tab.del]
    split
    · exact h
    · simp only [Tab.okFrom, Bool.and_eq_true, decide_eq_true_eq] at h
      split
      · cases l with
        | none => exact Tab.okFrom_none h.2
        | some m => exact Tab.okFrom_weaken (by simpa using Nat.le_of_lt (by simpa using h.1.1)) h.2
      · simp only [Tab.okFrom, Bool.and_eq_true, decide_eq_true_eq]
        exact ⟨h.1, ih _ h.2⟩

/-- Setting a value keeps the canonical form. -/
theorem Tab.wf_put [DecidableEq α] {d : α} {t : Tab α} (k : Nat) (v : α) (h : Tab.wf d t = true) : Tab.wf d (Tab.put t d k v) = true := by
  unfold Tab.wf Tab.put at *
  split
  · exact Tab.okFrom_del k t none h
  · rename_i hv
    exact Tab.okFrom_ins hv k t none (by intro m hm; cases hm) h

/-- Writing bytes keeps the canonical form. -/
theorem wf_writeBytes (bs : List Byte) : ∀ (m : Tab Byte) (a : Nat), Tab.wf 0 m = true → Tab.wf 0 (writeBytes m a bs) = true := by
  induction bs with
  | nil => intro m a h; exact h
  | cons b bs ih => intro m a h; exact ih _ _ (Tab.wf_put a b h)

/-- A listed value is read back. -/
theorem Tab.get?_ins (t : Tab α) (k : Nat) (v : α) : Tab.get? (Tab.ins t k v) k = some v := by
  induction t with
  | nil => simp [Tab.ins, Tab.get?]
  | cons p t ih =>
    obtain ⟨k', v'⟩ := p
    simp only [Tab.ins]
    split
    · simp [Tab.get?]
    · split
      · simp [Tab.get?]
      · rename_i h1 h2
        have : k' ≠ k := fun hh => h2 hh.symm
        simp [Tab.get?, this, ih]

/-- Listing a value leaves every other key. -/
theorem Tab.get?_ins_ne (t : Tab α) {k q : Nat} (v : α) (hq : q ≠ k) : Tab.get? (Tab.ins t k v) q = Tab.get? t q := by
  have hk : k ≠ q := fun h => hq h.symm
  induction t with
  | nil => simp [Tab.ins, Tab.get?, hk]
  | cons p t ih =>
    obtain ⟨k', v'⟩ := p
    simp only [Tab.ins]
    split
    · simp [Tab.get?, hk]
    · split
      · rename_i _ h2
        subst h2
        simp [Tab.get?, hk]
      · simp [Tab.get?, ih]

/-- Keys below the lower bound are not listed. -/
theorem Tab.get?_below [DecidableEq α] {d : α} : ∀ (t : Tab α) {l q : Nat}, Tab.okFrom d (some l) t = true → q ≤ l → Tab.get? t q = none := by
  intro t
  induction t with
  | nil => intros; rfl
  | cons p t ih =>
    intro l q h hq
    obtain ⟨k', v'⟩ := p
    simp only [Tab.okFrom, Bool.and_eq_true, decide_eq_true_eq] at h
    have : k' ≠ q := by omega
    simp only [Tab.get?, this, if_false]
    exact ih h.2 (by omega)

/-- Taking out a key of a canonical table unlists it. -/
theorem Tab.get?_del [DecidableEq α] {d : α} (k : Nat) : ∀ (t : Tab α) (l : Option Nat), Tab.okFrom d l t = true → Tab.get? (Tab.del t k) k = none := by
  intro t
  induction t with
  | nil => intros; rfl
  | cons p t ih =>
    intro l h
    obtain ⟨k', v'⟩ := p
    simp only [Tab.okFrom, Bool.and_eq_true] at h
    simp only [Tab.del]
    split
    · rename_i hk
      have : k' ≠ k := by omega
      simp only [Tab.get?, this, if_false]
      exact Tab.get?_below t h.2 (by omega)
    · split
      · rename_i _ hk
        exact Tab.get?_below t h.2 (by omega)
      · rename_i _ hk
        have : k' ≠ k := fun hh => hk hh.symm
        simp only [Tab.get?, this, if_false]
        exact ih _ h.2

/-- Taking out a key leaves every other key. -/
theorem Tab.get?_del_ne (t : Tab α) {k q : Nat} (hq : q ≠ k) : Tab.get? (Tab.del t k) q = Tab.get? t q := by
  induction t with
  | nil => rfl
  | cons p t ih =>
    obtain ⟨k', v'⟩ := p
    simp only [Tab.del]
    split
    · rfl
    · split
      · rename_i _ hk
        have : k' ≠ q := by omega
        simp [Tab.get?, this]
      · simp [Tab.get?, ih]

/-- A value that was set in a canonical table is read back. -/
theorem Tab.getD_put [DecidableEq α] {d : α} {t : Tab α} (h : Tab.wf d t = true) (k : Nat) (v : α) : Tab.getD (Tab.put t d k v) k d = v := by
  unfold Tab.getD Tab.put
  split
  · rename_i hv
    rw [Tab.get?_del k t none h, hv]; rfl
  · rw [Tab.get?_ins]; rfl

/-- Setting a value leaves every other key. -/
theorem Tab.getD_put_ne [DecidableEq α] {d : α} (t : Tab α) {k q : Nat} (hq : q ≠ k) (v e : α) :
    Tab.getD (Tab.put t d k v) q e = Tab.getD t q e := by
  unfold Tab.getD Tab.put
  split
  · rw [Tab.get?_del_ne t hq]
  · rw [Tab.get?_ins_ne t v hq]

/-- A byte outside the written range reads as before. -/
theorem readByte_writeBytes_out (bs : List Byte) : ∀ (m : Tab Byte) (a q : Nat), (q < a ∨ a + bs.length ≤ q) →
    readByte (writeBytes m a bs) q = readByte m q := by
  induction bs with
  | nil => intros; rfl
  | cons b bs ih =>
    intro m a q hq
    simp only [List.length_cons] at hq
    have hne : q ≠ a := by omega
    rw [writeBytes, ih _ _ _ (by omega)]
    exact Tab.getD_put_ne m hne b 0

/-- A byte inside the written range reads as written. -/
theorem readByte_writeBytes_in (bs : List Byte) : ∀ (m : Tab Byte) (a i : Nat) (hi : i < bs.length), Tab.wf 0 m = true →
    readByte (writeBytes m a bs) (a + i) = bs[i] := by
  induction bs with
  | nil => intro m a i hi; simp at hi
  | cons b bs ih =>
    intro m a i hi h
    cases i with
    | zero =>
      rw [writeBytes, readByte_writeBytes_out _ _ _ _ (by omega)]
      exact Tab.getD_put h a b
    | succ i =>
      have := ih (Tab.put m 0 a b) (a + 1) i (by simpa using hi) (Tab.wf_put a b h)
      rw [show a + (i + 1) = a + 1 + i by omega]
      simpa [writeBytes] using this

/-- A store kept as one run is canonical after any write. -/
theorem trimmed_trimZeros (bs : List Byte) : trimmed (trimZeros bs) = true := by
  have h := List.head?_dropWhile_not (fun b : Byte => b == 0) bs.reverse
  unfold trimmed trimZeros
  rw [List.getLast?_reverse]
  split at h <;> rename_i hd <;> rw [hd] <;> simp_all

/-- Writing a region of the Distaff keeps the canonical form of all three. -/
theorem Distaff.setRegion_trimmed (d : Distaff) (r : Nat) (bs : List Byte)
    (h : (trimmed d.fw && trimmed d.imgA && trimmed d.imgB) = true) :
    (trimmed (d.setRegion r bs).fw && trimmed (d.setRegion r bs).imgA && trimmed (d.setRegion r bs).imgB) = true := by
  unfold Distaff.setRegion
  split
  · simp_all [trimmed_trimZeros]
  · split <;> simp_all [trimmed_trimZeros]

/-- Memory after reset is canonical. -/
theorem Memory.wf_reset : Memory.wf State.reset = true := by decide

end Sys2Proof.Machine
end

