-- ==== Sys2Proof/WellFormed.lean ====
section
/-! DEFINITION. What a command's operands must satisfy to be a command that a partner, the chip
or a unit can send: the ranges of the manual's numbers.  `exec` itself is total on every
command. -/

namespace Sys2Proof

/-- Why a command is no command of this engine. -/
inductive WfError where
  /-- A queue number of 4,096 or more (R294). -/
  | queueRange
  /-- A tensor number of 4,096 or more (R273). -/
  | tensorRange
  /-- An offset outside the 4 KiB aperture of a queue (R303). -/
  | offsetRange
  /-- An AxSIZE beyond the 64-byte data bus, or a burst of no beat or of more than 256 (R421). -/
  | burstShape
  /-- More bytes than the burst's beats carry (R421). -/
  | byteCount
  /-- More than 64 bytes in a read response (R422). -/
  | responseSize
  /-- A back word that is not of the 32 bytes of BACK_DATA (R430). -/
  | backWordSize
  /-- A job place beyond the 8 started jobs of a spindle (R358). -/
  | jobPlace
  /-- A row outside its SRAM (R483). -/
  | rowRange
  /-- A pushed image longer than its header can state: 64 bytes and FRAME_LEN of 32 bits (R379). -/
  | copySize
deriving DecidableEq, Repr

/-- The first broken check among the given ones. -/
def firstError : List (Bool × WfError) → Option WfError
  | [] => none
  | (ok, e) :: rest => if ok then firstError rest else some e

/-- Checks of a write burst into the queue window. -/
def portWriteChecks (w : PortWrite) : List (Bool × WfError) :=
  [(w.queue < 4096, .queueRange), (w.offset < 4096, .offsetRange),
   (w.size ≤ 6 && 1 ≤ w.beats && w.beats ≤ 256, .burstShape),
   (w.bytes.length ≤ w.beats * 2 ^ w.size, .byteCount)]

/-- Checks of a row of a patrolled SRAM. -/
def sramRowChecks : SramRow → List (Bool × WfError)
  | .spindleStore _ row => [(row < 5632, .rowRange)]
  | .bobbin _ row => [(row < 8192, .rowRange)]
  | .cellData c | .cellLink c => [(c < 32768, .rowRange)]
  | .whorl _ row => [(row < 1024, .rowRange)]
  | .hankHash _ row => [(row < 4096, .rowRange)]
  | .knot k => [(k < 65536, .rowRange)]
  | .flyer row => [(row < 16384, .rowRange)]

/-- Checks of a read burst of the queue window. -/
def portReadChecks (r : PortRead) : List (Bool × WfError) :=
  [(decide (r.queue < 4096), .queueRange), (decide (r.offset < 4096), .offsetRange),
   (decide (r.size ≤ 6 ∧ 1 ≤ r.beats ∧ r.beats ≤ 256), .burstShape)]

/-- Check of the place of a started job: a spindle runs at most 8 jobs (R358). -/
def jobChecks (j : Nat) : List (Bool × WfError) := [(decide (j < 8), .jobPlace)]

/-- The checks that a command's operands must pass, in order. -/
def Instr.checks : Instr → List (Bool × WfError)
  | .coldReset => []
  | .warmReset _ => []
  | .warmQuiesceEnd => []
  | .startDistaffWoken => []
  | .startMapRebuilt => []
  | .startKeysLoaded => []
  | .firmwareMeasured _ => []
  | .recoveryLoadDone => []
  | .imageSelected _ => []
  | .startImageApplied => []
  | .spindleWakeRequest _ => []
  | .wakeStart => []
  | .wakeComplete _ => []
  | .spindlePowerOff _ => []
  | .distaffPowerOff => []
  | .governorInterval _ _ _ => []
  | .spreadSweepStart => []
  | .scrubVisit row _ _ => sramRowChecks row
  | .calibrationFold => []
  | .distaffBlockWriteDone _ => []
  | .telemetrySample => []
  | .tickArrive _ => []
  | .syntheticTick _ => []
  | .maxGapExpiry _ => []
  | .closeExpiry _ => []
  | .budgetExpiry _ => []
  | .shareWindowEnd => []
  | .switchPointReached _ => []
  | .contextSaveDone _ _ => []
  | .jobResume _ => []
  | .contextRestoreDone _ _ => []
  | .jobStart _ => []
  | .workClaimGrant _ => []
  | .completionPost _ j _ _ => jobChecks j
  | .dofferAccept => []
  | .recordStepsBegin => []
  | .foldHeaderReadDone _ data => [(decide (data.length ≤ 64), .responseSize)]
  | .foldDestAck _ => []
  | .knotBankApply _ _ => []
  | .drainLimitExpiry _ => []
  | .enableWrite _ _ => []
  | .hankEnWrite _ _ => []
  | .plyEnWrite _ _ => []
  | .ringEnWrite _ _ => []
  | .spnAbortWrite _ _ => []
  | .kntCountWrite _ _ => []
  | .kntThreshWrite _ _ => []
  | .kntAddWrite _ _ => []
  | .dofRingConfigWrite _ _ => []
  | .dofRingTailWrite _ => []
  | .glbEvtAckWrite _ => []
  | .snapshotWrite _ _ _ => []
  | .snapshotCaptureDone => []
  | .aliasWrite _ _ => []
  | .tckPinPolWrite _ => []
  | .telRingConfigWrite _ _ => []
  | .telRingTailWrite _ => []
  | .registerWrite _ _ _ _ => []
  | .registerStallLimit => []
  | .tvVote => []
  | .secAttRequest => []
  | .attestReportReady => []
  | .narrowPush _ _ _ => []
  | .narrowEnd => []
  | .narrowAbort => []
  | .narrowPop _ => []
  | .imageActivate _ copy => [(decide (copy.length < 64 + 2 ^ 32), .copySize)]
  | .imageStoreDone => []
  | .rebind => []
  | .keyRoll => []
  | .testUnlock => []
  | .counterReseed => []
  | .scrubPolicy => []
  | .rebindDrainEnd => []
  | .bypass => []
  | .idcode => []
  | .wsBypass => []
  | .wsExtest => []
  | .wsIntest => []
  | .engDebug _ => []
  | .engMbist => []
  | .engScan => []
  | .portQueueWriteBody w => portWriteChecks w
  | .portQueueWriteEnd w => portWriteChecks w
  | .portQueueWriteAbort w => portWriteChecks w
  | .portQueueRead r _ => portReadChecks r
  | .spindleQueueWrite _ j => jobChecks j
  | .flyerQueueWrite q _ _ => [(decide (q < 4096), .queueRange)]
  | .spindleCellRead _ j _ => jobChecks j
  | .cellGrant => []
  | .cellWaitExpiry q => [(decide (q < 4096), .queueRange)]
  | .staleTimerExpiry q => [(decide (q < 4096), .queueRange)]
  | .leafReadResponse _ _ _ _ _ data => [(decide (data.length ≤ 64), .responseSize)]
  | .leafWriteResponse _ _ _ _ => []
  | .axiTimeout _ _ => []
  | .fwdCreditGrant _ => []
  | .flnkRstEnd _ => []
  | .feedWordSend _ j _ => jobChecks j
  | .backWordArrive _ _ _ data => [(decide (data.length = 32), .backWordSize)]
  | .streamHeaderArrive _ j _ _ => jobChecks j
  | .tileEntryArrive _ j _ _ => jobChecks j
  | .streamSetupDone _ j _ => jobChecks j
  | .tilePayloadArrive _ j _ _ _ => jobChecks j
  | .whorlBankFilled _ j => jobChecks j
  | .plyBankReadDone _ j _ _ _ => jobChecks j
  | .accumulatorDrain _ j => jobChecks j
  | .carderSourceRead _ j _ => jobChecks j
  | .scaleChosen _ j => jobChecks j
  | .drafterSourceRead _ j _ => jobChecks j
  | .streamHeaderWriteAck _ j => jobChecks j
  | .groupSlotWriteAck _ j => jobChecks j
  | .groupWaitEnd _ j => jobChecks j
  | .stepSetCommit _ _ => []
  | .searchDone _ _ => []
  | .mergeSegmentDone _ _ => []
  | .sortPassDone _ j _ => jobChecks j
  | .laneStealRequest _ _ => []
  | .laneStealDecide _ _ => []
  | .laneStealAnswer _ _ => []
  | .laneStealRetry _ _ => []
  | .ringStealRequest _ => []
  | .ringStealAnswer _ => []
  | .ringStealRetry _ => []
  | .ringRecordWriteAck _ => []
  | .abandonNotice _ => []
  | .partialReduce _ j _ => jobChecks j
  | .hankSideGrant _ _ _ => []
  | .hankMatchDone _ m => jobChecks m.j
  | .hankBuildDone _ j => jobChecks j
  | .hankEmitDone _ j => jobChecks j
  | .hankDecodeSetupDone _ j => jobChecks j
  | .hankBlockDecoded _ j => jobChecks j
  | .haloSlotWaitEnd _ j _ => jobChecks j
  | .halfPublishAck _ j => jobChecks j
  | .haloReadyWaitEnd _ j _ => jobChecks j
  | .boxListHeaderArrive _ j => jobChecks j
  | .placementDecision => []
  | .stagedCopyDone t => [(decide (t < 4096), .tensorRange)]
  | .tensorFree t => [(decide (t < 4096), .tensorRange)]
  | .translationMissFill _ t => [(decide (t < 4096), .tensorRange)]
  | .supplyRemoved => []
  | .warmResetRelease _ => []
  | .flyerCellRead _ => []
  | .unlistedOpcodeSubmit => []

/-- The first check that a command fails, if any. -/
def Instr.error? (i : Instr) : Option WfError := firstError i.checks

/-- The command's operands are in range. -/
def Instr.wellFormed (i : Instr) : Bool := i.error?.isNone

end Sys2Proof
end

