-- ==== Sys2Proof/Tests/Slice0.lean ====
section
/-! SUPPORT. Small tests: an ill-formed command for each check of `WellFormed`, witnesses that meet the
hypotheses of each statement, and single steps whose results were worked out from the manual by hand. -/

open Sys2Proof Sys2Proof.Machine

namespace Sys2Proof.Tests

set_option Elab.async false

/-! ## States that the tests start from -/

/-- An engine in service: the start sequence is over, firmware runs, and an image without entries is bound. -/
def running (f : Engine → Engine) : State :=
  State.reset.onEng fun e => f { e with
    now := 2000000, cfg := some {}
    power := { e.power with phase := .running, regPort := true, wakes := [], bobbin := .on }
    flyer := { e.flyer with entry := some 0 } }

/-- The engine in the given phase of reset and start. -/
def inPhase (p : Phase) : State := State.reset.onEng fun e => { e with power := { e.power with phase := p, regPort := true } }

/-- The same with the given configuration bound. -/
def withCfg (c : Cfg) (f : Engine → Engine) : State := running fun e => f { e with cfg := some c }

/-- What a command's outcome must satisfy: it answers a next state with `p`. -/
def ends (o : Host.Outcome State Fault Refusal) (p : State → Bool) : Bool :=
  match o with
  | .next t => p t
  | _ => false

/-! ## Ill-formed commands: one for each check -/

def someWrite : PortWrite := ⟨0, 4095, 4095, .incr, 6, 1, false, List.replicate 64 0, 0⟩

theorem test_wf_limits : (Instr.portQueueWriteBody someWrite).wellFormed = true ∧ (Instr.cellWaitExpiry 4095).wellFormed = true ∧
    (Instr.stagedCopyDone 4095).wellFormed = true := by decide

theorem test_wf_queue : (Instr.staleTimerExpiry 4096).error? = some .queueRange := by decide
theorem test_wf_tensor : (Instr.tensorFree 4096).error? = some .tensorRange := by decide
theorem test_wf_offset : (Instr.portQueueWriteEnd { someWrite with offset := 4096 }).error? = some .offsetRange := by decide
theorem test_wf_burst : (Instr.portQueueRead ⟨0, 0, 0, .incr, 7, 1, false, 0⟩ .ok).error? = some .burstShape := by decide
theorem test_wf_bytes : (Instr.portQueueWriteBody { someWrite with size := 2 }).error? = some .byteCount := by decide
theorem test_wf_response : (Instr.foldHeaderReadDone .okay (List.replicate 65 0)).error? = some .responseSize := by decide
theorem test_wf_back_word : (Instr.backWordArrive 0 0 4 [0, 0, 0, 0]).error? = some .backWordSize := by decide
theorem test_wf_job : (Instr.completionPost 0 8 0 0).error? = some .jobPlace := by decide
theorem test_wf_row : (Instr.scrubVisit (.spindleStore 0 5632) .ok false).error? = some .rowRange := by decide
theorem test_wf_copy : Instr.checks (.imageActivate .okay []) = [(true, .copySize)] ∧ ¬ (64 + 2 ^ 32 < 64 + 2 ^ 32) := by decide

/-! ## Critical commands and the whole machine -/

/-- The zero key, as the Keys region reads at reset. -/
def key0 : List Byte := List.replicate 32 0

/-- The first 8 bytes of a CMAC under the zero key, spelled element by element. -/
def mac8 (m : List Byte) : List Byte := (List.range 8).map fun i => (cmac key0 m).getD i 0

theorem aesEnc_length (m : List Byte) : (aesEnc key0 m).length = 16 := by
  have h : ((aesKeys key0).getD 14 []).length = 16 := by decide +kernel
  rw [List.getD_eq_getElem?_getD] at h
  simp [aesEnc, xorBytes, aesShift, h]

theorem mac8_eq (m : List Byte) : mac8 m = (cmac key0 m).take 8 := by
  have h : (cmac key0 m).length = 16 := aesEnc_length _
  unfold mac8
  apply List.ext_getElem
  · simp [h]
  · intro i h1 h2
    simp at h1
    simp [List.getD, h, show i < 16 by omega]

theorem slice_left (xs ys : List Byte) : slice (xs ++ ys) 0 xs.length = xs := by simp [slice]

theorem slice_right (xs ys : List Byte) : slice (xs ++ ys) xs.length ys.length = ys := by simp [slice]

/-- A frame with its MAC under the zero key passes check 4. -/
theorem mac_ok (body : List Byte) (h : fieldAt (body ++ mac8 body) 2 2 = body.length + 8) :
    frameMacOk key0 (body ++ mac8 body) = true := by
  have hr : slice (body ++ mac8 body) body.length 8 = mac8 body := by simpa [mac8] using slice_right body (mac8 body)
  simp only [frameMacOk, h, Nat.add_sub_cancel, slice_left, hr, ← mac8_eq, beq_self_eq_true]

/-- An engine in service that handles this frame, followed by its MAC under the zero key. -/
def keyed (body : List Byte) : State :=
  (running id).onSec fun c => { c with busy := true, cmd := body ++ mac8 body }

/-- Such a frame passes checks 1 to 5 when its fields do. -/
theorem keyed_accepted (op : Nat) (body : List Byte) (h : fieldAt (body ++ mac8 body) 2 2 = body.length + 8)
    (hop : cmdOpcode (body ++ mac8 body) = op) (hok : frameOk (body ++ mac8 body) = true) (hc : ¬ cmdCounter (body ++ mac8 body) ≤ 0) :
    Safety.accepted (keyed body) op := by
  have hf : (keyed body).sec.frame = body ++ mac8 body := rfl
  have hm := mac_ok body h
  refine ⟨⟨rfl, .inl rfl, rfl, by rw [hf]; exact hop, rfl⟩, ?_⟩
  have hk : (keyed body).sec.keys.cmd = key0 := rfl
  have hn : (keyed body).sec.keys.counter.toNat = 0 := rfl
  have hl : (keyed body).sec.locked = false := rfl
  have hd : (keyed body).sec.cleared = false := rfl
  have he : (keyed body).eng.fwRuns = true := rfl
  simp only [Security.check, hf, hk, hn, hl, hd, he, hok, hm, hc]
  rfl

/-- A frame without its MAC: OPCODE, LENGTH, COUNTER 1 and payload. -/
def frameBody (op len : Nat) (payload : List Byte) : List Byte := leBytes 2 op ++ leBytes 2 len ++ leBytes 4 0 ++ leBytes 8 1 ++ payload

/-- TEST_UNLOCK of SCAN: the frame that most tests use. -/
def unlockScan : List Byte := frameBody 4 32 [4, 0, 0, 0, 0, 0, 0, 0]

theorem test_hyps_StepTakesFront : ({ State.reset with pending := [.tvVote, .bypass] } : State).pending = .tvVote :: [.bypass] := rfl
theorem test_hyps_IdleStep : State.reset.pending = [] ∧ State.reset.eng.power.phase ≠ .unsupplied ∧
    (∀ t : Inp, (State.reset.eng.tick t).due = false ∧ (State.reset.eng.tick t).lostDue = false ∧ (State.reset.eng.tick t).closeDue = false ∧
      (State.reset.eng.tick t).budgetDue = false) ∧ State.reset.sec.busy = false ∧ State.reset.eng.glb.waiting = [] ∧
    (inPhase .unsupplied).pending = [] ∧ (inPhase .unsupplied).eng.power.phase = .unsupplied := by decide
theorem test_hyps_LockoutStaysSound : Safety.lockoutSound State.reset ∧ ∃ t, step State.reset = .next t :=
  ⟨⟨by decide, by decide⟩, _, rfl⟩
theorem test_hyps_StoresStaySound : Safety.storesSound State.reset ∧ ∃ t, step State.reset = .next t :=
  ⟨⟨by decide, by decide, by decide⟩, _, rfl⟩
theorem test_hyps_OtherCommandsLeaveSecurity : Safety.actsOnSecurity .tvVote = false := rfl

theorem test_hyps_AttestationKeyAndLockStay :
    Safety.resetsSecurity .keyRoll = false ∧ (State.reset.onSec fun c => { c with locked := true, failRun := 3 }).sec.locked = true := ⟨rfl, rfl⟩

/-- The frame of another body in the place of a keyed state's frame. -/
def handling (f : List Byte) (g : Security → Security) : State := (running id).onSec fun c => g { c with busy := true, cmd := f }

theorem test_hyps_FramesAreRefused :
    (keyedOpcode .testUnlock = some 4 ∧ Safety.submitted (handling unlockScan fun c => { c with locked := true }) 4) ∧
    (Safety.submitted ((handling unlockScan id).onEng fun e => { e with flyer := {} }) 4) ∧
    (Safety.submitted (handling unlockScan fun c => { c with cleared := true }) 4) := by
  refine ⟨⟨rfl, ?_⟩, ?_, ?_⟩ <;> exact ⟨rfl, .inl rfl, rfl, by decide⟩

/-- Check 3 fails on LENGTH, check 4 on a MAC of zeros, check 5 on COUNTER 1 beside a stored COUNTER of 1. -/
theorem test_hyps_FramesAreCounted :
    (frameOk (leBytes 2 4) = false ∧ Safety.submitted (handling (leBytes 2 4) id) 4) ∧
    (frameOk (unlockScan ++ List.replicate 8 0) = true ∧ frameMacOk key0 (unlockScan ++ List.replicate 8 0) = false) ∧
    (frameOk (unlockScan ++ mac8 unlockScan) = true ∧ frameMacOk key0 (unlockScan ++ mac8 unlockScan) = true ∧
      cmdCounter (unlockScan ++ mac8 unlockScan) ≤ (1 : BitVec 64).toNat) := by
  refine ⟨⟨by decide, rfl, .inl rfl, rfl, by decide⟩, ⟨by decide, by decide +kernel⟩, rfl, mac_ok _ rfl, by decide⟩

/-- A KEY_ROLL of the CMD key, with a WRAPPED of zeros. -/
def rollFrame : List Byte := frameBody 3 72 (List.replicate 48 0)

theorem test_hyps_AcceptedFrame : Safety.accepted (keyed unlockScan) 4 ∧ (keyed unlockScan).eng.flyerFree = true :=
  ⟨keyed_accepted 4 _ rfl rfl rfl (by decide), by decide⟩
/-- An IMAGE_ACTIVATE that passes checks 1 to 5 while the Flyer is halted. -/
theorem test_hyps_AcceptedWaits :
    let s := (keyed (frameBody 1 32 [0, 0x10, 0, 0, 0, 0, 0, 0])).onEng fun e => { e with flyer := { e.flyer with halted := true } }
    keyedOpcode (.imageActivate .okay []) = some 1 ∧ Safety.accepted s 1 ∧ s.eng.flyerFree = false ∧ s.eng.distaff.canStore = true ∧
      decide (fieldAt s.sec.frame 0x10 8 % 64 = 0 ∧ fieldAt s.sec.frame 0x10 8 < 2 ^ 48) = true := by
  have h := keyed_accepted 1 (frameBody 1 32 [0, 0x10, 0, 0, 0, 0, 0, 0]) rfl rfl rfl (by decide)
  exact ⟨rfl, ⟨⟨rfl, .inl rfl, rfl, h.1.2.2.2.1, rfl⟩, h.2⟩, rfl, by decide, by decide +kernel⟩
/-- A REBIND of 99 µs and an IMAGE_ACTIVATE of a copy at 0x1001 break check 6. -/
theorem test_hyps_BadPayload :
    let f := frameBody 2 40 (leBytes 4 1 ++ leBytes 8 0 ++ [0xFF, 0] ++ leBytes 2 99)
    let g := frameBody 1 32 [1, 0x10, 0, 0, 0, 0, 0, 0]
    Safety.accepted (keyed f) 2 ∧ (RebindCmd.parse (keyed f).sec.frame).ok = false ∧
    Safety.accepted (keyed g) 1 ∧ fieldAt (keyed g).sec.frame 0x10 8 % 64 ≠ 0 ∧ (keyed g).eng.distaff.canStore = true :=
  ⟨keyed_accepted 2 _ rfl rfl rfl (by decide), by decide +kernel, keyed_accepted 1 _ rfl rfl rfl (by decide), by decide +kernel, by decide⟩
theorem test_hyps_AcceptedReseed : Safety.accepted (keyed (frameBody 5 32 [9, 0, 0, 0, 0, 0, 0, 0])) 5 ∧ keyedOpcode .counterReseed = some 5 :=
  ⟨keyed_accepted 5 _ rfl rfl rfl (by decide), rfl⟩
theorem test_hyps_KeyRoll : Safety.accepted (keyed rollFrame) 3 ∧ (keyed rollFrame).sec.keys.cmdNext = none ∧ (keyed rollFrame).sec.keys.imgNext = none :=
  ⟨keyed_accepted 3 _ rfl rfl rfl (by decide), rfl, rfl⟩
/-- A command frame of an opcode with and without the spare block for its COUNTER. -/
theorem test_hyps_NoSpareForCounter : keyedOpcode .testUnlock = some 4 ∧ Safety.accepted (keyed unlockScan) 4 ∧ (keyed unlockScan).eng.distaff.canStore = true :=
  ⟨rfl, keyed_accepted 4 _ rfl rfl rfl (by decide), by decide⟩

/-- The state with no spare block left. -/
def wornOut (s : State) : State := s.onEng fun e => { e with distaff := { e.distaff with spares := [] } }
theorem test_hyps_WornOut :
    (keyed rollFrame).eng.distaff.canStore = true ∧ (wornOut (keyed rollFrame)).eng.distaff.canStore = false ∧
    Safety.accepted (wornOut (keyed rollFrame)) 3 ∧ Safety.accepted (wornOut (keyed (frameBody 5 32 [9, 0, 0, 0, 0, 0, 0, 0]))) 5 := by
  have h3 := keyed_accepted 3 rollFrame rfl rfl rfl (by decide)
  have h5 := keyed_accepted 5 (frameBody 5 32 [9, 0, 0, 0, 0, 0, 0, 0]) rfl rfl rfl (by decide)
  exact ⟨by decide, rfl, ⟨⟨rfl, .inl rfl, rfl, h3.1.2.2.2.1, rfl⟩, h3.2⟩, ⟨⟨rfl, .inl rfl, rfl, h5.1.2.2.2.1, rfl⟩, h5.2⟩⟩

/-- A roll of either key whose NEXT entry is written. -/
theorem test_hyps_KeyRollEnds :
    let s (k : Keys) := (running id).onSec fun c => { c with busy := true, keys := k }
    (∀ k : Keys, (s k).pending = [] ∧ (s k).sec.busy = true ∧ (s k).eng.up = true ∧ (s k).eng.glb.waiting = [] ∧ (s k).eng.distaff.canStore = true) ∧
    (s { cmdNext := some (key0, 1) }).sec.keys.cmdNext = some (key0, 1) ∧ (s { cmdNext := some (key0, 1) }).sec.keys.imgNext = none ∧
    (s { imgNext := some (key0, 1) }).sec.keys.imgNext = some (key0, 1) ∧ (s { imgNext := some (key0, 1) }).sec.keys.cmdNext = none :=
  ⟨fun _ => ⟨rfl, rfl, rfl, rfl, rfl⟩, rfl, rfl, rfl, rfl⟩

theorem test_hyps_UnlockReseedAndScrubPolicy :
    Safety.accepted (keyed unlockScan) 4 ∧
    Safety.accepted (keyed (frameBody 5 32 [1, 0, 0, 0, 0, 0, 0, 0])) 5 ∧
    Safety.accepted (keyed (frameBody 6 40 (leBytes 16 0))) 6 :=
  ⟨keyed_accepted 4 _ rfl rfl rfl (by decide), keyed_accepted 5 _ rfl rfl rfl (by decide), keyed_accepted 6 _ rfl rfl rfl (by decide)⟩

theorem test_hyps_UnlistedOpcodes :
    opcodeLen (cmdOpcode (handling (leBytes 2 7) id).sec.frame) = none ∧ Safety.submitted (handling (leBytes 2 7) id) 7 ∧
    opcodeLen (cmdOpcode (handling [] id).sec.frame) = none := ⟨by decide, ⟨rfl, .inl rfl, rfl, by decide⟩, by decide⟩

theorem test_hyps_Attestation : Safety.portServes (running id) ∧
    ((running id).onSec fun c => { c with attBusy := true, loaded := true, cleared := true }).sec.attBusy = true := ⟨⟨rfl, rfl, rfl⟩, rfl⟩

/-! ## Resets, start, and the Flyer's cells -/

theorem test_hyps_WarmReset :
    (running id).eng.power.phase ≠ .unsupplied ∧ (running id).eng.power.phase ≠ .quiesce ∧ (running id).eng.power.phase ≠ .held ∧
    (inPhase .quiesce).eng.power.phase = .quiesce ∧
    ((∀ n : Sp, ∀ x ∈ ((inPhase .quiesce).eng.sp n).txns, x.slot = none) ∧ (∀ u ∈ (inPhase .quiesce).eng.unitTxns, 64 ≤ u.slot)) ∧
    (let s := (inPhase .quiesce).onEng fun e => { e with now := 40000, unitTxns := [{ slot := 3, unit := .telemetry, issued := 0 }] }
     s.eng.power.quiesceFrom + 40000 ≤ s.eng.now ∧ ∃ u ∈ s.eng.unitTxns, ¬ 64 ≤ u.slot) := by decide

/-- ENG_WRST_N low after the quiesce. -/
def held : State := State.reset.onEng fun e => { e with power := { e.power with phase := .held, pinLow := true } }

theorem test_hyps_ReleaseBeginsTheStart : held.eng.power.pinLow = true ∧ held.eng.power.phase = .held ∧
    (let s := (inPhase .quiesce).onEng fun e => { e with now := 40000, power := { e.power with pinLow := true } }
     s.eng.power.pinLow = true ∧ s.eng.power.phase = .quiesce ∧ s.eng.power.quiesceFrom + 40000 ≤ s.eng.now) := by decide

theorem test_hyps_StartUpToTheKeys : State.reset.eng.power.phase = .s1Distaff ∧ (inPhase .s2Map).eng.power.phase = .s2Map ∧
    (inPhase .s3Keys).eng.power.phase = .s3Keys := by decide

theorem test_hyps_Firmware : (inPhase .s4Firmware).eng.power.phase = .s4Firmware ∧ (inPhase .s4Firmware).eng.power.recoveryAsked = false ∧
    (match fwLoad (inPhase .s4Firmware).eng.distaff.fw with | .error d => d == 1 | .ok _ => false) = true ∧
    ((inPhase .s4Firmware).onEng fun e => { e with power := { e.power with recoveryAsked := true } }).eng.power.recoveryAsked = true := by decide

/-- The 64 header bytes of firmware of 4,096 bytes; its frame's header and table; the head of its one block in stored form. -/
def fwHead : List Byte := leBytes 4 magicFw ++ [1, 0, 0, 0] ++ leBytes 4 4096 ++ leBytes 4 4181 ++ leBytes 48 0
def fwFrame : List Byte :=
  leBytes 4 magicHank ++ [1, 0, 1, 0] ++ leBytes 4 4096 ++ leBytes 4 1 ++ leBytes 4 64 ++ leBytes 4 1 ++ leBytes 40 0 ++
    (leBytes 4 80 ++ leBytes 3 4101 ++ [1] ++ leBytes 8 0)
def fwBlock : List Byte := [1, 0, 0x10, 0xFF, 0xEF]

theorem slice_front (xs ys : List Byte) (off len : Nat) (h : off + len ≤ xs.length) : slice (xs ++ ys) off len = slice xs off len := by
  have hd : (xs ++ ys).drop off = xs.drop off ++ ys := by rw [List.drop_append_of_le_length (by omega)]
  have ht : (xs.drop off ++ ys).take len = (xs.drop off).take len := by rw [List.take_append_of_le_length (by simp; omega)]
  simp [slice, hd, ht]

theorem push_size (f : Nat → Nat) (ks : List Nat) (out : Array Nat) : (ks.foldl (fun o k => o.push (f k)) out).size = out.size + ks.length := by
  induction ks generalizing out with
  | nil => rfl
  | cons k ks ih => simp only [List.foldl_cons, ih, Array.size_push, List.length_cons]; omega

/-- A block in stored form of 4,096 bytes decodes, whatever its bytes. -/
theorem stored_decodes (zs : List Byte) (h : zs.length = 4096) : ∃ out, hankDecode 4096 (fwBlock ++ zs) = .ok out := by
  have hs : ((fwBlock ++ zs).map (·.toNat)).toArray.size = 4101 := by simp [fwBlock, h]
  have g : ∀ k, k < 5 → ((fwBlock ++ zs).map (·.toNat)).toArray.getD k 0 = (fwBlock.map (·.toNat)).getD k 0 := by
    intro k hk
    simp [Array.getD, fwBlock, h]
    interval_cases k <;> rfl
  have hl : (fwBlock ++ zs).length = 4101 := by simp [fwBlock, h]
  unfold hankDecode
  rw [hl]
  generalize ((fwBlock ++ zs).map (·.toNat)).toArray = arr at hs g
  have d (pos n v : Nat) (hp : pos + n ≤ 40)
      (hv : (List.range n).foldl (fun a k => a + (fwBlock.map (·.toNat)).getD ((pos + k) / 8) 0 / 2 ^ ((pos + k) % 8) % 2 * 2 ^ k) 0 = v) :
      BitIn.read ⟨arr, pos⟩ n = .ok (v, ⟨arr, pos + n⟩) := by
    have he : ¬ 8 * arr.size < pos + n := by omega
    simp only [BitIn.read, he, if_false]
    rw [← hv]
    congr 2
    apply List.foldl_ext
    intro a k hk
    rw [g _ (by have := List.mem_range.mp hk; omega)]
  have d1 := d 0 1 1 (by omega) (by decide)
  have d2 := d 1 2 0 (by omega) (by decide)
  have d3 := d 8 16 4096 (by omega) (by decide)
  have d4 := d 24 16 61439 (by omega) (by decide)
  have : ∃ out, decodeBlocks 4096 (8 * 4101 + 1) ⟨arr, 0⟩ #[] = .ok out := by
    unfold decodeBlocks
    simp only [d1, d2, decodeStored, bind, Except.bind, roundUp, ceilDiv]
    norm_num
    simp only [d3, d4]
    norm_num [pure, Except.pure, hs, push_size]
  obtain ⟨out, ho⟩ := this
  rw [ho]
  exact ⟨_, rfl⟩

/-- Firmware of 4,096 bytes in stored form passes R403 and decodes. -/
def fwOf (zs : List Byte) : List Byte := fwHead ++ (fwFrame ++ (fwBlock ++ zs))

theorem fw_good (zs : List Byte) (h : zs.length = 4096) : ∃ body, fwLoad (fwOf zs) = .ok body := by
  have hh : fwHead.length = 64 := by decide
  have hf : fwFrame.length = 80 := by decide
  have fh (off len : Nat) (hl : off + len ≤ 64) : fieldAt (fwOf zs) off len = fieldAt fwHead off len := by
    rw [fieldAt, fieldAt, fwOf, slice_front _ _ _ _ (by omega)]
  have f72 : fieldAt (fwOf zs) 72 4 = 4096 := by
    rw [fieldAt, fwOf, ← List.append_assoc, slice_front _ _ _ _ (by simp [hh, hf])]
    decide
  have ok : fwHeaderOk (fwOf zs) = true := by
    simp only [fwHeaderOk, fwFrameLen, fh _ _ (show 8 + 4 ≤ 64 by omega), fh _ _ (show 0x10 + 4 ≤ 64 by omega), fh _ _ (show 0 + 4 ≤ 64 by omega),
      fh _ _ (show 4 + 1 ≤ 64 by omega), fh _ _ (show 0xC + 4 ≤ 64 by omega), f72]
    decide +kernel
  have hr : slice (fwOf zs) 64 (fwFrameLen (fwOf zs)) = fwFrame ++ (fwBlock ++ zs) := by
    have hl : fwFrameLen (fwOf zs) = (fwFrame ++ (fwBlock ++ zs)).length := by
      rw [fwFrameLen, fh _ _ (by omega)]
      simp [hf, h, fwBlock]
      decide
    rw [hl, ← hh]
    exact slice_right fwHead (fwFrame ++ (fwBlock ++ zs))
  have ff (off len : Nat) (hl : off + len ≤ 80) : fieldAt (fwFrame ++ (fwBlock ++ zs)) off len = fieldAt fwFrame off len := by
    rw [fieldAt, fieldAt, slice_front _ _ _ _ (by omega)]
  obtain ⟨out, ho⟩ := stored_decodes zs h
  have hp : HankHdr.parse (fwFrame ++ (fwBlock ++ zs)) = HankHdr.parse fwFrame := by
    simp only [HankHdr.parse, ff _ _ (show 0x05 + 1 ≤ 80 by omega), ff _ _ (show 0x06 + 1 ≤ 80 by omega), ff _ _ (show 0x08 + 4 ≤ 80 by omega),
      ff _ _ (show 0x0C + 4 ≤ 80 by omega), ff _ _ (show 0x10 + 4 ≤ 80 by omega), ff _ _ (show 0x14 + 4 ≤ 80 by omega)]
  have hc : HankHdr.parse fwFrame = { blockSize := 0, chainDepth := 1, rawLen := 4096, blockCount := 1, tableOffset := 64, storedCount := 1 } := by decide
  have hopen : hankOpenError (fwFrame ++ (fwBlock ++ zs)) = none := by
    simp only [hankOpenError, hp, hc, ff _ _ (show 0 + 4 ≤ 80 by omega), ff _ _ (show 4 + 1 ≤ 80 by omega)]
    decide +kernel
  have hs : slice (fwFrame ++ (fwBlock ++ zs)) 80 4101 = fwBlock ++ zs := by
    have := slice_right fwFrame (fwBlock ++ zs)
    rwa [hf, show (fwBlock ++ zs).length = 4101 by simp [fwBlock, h]] at this
  have h1 : fieldAt fwFrame 64 4 = 80 := by decide
  have h2 : fieldAt fwFrame 68 3 = 4101 := by decide
  refine ⟨out ++ [], ?_⟩
  have hl : (fwFrame ++ (fwBlock ++ zs)).length = 4181 := by simp [hf, h, fwBlock]
  have hb : frameDecode (fwFrame ++ (fwBlock ++ zs)) = some (out ++ []) := by
    simp only [frameDecode, hopen, hp, hc, hl]
    have e1 := ff 64 4 (by omega)
    have e2 := ff 68 3 (by omega)
    simp [frameBlocks, List.range, List.range.loop, e1, e2, h1, h2, hs, hl, hankEntryOk, HankHdr.blockLen, hankB, ho]
  simp [fwLoad, ok, hr, hb]

/-- A state in step 4 of the start with this firmware. -/
theorem test_hyps_FirmwareGood :
    let s := (inPhase .s4Firmware).onEng fun e => { e with distaff := { e.distaff with fw := fwOf (List.replicate 4096 0) } }
    s.eng.power.phase = .s4Firmware ∧ s.eng.power.recoveryAsked = false ∧ ∃ body, fwLoad s.eng.distaff.fw = .ok body :=
  ⟨rfl, rfl, fw_good _ List.length_replicate⟩

/-- A recovery load whose header, of zeros, names no frame has come whole with its 64 bytes. -/
def recovering : State := (inPhase .recovery).onEng fun e => { e with flyer := { e.flyer with received := List.replicate 64 0 } }

theorem test_hyps_RecoveryLoad : recovering.eng.power.phase = .recovery ∧ recovering.eng.flyer.loadFull = true ∧
    (match fwLoad recovering.eng.flyer.received with | .error d => d == 1 | .ok _ => false) = true := by decide

theorem fw_full (zs : List Byte) (h : zs.length = 4096) (f : Flyer) (hr : f.received = fwOf zs) (hd : f.discard = false) : f.loadFull = true := by
  have hl : (fwOf zs).length = 4245 := by simp [fwOf, fwBlock, h, show fwHead.length = 64 by decide, show fwFrame.length = 80 by decide]
  have hn : fwFrameLen (fwOf zs) = 4181 := by
    rw [fwFrameLen, fieldAt, fwOf, slice_front _ _ _ _ (by decide)]
    decide
  simp [Flyer.loadFull, Flyer.loadSize, hr, hl, hn, hd]

/-- The same firmware has come whole in the recovery load. -/
theorem test_hyps_RecoveryGood :
    let s := (inPhase .recovery).onEng fun e => { e with flyer := { e.flyer with received := fwOf (List.replicate 4096 0) } }
    s.eng.power.phase = .recovery ∧ s.eng.flyer.loadFull = true ∧ ∃ body, fwLoad s.eng.flyer.received = .ok body :=
  ⟨rfl, fw_full _ List.length_replicate _ rfl rfl, fw_good _ List.length_replicate⟩

theorem test_hyps_StoredImage : (inPhase .s5Select).eng.flyer.halted = false ∧ (inPhase .s5Select).eng.power.phase = .s5Select ∧
    (inPhase .s6Apply).eng.flyer.halted = false ∧ (inPhase .s6Apply).eng.power.phase = .s6Apply := by decide

/-- A packet queue Q5 between two endpoints, and Q5's contents. -/
def q5 (mode producer consumer : Nat) : Cfg :=
  { clients := [(0, { kind := 1, ports := 0xFF, share := 64 })], queueClients := [(5, 0)]
    queues := [(5, { mode := mode, level := 7, producer := producer, consumer := consumer, limit := 16, fullWait := 10, staleUs := 100 })] }
def holding (x : Queue) (e : Engine) : Engine := { e with creel := { e.creel with queues := [(5, x)] } }

/-- A committed packet of one cell with two bytes. -/
def aPkt : Pkt := { cells := [{ data := [0xAA, 0x55], first := true, last := true }], committed := true, visible := true }

/-- A packet that its producer has not ended. -/
def openPkt : Pkt := { cells := [{ data := [0xAA], first := true }] }

/-- A leaf-port write that waits for a cell when the quiesce begins. -/
theorem test_hyps_QuiesceAnswersWrites :
    (withCfg (q5 2 0x20 0) (holding { pkts := [openPkt], waits := [⟨0, [9], false, some 3, 1, 0⟩] })).eng.portWaits 3 = true := by decide

theorem test_hyps_FlyerTakesTheNextCell :
    let s := withCfg (q5 2 0x20 0x21) (holding { pkts := [aPkt] })
    s.eng.flyerRuns = true ∧ s.eng.power.phase ≠ .recovery ∧ s.eng.flyerNext = some 5 ∧ (s.eng.creel.q 5).next?.isSome = true ∧
    s.eng.cellFound 5 .ok = .ok := by decide

/-! ## The register file and the test access port -/

theorem test_hyps_RegisterWrite : (running id).serves .apb = true ∧ readBackMask (0x0C4 : BitVec 23).toNat = some 0x3F ∧
    (readBackMask 0x8C4).isNone = true := by decide

theorem test_hyps_BadAndAliasWrites : (running id).serves .apb = true ∧ ((0xF : BitVec 4) ≠ 0xF ∨ (0x0C6 : BitVec 23).toNat % 4 ≠ 0) ∧
    readBackMask 0xC4 = some 0x3F ∧ (0x3F : Word).getLsbD 5 = true := by decide

/-- An access of the register port that stalls. -/
def stalled (k : StallKind) : State := running fun e => { e with glb := { e.glb with stall := some ⟨.apb, 0x8, 1000, k⟩ } }

theorem test_hyps_Snapshot : (stalled (.capture .glb)).eng.glb.stall = some ⟨.apb, 0x8, 1000, .capture .glb⟩ ∧
    (mbField (stalled (.capture .tel)) .tel 0x80).isSome = true := by decide

/-- The access has stalled for 800 clocks exactly. -/
theorem test_hyps_StallLimit :
    let s := (stalled (.knot ⟨1000, .reg, 3, .add, 1⟩)).onEng fun e => { e with now := 1800 }
    (s.eng.glb.stall.map fun x => (x.path, x.since)) = some (.apb, 1000) ∧ 1000 + 800 ≤ s.eng.now := by decide

/-- A capture that goes on after its access ended, and a debug read that has waited for 800 clocks behind an access that is over. -/
theorem test_hyps_Waiting :
    ((running fun e => { e with glb := { e.glb with captures := [.glb] } }).eng.glb.captures = .glb :: []) ∧
    (let s := running fun e => { e with now := 1800, glb := { e.glb with waiting := [⟨.debug, 1000, .engDebug (.read 0x40)⟩] } }
     s.eng.glb.stall = none ∧ (s.eng.glb.waiting.map fun h => (h.path, h.since)) = [(.debug, 1000)] ∧ 1000 + 800 ≤ s.eng.now) := by decide

theorem test_hyps_Voter : (running id).eng.power.phase ≠ .unsupplied ∧ (⟨5, 5, 0x8005⟩ : Tv 16).agrees = false := by decide

theorem test_hyps_KnotWrites : (running id).serves .apb = true ∧
    (Instr.kntAddWrite .apb 7, KnotVerb.add) ∈ [(Instr.kntCountWrite .apb 7, KnotVerb.set), (.kntThreshWrite .apb 7, .setThresh), (.kntAddWrite .apb 7, .add)] := by
  decide

theorem test_hyps_Rings : Safety.portServes (running id) ∧ levelGroup ((running fun e => { e with glb := { e.glb with evtSel := 1 } }).eng.glb.group) = false ∧
    levelGroup (((running fun e => { e with glb := { e.glb with evtSel := 11 } })).eng.glb.group) = true ∧
    (∀ i : Inp, (running id).eng.inputOn i 1 = false) := ⟨⟨rfl, rfl, rfl⟩, by decide, by decide, by decide⟩

theorem test_hyps_TestAccess :
    let s := running fun e => { e with tap := { e.tap with active := .engDebug } }
    let t := s.onSec fun c => { c with scope := 7 }
    s.eng.power.phase ≠ .unsupplied ∧ bitOf s.sec.scope.toNat 2 = false ∧ bitOf s.sec.scope.toNat 1 = false ∧ bitOf s.sec.scope.toNat 0 = false ∧
    bitOf t.sec.scope.toNat 2 = true ∧ bitOf t.sec.scope.toNat 1 = true ∧ bitOf t.sec.scope.toNat 0 = true ∧ t.eng.tap.active = .engDebug ∧
    t.serves .debug = true ∧ (0x40 : BitVec 23).toNat % 4 = 0 := by decide

/-! ## Queues, the Creel and the feed links -/

/-- A queue of MODE PACKET whose last cell lacks one byte, and a stream whose tail does: the ninth byte opens a cell. -/
theorem test_hyps_AppendedBytes :
    let p : Queue := { pkts := [{ cells := [{ data := List.replicate 63 1, first := true }] }] }
    let t : Queue := { cells := [{ data := List.replicate 64 1 }], tail := List.replicate 63 2 }
    let c (x : Queue) : Creel := { queues := [(5, x)] }
    Tab.wf {} (c p).queues = true ∧ ((c p).q 5).drop = .none ∧ ((c p).q 5).cells = [] ∧ ((c p).q 5).tail = [] ∧
    ((c p).append (q5 2 0x20 0) 10 5 false [3, 4]).2 = .all ∧
    Tab.wf {} (c t).queues = true ∧ ((c t).q 5).pkts = [] ∧ ((c t).q 5).tail.length < 64 ∧ ((c t).append (q5 3 0x20 0) 10 5 false [3, 4]).2 = .all := by
  decide +kernel

/-- A leaf-port write of 8 bytes to Q5 at an offset of its aperture. -/
def wr (offset : Nat) : PortWrite := ⟨0, 5, offset, .incr, 3, 1, false, [1, 2, 3, 4, 5, 6, 7, 8], 9⟩

def portState (mode : Nat) (x : Queue) : State := withCfg (q5 mode 0x20 0x20) (holding x)

theorem served_body : portWriteServed (portState 2 { pkts := [openPkt] }) (wr 0x7F8) 0 := ⟨rfl, rfl, rfl, rfl, rfl, by decide, rfl, rfl, rfl⟩

theorem test_hyps_PortWrites :
    portWriteServed (portState 2 { pkts := [openPkt] }) (wr 0x7F8) 0 ∧ portWriteServed (portState 3 { tail := [1] }) (wr 0x800) 1 ∧
    portWriteServed (portState 2 { pkts := [openPkt] }) (wr 0xBF8) 1 ∧
    (let s := portState 2 { pkts := [openPkt] }
     let r := s.eng.creel.append s.eng.conf s.eng.now 5 (s.eng.lineHeld 5) (wr 0xBF8).bytes
     r.2 = .all ∧ (r.1.q 5).drop = .none ∧ s.eng.conf.lineOf 5 = none ∧ (r.1.q 5).openPkt ≠ none) ∧
    (let s := portState 3 { tail := [1] }
     let r := s.eng.creel.append s.eng.conf s.eng.now 5 (s.eng.lineHeld 5) (wr 0x800).bytes
     r.2 = .all ∧ (r.1.q 5).drop = .none) :=
  ⟨served_body, ⟨rfl, rfl, rfl, rfl, rfl, by decide, rfl, rfl, rfl⟩, ⟨rfl, rfl, rfl, rfl, rfl, by decide, rfl, rfl, rfl⟩, by decide +kernel, by decide +kernel⟩

/-- The END of a line packet of T2: its frame is open and lacks lines, or is not open. -/
theorem test_hyps_PortLine :
    let s (f : Frame) : State := withCfg { q5 2 0x20 0x20 with ticks := [(2, { source := 1, stripes := 1, lineQ := 5, stripeLines := 3, frameLines := 3 })] } fun e =>
      holding { pkts := [openPkt] } (e.modTick 2 fun t => { t with frame := f })
    let o : Frame := { open_ := true, counts := [1] }
    portWriteServed (s o) (wr 0xBF8) 1 ∧ portWriteServed (s {}) (wr 0xBF8) 1 ∧ (s o).eng.conf.lineOf 5 = some (2, 0) ∧ (s {}).eng.conf.lineOf 5 = some (2, 0) ∧
    (s o).eng.mayCount 2 0 = true ∧ (setAt o.counts 0 2).getD 0 0 < ((s o).eng.conf.tick 2).expected 0 ∧ (s {}).eng.mayCount 2 0 = false ∧
    (let r := (s o).eng.creel.append (s o).eng.conf (s o).eng.now 5 ((s o).eng.lineHeld 5) (wr 0xBF8).bytes
     r.2 = .all ∧ (r.1.q 5).drop = .none ∧ ((r.1.q 5).openPkt.map fun p => p.taken) = some 0) ∧
    (let r := (s {}).eng.creel.append (s {}).eng.conf (s {}).eng.now 5 ((s {}).eng.lineHeld 5) (wr 0xBF8).bytes
     r.2 = .all ∧ (r.1.q 5).drop = .none ∧ ((r.1.q 5).openPkt.map fun p => p.taken) = some 0) :=
  ⟨⟨rfl, rfl, rfl, rfl, rfl, by decide, rfl, rfl, rfl⟩, ⟨rfl, rfl, rfl, rfl, rfl, by decide, rfl, rfl, rfl⟩, by decide, by decide, by decide, by decide,
    by decide, by decide +kernel, by decide +kernel⟩

/-- An ABORT of a stream with a tail, and of one without. -/
theorem test_hyps_StreamAbort :
    portWriteServed (portState 3 { tail := [1] }) (wr 0xC00) 2 ∧ portWriteServed (portState 3 {}) (wr 0xC00) 2 ∧
    ((portState 3 { tail := [1] }).eng.creel.q 5).tail ≠ [] ∧ ((portState 3 {}).eng.creel.q 5).tail = [] ∧
    Tab.wf {} (portState 3 { tail := [1] }).eng.creel.queues = true ∧ ((portState 3 { tail := [1] }).eng.creel.q 5).pkts = [] :=
  ⟨⟨rfl, rfl, rfl, rfl, rfl, by decide, rfl, rfl, rfl⟩, ⟨rfl, rfl, rfl, rfl, rfl, by decide, rfl, rfl, rfl⟩, by decide, by decide, by decide, by decide⟩

/-- An ABORT in front of an unread packet and of one that is being read. -/
theorem test_hyps_PortAbort :
    let half : Pkt := { openPkt with taken := 1 }
    portWriteServed (portState 2 { pkts := [openPkt] }) (wr 0xC00) 2 ∧ portWriteServed (portState 2 { pkts := [half] }) (wr 0xC38) 2 ∧
    ((portState 2 { pkts := [openPkt] }).eng.creel.q 5).openPkt = some openPkt ∧ ((portState 2 { pkts := [half] }).eng.creel.q 5).openPkt = some half ∧
    (q5 2 0x20 0x20).lineOf 5 = none ∧ Tab.wf {} (portState 2 { pkts := [half] }).eng.creel.queues = true :=
  ⟨⟨rfl, rfl, rfl, rfl, rfl, by decide, rfl, rfl, rfl⟩, ⟨rfl, rfl, rfl, rfl, rfl, by decide, rfl, rfl, rfl⟩, rfl, rfl, by decide, by decide⟩

theorem test_hyps_PortReads :
    let r : PortRead := ⟨0, 5, 0x7C0, .incr, 6, 1, false, 9⟩
    let s := portState 2 { pkts := [aPkt] }
    s.eng.coreUp = true ∧ s.eng.cellFound 5 .ok = .ok ∧ burstBad r.burst r.offset r.size r.beats r.special = false ∧ apRegion r.offset = 0 ∧ readKindOk r = true ∧
    (s.eng.conf.queue 5).mode ≠ 0 ∧ (s.eng.conf.queue 5).consumer = 0x20 ∧ s.eng.conf.portOk 0 5 = true ∧
    (s.eng.creel.q 5).next? = some { data := [0xAA, 0x55], first := true, last := true } ∧ ((portState 2 {}).eng.creel.q 5).next? = none := by decide

theorem test_hyps_BadAccesses :
    let w : PortWrite := { wr 0x7F8 with beats := 2 }
    let r : PortRead := ⟨0, 5, 0x7C0, .incr, 6, 2, false, 9⟩
    let s := portState 2 {}
    s.eng.coreUp = true ∧ s.eng.portWaits 0 = false ∧ burstBad w.burst w.offset w.size w.beats w.special = true ∧
    burstBad r.burst r.offset r.size r.beats r.special = true ∧ (apRegion (wr 0xC3C).offset = 2 ∧ (s.eng.conf.queue 6).mode = 0) ∧
    readKindOk { r with queue := 6, beats := 1 } = true ∧ (s.eng.conf.queue 6).consumer ≠ 0x20 := by decide

/-- CRL_NSEL or CRL_RSEL names Q5. -/
def narrow (mode producer consumer : Nat) (x : Queue) : State :=
  withCfg (q5 mode producer consumer) fun e => holding x { e with creel := { e.creel with nsel := 5, rsel := 5, ndataLo := 0x04030201 } }

theorem test_hyps_NarrowPath :
    (let s := narrow 2 0x22 0 { pkts := [openPkt] }
     s.serves .apb = true ∧ s.eng.conf.regProduces 5 = true ∧ s.eng.qClosed 5 = false ∧ s.eng.creel.nsel ≠ 0 ∧ (s.eng.creel.q 5).drop = .none ∧
     (s.eng.creel.append s.eng.conf s.eng.now 5 (s.eng.lineHeld 5) (s.eng.creel.narrow.take 8)).2 = .all ∧
     s.eng.conf.lineOf 5 = none ∧ (s.eng.creel.q 5).openPkt = some openPkt ∧ openPkt.taken = 0) ∧
    (let s := narrow 3 0x22 0 { tail := [1] }
     s.serves .apb = true ∧ s.eng.conf.regProduces 5 = true ∧ (s.eng.conf.queue 5).mode = 3 ∧ (s.eng.creel.q 5).drop = .none) ∧
    (let s := narrow 2 0x20 0x22 { pkts := [aPkt] }
     (s.eng.conf.queue 5).consumer = 0x22 ∧ (s.eng.creel.q 5).next?.isSome = true ∧ s.eng.cellFound 5 .ok = .ok) ∧
    ((narrow 2 0x20 0x22 {}).eng.creel.q 5).next? = none := by decide +kernel

/-- A started job of S0, alone on it. -/
def job0 (d : Desc) (f : Job → Job) : Job := f { id := 0, desc := d, level := 7, inst := none, begun := true }
def onS0 (f : Spindle → Spindle) (e : Engine) : Engine := e.modSp 0 f
def runs (x : Job) (f : Spindle → Spindle) : Engine → Engine := onS0 fun s => f { s with pwr := .on, enable := true, jobs := [x], jobNext := 1 }

/-- A feed expansion of the stream at 0x1000 of memory, in one tile. -/
def expBlk : ExpBlk := { streamAddr := 0x1000, foldAddr := 0, tileFirst := 0, tileRun := 0, scaleSrc := 0, deliv := 1, dest := 0 }
def feedDesc : Desc := { expA := some expBlk }

/-- Two words that wait to be sent. -/
def twoWords : List FeedWord := [{ data := List.replicate 64 7, bytes := 64 }, { data := List.replicate 64 8, bytes := 64, last := true }]

/-- A drafting block of FP32 sources, in one pass with a given scale. -/
def draftBlk : DraftBlk :=
  { scaleMode := 0, srcType := 0, format := 1, codeType := 0, gridSlot := 0, histBase := -32, tensorClass := 0, verify := false, comb := false, group := false,
    clipTarget := 0, clipThresh := 0xFFFF, givenScale := 0x3F800000, statsAddr := 0, groupAddr := 0, groupKnot := 0, groupIndex := 0, groupCount := 0, tensorKind := 0 }
def shape2 : ShapeBlk := { ndim := 1, tileRows := 1, tileCols := 16, tileChans := 1, dim0 := 16, dim1 := 1, dim2 := 1, dim3 := 1 }

theorem test_hyps_FlyerAndSpindles :
    (let s := withCfg (q5 2 0x21 0) id
     s.eng.flyerRuns = true ∧ (s.eng.conf.queue 5).producer = 0x21 ∧ (s.eng.creel.q 5).waits = [] ∧ s.eng.qClosed 5 = false ∧
     (s.eng.creel.append s.eng.conf s.eng.now 5 (s.eng.lineHeld 5) [1, 2, 3]).2 = .all) ∧
    (let x := job0 { feedDesc with outQ := 5 } fun x => { x with words := twoWords }
     let s := withCfg (q5 2 0 0x20) (runs x id)
     s.eng.live = true ∧ s.eng.job? 0 0 = some x ∧ s.eng.jobId? 0 0 = some x ∧ x.acts = true ∧ (s.eng.creel.q 5).waits = [] ∧
     s.eng.hasTurn 0 x 5 = true ∧ (s.eng.sp 0).jobs = [x] ∧ (s.eng.conf.queue 5).producer = 0 ∧ s.eng.qClosed 5 = false ∧
     (s.eng.creel.append s.eng.conf s.eng.now 5 (s.eng.lineHeld 5) (List.replicate 64 7)).2 = .all) ∧
    (let d : Draft := { shape := shape2 }
     let x := job0 { srcKind := 4, srcQ := 5, draft := some draftBlk, shape := some shape2 } fun x => { x with draft := some d }
     let s := withCfg (q5 2 0x20 0) fun e => runs x id (holding { pkts := [aPkt] } e)
     s.eng.job? 0 0 = some x ∧ x.acts = true ∧ (s.eng.conf.queue 5).consumer = 0 ∧ (s.eng.creel.q 5).next?.isSome = true ∧
     s.eng.cellFound 5 .ok = .ok ∧ d.src.length < Draft.n d * srcBytes x.desc draftBlk) := by decide +kernel

/-- A producer that waits for a cell since the time given. -/
def waiting (since : Nat) (port : Option Port) : Queue := { pkts := [openPkt], waits := [⟨since, [9], false, port, 1, 0⟩], staleFrom := some 0 }

theorem test_hyps_CellWaits :
    (let s := withCfg (q5 2 0x20 0) (holding (waiting 0 (some 3)))
     s.eng.creel.granted s.eng.conf = some 5 ∧ (s.eng.creel.q 5).waits = [⟨0, [9], false, some 3, 1, 0⟩] ∧ s.eng.ports[3].writes = [] ∧
     s.eng.qClosed 5 = false ∧
     (s.eng.creel.append s.eng.conf s.eng.now 5 (s.eng.lineHeld 5) [9]).2 = .all ∧
     s.eng.conf.lineOf 5 = none ∧ s.eng.passedUs 0 (s.eng.conf.queue 5).fullWait = true) ∧
    (let s := withCfg (q5 2 0x20 0) (holding (waiting 0 none))
     Tab.wf {} s.eng.creel.queues = true ∧ (s.eng.creel.q 5).staleFrom = some 0 ∧ (s.eng.conf.queue 5).staleUs ≠ 0 ∧ (s.eng.creel.q 5).stale = false ∧
     (s.eng.creel.q 5).isEmpty = false ∧ s.eng.passedUs 0 (s.eng.conf.queue 5).staleUs = true ∧ (s.eng.conf.queue 5).mode ≠ 3) := by decide +kernel

/-- Feed link 0 with its credits. -/
def linked (x : Job) (fwd back : Nat) (rst : Bool) : State :=
  running (runs x fun s => { s with link := { s.link with fwdCredits := fwd, backCredits := back, rst := rst } })

theorem test_hyps_FeedLink :
    (let x := job0 feedDesc fun x => { x with words := twoWords }
     let s := linked x 1 32 false
     s.eng.live = true ∧ s.eng.job? 0 0 = some x ∧ s.eng.jobId? 0 0 = some x ∧ x.acts = true ∧ x.desc.outQ = 0xFFFF ∧ (s.eng.sp 0).link.fwdCredits ≠ 0 ∧
     (s.eng.sp 0).link.rst = false ∧ s.eng.hasTurn 0 x 0xFFFF = true ∧ (s.eng.sp 0).jobs = [x]) ∧
    (let d : Draft := { shape := shape2 }
     let x := job0 { srcKind := 2, srcTag := 3, draft := some draftBlk, shape := some shape2 } fun x => { x with draft := some d }
     let s := linked x 63 1 false
     s.eng.linkUp 0 = true ∧ (s.eng.sp 0).link.rst = false ∧ s.eng.linkIdle 0 = false ∧ (s.eng.sp 0).link.fwdCredits < 64 ∧ (s.eng.sp 0).link.backCredits ≠ 0 ∧
     (s.eng.sp 0).link.backBuf = [] ∧ s.eng.tagJob 0 3 = some x ∧ x.acts = true ∧ (∀ y ∈ (s.eng.sp 0).jobs, y.desc.feeds = false) ∧
     d.src.length + 32 ≤ Draft.n d * srcBytes x.desc draftBlk) ∧
    (let x := job0 { srcKind := 2, srcTag := 3, draft := some draftBlk, shape := some shape2 } fun x => { x with draft := some { shape := shape2 }, claim := some 1 }
     let s := linked x 63 1 false
     s.eng.tagJob 0 3 = some x ∧ x.acts = false) ∧
    (let s := withCfg { clients := [(0, { kind := 1, unit := 1 })], spindles := [(0, { client := 0 })] } (onS0 fun p => { p with pwr := .on, link := { p.link with rst := false } })
     s.eng.linkUp 0 = true ∧ (s.eng.sp 0).link.rst = false ∧ s.eng.linkIdle 0 = true) ∧
    ((linked (job0 {} id) 0 0 true).eng.sp 0).link.rst = true ∧
    (let s := linked (job0 {} id) 64 0 false
     s.eng.linkUp 0 = true ∧ (s.eng.sp 0).link.rst = false ∧ 64 ≤ (s.eng.sp 0).link.fwdCredits ∧ s.eng.linkIdle 0 = false ∧
     (s.eng.sp 0).link.backCredits = 0) ∧
    (let x := job0 feedDesc fun x => { x with words := twoWords }
     let s := linked x 64 0 false
     s.eng.turn 0 0xFFFF = some x ∧ s.eng.jobId? 0 0 = some x ∧ x.ended = none ∧ x.desc.step = false ∧ x.desc.lock = false) := by decide +kernel

/-! ## Images and rebinding -/

theorem flyer_free (b : List Byte) : (keyed b).eng.flyerFree = true := rfl

/-- IMAGE_ACTIVATE of the copy at 0x1000. -/
def activateFrame : List Byte := frameBody 1 32 [0, 0x10, 0, 0, 0, 0, 0, 0]

/-- A PARTIAL copy without sections: its header but CHECK, and its frame, one block of 256 zeros in stored form. -/
def partHead : List Byte :=
  leBytes 4 magicImage ++ [1, 1, 0xFF, 0] ++ leBytes 8 1 ++ leBytes 8 0 ++ leBytes 4 256 ++ leBytes 4 341 ++ leBytes 2 100 ++ List.replicate 22 0
def partFrame : List Byte :=
  leBytes 4 magicHank ++ [1, 0, 1, 0] ++ leBytes 4 256 ++ leBytes 4 1 ++ leBytes 4 64 ++ List.replicate 44 0 ++ (leBytes 4 80 ++ [5, 1, 0, 0, 0, 0, 0, 0, 0, 0, 0, 0]) ++
    ([1, 0, 1, 0xFF, 0xFE] ++ List.replicate 256 0)
def part : List Byte := partHead ++ (mac8 (partHead ++ partFrame) ++ partFrame)

theorem part_eq : part = partHead ++ (mac8 (partHead ++ partFrame) ++ partFrame) := rfl
theorem part_len : (CopyHdr.parse part).frameLen = 341 := by decide +kernel
theorem part_frame : slice part 64 341 = partFrame := by decide +kernel
theorem head_len : partHead.length = 56 := by decide
theorem part_head : slice part 0 0x38 = partHead := by
  have h := slice_left partHead (mac8 (partHead ++ partFrame) ++ partFrame)
  rw [head_len] at h
  rw [part_eq]
  exact h
theorem part_mac : slice part 0x38 8 = mac8 (partHead ++ partFrame) := by
  have hm : (mac8 (partHead ++ partFrame)).length = 8 := by simp [mac8]
  rw [part_eq]
  generalize mac8 (partHead ++ partFrame) = m at *
  simp [slice, head_len, hm]

/-- CHECK of the copy matches. -/
theorem part_check : copyCheckOk key0 part = true := by
  simp only [copyCheckOk, copyCheck, part_mac, part_head, part_len, part_frame, mac8_eq, beq_self_eq_true]

theorem part_good : (copyConfig key0 {} 0 part).toOption = some {} := by
  simp only [copyConfig, part_check]
  decide +kernel

theorem test_hyps_ImageActivate :
    Safety.accepted (keyed activateFrame) 1 ∧ (keyed activateFrame).eng.distaff.canStore = true ∧ (keyed activateFrame).eng.flyerFree = true ∧ fieldAt (keyed activateFrame).sec.frame 0x10 8 % 64 = 0 ∧
    fieldAt (keyed activateFrame).sec.frame 0x10 8 < 2 ^ 48 := 
  ⟨keyed_accepted 1 _ rfl rfl rfl (by decide), rfl, flyer_free _, by decide +kernel, by decide +kernel⟩

/-- An empty copy fails detail 1, and the copy above passes every check in front of it: it leaves the configuration as it is. -/
theorem test_hyps_ImageCopies :
    (running id).eng.checkCopy key0 [] = .error 1 ∧ ((running id).eng.checkCopy key0 part).toOption = some {} ∧ (CopyHdr.parse part).kind ≠ 0 := by
  refine ⟨by rfl, ?_, by decide +kernel⟩
  have h1 : copyHeaderOk part = true := by decide +kernel
  have h2 : (running id).eng.seqOk key0 part = true := by decide +kernel
  have h3 : (running id).eng.act = none := rfl
  have h4 := part_good
  have h5 : (running id).eng.conf = {} := rfl
  have h6 : (running id).eng.sectionNext = 0 := rfl
  simp only [Engine.checkCopy, h1, h2, h3, h5, h6]
  revert h4
  cases copyConfig key0 {} 0 part <;> simp [Except.toOption]

/-- An activation on its way. -/
def anAct (stage : ActStage) (boundary : Nat) : Activation :=
  { stage := stage, full := true, command := false, seq := 7, copy := 0, boundary := boundary, drainUs := 100, newCfg := {}, affected := {} }

theorem test_hyps_StoredCopy :
    let s := running fun e => { e with act := some (anAct (.storing 1 part) 0xFF), distaff := { e.distaff with imgA := part } }
    s.eng.act = some (anAct (.storing 1 part) 0xFF) ∧ s.eng.distaff.writes = [] ∧ s.eng.readBackOk key0 1 part = true ∧
    (running id).eng.readBackOk key0 1 part = false := by
  have hs : slice part 0 part.length = part := by simp [slice]
  have hn : slice ([] : List Byte) 0 part.length ≠ part := by decide +kernel
  refine ⟨rfl, rfl, ?_, ?_⟩
  · have hr : (running fun e => { e with act := some (anAct (.storing 1 part) 0xFF), distaff := { e.distaff with imgA := part } }).eng.distaff.region 1 = part := rfl
    have hw : (running fun e => { e with act := some (anAct (.storing 1 part) 0xFF), distaff := { e.distaff with imgA := part } }).eng.distaff.writeFailed = false := rfl
    simp only [Engine.readBackOk, hr, hw, hs, part_check, beq_self_eq_true]
    rfl
  · have hr : (running id).eng.distaff.region 1 = [] := rfl
    simp only [Engine.readBackOk, hr]
    simp [hn]

/-- While an activation is pending, an IMAGE_ACTIVATE passes checks 1 to 5 too, and a REBIND that would pass is refused (R399). -/
theorem test_hyps_Pending :
    let s := (keyed activateFrame).onEng fun e => { e with act := some (anAct .pending 3) }
    Safety.accepted s 1 ∧ s.eng.act.isSome = true ∧ s.eng.distaff.canStore = true ∧ s.eng.flyerFree = true := by
  have h := keyed_accepted 1 (frameBody 1 32 [0, 0x10, 0, 0, 0, 0, 0, 0]) rfl rfl rfl (by decide)
  exact ⟨⟨⟨rfl, .inl rfl, rfl, h.1.2.2.2.1, rfl⟩, h.2⟩, rfl, rfl, rfl⟩

/-- REBIND of Q5 to client 0, at once, with drain limits of 100 and 99 µs, and to a client that the image does not have. -/
def rebindFrame (client drainUs : Nat) : List Byte :=
  frameBody 2 40 (leBytes 4 1 ++ leBytes 2 0 ++ leBytes 2 client ++ leBytes 2 0 ++ leBytes 2 0 ++ [0xFF, 0] ++ leBytes 2 drainUs)

theorem test_hyps_Rebind :
    let good := RebindCmd.parse (rebindFrame 0 100)
    let e := (withCfg (q5 2 0x20 0x21) id).eng
    Safety.accepted (keyed (rebindFrame 0 100)) 2 ∧ (keyed (rebindFrame 0 100)).eng.flyerFree = true ∧ (keyed (rebindFrame 0 100)).eng.distaff.canStore = true ∧
    (RebindCmd.parse (rebindFrame 0 99)).ok = false ∧ good.ok = true ∧ e.rebindFail (good.apply e.conf) good.boundary = none ∧
    (RebindCmd.parse (rebindFrame 3 100)).ok = true ∧
    e.rebindFail ((RebindCmd.parse (rebindFrame 3 100)).apply e.conf) 0xFF = some 6 :=
  ⟨keyed_accepted 2 _ rfl rfl rfl (by decide), flyer_free _, rfl, by decide, by decide, by decide +kernel, by decide, by decide +kernel⟩

theorem test_hyps_DrainedRebind :
    let a := anAct (.draining 0) 0xFF
    let s := running fun e => { e with act := some a }
    s.eng.act = some a ∧ a.stage = .draining 0 ∧ s.eng.live = true ∧ s.eng.rebindReady a 0 = true := by decide

/-! ## Spindle control, domains and background work -/

theorem test_hyps_SpindleControl :
    let s := running (runs (job0 feedDesc id) fun s => { s with enable := false, drainFrom := some 0 })
    s.serves .apb = true ∧ ((s.eng.sp 0).jobs.map fun y => y.id).Nodup ∧ (s.eng.sp 0).drainFrom = some 0 ∧
    s.eng.passedUs 0 (s.eng.sp 0).limitUs.toNat = true := by decide

theorem test_hyps_Domains :
    (let s := withCfg (q5 1 0x21 0) fun e => onS0 (fun s => { s with enable := true }) (holding { pkts := [aPkt] } e)
     s.eng.live = true ∧ (s.eng.sp 0).enable = true ∧ s.eng.headWaits 0 = true ∧ (s.eng.sp 0).pwr = .off) ∧
    (let s := running fun e => { e with power := { e.power with wakes := [(.spindle 0, 0)], lastWake := some (e.now - 20) } }
     s.eng.power.wakes = [(.spindle 0, 0)] ∧ s.eng.up = true ∧ s.eng.mayWake (.spindle 0) = true) ∧
    (let s := running fun e => { e with power := { e.power with waking := [(.bobbin, 5)] } }
     s.eng.up = true ∧ (s.eng.power.waking.any fun w => w.1 == .bobbin) = true) ∧
    (let s := running (onS0 fun s => { s with pwr := .on })
     s.eng.live = true ∧ (s.eng.sp 0).pwr = .on ∧ (s.eng.sp 0).drained = true ∧ s.eng.passedUs (s.eng.sp 0).drainedFrom 100 = true ∧
     s.eng.conf.bankBound = false ∧ ∀ m : Sp, m ≠ 0 → (s.eng.sp m).pwr = .off) ∧
    (let s := running (onS0 fun s => { s with pwr := .on, enable := true })
     (s.eng.sp 0).drained = false ∧ s.eng.idleSpindle 0 = true ∧ s.eng.passedUs (s.eng.sp 0).quietFrom 100 = true) ∧
    (let s := running fun e => { e with distaff := { e.distaff with pwr := .on } }
     s.eng.up = true ∧ s.eng.distaff.pwr = .on ∧ s.eng.distaff.writes = [] ∧ s.eng.passedUs s.eng.distaff.lastAccess 1000 = true) := by decide

theorem test_hyps_GovernorAndBlockWrites :
    (running id).eng.up = true ∧
    (let s := running fun e => { e with distaff := { e.distaff with pwr := .on, writes := [⟨1, 0, [1]⟩] } }
     s.eng.distaff.writes = [⟨1, 0, [1]⟩] ∧ s.eng.distaff.spares.head? = some 784) ∧
    (let s := running fun e => { e with distaff := { e.distaff with pwr := .on, map := [(704, 900)], recent := [(704, 900)] } }
     s.eng.distaff.pwr = .on ∧ s.eng.distaff.writes = [] ∧ s.eng.distaff.recent = [(704, 900)] ∧ s.eng.distaff.phys 704 = 900 ∧
     s.eng.distaff.spares.head? = some 784) := by decide

theorem test_hyps_ScrubAndSamples :
    let sample : CalSample := { cls := 3, codeType := 0, gridSlot := 0, histBase := -32, absmax := 0x3F800000, histMode := 31, clipShare := 0, calibrated := false }
    let s := running fun e => onS0 (fun s => { s with pwr := .on }) { e with tel := { e.tel with calQueue := [sample] } }
    s.eng.coreUp = true ∧ s.eng.rowTurn (.spindleStore 0 0) false = true ∧ s.eng.rowTurn (.spindleStore 0 1) false = false ∧
    Tab.wf 0 s.eng.scrub.found = true ∧ s.eng.live = true ∧
    s.eng.tel.calQueue = [sample] ∧ s.eng.passedUs s.eng.tel.lastSample s.eng.tel.period = true := by decide

/-- The last row of a store, and what a visit of it meets; and rows of the other memories with an uncorrectable error. -/
theorem test_hyps_Visits :
    let s := running fun e => onS0 (fun s => { s with pwr := .on }) { e with scrub := { e.scrub with next := [(memKey (.spindleStore 0 0), 5631)] } }
    s.eng.rowTurn (.spindleStore 0 5631) true = true ∧ s.eng.visit (.spindleStore 0 5631) .ok = .clean ∧
    s.eng.visit (.spindleStore 0 5631) (.corrected 0) = .weak ∧ s.eng.visit (.spindleStore 0 5631) (.uncorrectable 0) = .lost (.spindleStore 0 5631) ∧
    (∀ r ∈ [SramRow.bobbin 0 0, .whorl 0 0, .hankHash 0 0, .knot 0, .flyer 0], s.eng.rowTurn r false = true ∧ s.eng.visit r (.uncorrectable 0) = .lost r) ∧
    Tab.wf {} s.eng.knots.table = true := by decide

/-! ## Ticks, jobs, switching, records and tensors -/

/-- Tick input T2: PIN (1) or SYNTHETIC (2), with frames of two stripes. -/
def ticked (source : Nat) (f : Tick → Tick) : State :=
  withCfg { ticks := [(2, { source := source, stripes := 2, lineQ := 8, stripeLines := 3, frameLines := 5, minGapUs := 100, maxGapUs := 4000, closeUs := 90,
                            budgetUs := 50, synPeriod := 4000 })] } fun e => e.modTick 2 f

/-- The last accepted tick 1 clock short of MIN_GAP ago, at MIN_GAP, and at MAX_GAP. -/
theorem test_hyps_Ticks :
    (ticked 1 id).eng.inputOn 2 1 = true ∧
    (ticked 2 fun k => { k with synNext := some 2000000 }).eng.inputOn 2 2 = true ∧
    ((ticked 2 fun k => { k with synNext := some 2000000 }).eng.tick 2).synNext = some 2000000 ∧
    (ticked 1 fun k => { k with lastTick := some 1960001 }).eng.tooEarly 2 = true ∧
    (let s := ticked 1 fun k => { k with lastTick := some 1960000 }
     s.eng.tooEarly 2 = false ∧ s.eng.act = none ∧ (s.eng.tick 2).frame.open_ = false ∧ (s.eng.tick 2).inst = none ∧ (s.eng.conf.tick 2).frames = true) ∧
    (let s := ticked 1 fun k => { k with lastTick := some 400000, inst := some { start := 400000, jobs := 2, accepted := 1 } }
     s.eng.gapPassed 2 = true ∧ (s.eng.tick 2).closeDue = false ∧ (s.eng.tick 2).inst = some { start := 400000, jobs := 2, accepted := 1 } ∧ 1 + (s.eng.uncounted 2).1 < 2) ∧
    (let s := ticked 1 fun k => { k with lastTick := some 1964000, frame := { open_ := true, counts := [3, 1] }, inst := some { start := 1964000, jobs := 2, accepted := 1 } }
     s.eng.bound.isSome = true ∧ s.eng.passedUs 1964000 90 = true ∧ (s.eng.tick 2).frame.counts.sum < (s.eng.conf.tick 2).frameLines ∧
     (∀ n : Sp, ∀ x ∈ (s.eng.sp n).jobs, x.desc.srcKind ≠ 4) ∧
     s.eng.passedUs 1964000 (s.eng.conf.tick 2).budgetUs = true ∧ s.eng.gapPassed 2 = false ∧ s.eng.synDue 2 = false) := by decide

/-- What the end of a control clock settles at T2, alone: a tick, a lost tick, a frame that closes, and a budget; and a tick that comes in the
clock in which CLOSE_US passes. -/
theorem test_hyps_ClockEnds :
    let s (f : Tick → Tick) := ticked 1 f
    let quiet (f : Tick → Tick) : Prop := (s f).pending = [] ∧ (s f).eng.bound.isSome = true ∧ (s f).sec.busy = false ∧ (s f).eng.glb.waiting = [] ∧
      ∀ k : Inp, k ≠ 2 → settled (s f) k
    (quiet fun k => { k with due := true }) ∧ (quiet fun k => { k with lostDue := true }) ∧
    (quiet fun k => { k with closeDue := true, frame := { open_ := true, counts := [3, 1] } }) ∧
    (quiet fun k => { k with budgetDue := true, lastTick := some 1964000, inst := some { start := 1964000, jobs := 2, accepted := 1 } }) ∧
    (let t := s fun k => { k with lastTick := some 1960000, frame := { open_ := true, counts := [3, 1] } }
     t.eng.tooEarly 2 = false ∧ t.eng.closesNow 2 = true) := by
  refine ⟨⟨rfl, rfl, rfl, rfl, ?_⟩, ⟨rfl, rfl, rfl, rfl, ?_⟩, ⟨rfl, rfl, rfl, rfl, ?_⟩, ⟨rfl, rfl, rfl, rfl, ?_⟩, by decide⟩ <;> unfold settled <;> decide

/-- A feed descriptor of 96 bytes, and a Hank descriptor of 112. -/
def feedBytes : List Byte :=
  leBytes 4 0x11 ++ leBytes 2 96 ++ [0, 0xFF] ++ List.replicate 30 0 ++ leBytes 2 0xFFFF ++ [0, 0, 8, 0, 0, 0, 0, 0, 0] ++ List.replicate 15 0 ++
    (leBytes 8 0x1000 ++ leBytes 16 0 ++ [0, 1, 0, 0, 0, 0, 0, 0])
def hankBytes : List Byte :=
  leBytes 4 0x12 ++ leBytes 2 112 ++ [0, 0xFF] ++ List.replicate 30 0 ++ leBytes 2 0xFFFF ++ [0, 0, 0, 0, 0, 0, 0, 0, 8] ++ List.replicate 15 0 ++ List.replicate 48 0

/-- Q5 is S0's job queue of LEVEL 2, and S0 has a save region and working banks. -/
def disp (banks : Nat) : Cfg :=
  let c := q5 1 0x21 0
  { c with queues := c.queues.map fun q => (q.1, { q.2 with level := 2 }), spindles := [(0, { client := 0, workBanks := banks, saveAddr := 2 ^ 62 })] }

/-- A packet of a descriptor. -/
def descPkt (b : List Byte) : Pkt := { cells := (chunks 64 b).map fun c => { data := c }, committed := true, visible := true }

def withHead (banks : Nat) (b : List Byte) (f : Spindle → Spindle) : State :=
  withCfg (disp banks) fun e => onS0 (fun s => f { s with pwr := .on, enable := true }) (holding { pkts := [descPkt b] } e)

theorem test_hyps_JobStart :
    (let s := withHead 4 feedBytes id
     (s.eng.firstReady 0).map (fun h => (h.queue, h.level)) = some (5, 2) ∧ s.eng.mustGiveWay 0 ⟨5, 2, descPkt feedBytes⟩ = [] ∧
     s.eng.descFault 0 (descPkt feedBytes).bytes = none) ∧
    (let s := withHead 4 (List.replicate 64 0) id
     (s.eng.firstReady 0).isSome = true ∧ s.eng.descFault 0 (descPkt (List.replicate 64 0)).bytes = some 1) := by decide +kernel

theorem test_hyps_PostAndClaim :
    (let x := job0 feedDesc fun x => { x with ended := some ⟨0, 0, 0, 0⟩ }
     let s := running (runs x id)
     s.eng.job? 0 0 = some x ∧ s.eng.jobId? 0 0 = some x ∧ s.eng.live = true ∧ s.eng.dutiesMet 0 x ⟨0, 0, 0, 0⟩ = true ∧ s.eng.doffer.buffers[0].length < 16) ∧
    (let x := job0 feedDesc fun x => { x with claim := some 4 }
     let s := withCfg (disp 4) (runs x id)
     ((s.eng.sp 0).jobs.find? fun x => x.claim.isSome && x.ended.isNone) = some x ∧ s.eng.jobId? 0 0 = some x ∧ s.eng.live = true ∧ 4 ≤ (s.eng.freeBanks 0).length ∧ s.eng.claimBehind 0 0 = false ∧
     x.desc.hank = none) := by decide +kernel

/-- A feed job that has sent one tile whole. -/
def oneTile (r : JobRun) : Job := job0 feedDesc fun x => { x with sentTiles := 1, run := r }

theorem test_hyps_Switching :
    (let s := withHead 4 feedBytes fun p => { p with jobs := [oneTile .running] }
     (s.eng.firstReady 0).isSome = true ∧
     ((s.eng.mustGiveWay 0 ⟨5, 2, descPkt feedBytes⟩).find? fun x => s.eng.maySwitch 0 (s.eng.switchGroup 0 x) 2) = some (oneTile .running) ∧
     s.eng.headHeld 0 (Desc.parse (descPkt feedBytes).bytes) = false) ∧
    (let s := withHead 4 hankBytes fun p => { p with jobs := [{ oneTile .running with banks := [7, 8, 9] }] }
     (s.eng.firstReady 0).isSome = true ∧ s.eng.headHeld 0 (Desc.parse (descPkt hankBytes).bytes) = true ∧ (s.eng.sp 0).heldCounted ≠ some (5, (descPkt hankBytes).visAt)) ∧
    (let s := running (runs (oneTile .saving) id)
     s.eng.live = true ∧ s.eng.job? 0 0 = some (oneTile .saving)) ∧
    (let s := running (runs (oneTile .out) id)
     s.eng.firstOut 0 = some (oneTile .out) ∧ s.eng.lowerWaits 0 7 = false ∧
     ((s.eng.sp 0).jobs.any fun y => y.ended.isNone && (y.run == .saving || y.run == .restoring || (y.run == .running && decide (y.level < 7)))) = false) ∧
    (running (runs (oneTile .restoring) id)).eng.job? 0 0 = some (oneTile .restoring) := by decide +kernel

/-- A completion record of S0 with an effect on knot 3. -/
def aRec : CompRec :=
  { tag := 0x11, status := 0, fault := 0, detail := 0, cflags := 0, nep := 0, where_ := 0, spindle := 0, setId := 0, kclocks := 0, bytesOut := 0, notify := true,
    effects := [⟨3, .add, 1, 1⟩], inst := none, scale := some 0x3F800000, cal := none }
def aFold : FoldRec :=
  { producer := 0x11, weightScale := 0, weightStream := 0x2000, dest := 0x3000, const := 0x3F800000, fromHeader := true, useConst := false }

theorem test_hyps_Records :
    (let s := running fun e => { e with doffer := { e.doffer with buffers := e.doffer.buffers.set 0 [aRec] } }
     s.eng.doffer.nextSpindle = some 0 ∧ s.eng.doffer.buffers[0] = [aRec] ∧ s.eng.live = true ∧ s.eng.doffer.accepted.length < 32) ∧
    (let s := running fun e => { e with doffer := { e.doffer with accepted := [aRec], log2 := 6 } }
     s.eng.doffer.current = none ∧ s.eng.doffer.accepted = [aRec] ∧ s.eng.conf.foldsOf aRec.tag = [] ∧ s.eng.doffer.ringSize = some 64 ∧ s.eng.doffer.full 64 = false) ∧
    (let c : Cfg := { plans := [(2, { folds := [aFold] })] }
     c.foldsOf aRec.tag = [aFold]) ∧
    (let s := running fun e => { e with doffer := { e.doffer with current := some (aRec, .header [aFold] false) } }
     s.eng.doffer.current = some (aRec, .header [aFold] false) ∧ s.eng.portsUp = true ∧ s.eng.quiescing = false ∧
     (∀ u ∈ s.eng.unitTxns, u.fold = true → u.write = false → u.slot < 64) ∧ Tab.wf 0 s.eng.mem = true) ∧
    (let s := running fun e => { e with unitTxns := [{ slot := 63, unit := .doffer, issued := 0, fold := true, addr := 0x3000 }], doffer := { e.doffer with current := some (aRec, .dest) } }
     s.eng.doffer.current = some (aRec, .dest) ∧ s.eng.portsUp = true ∧ s.eng.quiescing = false ∧ (∀ u ∈ s.eng.unitTxns, u.fold = true → u.write = true → u.slot < 64)) ∧
    (let s := running fun e => { e with knots := { e.knots with banks := e.knots.banks.set 3 [⟨5, .reg, 3, .set, 9⟩] } }
     Tab.wf {} s.eng.knots.table = true ∧ s.eng.up = true ∧ pickOldest s.eng.knots.banks[3] = some (⟨5, .reg, 3, .set, 9⟩, [])) := by decide +kernel

/-- A job that reads tensor 9. -/
def tensorJob : Job := job0 { expA := some { expBlk with streamAddr := 3 * 2 ^ 62 + 9 * 2 ^ 48 } } id

theorem test_hyps_Tensors :
    (let s := running fun e => runs tensorJob id { e with placeReqs := [⟨0, 0, 9, some 64, none, 0⟩], tensors := [(9, { staging := true, placed := true })] }
     Tab.wf {} s.eng.tensors = true ∧ s.eng.nextPlace = some ⟨0, 0, 9, some 64, none, 0⟩ ∧ s.eng.live = true ∧ (0 : Nat) ≠ thiefJob ∧ (s.eng.jobId? (spOf 0) 0).isSome = true ∧
     (s.eng.tensor 9).staging = true ∧ (s.eng.sp (spOf (s.eng.tensor 9).stager.1)).waitsFor (s.eng.tensor 9).stager.2 (pStage 9) = false) ∧
    (let s := running fun e => { e with tensors := [(9, { placed := true, freeWaits := true, high := 64 })] }
     (s.eng.tensor 9).freeWaits = true ∧ s.eng.heldOpen 9 = false) ∧
    (let s := running (runs tensorJob fun s => { s with xlateWait := [9] })
     s.eng.live = true ∧ (s.eng.sp 0).xlateWait.contains 9 = true) := by
  decide +kernel

/-! ## Ports, streams, the Ply array and drafting -/

/-- S0's job 0 with a transaction in slot 5 at 0x1000. -/
def aTxn (write : Bool) (issued : Nat) : Txn := { job := 0, write := write, addr := 0x1000, purpose := (40, 0), slot := some 5, issued := issued }
def inFlight (t : Txn) : State := running (runs (job0 feedDesc id) fun s => { s with txns := [t] })

theorem test_hyps_Responses :
    (let s := inFlight (aTxn false 0)
     s.eng.portsUp = true ∧ s.eng.quiescing = false ∧ idShared 5 = false ∧ s.eng.txnAt (idSpindle 0 5) (idSlot 5) = some (aTxn false 0) ∧
     (aTxn false 0).job ≠ thiefJob ∧ (s.eng.jobId? (idSpindle 0 5) 0).isSome = true ∧ respDetail false .decerr = some 2 ∧ s.eng.late 0 = true) ∧
    (let s := inFlight (aTxn true 1999999)
     s.eng.txnAt (idSpindle 0 5) (idSlot 5) = some (aTxn true 1999999) ∧ respDetail true .slverr = some 3 ∧ s.eng.late 1999999 = false) ∧
    (let u : UnitTxn := { slot := 5, unit := .doffer, issued := 0 }
     let s := running fun e => { e with unitTxns := [u] }
     idShared 133 = true ∧ s.eng.unitOf 0 133 = some u ∧ u.write = true ∧ u.timedOut = false ∧ u.fold = false) ∧
    (let s := (inFlight (aTxn true 0)).onEng fun e => { e with power := { e.power with phase := .quiesce } }
     s.eng.portsUp = true ∧ s.eng.quiescing = true ∧ s.eng.txnAt (idSpindle 0 5) (idSlot 5) = some (aTxn true 0)) ∧
    (running id).eng.bound.isSome = true ∧ (running id).eng.passedUs (running id).eng.windowStart 10 = true := by decide +kernel

/-- A dense stream of one tile of 16 codes. -/
def hdr16 : SkeinHdr :=
  { magic := magicSkein, format := 1, codeType := 0, version := 1, ndim := 1, tileRows := 1, tileCols := 1, tileChans := 16, dim0 := 16, dim1 := 1, dim2 := 1, dim3 := 1,
    elements := 16, scale := 0x3F800000, tableOffset := 64, tileCount := 1 }

/-- A feed job of the stream at 0x1000, which stands in a phase of its opening. -/
def reading (st : Strm) (mem : List Byte) : State :=
  running fun e => runs (job0 feedDesc fun x => { x with strA := some st }) id { e with mem := writeBytes [] 0x1000 mem }
def strm16 (p : StrmPhase) : Strm := { blk := expBlk, phase := p }

/-- Headers and entries that R67 accepts and rejects, and payloads of both kinds. -/
theorem test_hyps_Streams_header :
    (let st := strm16 .header
     let s := reading st hdr16.toBytes
     let x := job0 feedDesc fun x => { x with strA := some st }
     worksAt s 0 0 x ∧ x.strm .a = some st ∧ st.wrapped = none ∧ st.blk.scaleSrc ≠ 1 ∧ (s.eng.sp 0).waitsFor 0 (pFold .a) = false ∧
     readIsIn s 0 x (pHeader .a) st.addr 64 ∧ x.form = .feed ∧ fieldAt (s.eng.readAt st.addr 64) 0 4 ≠ magicHank ∧
     (SkeinHdr.parse (s.eng.readAt st.addr 64)).ok x.grids = true ∧ x.desc.lock = false ∧ x.isSecond .a = false ∧
     blockOk x .a (st.opened x .a (SkeinHdr.parse (s.eng.readAt st.addr 64)) none 0) = true) ∧
    (let hb := (reading (strm16 .header) []).eng.readAt (.mem 0x1000) 64
     (SkeinHdr.parse hb).ok [] = false ∧ fieldAt hb 0 4 ≠ magicHank ∧ fieldAt hb 0 4 ≠ magicList ∧ fieldAt hb 0 4 ≠ magicSkein) ∧
    (let hb (h : HankHdr) := (reading (strm16 .header) h.toBytes).eng.readAt (.mem 0x1000) 64
     let h : HankHdr := { blockSize := 0, chainDepth := 8, rawLen := 4, blockCount := 1, tableOffset := 64, storedCount := 1 }
     fieldAt (hb h) 0 4 = magicHank ∧ hankOpenError (hb h) = none ∧ hankOpenError (hb { h with rawLen := 0 }) = some 1) ∧
    ((running (onS0 fun s => { s with hankEn := true })).eng.sp 0).hankEn = true ∧
    ((running (onS0 fun s => { s with hankEn := false })).eng.sp 0).hankEn = false ∧ ((running id).eng.sp 0).drainHank = none := by
  refine ⟨⟨⟨rfl, rfl, rfl, rfl⟩, rfl, rfl, by decide, rfl, ⟨rfl, rfl, rfl, rfl⟩, by decide, by decide +kernel, by decide +kernel, rfl, by decide, by decide +kernel⟩,
    by decide +kernel, by decide +kernel, rfl, rfl, rfl⟩

/-- The stream's tile with its entry asked for, and decoded so far. -/
def entered (p : StrmPhase) (es : List TileEntry) (fmt : Nat) : Strm :=
  { strm16 p with hdr := { hdr16 with format := fmt }, count := 1, asked := 1, paid := es.length, entries := es }

def tileBytes (offset length : Nat) (data : List Byte) : List Byte := hdr16.toBytes ++ leBytes 4 offset ++ leBytes 4 length ++ List.replicate 56 0 ++ data

theorem test_hyps_Streams_entry :
    let st := entered .entry [] 1
    let s (l : Nat) := reading st (tileBytes 128 l [])
    let x := job0 feedDesc fun x => { x with strA := some st }
    worksAt (s 16) 0 0 x ∧ x.strm .a = some st ∧ st.lst = none ∧ st.phase = .entry ∧ x.readTile .a st st.entries.length = some 0 ∧ st.decoded + st.entries.length < st.asked ∧
    readIsIn (s 16) 0 x (pEntry .a 0) (st.addr.plus 64) 8 ∧
    (TileEntry.parse ((s 16).eng.readAt (st.addr.plus 64) 8)).ok st.hdr 0 = true ∧ (TileEntry.parse ((s 15).eng.readAt (st.addr.plus 64) 8)).ok st.hdr 0 = false ∧
    (entered .setup [⟨128, 16, false⟩] 1).phase = .setup := by
  refine ⟨⟨rfl, rfl, rfl, rfl⟩, rfl, rfl, rfl, by decide, by decide, ⟨rfl, rfl, rfl, rfl⟩, by decide +kernel, by decide +kernel, rfl⟩

/-- A dense payload decodes; a 2:4 payload whose positions are all zero does not (R57). -/
theorem test_hyps_Streams_payload :
    let st := entered .open [⟨128, 16, false⟩] 1
    let s := reading st (tileBytes 128 16 (List.replicate 16 3))
    let x := job0 feedDesc fun x => { x with strA := some st }
    worksAt s 0 0 x ∧ st.phase = .open ∧ x.form = .feed ∧ x.words = [] ∧ x.mayDecode .a st = true ∧ st.entries = [⟨128, 16, false⟩] ∧ x.readTile .a st 0 = some 0 ∧ st.decoded < st.paid ∧
    readIsIn s 0 x (pPayload .a 0) (st.addr.plus 128) 16 ∧
    (match decodeTile st.hdr 0 ⟨128, 16, false⟩ (s.eng.readAt (st.addr.plus 128) 16) with | .ok cs => cs.length == 16 | .error _ => false) = true ∧
    (match decodeTile (entered .open [⟨128, 16, false⟩] 2).hdr 0 ⟨128, 16, false⟩ (List.replicate 16 0) with | .ok _ => false | .error d => d == 1) = true := by
  refine ⟨⟨rfl, rfl, rfl, rfl⟩, rfl, by decide, rfl, by decide, rfl, by decide, by decide, ⟨rfl, rfl, rfl, rfl⟩, by decide +kernel, by decide +kernel⟩

/-- A Ply job with both tiles decoded. -/
def plyJob (p : Ply) (f : Draft → Draft) : Job :=
  let st : Strm := { entered .open [⟨128, 16, false⟩] 1 with decoded := 1, planVec := 1, held := [(0, List.replicate 16 (some 1))] }
  job0 { feedDesc with expB := some expBlk, srcKind := 3, draft := some draftBlk, shape := some shape2 } fun x =>
    { x with strA := some st, strB := some st, ply := some p, draft := some (f { shape := shape2 }) }

theorem test_hyps_Ply :
    (let x := plyJob {} id
     let s := running (runs x id)
     worksAt s 0 0 x ∧ (x.ply.map fun p => p.vec) = some 0 ∧
     s.eng.arrayFor 0 x.id = true ∧ x.form = .ply ∧
     (match x.strA, x.strB with
      | some a, some w => decide (0 < a.positions) && a.readyFor 0 (fillKey (segCount a.hdr.dim0) (laneGroups w.cols) 0 0) && w.readyFor 0 0
      | _, _ => false) = true) ∧
    (let b : WhorlBank := ⟨0, 0, 0, List.replicate 16 [1], [0], 1⟩
     let s := running fun e => { e with scrub := { e.scrub with lost := [(4, 0, 512)] } }
     ({ banks := [b] } : Ply).canRead = true ∧ b.groups = [0] ∧ (running id).eng.scrub.unreadable (whorlRows 0 b.half b.entries.length) .ok = none ∧
     s.eng.scrub.unreadable (whorlRows 0 b.half b.entries.length) .ok = some (4, 0, 512) ∧
     (({ banks := [{ b with half := 0 }] } : Ply).banks.map fun b => b.half) = [0]) ∧
    (let g : AccGroup := ⟨0, 0, List.replicate 64 7, true⟩
     ({ accs := [g] } : Ply).accs = [g] ∧ g.full = true) := by
  refine ⟨⟨⟨rfl, rfl, rfl, rfl⟩, rfl, by decide +kernel, by decide, by decide +kernel⟩, by decide, by decide⟩

/-- A drafting job of 16 FP32 elements that come over the back channel. -/
def draftJob (b : DraftBlk) (d : Draft) : Job := job0 { srcKind := 2, draft := some b, shape := some shape2 } fun x => { x with draft := some d }
def twoPassBlk : DraftBlk := { draftBlk with scaleMode := 1 }
def srcOnes : List Byte := (List.replicate 16 (leBytes 4 0x3F800000)).flatten

theorem test_hyps_CarderAndDrafter :
    (let d : Draft := { shape := shape2, src := srcOnes }
     let x := draftJob draftBlk d
     let s := running (runs x id)
     worksAt s 0 0 x ∧ s.eng.mayPass 0 x false = true ∧ x.desc.srcKind ≠ 1 ∧ (0 + chunkLen x.desc draftBlk d 0) * srcBytes x.desc draftBlk ≤ d.src.length) ∧
    (let d : Draft := { shape := shape2, src := srcOnes, carded := 16 }
     d.phase = .carding ∧ twoPassBlk.twoPass = true ∧ twoPassBlk.group = false ∧ d.carded = d.n ∧ d.n ≠ 0) ∧
    (let d : Draft := { shape := shape2, src := srcOnes, carded := 8 }
     let x := draftJob draftBlk d
     let s := running (runs x id)
     s.eng.mayPass 0 x true = true ∧ d.drafted + chunkLen x.desc draftBlk d d.drafted ≤ d.carded ∧
     (narrowRun x.grids draftBlk f32One ((chunks 4 (d.src.take 32)).map (srcVal x.desc draftBlk d))).slub = false) ∧
    (let d : Draft := { shape := shape2, src := srcOnes, carded := 16, phase := .drafting }
     let x := { draftJob twoPassBlk d with banks := [0], srcBanks := [0] }
     let s := running fun e => runs x id { e with scrub := { e.scrub with lost := [(1, 0, 0)] } }
     s.eng.mayPass 0 x true = true ∧ x.storedAt twoPassBlk = none ∧ (s.eng.readRows (bankRows 0 x.srcBanks 0 32) .ok false).2 = true ∧
     ((running (runs x id)).eng.readRows (bankRows 0 x.srcBanks 0 32) .ok false).2 = false) ∧
    (let d : Draft := { shape := shape2, phase := .header }
     let x := draftJob draftBlk d
     d.phase = .header ∧ (running (runs x id)).eng.writesOut 0 x [32, 33, 34] = false) := by
  refine ⟨⟨⟨rfl, rfl, rfl, rfl⟩, by decide +kernel, by decide, by decide +kernel⟩, by decide, by decide +kernel, by decide +kernel, by decide +kernel⟩

/-- A drafting job of a scale group of one at 0x4000, with knot 7. -/
def groupBlk : DraftBlk := { twoPassBlk with group := true, groupAddr := 0x4000, groupKnot := 7, groupCount := 1 }
def stepJob (id : Nat) (d : Draft) : Job := { draftJob draftBlk d with id := id, desc := { (draftJob draftBlk d).desc with step := true, stepSize := 2, setId := 4 } }

theorem test_hyps_GroupsAndSets :
    (let d : Draft := { shape := shape2, phase := .slot }
     let x := draftJob groupBlk d
     let s := running (runs x id)
     s.eng.job? 0 0 = some x ∧ s.eng.jobId? 0 0 = some x ∧ s.eng.live = true ∧ d.knotDone = false ∧ s.eng.writesOut 0 x [35] = false) ∧
    (let d : Draft := { shape := shape2, phase := .groupWait, asked := true }
     let x := draftJob groupBlk d
     let s := running fun e => runs x id { e with knots := { e.knots with table := [(7, { count := 1 })] } }
     x.acts = true ∧ groupBlk.groupCount ≤ (s.eng.knot 7).count.toNat ∧ readIsIn s 0 x pSlots (groupBlk.slotAddr 0) 576 ∧ x.desc.step = false ∧
     (mergeSlots 1 (chunks 576 (List.replicate 576 0))).isNone = true ∧
     (mergeSlots 1 [List.replicate 0x29 0 ++ [1] ++ List.replicate 534 0]).isSome = true) ∧
    (let d : Draft := { shape := shape2, phase := .setWait }
     let s := running (onS0 fun p => { p with pwr := .on, enable := true, jobs := [stepJob 0 d, stepJob 1 d] })
     let members := (s.eng.sp 0).jobs.filter fun x => x.desc.step && x.desc.setId == 4
     ((s.eng.sp 0).jobs.map fun y => y.id).Nodup ∧ stepJob 0 d ∈ members ∧ members.length = 2 ∧
     ∀ y ∈ members, y.desc.stepSize = 2 ∧ y.ended = none ∧ y.acts = true ∧ s.eng.writesOut 0 y [32] = false) := by
  refine ⟨by decide +kernel, ⟨rfl, by decide +kernel, ⟨rfl, rfl, rfl, rfl⟩, rfl, by decide +kernel⟩, by decide +kernel⟩

/-! ## Sparse matching, Hank, halves and boxes -/

/-- S0's lanes work for its job 0: a row of two entries against a row of one. -/
def ctx0 : MergeCtx :=
  { owner := 0, job := 0, gather := false, intMode := true, extent := 16, ra := 1, rb := 1, opA := strm16 .open, opB := strm16 .open,
    rowsA := [[(1, 2), (5, 3)]], rowsB := [[(5, 4)]], whorl := [], giver := 0, codeA := 0, codeB := 0, gridA := [], gridB := [],
    stealArea := 0x8000, stealKnot := 9, laneSteal := true, ringSteal := true }
def seg0 : Seg := { output := 0, row := 0, bRow := 0, index := 0 }
def lanes (ls : Tab Lane) (f : Spindle → Spindle) : State :=
  running (onS0 fun s => f { s with pwr := .on, enable := true, merge := some ctx0, lanes := ls })

/-- Row 0 of A descends. -/
def badCtx : MergeCtx := { ctx0 with rowsA := [[(5, 1), (2, 1)]], rowsB := [[(2, 4), (5, 4)]] }
def badState : State :=
  running (runs (job0 feedDesc id) fun s => { s with merge := some badCtx, lanes := [(0, { cur := some (seg0, true) })] })

/-- S0 is a thief of S1's job 0, and its lane 0 has read its segment's rows. -/
def thiefCtx : MergeCtx := { ctx0 with owner := 1, giver := 1, rowsA := [], rowsB := [] }
def thiefSeg : Seg := { seg0 with record := some 2 }
def thiefState : State :=
  running (onS0 fun s => { s with pwr := .on, enable := true, merge := some thiefCtx,
                                  lanes := [(0, { cur := some (thiefSeg, true), read := { stage := 7, rowA := [(5, 3)], rowB := [(5, 4)] } })] })

theorem test_hyps_Lanes :
    (let s := lanes [(63, { cur := some (seg0, false) })] id
     Tab.wf {} (s.eng.sp 0).lanes = true ∧ (laneAt s 0 63).cur = some (seg0, false)) ∧
    (let s := running (runs (job0 feedDesc id) fun s => { s with merge := some ctx0, lanes := [(0, { cur := some (seg0, true) })] })
     (s.eng.sp 0).merge = some ctx0 ∧ (laneAt s 0 0).cur = some (seg0, true) ∧ s.eng.bankThere 0 ctx0 0 seg0 = true ∧ ctx0.owner = 0 ∧
     (segPairs ctx0 seg0 (s.eng.segRows 0 ctx0 0 seg0).1 (s.eng.segRows 0 ctx0 0 seg0).2).bad = none ∧ (s.eng.jobId? 0 0).isSome = true) ∧
    ((segPairs badCtx seg0 [(5, 1), (2, 1)] [(2, 4), (5, 4)]).bad = some .a ∧ (badState.eng.sp 0).merge = some badCtx ∧
     badState.eng.segRows 0 badCtx 0 seg0 = ([(5, 1), (2, 1)], [(2, 4), (5, 4)]) ∧ badState.eng.bankThere 0 badCtx 0 seg0 = true) ∧
    (thiefState.eng.bankThere 0 thiefCtx 0 thiefSeg = true ∧ thiefCtx.owner ≠ 0 ∧ (laneAt thiefState 0 0).read.fail = none ∧
     (segPairs thiefCtx thiefSeg (thiefState.eng.segRows 0 thiefCtx 0 thiefSeg).1 (thiefState.eng.segRows 0 thiefCtx 0 thiefSeg).2).bad = none ∧
     (match Addr.parse thiefCtx.stealArea with | .mem a => decide (a + 16 * 2 + 16 ≤ 2 ^ 32) | _ => false) = true) ∧
    (let c : MergeCtx := { ctx0 with gather := true, whorl := [(0, 0)] }
     let s := running fun e => runs (job0 feedDesc id) (fun s => { s with merge := some c, lanes := [(0, { cur := some (seg0, true) })] })
       { e with scrub := { e.scrub with lost := [(4, 0, 3)] } }
     s.eng.bankThere 0 c 0 seg0 = true ∧ s.eng.scrub.unreadable (c.whorlRows 0 seg0) .ok = some (4, 0, 3) ∧ s.eng.jobLive 0 0 = true ∧
     (running id).eng.scrub.unreadable (c.whorlRows 0 seg0) .ok = none) ∧
    (let s := lanes [(1, { unstarted := [seg0] })] id
     (s.eng.sp 0).mayAsk 0 63 = true ∧ (laneAt s 0 63).steal = .idle) ∧
    (let s := lanes [(1, { unstarted := [seg0], asked := [0] })] id
     (laneAt s 0 1).asked ≠ []) ∧
    (let s := lanes [(0, { answer := some [seg0] })] id
     (laneAt s 0 0).answer = some [seg0]) ∧
    (let s := lanes [(0, { answer := some [], steal := .askedFirst })] id
     (laneAt s 0 0).answer = some [] ∧ (laneAt s 0 0).steal = .askedFirst) ∧
    (let s := lanes [(0, { answer := some [], steal := .askedSecond })] id
     (laneAt s 0 0).answer = some [] ∧ (laneAt s 0 0).steal = .askedSecond) ∧
    (laneAt (lanes [(0, { steal := .waiting })] id) 0 0).steal = .waiting := by decide +kernel

/-- S0 may steal around the ring. -/
def ringState (f : Spindle → Spindle) : State :=
  withCfg { clients := [(0, { kind := 1, ports := 1 })], spindles := [(0, { client := 0, ringSteal := true })] } (onS0 fun s => f { s with pwr := .on, enable := true, ringEn := true })

/-- S1's lane 4 holds segments that have not started, of its own job 0. -/
def victimState (k : Nat) : State :=
  withCfg { clients := [(0, { kind := 1, ports := 1 })], spindles := [(0, { client := 0, ringSteal := true }), (1, { client := 0, ringSteal := true })] } fun e =>
    (onS0 (fun s => { s with pwr := .on, enable := true, ringEn := true }) e).modSp 1 fun s =>
      { s with pwr := .on, enable := true, ringEn := true, merge := some { ctx0 with owner := 1 }, lanes := [(4, { unstarted := List.replicate k seg0 })]
               jobs := [{ id := 0, desc := feedDesc, level := 7, inst := none, sparse := some {} }], jobNext := 1 }

/-- Of three segments the later two are granted (R182). -/
theorem test_ring_grant :
    ends (exec (.ringStealRequest 0) (victimState 3)) (fun t =>
      ((t.eng.sp 0).ringAnswer.map fun a => a.map fun g => g.2.map fun s => s.record) == some (some [some 0, some 1]) &&
      ((t.eng.sp 1).lane 4).unstarted.length == 1 && (t.eng.sp 1).work.stealOut == 2) = true := by decide +kernel

theorem test_hyps_Ring :
    (let s := ringState id
     s.eng.mayRingSteal 0 = true ∧ (s.eng.sp 0).ringSteal = .idle ∧ (s.eng.sp 0).ringAnswer = none) ∧
    ((ringState fun s => { s with ringAnswer := some (some ({ ctx0 with owner := 1 }, [seg0])) }).eng.sp 0).ringAnswer = some (some ({ ctx0 with owner := 1 }, [seg0])) ∧
    (let s := ringState fun s => { s with ringAnswer := some none, ringSteal := .askedSecond }
     (s.eng.sp 0).ringAnswer = some none ∧ (s.eng.sp 0).ringSteal = .askedSecond) ∧
    (let s := ringState fun s => { s with ringAnswer := some none, ringSteal := .askedFirst }
     (s.eng.sp 0).ringAnswer = some none ∧ (s.eng.sp 0).ringSteal = .askedFirst) ∧
    ((ringState fun s => { s with ringSteal := .waiting }).eng.sp 0).ringSteal = .waiting ∧
    (let s := victimState 3
     s.eng.mayRingSteal 0 = true ∧ (s.eng.sp 1).merge.isSome = true ∧ Tab.wf {} (s.eng.sp 1).lanes = true ∧ (s.eng.sp 1).fullestLane = (4, 3) ∧
     (s.eng.sp 1).ringEn = true ∧ s.eng.conf.clientOf 1 = s.eng.conf.clientOf 0 ∧ (s.eng.sp 1).abandons = []) ∧
    (let s := ringState fun s => { s with ringRecs := [⟨1, 0, 2, 9, none⟩] }
     ((s.eng.sp 0).ringRecs.find? fun r => r.held.isNone && !(s.eng.sp 0).waitsFor thiefJob (wRecord r.record)) = some ⟨1, 0, 2, 9, none⟩) ∧
    (let s := thiefState.onEng (onS0 fun s => { s with abandons := [(1, 0)] })
     (s.eng.sp 0).abandons = [(1, 0)] ∧ s.eng.jobLive (spOf 1) 0 = false ∧ (s.eng.sp 0).merge = some thiefCtx ∧ thiefCtx.owner = 1 ∧ thiefCtx.job = 0 ∧
     (s.eng.sp 0).ringAnswer = none) := by decide +kernel

/-- A sparse job with operand A unsorted. -/
def sparseBlk : MatchBlk :=
  { mode := 0, laneSteal := false, ringSteal := false, unsortedA := true, unsortedB := false, nepThresh := 0, stealArea := 0, stealKnot := 0 }
def sparseJob (rows : List (List (Nat × Nat))) : Job :=
  let st : Strm := { strm16 .open with decoded := 1, rows := rows }
  job0 { feedDesc with expB := some expBlk, mtch := some sparseBlk, srcKind := 3, draft := some draftBlk, shape := some shape2 } fun x =>
    { x with strA := some st, strB := some st, sparse := some { opened := 1 } }

/-- A row that one pass sorts, one with equal indices, and one of 65,537 entries that takes two passes. -/
theorem test_hyps_Sorting :
    worksAt (running (runs (sparseJob [[(5, 1), (2, 1)]]) id)) 0 0 (sparseJob [[(5, 1), (2, 1)]]) ∧ sparseBlk.unsortedA = true ∧
    (let s := running (runs (sparseJob [[(5, 1), (2, 1)]]) id); (s.eng.sp 0).waits 0 true 40 = false ∧ (s.eng.sp 0).waits 0 false 22 = false) ∧
    sortPasses [((5 : Nat), (1 : Nat)), (2, 1)].length ≤ 0 + 1 ∧
    ascending ((sortRow [(5, 1), (2, 1)]).map (·.1)) = true ∧ ascending ((sortRow [(5, 1), (5, 2)]).map (·.1)) = false ∧
    0 + 1 < sortPasses (List.replicate 65537 ((1 : Nat), (1 : Nat))).length := by
  refine ⟨⟨rfl, rfl, rfl, rfl⟩, rfl, ⟨rfl, rfl⟩, by decide, by decide +kernel, by decide +kernel, ?_⟩
  rw [List.length_replicate]; decide

theorem test_hyps_Reduce :
    let x := sparseJob []
    let s := running (runs x fun p => { p with merge := some ctx0, lanes := [(0, { partials := [⟨0, 12⟩] })] })
    (x.sparse.map fun p => p.drained) = some 0 ∧ (s.eng.sp 0).merge = some ctx0 ∧ ctx0.job = x.id ∧
    0 < min (64 * 1) (ctx0.ra * ctx0.rb) ∧ Tab.getD ([] : Tab Nat) 0 0 = 0 ∧
    x.sparse = some { opened := 1 } ∧ ({ opened := 1 } : Sparse).granted = [] := by decide +kernel

/-- The job has granted record 0 of output 0, which lies in memory: not asked for yet, and read. -/
def grantedJob (asked : List Nat) : Job :=
  { sparseJob [] with sparse := some { opened := 1, granted := [(0, 0)], recAsked := asked } }
def recState (asked : List Nat) (rec : List Byte) : State :=
  running fun e => runs (grantedJob asked) (fun p => { p with merge := some ctx0, lanes := [(0, { partials := [⟨0, 12⟩] })] })
    { e with mem := writeBytes [] 0x8000 rec, knots := { e.knots with table := [(0, { count := 1 })] } }

theorem test_hyps_Records_of_a_thief :
    (let s := recState [] []
     worksAt s 0 0 (grantedJob []) ∧ s.eng.recordsIn (grantedJob []) = true ∧ s.eng.placeFault 0 false (.mem 0x8000) 16 = none) ∧
    (let s := recState [0] (stealRecord 0 70 0 0 8 1)
     worksAt s 0 0 (grantedJob [0]) ∧ s.eng.recordsIn (grantedJob [0]) = true ∧ (s.eng.sp 0).waitsFor 0 (pRecords 0) = false ∧ s.eng.translated 0 (.mem 0x8000) = true ∧
     bitOf (fieldAt (s.eng.readAt (.mem 0x8000) 16) 6 1) 1 = false) ∧
    bitOf (fieldAt ((recState [0] (stealRecord 0 70 2 5 0 0)).eng.readAt (.mem 0x8000) 16) 6 1) 1 = true := by
  refine ⟨⟨⟨rfl, rfl, rfl, rfl⟩, by decide, rfl⟩, ⟨⟨rfl, rfl, rfl, rfl⟩, by decide, rfl, rfl, by decide +kernel⟩, by decide +kernel⟩

/-- A Hank job of S0 over 4 bytes at 0x2000. -/
def hankBlk (op : Nat) : HankBlk :=
  { op := op, blockSize := 0, chainDepth := 0, srcLen := 4, srcAddr := 0x2000, dstAddr := 0x4000, dstSpace := 4096, blockFirst := 0, blockRun := 0 }
def hankJob (op : Nat) (k : Hank) : Job := job0 { hank := some (hankBlk op) } fun x => { x with hank := some k }
def hankHdr4 : HankHdr := { blockSize := 0, chainDepth := 8, rawLen := 4, blockCount := 1, tableOffset := 64, storedCount := 1 }
def hankState (op : Nat) (k : Hank) : State := withCfg (disp 11) (runs (hankJob op k) id)

theorem test_hyps_Hank_encode :
    (let s := hankState 1 {}
     s.eng.sideWaiter 0 .dec = some (hankJob 1 {}) ∧ s.eng.jobId? 0 0 = some (hankJob 1 {}) ∧ s.eng.live = true ∧ s.eng.sideFree 0 .dec = true ∧
     s.eng.writeFault 0 (Addr.parse (hankBlk 1).dstAddr) 4 = none ∧ 4 ≤ (hankBlk 1).dstSpace) ∧
    (let k : Hank := { held := true }
     worksAt (hankState 0 k) 0 0 (hankJob 0 k) ∧ k.matched = none ∧ k.next < (hankBlk 0).frame.blockCount ∧
     readIsIn (hankState 0 k) 0 (hankJob 0 k) (pHankData 0) (.mem 0x2000) 4) ∧
    (let k : Hank := { held := true, matched := some (0, [(65, 0)]) }
     k.built = none ∧ (hankJob 0 k).acts = true) ∧
    (let k : Hank := { held := true, built := some (0, [1, 2], false) }
     (hankJob 0 k).hank = some k ∧ (hankBlk 0).dstSpace < 4095 + 2 ∧ roundUp 80 16 + [(1 : Nat), 2].length ≤ (hankBlk 0).dstSpace ∧
     (hankState 0 k).eng.writeFault 0 ((Addr.parse (hankBlk 0).dstAddr).plus 80) 2 = none) := by
  refine ⟨by decide +kernel, ⟨⟨rfl, rfl, rfl, rfl⟩, rfl, by decide, ⟨rfl, rfl, rfl, rfl⟩⟩, ⟨rfl, rfl⟩, ⟨rfl, by decide, by decide, by decide +kernel⟩⟩

/-- A decoder takes a frame's header, or faults at one whose RAW_LEN is 0 (R232). -/
theorem test_hyps_Hank_header :
    let k : Hank := { held := true }
    let s (h : HankHdr) : State := withCfg (disp 11) fun e => runs (hankJob 1 k) id { e with mem := writeBytes [] 0x2000 h.toBytes }
    worksAt (s hankHdr4) 0 0 (hankJob 1 k) ∧ readIsIn (s hankHdr4) 0 (hankJob 1 k) pHankHdr (.mem 0x2000) 64 ∧
    hankOpenError ((s hankHdr4).eng.readAt (.mem 0x2000) 64) = none ∧ (hankBlk 1).blockFirst < hankHdr4.blockCount ∧
    hankOpenError ((s { hankHdr4 with rawLen := 0 }).eng.readAt (.mem 0x2000) 64) = some 1 ∧ hankEntryOk 80 0 = false := by
  refine ⟨⟨rfl, rfl, rfl, rfl⟩, ⟨rfl, rfl, rfl, rfl⟩, by decide +kernel, by decide, by decide +kernel, by decide⟩

/-- A block in stored form decodes, and one whose form is 3 does not. -/
theorem test_hyps_Hank_decode :
    (let k : Hank := { held := true, hdr := some hankHdr4, entries := [(80, 9, true)], asked := 1 }
     let s := hankState 1 k
     worksAt s 0 0 (hankJob 1 k) ∧ s.eng.hankAdvance 0 0 = s.eng ∧ k.entries[k.setups]? = some (80, 9, true) ∧ k.closing = false ∧ k.setups < k.next + 2 ∧
     hankEntryOk 80 9 = true ∧ readIsIn s 0 (hankJob 1 k) (pHankData 0) (.mem 0x2050) 9) ∧
    (let k : Hank := { held := true, hdr := some hankHdr4, entries := [(80, 9, true)], asked := 1, setups := 1 }
     k.next < k.setups ∧ hankHdr4.blockLen 0 = 4 ∧
     (match hankDecode 4 [1, 4, 0, 0xFB, 0xFF, 9, 8, 7, 6] with | .ok out => out == [9, 8, 7, 6] | .error _ => false) = true ∧
     (match hankDecode 4 [7] with | .ok _ => false | .error e => e == (0x0A, 5)) = true) := by
  refine ⟨⟨⟨rfl, rfl, rfl, rfl⟩, by decide +kernel, by decide, rfl, by decide, by decide, ⟨rfl, rfl, rfl, rfl⟩⟩, by decide, by decide, by decide +kernel, by decide +kernel⟩

/-- A ring with two slots. -/
def ring2 : RingDesc :=
  { slotAddr := 0x9000, spillAddr := 0xB000, halfSize := 128, spillSize := 256, slots := 2, lines := 1, readyDown := 20, readyUp := 21, freeDown := 22, freeUp := 23 }
def windowBlk : WindowBlk :=
  { kw := 1, kh := 3, stride := 1, replicate := false, channelBlock := false, dil := 1, padTop := 0, padBottom := 0, padLeft := 0, padRight := 0, outFirst := 0, outLines := 1,
    inFirst := 1, frameLines := 4, ringAbove := 0x6000, ringBelow := 0, round := 0 }

theorem test_hyps_Halves :
    (let h : HalfOut := { down := true, ring := ring2, bytes := some [1, 2] }
     let x := job0 {} fun x => { x with halves := [h] }
     let s := running (runs x id)
     s.eng.job? 0 0 = some x ∧ s.eng.jobId? 0 0 = some x ∧ s.eng.live = true ∧
     (x.halves.any fun h => h.bytes.isSome && !h.written && s.eng.slotFree h.ring x.round) = true ∧ [(1 : Nat), 2].length ≤ max ring2.halfSize ring2.spillSize) ∧
    (let h : HalfOut := { down := true, ring := ring2, written := true }
     let x := job0 {} fun x => { x with halves := [h] }
     let s := running (runs x id)
     ((List.range x.halves.length).find? fun i => match x.halves[i]? with
        | some h => h.written && !h.acked && !(s.eng.sp 0).waitsFor 0 (wHalf i) && !(x.held.any fun w => w.purpose == wHalf i)
        | none => false) = some 0) ∧
    (let w : Window := { above := .owed ring2, waiting := some true }
     let x := job0 { feedDesc with window := some windowBlk } fun x => { x with window := some w }
     let s := running fun e => runs x id { e with knots := { e.knots with table := [(ring2.ready true, { count := 1 })] } }
     x.acts = true ∧ w.half true = .owed ring2 ∧ windowBlk.round + 1 ≤ (s.eng.knot (ring2.ready true)).count.toNat) := by decide +kernel

/-- A reader's half above at 0x9080 of its ring, of round 0, behind the header given. -/
def halfHdr : SkeinHdr := { hdr16 with ndim := 3, dim2 := 2, elements := 32, tileCount := 2 }
def halfState (h : HalfRead) (mem : List Byte) : State :=
  running fun e => runs (job0 { feedDesc with window := some windowBlk } fun x =>
      { x with window := some { above := h, waiting := some true }, strA := some { strm16 .open with hdr := halfHdr } }) id
    { e with mem := writeBytes [] 0x9000 mem, knots := { e.knots with table := [(ring2.ready true, { count := 1 })] } }

/-- A half opens, is spilled, lacks its magic, breaks R67, or is of another width; and a spilled one is read. -/
theorem test_hyps_Halves_readers :
    (let hb (m : List Byte) := SkeinHdr.parse ((halfState (.owed ring2) m).eng.readAt (.mem 0x9000) 64)
     ring2.halfAddr 0 true = 0x9000 ∧ ring2.spillPlace 0 true = 0xB000 ∧ (halfState (.owed ring2) []).eng.placeFault 0 false (.mem 0x9000) 64 = none ∧
     (halfState (.owed ring2) []).eng.placeFault 0 false (.mem 0xB000) 64 = none ∧
     (hb halfHdr.toBytes).ok [] = true ∧ hb halfHdr.toBytes = halfHdr ∧ (hb []).magic ≠ magicSkein ∧ (hb { halfHdr with elements := 31 }.toBytes).ok [] = false ∧
     (hb { halfHdr with dim0 := 32, elements := 64, tileCount := 4 }.toBytes).ok [] = true ∧
     fieldAt ((halfState (.owed ring2) (leBytes 4 magicSpill)).eng.readAt (.mem 0x9000) 64) 0 4 = magicSpill) ∧
    (let s := halfState (.spilled ring2) []
     ∀ x, s.eng.jobId? 0 0 = some x → readIsIn s 0 x (pHalf (b2n true)) (.mem 0xB000) 64) := by
  refine ⟨by decide +kernel, ?_⟩
  intro s x h
  cases h
  exact ⟨rfl, rfl, rfl, rfl⟩

/-- A box list of one box at 0x7000, and its header. -/
def cropDesc : Desc := { feedDesc with crop := some ⟨0x7000, 0, 0⟩ }
def boxHeader (count : Nat) : List Byte := leBytes 4 magicBox ++ leBytes 4 1 ++ leBytes 4 count ++ leBytes 4 64

theorem test_hyps_Boxes :
    (let x := job0 cropDesc fun x => { x with crop := some {} }
     let s (m : List Byte) := running fun e => runs x id { e with mem := writeBytes [] 0x7000 m }
     (s []).eng.job? 0 0 = some x ∧ x.acts = true ∧ readIsIn (s (boxHeader 1)) 0 x pBoxes (.mem 0x7000) 64 ∧
     (let hb := (s (boxHeader 1)).eng.readAt (.mem 0x7000) 64
      fieldAt hb 0 4 = magicBox ∧ fieldAt hb 4 1 = 1 ∧ fieldAt hb 8 4 = 1 ∧ fieldAt hb 12 4 = 64) ∧
     fieldAt ((s (boxHeader 0)).eng.readAt (.mem 0x7000) 64) 8 4 = 0) ∧
    (let c : Crop := { list := some (64, 1) }
     let x := job0 cropDesc fun x => { x with crop := some c }
     c.open_ = false ∧ readIsIn (running (runs x id)) 0 x pBoxes (.mem 0x7040) 16) := by
  refine ⟨⟨rfl, rfl, ⟨rfl, rfl, rfl, rfl⟩, by decide +kernel, by decide +kernel⟩, rfl, ⟨rfl, rfl, rfl, rfl⟩⟩

/-! ## Single steps whose results the manual states -/

/-- FIPS 197, appendix C.3: the AES-256 example vector. -/
theorem test_aes256 : aesEnc ((List.range 32).map (BitVec.ofNat 8)) ((List.range 16).map fun i => BitVec.ofNat 8 (17 * i)) =
    [0x8e, 0xa2, 0xb7, 0xca, 0x51, 0x67, 0x45, 0xbf, 0xea, 0xfc, 0x49, 0x90, 0x4b, 0x49, 0x60, 0x89] := by decide +kernel

/-- FIPS 180-4: SHA-384 of "abc" begins CB 00 75 3F. -/
theorem test_sha384 : (sha384 [0x61, 0x62, 0x63]).take 4 = [0xcb, 0x00, 0x75, 0x3f] := by decide +kernel

/-- Reset values that R443, R467 and R476 state. -/
theorem test_reset_registers : readReg State.reset 0x80 = 0x800 ∧ readReg State.reset 0x140 = 0x36B0 ∧ readReg State.reset 0x144 = 4 ∧
    readReg State.reset 0x44 = 0x3E8 := by decide

/-- A command whose cause is absent changes nothing. -/
theorem test_no_cause : exec .cellGrant State.reset = .next State.reset ∧ exec (.budgetExpiry 3) State.reset = .next State.reset := ⟨rfl, rfl⟩

/-- An ADD at the top of the range leaves the knot at 0xFFFF_FFFF and counts it (R361). -/
theorem test_knot_saturates :
    ends (exec (.knotBankApply 3 .ok) (running fun e => { e with knots := { e.knots with
      table := [(3, { count := 0xFFFFFFFF })], banks := e.knots.banks.set 3 [⟨5, .reg, 3, .add, 1⟩] } })) (fun t =>
      t.eng.knot 3 == { count := 0xFFFFFFFF } && t.eng.knots.satCnt == 1) = true := by decide +kernel

/-- A misaligned write is refused with PSLVERR and logged (R434, R445). -/
theorem test_misaligned_write :
    ends (exec (.registerWrite .apb 0x141 0xF 1000) (running id)) (fun t =>
      t.eng.glb.pslverr && (t.eng.glb.plog.map fun p => (p.code, p.source, p.info)) == [(0x30, 128, 0x141)] && readReg t 0x140 == 0x36B0) = true := by
  decide +kernel

/-- GLB_PWR_CAP takes 12,000 mW (R467). -/
theorem test_power_cap : ends (exec (.registerWrite .apb 0x140 0xF 12000) (running id)) (fun t => readReg t 0x140 == 12000 && t.eng.glb.cap == 12000) = true := by
  decide +kernel

/-- The ninth byte of a narrow push joins the open cell; END marks the last cell (R304, R306). -/
theorem test_narrow_push :
    ends (exec (.narrowPush .apb 8 true) (narrow 2 0x22 0 { pkts := [openPkt] })) (fun t =>
      (t.eng.creel.q 5).pkts.map (fun p => (p.committed, p.cells.map fun x => (x.data, x.last))) == [(true, [([0xAA, 1, 2, 3, 4, 0, 0, 0, 0], true)])]) = true := by
  decide +kernel

/-- A queue read frees the cell and returns 64 bytes, the rest zero (R297, R315). -/
theorem test_port_read :
    ends (exec (.portQueueRead ⟨0, 5, 0, .incr, 6, 1, false, 0⟩ .ok) (portState 2 { pkts := [aPkt] })) (fun t =>
      (t.eng.creel.q 5).isEmpty && t.eng.ports[0].rdata == [0xAA, 0x55] ++ List.replicate 62 0 && t.eng.ports[0].resp == some .okay) = true := by
  decide +kernel

/-- A forward credit beyond 64 resynchronises the link (R436). -/
theorem test_credit_overflow :
    ends (exec (.fwdCreditGrant 0) (linked (job0 {} id) 64 0 false)) (fun t =>
      (t.eng.sp 0).link.rst && (t.eng.glb.plog.map fun p => (p.code, p.source)) == [(0x20, 64)]) = true := by decide +kernel

/-- A head whose LENGTH is 0 is DESC_BAD, detail 1 (R356). -/
theorem test_desc_bad :
    ends (exec (.jobStart 0) (withHead 4 (List.replicate 64 0) id)) (fun t =>
      (t.eng.sp 0).jobs.map (fun x => x.ended) == [some ⟨1, 1, 1, 0⟩]) = true := by decide +kernel

/-- The third counted failure in a run locks the unit (R413). -/
theorem test_lockout :
    ends (exec .testUnlock (handling (leBytes 2 4) fun c => { c with failRun := 2 })) (fun t =>
      t.sec.locked && t.sec.failRun == 3 && t.sec.result == 1 && t.eng.events == [.cmdLockout, .cmdReject 1]) = true := by decide +kernel

/-- A tick one clock before MIN_GAP is early; it changes no instance (R326). -/
theorem test_early_tick :
    ends (exec (.tickArrive 2) (ticked 1 fun k => { k with lastTick := some 1960001 })) (fun t =>
      (t.eng.tick 2).earlyCnt == 1 && (t.eng.tick 2).lastTick == some 1960001) = true := by decide +kernel

/-- A stored Hank block of four bytes decodes to them (R213, R232). -/
theorem test_hank_stored : (match hankDecode 4 [1, 4, 0, 0xFB, 0xFF, 9, 8, 7, 6] with | .ok out => out | .error _ => []) = [9, 8, 7, 6] := by decide +kernel

end Sys2Proof.Tests
end

section
/-! PROOFS. The anatomy of the engine (01_anatomy): power domains that are woken and switched off, one control clock with
nothing to do, and what the cold reset and the removal of supply keep. -/

namespace Sys2Proof.Machine

/-! ## Requests for wakes (R499) -/

theorem Engine.pwrOf_setPwr (e : Engine) (d : WakeDomain) (p : PwrSt) : (e.setPwr d p).pwrOf d = p := by
  cases d with
  | bobbin => rfl
  | distaff => rfl
  | spindle n => exact congrArg Spindle.pwr (e.sp_modSp n _)

@[simp] theorem Engine.setPwr_now (e : Engine) (d : WakeDomain) (p : PwrSt) : (e.setPwr d p).now = e.now := by
  cases d <;> rfl

@[simp] theorem Engine.setPwr_creel (e : Engine) (d : WakeDomain) (p : PwrSt) : (e.setPwr d p).creel = e.creel := by
  cases d <;> rfl

@[simp] theorem Engine.setPwr_wakes (e : Engine) (d : WakeDomain) (p : PwrSt) : (e.setPwr d p).power.wakes = e.power.wakes := by
  cases d <;> rfl

@[simp] theorem Engine.setPwr_waking (e : Engine) (d : WakeDomain) (p : PwrSt) : (e.setPwr d p).power.waking = e.power.waking := by
  cases d <;> rfl

/-- A domain's power state does not depend on the wakes that are listed. -/
theorem Engine.pwrOf_withWakes (e : Engine) (d : WakeDomain) (ws wk : List (WakeDomain × Nat)) (l : Option Nat) :
    ({ e with power := { e.power with wakes := ws, waking := wk, lastWake := l } } : Engine).pwrOf d = e.pwrOf d := by
  cases d <;> rfl

@[simp] theorem Engine.requestOne_now (e : Engine) (d : WakeDomain) : (e.requestOne d).now = e.now := by
  unfold Engine.requestOne; split <;> simp

@[simp] theorem Engine.requestOne_creel (e : Engine) (d : WakeDomain) : (e.requestOne d).creel = e.creel := by
  unfold Engine.requestOne; split <;> simp

theorem Engine.requestOne_wakes (e : Engine) (d : WakeDomain) :
    (e.requestOne d).power.wakes = if e.pwrOf d = .off then insertWake d e.now e.power.wakes else e.power.wakes := by
  unfold Engine.requestOne; split <;> simp

/-- A request finds its domain off and leaves it requested. -/
theorem Engine.requestOne_pwrOf (e : Engine) (d : WakeDomain) (h : e.pwrOf d = .off) : (e.requestOne d).pwrOf d = .requested := by
  rw [Engine.requestOne, if_pos h]
  exact (pwrOf_withWakes ..).trans (e.pwrOf_setPwr d .requested)

/-! ## Wakes that are requested, start and complete (R22, R498, R499) -/

/-- A spindle's request stands behind the Bobbin domain's, which is made with it where that domain is off. -/
theorem exec_spindleWakeRequest_of_headWaits (n : Sp) (s : State) (hlive : s.eng.live = true) (hen : (s.eng.sp n).enable = true)
    (hhead : s.eng.headWaits n = true) (hoff : (s.eng.sp n).pwr = .off) :
    ∃ t, exec (.spindleWakeRequest n) s = .next t ∧ t.sec = s.sec ∧ (t.eng.sp n).pwr = .requested ∧
      t.eng.power.wakes = insertWake (.spindle n) s.eng.now
        (if s.eng.power.bobbin = .off then insertWake .bobbin s.eng.now s.eng.power.wakes else s.eng.power.wakes) ∧
      t.eng.creel = s.eng.creel := by
  have hexec : exec (.spindleWakeRequest n) s = .next (s.onEng fun e => (e.requestOne .bobbin).requestOne (.spindle n)) := by
    change done (s.onEng _) = _
    simp [done, State.onEng, hlive, hen, hhead, Engine.requestWake]
  have hstill : (s.eng.requestOne .bobbin).pwrOf (.spindle n) = .off := by
    rw [Engine.pwrOf, Engine.requestOne_spindles _ _ _ (by simp), hoff]
  refine ⟨_, hexec, rfl, Engine.requestOne_pwrOf _ _ hstill, ?_, by simp⟩
  simp only [State.onEng_eng, Engine.requestOne_wakes, Engine.requestOne_now, hstill, if_true]
  rfl

/-- The wake at the head of the list starts, and the others wait as they did. -/
theorem exec_wakeStart_of_mayWake (s : State) (d : WakeDomain) (since : Nat) (rest : List (WakeDomain × Nat))
    (hwakes : s.eng.power.wakes = (d, since) :: rest) (hup : s.eng.up = true) (hmay : s.eng.mayWake d = true) :
    ∃ t, exec .wakeStart s = .next t ∧ t.sec = s.sec ∧ t.eng.pwrOf d = .waking ∧ t.eng.power.wakes = rest ∧
      t.eng.power.waking = s.eng.power.waking ++ [(d, s.eng.now)] ∧ t.eng.power.lastWake = some s.eng.now := by
  have hexec : exec .wakeStart s = .next (s.onEng fun e =>
      let e1 := e.setPwr d .waking
      { e1 with power := { e1.power with wakes := rest, waking := e1.power.waking ++ [(d, e.now)], lastWake := some e.now } }) := by
    change done (s.onEng _) = _
    simp [done, State.onEng, hwakes, hup, hmay]
  refine ⟨_, hexec, rfl, ?_, rfl, ?_, rfl⟩
  · exact (Engine.pwrOf_withWakes ..).trans (Engine.pwrOf_setPwr ..)
  · simp

/-- A spindle's domain comes up with a zeroed store, 32 steps, and 32 back credits for its tile (R433, R498). -/
theorem Engine.domainUp_spindle (e : Engine) (n : Sp) :
    ((e.domainUp (.spindle n)).sp n).pwr = .on ∧ ((e.domainUp (.spindle n)).sp n).store = [] ∧
      ((e.domainUp (.spindle n)).sp n).steps = 32 ∧ ((e.domainUp (.spindle n)).sp n).link.backCredits = 32 := by
  simp [Engine.domainUp, Engine.freshSpindle, Engine.sp_modSp]

theorem Engine.domainUp_pwrOf (e : Engine) (d : WakeDomain) : (e.domainUp d).pwrOf d = .on := by
  cases d with
  | bobbin => rfl
  | distaff => rfl
  | spindle n => exact (e.domainUp_spindle n).1

@[simp] theorem Engine.domainUp_waking (e : Engine) (d : WakeDomain) : (e.domainUp d).power.waking = e.power.waking := by
  cases d <;> rfl

@[simp] theorem Engine.freshCounts_power (e : Engine) (d : WakeDomain) : (e.freshCounts d).power = e.power := by
  cases d <;> rfl

@[simp] theorem Engine.freshCounts_sp (e : Engine) (d : WakeDomain) (n : Sp) : (e.freshCounts d).sp n = e.sp n := by
  cases d <;> rfl

@[simp] theorem Engine.freshCounts_pwrOf (e : Engine) (d c : WakeDomain) : (e.freshCounts d).pwrOf c = e.pwrOf c := by
  cases d <;> cases c <;> rfl

/-- A wake that ends leaves its domain on, no longer waking, and with its SRAM zeroed. -/
theorem exec_wakeComplete_of_waking (s : State) (d : WakeDomain) (hup : s.eng.up = true)
    (hwaking : (s.eng.power.waking.any fun w => w.1 == d) = true) :
    ∃ t, exec (.wakeComplete d) s = .next t ∧ t.sec = s.sec ∧ t.eng.pwrOf d = .on ∧ (∀ w ∈ t.eng.power.waking, w.1 ≠ d) ∧
      (∀ n : Sp, d = .spindle n → (t.eng.sp n).store = [] ∧ (t.eng.sp n).steps = 32 ∧ (t.eng.sp n).link.backCredits = 32) ∧
      (d = .bobbin → t.eng.bobbin = []) := by
  have hexec : exec (.wakeComplete d) s = .next (s.onEng fun e =>
      (({ e with power := { e.power with waking := e.power.waking.filter fun w => w.1 != d } }).domainUp d).freshCounts d) := by
    change done (s.onEng _) = _
    simp only [done, State.onEng, hup, hwaking, Bool.and_self, if_true]
  refine ⟨_, hexec, rfl, ?_, ?_, ?_, ?_⟩
  · exact (Engine.freshCounts_pwrOf ..).trans (Engine.domainUp_pwrOf ..)
  · simp
  · rintro n rfl
    simpa only [State.onEng_eng, Engine.freshCounts_sp] using (Engine.domainUp_spindle _ n).2
  · rintro rfl
    rfl

/-! ## Switching off (R21, R497) -/

theorem Engine.cutSpindle_sp (e : Engine) (n : Sp) : ((e.cutSpindle n).sp n).pwr = .off ∧ ((e.cutSpindle n).sp n).store = [] := by
  simp [Engine.cutSpindle, Engine.sp]

theorem Engine.cutSpindle_sp_ne (e : Engine) {m n : Sp} (h : m ≠ n) : (e.cutSpindle n).sp m = e.sp m := by
  have hne : n.val ≠ m.val := Fin.val_ne_of_ne h.symm
  simp [Engine.cutSpindle, Engine.sp, hne]

/-- The rule of the Bobbin domain changes no spindle. -/
theorem Engine.bobbinRule_sp (e : Engine) (m : Sp) : e.bobbinRule.sp m = e.sp m := by
  unfold Engine.bobbinRule
  dsimp only
  split
  · exact e.requestOne_spindles .bobbin m (by simp)
  · rfl

/-- With no bank bound and every spindle off nothing needs the Bobbin domain: it is off, and its SRAM is lost. -/
theorem Engine.bobbinRule_unneeded (e : Engine) (hbank : e.conf.bankBound = false) (hoff : ∀ m : Sp, (e.sp m).pwr = .off) :
    e.bobbinRule.power.bobbin = .off ∧ e.bobbinRule.bobbin = [] := by
  have hnone : (e.spindles.toList.any fun x => x.pwr != .off) = false := by
    simp only [List.any_eq_false, Vector.mem_toList_iff, Vector.mem_iff_getElem]
    rintro _ ⟨i, hi, rfl⟩
    simpa [Engine.sp] using hoff ⟨i, hi⟩
  simp [Engine.bobbinRule, hbank, hnone]

/-- A spindle that is cut off, with the Bobbin domain's rule after it, is the only spindle that changes; the Bobbin domain goes with it
when no bank and no other spindle needs it. -/
theorem Engine.cutSpindle_bobbinRule (e : Engine) (n : Sp) :
    ((e.cutSpindle n).bobbinRule.sp n).pwr = .off ∧ ((e.cutSpindle n).bobbinRule.sp n).store = [] ∧
      (∀ m : Sp, m ≠ n → (e.cutSpindle n).bobbinRule.sp m = e.sp m) ∧
      (e.conf.bankBound = false → (∀ m : Sp, m ≠ n → (e.sp m).pwr = .off) →
        (e.cutSpindle n).bobbinRule.power.bobbin = .off ∧ (e.cutSpindle n).bobbinRule.bobbin = []) := by
  simp only [bobbinRule_sp]
  refine ⟨(e.cutSpindle_sp n).1, (e.cutSpindle_sp n).2, fun m hm => e.cutSpindle_sp_ne hm, fun hbank hoff => ?_⟩
  refine (e.cutSpindle n).bobbinRule_unneeded hbank fun m => ?_
  by_cases hm : m = n
  · rw [hm, (e.cutSpindle_sp n).1]
  · rw [e.cutSpindle_sp_ne hm, hoff m hm]

/-- A spindle that was drained or idle for 100 µs goes off alone, and the Bobbin domain with it when nothing else needs it. -/
theorem exec_spindlePowerOff_of_quiet (s : State) (n : Sp) (hlive : s.eng.live = true) (hon : (s.eng.sp n).pwr = .on)
    (hquiet : (s.eng.sp n).drained = true ∧ s.eng.passedUs (s.eng.sp n).drainedFrom 100 = true ∨
      s.eng.idleSpindle n = true ∧ s.eng.passedUs (s.eng.sp n).quietFrom 100 = true) :
    ∃ t, exec (.spindlePowerOff n) s = .next t ∧ t.sec = s.sec ∧ (t.eng.sp n).pwr = .off ∧ (t.eng.sp n).store = [] ∧
      (∀ m : Sp, m ≠ n → t.eng.sp m = s.eng.sp m) ∧
      (s.eng.conf.bankBound = false → (∀ m : Sp, m ≠ n → (s.eng.sp m).pwr = .off) → t.eng.power.bobbin = .off ∧ t.eng.bobbin = []) := by
  have hexec : exec (.spindlePowerOff n) s = .next (s.onEng fun e => ((e.loseWhere fun t x => e.restsOn n t x).cutSpindle n).bobbinRule) := by
    change done (s.onEng _) = _
    rcases hquiet with ⟨hdrained, hpassed⟩ | ⟨hidle, hpassed⟩
    · simp [done, State.onEng, hlive, hon, hdrained, hpassed]
    · simp [done, State.onEng, hlive, hon, hidle, hpassed]
  exact ⟨_, hexec, rfl, (s.eng.loseWhere _).cutSpindle_bobbinRule n⟩

/-- The Distaff goes off alone after 1 ms without access and with no write on its way. -/
theorem exec_distaffPowerOff_of_unused (s : State) (hup : s.eng.up = true) (hon : s.eng.distaff.pwr = .on) (hwrites : s.eng.distaff.writes = [])
    (hpassed : s.eng.passedUs s.eng.distaff.lastAccess 1000 = true) :
    exec .distaffPowerOff s = .next { s with eng := { s.eng with distaff := { s.eng.distaff with pwr := .off } } } := by
  change done (s.onEng _) = _
  simp [done, State.onEng, hup, hon, hwrites, hpassed]

/-- Settles O42, one command of the power domains after the other. -/
theorem domainsWakeAndSwitchOff : Obligations.DomainsWakeAndSwitchOff := fun s =>
  ⟨fun n => exec_spindleWakeRequest_of_headWaits n s, exec_wakeStart_of_mayWake s, exec_wakeComplete_of_waking s,
    exec_spindlePowerOff_of_quiet s, exec_distaffPowerOff_of_unused s⟩

/-! ## A control clock in which nothing meets (R476; log 1) -/

/-- With nothing due at any input the settlement changes nothing: no accepted tick, lost tick, close or budget is due (R344). -/
theorem Engine.settle_of_nothingDue (e : Engine)
    (h : ∀ t : Inp, (e.tick t).due = false ∧ (e.tick t).lostDue = false ∧ (e.tick t).closeDue = false ∧ (e.tick t).budgetDue = false) :
    e.settle = e := by
  have hclose (t : Inp) : e.settleClose t = e := by simp [Engine.settleClose, h t]
  have hlost (t : Inp) : e.settleLost t = e := by simp [Engine.settleLost, h t]
  have htick (t : Inp) : e.settleTick t = e := by simp [Engine.settleTick, h t]
  have hbudget (t : Inp) : e.settleBudget t = e := by simp [Engine.settleBudget, h t]
  simp only [Engine.settle, List.foldl_fixed' hclose, List.foldl_fixed' hlost, List.foldl_fixed' htick, List.foldl_fixed' hbudget, ite_self]

theorem State.settleRoll_of_noRoll (s : State) (h : s.sec.busy = false ∨ s.sec.keys.cmdNext = none ∧ s.sec.keys.imgNext = none) :
    s.settleRoll = s := by
  rcases h with hbusy | ⟨hcmd, himg⟩
  · simp [State.settleRoll, hbusy]
  · simp [State.settleRoll, Keys.rolling, hcmd, himg]

/-- Settles O2: with nothing to settle, no roll and no access that waits, only the end of the clock is left of `clockTick`. -/
theorem idleStepIsOneControlClock : Obligations.IdleStepIsOneControlClock := by
  intro s hpending
  have hstep : step s = .next (clockTick s) := by simp only [step, hpending]
  refine ⟨fun hoff => ?_, fun hon hdue hroll hwaiting => ?_⟩
  · rw [hstep, clockTick, if_pos hoff]
  · have hsettled : s.settleRoll.onEng Engine.settle = s := by
      rw [State.settleRoll_of_noRoll s hroll, State.onEng, Engine.settle_of_nothingDue s.eng hdue]
    rw [hstep, clockTick, if_neg hon]
    simp only [hsettled, State.serveWaiting_none _ s hwaiting]
    rfl

/-! ## What the cold reset and the removal of supply keep (R21, R402, R507) -/

/-- The control domain comes on in the reset state, but for the Distaff's stored contents, chip memory and the model's own counter
and trace (logs 3, 4 and 5). -/
theorem Engine.powerOn_eq_reset (e : Engine) :
    e.powerOn = { State.reset.eng with freeCtr := e.freeCtr, events := e.events, mem := e.mem, distaff := e.distaff.kept } := rfl

theorem Security.powerOn_eq_reset (c : Security) : c.powerOn = { State.reset.sec with keys := c.keys } := rfl

/-- Settles O14: both commands put the engine and the security unit in their power-on state. -/
theorem coldResetKeepsOnlyTheDistaff : Obligations.ColdResetKeepsOnlyTheDistaff := by
  intro s
  refine ⟨{ s with sec := s.sec.powerOn, eng := s.eng.powerOn }, _, rfl, rfl, ?_, rfl⟩
  rw [Engine.powerOn_eq_reset, Security.powerOn_eq_reset]
  rfl

end Sys2Proof.Machine
end

section
/-! PROOFS. What the operations of jobs leave of a job's descriptor, drafting side and ending: accesses, placement, stops and checked
accesses. -/

namespace Sys2Proof.Machine

/-! ## What a statement about drafting reads of a job -/

/-- A job's number, descriptor, drafting side and ending, which accesses, placement and transactions leave alone. -/
structure JobView where
  id : Nat
  desc : Desc
  draft : Option Draft
  ended : Option Ending

def Job.view (x : Job) : JobView := ⟨x.id, x.desc, x.draft, x.ended⟩

@[simp] theorem Job.view_id (x : Job) : x.view.id = x.id := rfl
@[simp] theorem Job.view_desc (x : Job) : x.view.desc = x.desc := rfl
@[simp] theorem Job.view_draft (x : Job) : x.view.draft = x.draft := rfl
@[simp] theorem Job.view_ended (x : Job) : x.view.ended = x.ended := rfl

/-- The views of the started jobs of spindle n. -/
def Engine.views (e : Engine) (n : Sp) : List JobView := (e.sp n).jobs.map Job.view

/-- The view of the started job of spindle n with a number. -/
def Engine.view? (e : Engine) (n : Sp) (id : Nat) : Option JobView := (e.views n).find? fun v => v.id == id

theorem Engine.view?_eq_map (e : Engine) (n : Sp) (id : Nat) : e.view? n id = (e.jobId? n id).map Job.view := by
  rw [view?, views, List.find?_map]
  rfl

theorem Engine.view?_of_jobId? {e : Engine} {n : Sp} {id : Nat} {x : Job} (h : e.jobId? n id = some x) : e.view? n id = some x.view := by
  rw [view?_eq_map, h]
  rfl

/-- Engines with the same views have the same view at every number. -/
theorem Engine.view?_congr {e e' : Engine} {n : Sp} (h : e'.views n = e.views n) (id : Nat) : e'.view? n id = e.view? n id := by
  rw [view?, h, view?]

theorem Engine.jobId?_of_view? {e : Engine} {n : Sp} {id : Nat} {v : JobView} (h : e.view? n id = some v) :
    ∃ y, e.jobId? n id = some y ∧ y.view = v := by
  rwa [view?_eq_map, Option.map_eq_some_iff] at h

theorem Engine.jobId?_id {e : Engine} {n : Sp} {id : Nat} {x : Job} (h : e.jobId? n id = some x) : x.id = id :=
  beq_iff_eq.mp (List.find?_some (p := fun x : Job => x.id == id) h)

/-- The views with those of one number replaced by their images. -/
def setView (id : Nat) (g : JobView → JobView) (vs : List JobView) : List JobView := vs.map fun v => if v.id = id then g v else v

/-- A replacement that keeps every number acts on what is found at a number. -/
theorem find?_setView (id k : Nat) (g : JobView → JobView) (hg : ∀ v, (g v).id = v.id) (vs : List JobView) :
    (setView id g vs).find? (fun v => v.id == k) = (vs.find? fun v => v.id == k).map fun v => if v.id = id then g v else v := by
  have hp : ((fun v : JobView => v.id == k) ∘ fun v => if v.id = id then g v else v) = fun v => v.id == k := by
    funext v
    dsimp only [Function.comp]
    split <;> simp [hg]
  rw [setView, List.find?_map, hp]

/-- An engine whose views are replaced so has the image at that number, and the same view at every other. -/
theorem Engine.view?_of_setView_at {e e' : Engine} {n : Sp} {id : Nat} {g : JobView → JobView} (hg : ∀ v, (g v).id = v.id)
    (h : e'.views n = setView id g (e.views n)) (k : Nat) : e'.view? n k = (e.view? n k).map fun v => if k = id then g v else v := by
  rw [view?, h, find?_setView id k g hg, ← view?]
  refine Option.map_congr fun v hv => ?_
  have hid : v.id = k := beq_iff_eq.mp (List.find?_some (p := fun v : JobView => v.id == k) hv)
  rw [hid]

theorem Engine.view?_of_setView {e e' : Engine} {n : Sp} {id : Nat} {g : JobView → JobView} (hg : ∀ v, (g v).id = v.id)
    (h : e'.views n = setView id g (e.views n)) : e'.view? n id = (e.view? n id).map g := by
  simpa only [if_true] using view?_of_setView_at hg h id

theorem Engine.view?_of_setView_ne {e e' : Engine} {n : Sp} {id k : Nat} {g : JobView → JobView} (hg : ∀ v, (g v).id = v.id)
    (h : e'.views n = setView id g (e.views n)) (hk : k ≠ id) : e'.view? n k = e.view? n k := by
  simpa only [if_neg hk, Option.map_id'] using view?_of_setView_at hg h k

/-! ## Updates of a spindle and of a job -/

theorem Engine.views_of_spindles {e e' : Engine} (h : e'.spindles = e.spindles) (m : Sp) : e'.views m = e.views m := by
  simp only [views, sp, h]

@[simp] theorem Engine.views_modSp (e : Engine) (n m : Sp) (f : Spindle → Spindle) (hf : ∀ s, (f s).jobs = s.jobs) :
    (e.modSp n f).views m = e.views m := by
  by_cases hm : m = n
  · rw [hm, views, sp_modSp, hf, ← views]
  · rw [views, sp_modSp_ne e hm, ← views]

@[simp] theorem Engine.views_modJob (e : Engine) (n m : Sp) (id : Nat) (f : Job → Job) (hid : ∀ x, (f x).id = x.id)
    (hdesc : ∀ x, (f x).desc = x.desc) (hdraft : ∀ x, (f x).draft = x.draft) (hended : ∀ x, (f x).ended = x.ended) :
    (e.modJob n id f).views m = e.views m := by
  by_cases hm : m = n
  · rw [hm, views, modJob, sp_modSp, views, List.map_map]
    refine List.map_congr_left fun x _ => ?_
    dsimp only [Function.comp]
    split <;> simp [Job.view, hid, hdesc, hdraft, hended]
  · rw [views, modJob, sp_modSp_ne e hm, ← views]

/-- A change of a job shows in its view alone. -/
theorem Engine.views_modJob_eq (e : Engine) (n : Sp) (id : Nat) (f : Job → Job) (g : JobView → JobView) (hf : ∀ x, (f x).view = g x.view) :
    (e.modJob n id f).views n = setView id g (e.views n) := by
  rw [views, modJob, sp_modSp, views, setView, List.map_map, List.map_map]
  refine List.map_congr_left fun x _ => ?_
  dsimp only [Function.comp]
  split <;> simp_all

theorem Engine.jobId?_modJob (e : Engine) (n : Sp) (id : Nat) (f : Job → Job) (hf : ∀ x, (f x).id = x.id) :
    (e.modJob n id f).jobId? n id = (e.jobId? n id).map f := by
  have hp : ((fun x : Job => x.id == id) ∘ fun x => if x.id = id then f x else x) = fun x => x.id == id := by
    funext x
    dsimp only [Function.comp]
    split <;> simp [hf]
  rw [jobId?, modJob, sp_modSp, List.find?_map, hp, ← jobId?]
  cases hx : e.jobId? n id with
  | none => rfl
  | some x => rw [Option.map_some, Option.map_some, if_pos (jobId?_id hx)]

theorem Engine.jobId?_modJob_of {e : Engine} {n : Sp} {id : Nat} {f : Job → Job} {x : Job} (hx : e.jobId? n id = some x)
    (hf : ∀ x, (f x).id = x.id) : (e.modJob n id f).jobId? n id = some (f x) := by
  rw [jobId?_modJob e n id f hf, hx, Option.map_some]

/-! ## Accesses, placement and telemetry leave every job's view -/

@[simp] theorem Engine.views_raise (e : Engine) (ev : Event) (m : Sp) : (e.raise ev).views m = e.views m := rfl

@[simp] theorem Engine.views_modTensor (e : Engine) (t : Nat) (f : Tensor → Tensor) (m : Sp) : (e.modTensor t f).views m = e.views m := rfl

@[simp] theorem Engine.views_knotIssue (e : Engine) (w : Issuer) (k : Nat) (v : KnotVerb) (x : Word) (m : Sp) :
    (e.knotIssue w k v x).views m = e.views m := rfl

@[simp] theorem Engine.views_violation (e : Engine) (c q i : Nat) (m : Sp) : (e.violation c q i).views m = e.views m :=
  views_of_spindles (by simp) m

@[simp] theorem Engine.views_eccEntry (e : Engine) (c u r : Nat) (ue : Bool) (m : Sp) : (e.eccEntry c u r ue).views m = e.views m :=
  views_of_spindles (by unfold eccEntry raiseIf; split <;> simp) m

@[simp] theorem Engine.views_spill (e : Engine) (n : Sp) (t r a b c : Nat) (tag : Word) (m : Sp) : (e.spill n t r a b c tag).views m = e.views m := by
  simp [spill, views_of_spindles (e.telEntry_spindles _ _) m]

@[simp] theorem Engine.views_putByte (e : Engine) (l : Loc) (b : Byte) (m : Sp) : (e.putByte l b).views m = e.views m := by
  cases l with
  | store n a => simp [putByte]
  | bobbin a => rfl
  | mem a => rfl

@[simp] theorem Engine.views_putAll (a : Addr) (bs : List Byte) (m : Sp) (e : Engine) : (e.putAll a bs).views m = e.views m := by
  induction bs generalizing e a with
  | nil => rfl
  | cons b bs ih => simp [putAll, ih]

@[simp] theorem Engine.views_writeAt (e : Engine) (a : Addr) (bs : List Byte) (m : Sp) : (e.writeAt a bs).views m = e.views m := by
  unfold writeAt
  dsimp only
  split
  · simp
  · exact views_putAll a bs m e

@[simp] theorem Engine.views_pump (e : Engine) (n m : Sp) : (e.pump n).views m = e.views m := by
  unfold pump; split <;> simp

@[simp] theorem Engine.views_issue (e : Engine) (n : Sp) (id : Nat) (w : Bool) (p : Nat × Nat) (ls : List Nat) (m : Sp) :
    (e.issue n id w p ls).views m = e.views m := by
  unfold issue; split <;> simp

@[simp] theorem Engine.views_lookUp (e : Engine) (n : Sp) (t : Nat) (m : Sp) : (e.lookUp n t).views m = e.views m := by
  unfold lookUp; split <;> simp

@[simp] theorem Engine.views_putBytes (e : Engine) (n : Sp) (a : Addr) (bs : List Byte) (m : Sp) : (e.putBytes n a bs).views m = e.views m := by
  cases a <;> simp [putBytes]

@[simp] theorem Engine.views_putJob (e : Engine) (n : Sp) (id : Nat) (p : Nat × Nat) (a : Addr) (bs : List Byte) (m : Sp) :
    (e.putJob n id p a bs).views m = e.views m := by
  simp [putJob]

@[simp] theorem Engine.views_pushHeld (n : Sp) (id t fuel : Nat) (m : Sp) (e : Engine) : (e.pushHeld n id t fuel).views m = e.views m := by
  induction fuel generalizing e with
  | zero => rfl
  | succ fuel ih =>
    simp only [pushHeld]
    split
    · rfl
    · split
      · rfl
      · split
        · rfl
        · split
          · simp [ih]
          · split <;> rfl

@[simp] theorem Engine.views_releaseHeld (e : Engine) (n : Sp) (id t : Nat) (m : Sp) : (e.releaseHeld n id t).views m = e.views m := by
  unfold releaseHeld; split <;> simp

@[simp] theorem Engine.views_putDuty (e : Engine) (n : Sp) (id : Nat) (p : Nat × Nat) (a : Addr) (bs : List Byte) (m : Sp) :
    (e.putDuty n id p a bs).views m = e.views m := by
  cases a <;> simp [putDuty]

@[simp] theorem Engine.views_placeTensor (e : Engine) (n : Sp) (tag : Word) (i : Option Nat) (t : Nat) (m : Sp) :
    (e.placeTensor n tag i t).1.views m = e.views m := by
  unfold placeTensor
  dsimp only
  split <;> simp

@[simp] theorem Engine.views_growOnce (e : Engine) (n : Sp) (tag : Word) (t : Nat) (m : Sp) : (e.growOnce n tag t).1.views m = e.views m := by
  unfold growOnce
  dsimp only
  (repeat' split) <;> simp

@[simp] theorem Engine.views_grow (n : Sp) (tag : Word) (t u fuel : Nat) (m : Sp) (e : Engine) (sp : Bool) :
    (e.grow n tag t u fuel sp).1.views m = e.views m := by
  induction fuel generalizing e sp with
  | zero => rfl
  | succ fuel ih =>
    unfold grow
    split
    · rfl
    · simp [ih]

@[simp] theorem Engine.views_makeRoom (e : Engine) (n : Sp) (tag : Word) (i : Option Nat) (t u : Nat) (m : Sp) :
    (e.makeRoom n tag i t u).1.views m = e.views m := by
  unfold makeRoom
  dsimp only
  rw [views_grow]
  split <;> simp

/-- A run of steps that each leave the views leaves them. -/
theorem Engine.views_foldl {α : Type} (f : Engine → α → Engine) (m : Sp) (hf : ∀ e a, (f e a).views m = e.views m) (as : List α) (e : Engine) :
    (as.foldl f e).views m = e.views m := by
  induction as generalizing e with
  | nil => rfl
  | cons a as ih => rw [List.foldl_cons, ih, hf]

@[simp] theorem Engine.views_flushHeld (e : Engine) (n : Sp) (id : Nat) (m : Sp) : (e.flushHeld n id).views m = e.views m := by
  unfold flushHeld
  split
  · rfl
  · rw [views_foldl]
    · exact views_modJob e n m id _ (fun _ => rfl) (fun _ => rfl) (fun _ => rfl) fun _ => rfl
    · intro e h
      dsimp only
      split <;> simp

@[simp] theorem Engine.views_draw (e : Engine) (m : Sp) : e.draw.2.views m = e.views m := rfl

@[simp] theorem Engine.views_loseWhere (e : Engine) (p : Nat → Tensor → Bool) (m : Sp) : (e.loseWhere p).views m = e.views m := rfl

@[simp] theorem Engine.views_loseParts (e : Engine) (n : Sp) (en : Ending) (x : Job) (m : Sp) : (e.loseParts n en x).views m = e.views m := by
  unfold loseParts; split <;> simp

@[simp] theorem Engine.views_dropTxns (e : Engine) (n : Sp) (id : Nat) (m : Sp) : (e.dropTxns n id).views m = e.views m := by
  simp [dropTxns]

@[simp] theorem Engine.views_badOut (e : Engine) (x : Job) (m : Sp) : (e.badOut x).views m = e.views m := by
  unfold badOut; split <;> rfl

@[simp] theorem Engine.views_giveUpIn (e : Engine) (x : Job) (m : Sp) : (e.giveUpIn x).views m = e.views m := by
  unfold giveUpIn; split <;> rfl

@[simp] theorem Engine.views_endSideWait (e : Engine) (n : Sp) (x : Job) (m : Sp) : (e.endSideWait n x).views m = e.views m := by
  unfold endSideWait; split <;> simp

@[simp] theorem Engine.views_endHaloWait (e : Engine) (n : Sp) (x : Job) (m : Sp) : (e.endHaloWait n x).views m = e.views m := by
  unfold endHaloWait; split <;> simp

@[simp] theorem Engine.views_dropBack (e : Engine) (n : Sp) (x : Job) (m : Sp) : (e.dropBack n x).views m = e.views m := by
  unfold dropBack
  split
  · exact views_foldl _ m (by simp) _ e
  · rfl

@[simp] theorem Engine.views_releaseHalf (e : Engine) (n : Sp) (h : HalfRead) (down : Bool) (m : Sp) :
    (e.releaseHalf n h down).views m = e.views m := by
  cases h <;> rfl

@[simp] theorem Engine.views_ringDuties (e : Engine) (n : Sp) (x : Job) (m : Sp) : (e.ringDuties n x).views m = e.views m := by
  simp only [ringDuties, views_modJob, implies_true]
  split <;> simp

@[simp] theorem Engine.views_stopSparse (e : Engine) (n : Sp) (id : Nat) (m : Sp) : (e.stopSparse n id).views m = e.views m := by
  simp only [views, sp, stopSparse, Fin.getElem_fin, Vector.getElem_mapFinIdx]
  (repeat' split) <;> rfl

@[simp] theorem Engine.views_zeroMagic (e : Engine) (n : Sp) (en : Ending) (x : Job) (m : Sp) : (e.zeroMagic n en x).views m = e.views m := by
  unfold zeroMagic
  dsimp only
  (repeat' split) <;> simp

/-! ## A job that stops -/

/-- The drafting side of a member of a scale group whose slot is to be written void (R119). -/
def Job.slotDue (x : Job) : Draft := { x.draft.getD { shape := x.desc.shape.getD (ShapeBlk.parse []) } with phase := .slot }

/-- The member of a scale group has counted itself on GROUP_KNOT (R116). -/
def Job.counted (x : Job) : Bool := (x.draft.map fun d => d.knotDone).getD false

/-- The drafting side of a stopped job: a member of a scale group that was not counted has its slot to write (R119). -/
def Job.voided (x : Job) (old : Option Draft) : Option Draft :=
  match x.desc.draft with
  | some b => if b.group && !x.counted then some x.slotDue else old
  | none => old

theorem Engine.voidSlot_eq (e : Engine) (n : Sp) (x : Job) (b : DraftBlk) (hb : x.desc.draft = some b) :
    e.voidSlot n x =
      if b.group && !x.counted then
        let e1 := e.modJob n x.id fun y => { y with draft := some x.slotDue }
        if (e.writeFault n (b.slotAddr b.groupIndex) 576).isSome then e1
        else e1.putDuty n x.id wSlot (b.slotAddr b.groupIndex) (carderBytes b {} 0 0 0 true false false)
      else e := by
  unfold voidSlot Job.counted Job.slotDue
  rw [hb]
  cases x.draft <;> rfl

theorem Engine.views_voidSlot (e : Engine) (n : Sp) (x : Job) :
    (e.voidSlot n x).views n = setView x.id (fun v => { v with draft := x.voided v.draft }) (e.views n) := by
  cases hb : x.desc.draft with
  | none => simp [voidSlot, Job.voided, hb, setView]
  | some b =>
    have hdue : (e.modJob n x.id fun y => { y with draft := some x.slotDue }).views n =
        setView x.id (fun v => { v with draft := some x.slotDue }) (e.views n) := views_modJob_eq _ _ _ _ _ fun _ => rfl
    rw [voidSlot_eq e n x b hb]
    simp only [Job.voided, hb]
    split
    · split
      · exact hdue
      · exact (views_putDuty ..).trans hdue
    · simp [setView]

/-- What a stop makes of a job's view: it ends, or, ended well in a step set, ends with it (R204). -/
def Job.stopped (x : Job) (en : Ending) (v : JobView) : JobView :=
  match x.ended with
  | none => { v with ended := some en, draft := x.voided v.draft }
  | some old => if x.desc.step && old.status == 0 then { v with ended := some en } else v

@[simp] theorem Job.stopped_id (x : Job) (en : Ending) (v : JobView) : (x.stopped en v).id = v.id := by
  unfold stopped; (repeat' split) <;> rfl

theorem setView_setView (id : Nat) (f g : JobView → JobView) (hf : ∀ v, (f v).id = v.id) (vs : List JobView) :
    setView id g (setView id f vs) = setView id (fun v => g (f v)) vs := by
  rw [setView, setView, List.map_map, setView]
  refine List.map_congr_left fun v _ => ?_
  dsimp only [Function.comp]
  by_cases h : v.id = id
  · simp [h, hf]
  · simp [h]

theorem Engine.views_stopOne (e : Engine) (n : Sp) (en : Ending) (x : Job) :
    (e.stopOne n en x).views n = setView x.id (x.stopped en) (e.views n) := by
  unfold stopOne Job.stopped
  cases hx : x.ended with
  | some old =>
    dsimp only
    split
    · simp only [views_loseParts, views_zeroMagic]
      exact (views_modJob_eq _ n x.id _ (fun v => { v with ended := some en }) fun _ => rfl).trans (by rw [views_dropTxns])
    · simp [setView]
  | none =>
    simp only [views_loseParts, views_zeroMagic, views_stopSparse, views_ringDuties, views_voidSlot, views_dropBack, views_modSp, implies_true]
    rw [views_modJob_eq _ n x.id _ (fun v => { v with ended := some en }) fun _ => rfl, setView_setView]
    · simp only [views_endHaloWait, views_endSideWait]
      exact congrArg (setView x.id _) ((views_dropTxns ..).trans (by simp))
    · exact fun _ => rfl

theorem Engine.view?_stopOne (e : Engine) (n : Sp) (en : Ending) (x : Job) : (e.stopOne n en x).view? n x.id = (e.view? n x.id).map (x.stopped en) :=
  view?_of_setView (fun _ => x.stopped_id ..) (e.views_stopOne n en x)

theorem Engine.view?_stopOne_ne (e : Engine) (n : Sp) (en : Ending) (x : Job) {k : Nat} (hk : k ≠ x.id) :
    (e.stopOne n en x).view? n k = e.view? n k :=
  view?_of_setView_ne (fun _ => x.stopped_id ..) (e.views_stopOne n en x) hk

/-- The members of a step set that stop with one of them are stopped one after the other, and no other job changes (R204). -/
theorem Engine.views_stopSetOf (e : Engine) (n : Sp) (d : Desc) (id : Option Nat) :
    ∃ ys : List Job, (∀ y ∈ ys, some y.id ≠ id) ∧
      (e.stopSetOf n d id).views n = (ys.foldl (fun e y => e.stopOne n ⟨2, 0x17, 3, 0⟩ y) e).views n := by
  unfold stopSetOf
  split
  · refine ⟨((e.sp n).jobs.filter fun y => y.desc.step && y.desc.setId == d.setId).filter fun y => id != some y.id, fun y hy => ?_, ?_⟩
    · have hne := (List.mem_filter.mp hy).2
      exact (bne_iff_ne.mp hne).symm
    · dsimp only
      split
      · rfl
      · simp only [views_modSp, implies_true]
  · exact ⟨[], by simp, rfl⟩

/-- The job that its step set stops with keeps its own end. -/
theorem Engine.view?_stopSetOf_self (e : Engine) (n : Sp) (d : Desc) (id : Nat) : (e.stopSetOf n d (some id)).view? n id = e.view? n id := by
  obtain ⟨ys, hys, hviews⟩ := e.views_stopSetOf n d (some id)
  rw [view?_congr hviews]
  clear hviews
  induction ys generalizing e with
  | nil => rfl
  | cons y ys ih =>
    have hy : id ≠ y.id := fun h => hys y List.mem_cons_self (by rw [h])
    rw [List.foldl_cons, ih _ fun z hz => hys z (List.mem_cons_of_mem _ hz), view?_stopOne_ne _ _ _ _ hy]

/-- A working job that faults ends with that fault, and its drafting side has a void slot to write where it was not counted (R70, R119). -/
theorem Engine.view?_stopJob {e : Engine} {n : Sp} {id : Nat} {x : Job} (en : Ending) (hx : e.jobId? n id = some x) (hended : x.ended = none) :
    (e.stopJob n id en).view? n id = some ⟨x.id, x.desc, x.voided x.draft, some en⟩ := by
  have hid := jobId?_id hx
  subst hid
  simp only [stopJob, hx, hended, Option.isSome_none, Bool.false_eq_true, if_false, stopSet]
  rw [view?_stopSetOf_self, view?_stopOne, view?_of_jobId? hx, Option.map_some, Job.stopped, hended]
  rfl

/-- A stop of one job leaves every job's view as it is, or the viewed job has ended. -/
theorem Engine.view?_stopOne_cases (e : Engine) (n : Sp) (en : Ending) (y : Job) {k : Nat} {v : JobView} (hv : e.view? n k = some v) :
    ∃ w, (e.stopOne n en y).view? n k = some w ∧ (w = v ∨ w.ended.isSome = true) := by
  by_cases hk : k = y.id
  · subst hk
    refine ⟨y.stopped en v, by rw [view?_stopOne, hv]; rfl, ?_⟩
    unfold Job.stopped
    (repeat' split) <;> simp
  · exact ⟨v, by rw [view?_stopOne_ne _ _ _ _ hk, hv], .inl rfl⟩

/-- A stop of several jobs, one after the other, too. -/
theorem Engine.view?_foldl_stopOne_cases (n : Sp) (en : Ending) {k : Nat} (ys : List Job) (e : Engine) {v : JobView} (hv : e.view? n k = some v) :
    ∃ w, (ys.foldl (fun e y => e.stopOne n en y) e).view? n k = some w ∧ (w = v ∨ w.ended.isSome = true) := by
  induction ys generalizing e v with
  | nil => exact ⟨v, hv, .inl rfl⟩
  | cons y ys ih =>
    obtain ⟨u, hu, huv⟩ := e.view?_stopOne_cases n en y hv
    obtain ⟨w, hw, hwu⟩ := ih _ hu
    refine ⟨w, hw, ?_⟩
    rcases hwu with rfl | h
    · exact huv
    · exact .inr h

/-- A stop of a job and its step set leaves every job's view as it is, or the viewed job has ended. -/
theorem Engine.view?_stopJob_cases (e : Engine) (n : Sp) (id : Nat) (en : Ending) {k : Nat} {v : JobView} (hv : e.view? n k = some v) :
    ∃ w, (e.stopJob n id en).view? n k = some w ∧ (w = v ∨ w.ended.isSome = true) := by
  unfold stopJob
  split
  · rename_i x _
    split
    · exact ⟨v, hv, .inl rfl⟩
    · obtain ⟨ys, -, hviews⟩ := (e.stopOne n en x).views_stopSetOf n x.desc (some x.id)
      obtain ⟨u, hu, huv⟩ := e.view?_stopOne_cases n en x hv
      obtain ⟨w, hw, hwu⟩ := view?_foldl_stopOne_cases n ⟨2, 0x17, 3, 0⟩ ys _ hu
      refine ⟨w, (view?_congr hviews k).trans hw, ?_⟩
      rcases hwu with rfl | h
      · exact huv
      · exact .inr h
  · exact ⟨v, hv, .inl rfl⟩

/-! ## Checked accesses stop their job, or leave every view -/

/-- What a checked access of a job comes to for the jobs' views: it stops its job by a fault, or leaves them (R271 to R284, R375). -/
def Engine.MayStop (n : Sp) (id : Nat) (e e' : Engine) : Prop := (∃ en, e' = e.stopJob n id en) ∨ e'.views n = e.views n

theorem Engine.jobWrite_mayStop (e : Engine) (n : Sp) (id : Nat) (p : Nat × Nat) (a : Addr) (bs : List Byte) :
    MayStop n id e (e.jobWrite n id p a bs) := by
  unfold jobWrite
  split
  · exact .inr rfl
  · split
    · exact .inr rfl
    · split
      · exact .inl ⟨_, rfl⟩
      · exact .inr (by simp)

theorem Engine.jobRead_mayStop (e : Engine) (n : Sp) (id : Nat) (p : Nat × Nat) (a : Addr) (len : Nat) :
    MayStop n id e (e.jobRead n id p a len) := by
  unfold jobRead
  split
  · exact .inr rfl
  · split
    · exact .inr rfl
    · split
      · exact .inl ⟨_, rfl⟩
      · refine .inr ?_
        split
        · split
          · exact views_lookUp ..
          · simp
        · simp

theorem Engine.draftWrite_mayStop (e : Engine) (n : Sp) (x : Job) (p : Nat × Nat) (off : Nat) (bs : List Byte) :
    MayStop n x.id e (e.draftWrite n x p off bs) :=
  iteInduction (motive := MayStop n x.id e) (fun _ => .inl ⟨_, rfl⟩) fun _ => jobWrite_mayStop ..

theorem Engine.askSource_mayStop (e : Engine) (n : Sp) (id k : Nat) : MayStop n id e (e.askSource n id k) := by
  unfold askSource
  split
  · exact .inr rfl
  · split
    · dsimp only
      split
      · exact .inr rfl
      · split
        · exact jobRead_mayStop ..
        · refine .inr ?_
          split <;> simp
    · exact .inr rfl

/-! ## Scratch space, rows and counts leave every view -/

@[simp] theorem Engine.views_putScratch (e : Engine) (n : Sp) (id k off : Nat) (bs : List Byte) (m : Sp) :
    (e.putScratch n id k off bs).views m = e.views m := by
  unfold putScratch; split <;> simp

@[simp] theorem Engine.views_stageHalves (e : Engine) (n : Sp) (id r : Nat) (hs : List HalfOut) (m : Sp) :
    (e.stageHalves n id r hs).views m = e.views m := by
  unfold stageHalves
  suffices h : ∀ acc : Engine × Nat, acc.1.views m = e.views m → (hs.foldl (fun (acc : Engine × Nat) h =>
      let bs := h.bytes.getD []
      if e.slotFree h.ring r || decide (h.ring.halfSize < bs.length) then acc
      else (acc.1.putScratch n id 1 acc.2 bs, acc.2 + bs.length)) acc).1.views m = e.views m from h (e, 0) rfl
  induction hs with
  | nil => exact fun acc h => h
  | cons h hs ih =>
    intro acc hacc
    refine ih _ ?_
    dsimp only
    split
    · exact hacc
    · rw [views_putScratch, hacc]

@[simp] theorem Engine.views_readRows (e : Engine) (rows : List RowAt) (found : Ecc) (ue : Bool) (m : Sp) :
    (e.readRows rows found ue).1.views m = e.views m := by
  unfold readRows
  split
  · exact views_eccEntry ..
  · refine views_foldl _ m ?_ _ e
    exact fun _ _ => rfl

@[simp] theorem Engine.views_readSram (e : Engine) (a : Addr) (len : Nat) (found : Ecc) (m : Sp) :
    (e.readSram a len found).1.views m = e.views m := by
  unfold readSram; split <;> simp

@[simp] theorem Engine.views_countRun (e : Engine) (n : Sp) (x : Job) (b : DraftBlk) (dr : Draft) (r : Narrowing) (m : Sp) :
    (e.countRun n x b dr r).views m = e.views m := by
  unfold countRun
  dsimp only
  (repeat' split) <;> simp

/-! ## The work of a drafting side -/

/-- Two states of a drafting side with the same work: they differ in the phase and in how far the stream is written alone. -/
def Draft.SameWork (d c : Draft) : Prop := c = { d with phase := c.phase, entries := c.entries, cursor := c.cursor }

theorem Draft.SameWork.refl (d : Draft) : d.SameWork d := rfl

theorem Draft.SameWork.trans {d c b : Draft} (h : d.SameWork c) (h' : c.SameWork b) : d.SameWork b := by
  unfold SameWork at *
  rw [h', h]

theorem Draft.SameWork.written {d c : Draft} (h : d.SameWork c) (es : List TileEntry) (k : Nat) : d.SameWork { c with entries := es, cursor := k } :=
  h.trans rfl

theorem Draft.SameWork.carded {d c : Draft} (h : d.SameWork c) : c.carded = d.carded := by rw [h]
theorem Draft.SameWork.carder {d c : Draft} (h : d.SameWork c) : c.carder = d.carder := by rw [h]
theorem Draft.SameWork.drafted {d c : Draft} (h : d.SameWork c) : c.drafted = d.drafted := by rw [h]
theorem Draft.SameWork.codes {d c : Draft} (h : d.SameWork c) : c.codes = d.codes := by rw [h]
theorem Draft.SameWork.clipped {d c : Draft} (h : d.SameWork c) : c.clipped = d.clipped := by rw [h]

/-- The started job of spindle n with a number has done the work of `d`. -/
def Engine.HasWork (e : Engine) (n : Sp) (id : Nat) (d : Draft) : Prop := ∃ v c, e.view? n id = some v ∧ v.draft = some c ∧ d.SameWork c

theorem Engine.HasWork.of_views {e e' : Engine} {n : Sp} {id : Nat} {d : Draft} (h : e.HasWork n id d) (hv : e'.views n = e.views n) :
    e'.HasWork n id d := by
  rwa [HasWork, view?_congr hv]

/-- A change of a job that carries its work from `d` to `d'`. -/
theorem Engine.HasWork.modJob {e : Engine} {n : Sp} {id : Nat} {d d' : Draft} {f : Job → Job} (h : e.HasWork n id d) (hf : ∀ x, (f x).id = x.id)
    (hd : ∀ x c, x.draft = some c → d.SameWork c → ∃ c', (f x).draft = some c' ∧ d'.SameWork c') : (e.modJob n id f).HasWork n id d' := by
  obtain ⟨v, c, hv, hc, hw⟩ := h
  obtain ⟨x, hx, rfl⟩ := jobId?_of_view? hv
  obtain ⟨c', hc', hw'⟩ := hd x c hc hw
  exact ⟨(f x).view, c', view?_of_jobId? (jobId?_modJob_of hx hf), hc', hw'⟩

/-- A void slot that is to be written changes the phase alone, and only in a scale group (R119). -/
theorem Job.voided_draft {x : Job} {d : Draft} (hd : x.draft = some d) :
    x.voided x.draft = some d ∨ (∃ b, x.desc.draft = some b ∧ b.group = true) ∧ x.voided x.draft = some { d with phase := .slot } := by
  unfold voided
  cases hb : x.desc.draft with
  | none => exact .inl hd
  | some b =>
    dsimp only
    split
    · rename_i hg
      exact .inr ⟨⟨b, rfl, (Bool.and_eq_true_iff.mp hg).1⟩, by rw [slotDue, hd, Option.getD_some]⟩
    · exact .inl hd

/-- What a checked access of a job leaves of its drafting side: all but, in a scale group, its phase (R119). -/
theorem Engine.MayStop.draft {n : Sp} {id : Nat} {e e' : Engine} (h : MayStop n id e e') {v : JobView} {d : Draft} (hv : e.view? n id = some v)
    (hd : v.draft = some d) :
    ∃ w, e'.view? n id = some w ∧
      (w.draft = some d ∨ (∃ b, v.desc.draft = some b ∧ b.group = true) ∧ w.draft = some { d with phase := .slot }) := by
  rcases h with ⟨en, rfl⟩ | hsame
  · obtain ⟨x, hx, rfl⟩ := jobId?_of_view? hv
    cases hended : x.ended with
    | none => exact ⟨_, view?_stopJob en hx hended, Job.voided_draft hd⟩
    | some old => exact ⟨x.view, by simp [stopJob, hx, hended, view?_of_jobId? hx], .inl hd⟩
  · exact ⟨v, (view?_congr hsame id).trans hv, .inl hd⟩

theorem Engine.HasWork.of_mayStop {e e' : Engine} {n : Sp} {id : Nat} {d : Draft} (h : e.HasWork n id d) (hs : MayStop n id e e') :
    e'.HasWork n id d := by
  obtain ⟨v, c, hv, hc, hw⟩ := h
  obtain ⟨w, hview, hdraft | ⟨-, hdraft⟩⟩ := hs.draft hv hc
  · exact ⟨w, c, hview, hdraft, hw⟩
  · exact ⟨w, _, hview, hdraft, hw.trans rfl⟩

end Sys2Proof.Machine
end

section
/-! PROOFS. Carding and drafting (04_carding_and_drafting): the passes of the Carder and the Drafter, the end of a stream, scale groups and
step sets. -/

namespace Sys2Proof.Machine

/-! ## Writing the stream leaves the work -/

/-- A job whose drafting side has a new phase has the work it had. -/
theorem Engine.HasWork.setPhase {e : Engine} {n : Sp} {id : Nat} {d : Draft} (h : e.HasWork n id d) (f : Job → Job) (p : DraftPhase)
    (hf : ∀ x, (f x).id = x.id) (hdraft : ∀ x, (f x).draft = x.draft.map fun c => { c with phase := p }) : (e.modJob n id f).HasWork n id d :=
  h.modJob hf fun x c hc hw => ⟨{ c with phase := p }, by rw [hdraft, hc, Option.map_some], hw.trans rfl⟩

theorem Engine.HasWork.writeHeader {e : Engine} {n : Sp} {x : Job} {d : Draft} (h : e.HasWork n x.id d) (b : DraftBlk) (dr : Draft) :
    (e.writeHeader n x b dr).HasWork n x.id d := by
  refine HasWork.of_mayStop ?_ (draftWrite_mayStop ..)
  exact h.setPhase _ .header (fun _ => rfl) fun _ => rfl

theorem Engine.HasWork.draftHead {e : Engine} {n : Sp} {id : Nat} {d : Draft} (h : e.HasWork n id d) : (e.draftHead n id).HasWork n id d := by
  unfold Engine.draftHead
  split
  · rename_i x hx
    obtain rfl := jobId?_id hx
    split
    · split
      · exact h.writeHeader ..
      · exact h
    · exact h
  · exact h

theorem Engine.HasWork.carded {e : Engine} {n : Sp} {id : Nat} {d : Draft} (h : e.HasWork n id d) : (e.carded n id).HasWork n id d := by
  unfold Engine.carded
  split
  · exact h
  · split
    · split
      · refine HasWork.of_mayStop ?_ (jobWrite_mayStop ..)
        exact h.setPhase _ .slot (fun _ => rfl) fun _ => rfl
      · exact h
    · exact h

/-- The Drafter's pass ends with the table, the Carder record and the header, none of which undoes its work (R35, R124). -/
theorem Engine.HasWork.draftEnd {e : Engine} {n : Sp} {id : Nat} {d : Draft} (h : e.HasWork n id d) : (e.draftEnd n id).HasWork n id d := by
  unfold Engine.draftEnd
  split
  · exact h
  · rename_i x hx
    obtain rfl := jobId?_id hx
    split
    · dsimp only
      split
      · exact h
      · refine HasWork.draftHead ?_
        split
        case' isFalse => refine HasWork.of_mayStop ?_ (jobWrite_mayStop ..)
        all_goals
          refine HasWork.of_mayStop (HasWork.of_views ?_ (views_stageHalves ..)) (draftWrite_mayStop ..)
          refine HasWork.setPhase ?_ _ .setWait (fun _ => rfl) fun _ => rfl
          exact h.of_views (by simp)
    · exact h

/-- Tiles that are written out leave the work, of which they change the entries and the cursor alone (R35, R50). -/
theorem Engine.HasWork.emitTiles {n : Sp} {x : Job} {b : DraftBlk} {d : Draft} (fuel : Nat) {e : Engine} {dr : Draft} (h : e.HasWork n x.id d)
    (hdr : d.SameWork dr) : (e.emitTiles n x b fuel dr).HasWork n x.id d := by
  have hset {e : Engine} (h : e.HasWork n x.id d) (dr' : Draft) (hdr' : d.SameWork dr') :
      (e.modJob n x.id fun x => { x with draft := some dr' }).HasWork n x.id d :=
    h.modJob (fun _ => rfl) fun _ _ _ _ => ⟨dr', rfl, hdr'⟩
  induction fuel generalizing e dr with
  | zero => exact h
  | succ fuel ih =>
    unfold Engine.emitTiles
    dsimp only
    split
    · exact h
    · split
      · exact ih (hset h _ (hdr.written ..)) (hdr.written ..)
      · rename_i bs _
        have hwritten := (hset h _ (hdr.written (dr.entries ++ [⟨roundUp dr.cursor 64, bs.length, false⟩]) (roundUp dr.cursor 64 + bs.length))).of_mayStop
          (draftWrite_mayStop _ n x wStream dr.cursor (List.replicate (roundUp dr.cursor 64 - dr.cursor) 0 ++ bs))
        split
        · split
          · exact hwritten
          · exact ih hwritten (hdr.written ..)
        · exact hwritten

/-! ## Runs of source (R102, R113) -/

theorem length_chunksAux {α : Type} {w : Nat} (hw : 0 < w) (k fuel : Nat) (xs : List α) (h : xs.length = k * w) (hf : k ≤ fuel) :
    (chunksAux w fuel xs).length = k := by
  induction k generalizing fuel xs with
  | zero =>
    obtain rfl : xs = [] := List.eq_nil_of_length_eq_zero (by omega)
    cases fuel <;> rfl
  | succ k ih =>
    obtain ⟨fuel, rfl⟩ : ∃ f, fuel = f + 1 := ⟨fuel - 1, by omega⟩
    cases xs with
    | nil => simp [Nat.succ_mul] at h; omega
    | cons x xs =>
      rw [chunksAux, List.length_cons, ih fuel _ _ (by omega)]
      rw [List.length_drop, h, Nat.succ_mul]
      omega

/-- A whole number of pieces is cut into that number. -/
theorem length_chunks {α : Type} {w k : Nat} (hw : 0 < w) (xs : List α) (h : xs.length = k * w) : (chunks w xs).length = k :=
  length_chunksAux hw k _ xs h (by rw [h]; exact Nat.le_mul_of_pos_right k hw)

@[simp] theorem length_slice (bs : List Byte) (off len : Nat) : (slice bs off len).length = len := by
  simp only [slice, List.length_append, List.length_take, List.length_drop, List.length_replicate]
  omega

@[simp] theorem Engine.length_readAt (e : Engine) (a : Addr) (len : Nat) : (e.readAt a len).length = len := by
  simp [readAt]

theorem srcBytes_pos (d : Desc) (b : DraftBlk) : 0 < srcBytes d b := by
  unfold srcBytes; split <;> decide

/-! ## Reading the source (R113, R114, R483) -/

/-- A foreground read that finds its rows readable corrects rows alone (R482). -/
theorem Engine.readRows_eq_of_readable (e : Engine) (rows : List RowAt) (found : Ecc) (ue : Bool) (h : (e.readRows rows found ue).2 = false) :
    ∃ sc, (e.readRows rows found ue).1 = { e with scrub := sc } := by
  have hfold (rs : List RowAt) (e : Engine) :
      ∃ sc, (rs.foldl (fun e r => { e with scrub := e.scrub.correct r }.eccCorrected) e) = { e with scrub := sc } := by
    induction rs generalizing e with
    | nil => exact ⟨e.scrub, rfl⟩
    | cons r rs ih => exact ih _
  unfold readRows at h ⊢
  split at h
  · exact absurd h (by simp)
  · exact hfold ..

theorem Engine.readSram_eq_of_readable (e : Engine) (a : Addr) (len : Nat) (found : Ecc) (h : (e.readSram a len found).2 = false) :
    ∃ sc, (e.readSram a len found).1 = { e with scrub := sc } := by
  unfold readSram at h ⊢
  split
  · exact ⟨e.scrub, rfl⟩
  · rename_i hc
    rw [if_neg hc] at h
    exact e.readRows_eq_of_readable _ _ _ h

section
variable {e : Engine} {n : Sp} {x : Job} {b : DraftBlk} {d : Draft} {k : Nat} {stored : Bool} (row : Ecc)
  (hkind : x.desc.srcKind ≠ 1) (hlen : k * srcBytes x.desc b + chunkLen x.desc b d k * srcBytes x.desc b ≤ d.src.length)
  (hwait : (e.sp n).waitsFor x.id (pCarder k) = false)
include hkind hlen hwait

/-- A source that comes to the job's buffer is read there as it comes (R113, R114). -/
theorem Engine.sourceChunk_buffered (hstored : stored = false) :
    e.sourceChunk n x b d k stored row = (e, .bytes (slice d.src (k * srcBytes x.desc b) (chunkLen x.desc b d k * srcBytes x.desc b))) := by
  simp [sourceChunk, hkind, hwait, Nat.not_lt.mpr hlen, hstored]

/-- A source stored in scratch space is read back from there (R114, R289, R483). -/
theorem Engine.sourceChunk_scratch (hstored : stored = true) {p : Nat} (hspot : x.storedAt b = some p) :
    e.sourceChunk n x b d k stored row =
      let a := e.scratchAddr n p (k * srcBytes x.desc b)
      let r := e.readSram a (chunkLen x.desc b d k * srcBytes x.desc b) row
      (r.1, if r.2 then .bad 0x19 (e.storeCode a) else .bytes (e.readAt a (chunkLen x.desc b d k * srcBytes x.desc b))) := by
  have hthere := not_or.mpr ⟨Nat.not_lt.mpr hlen, Bool.eq_false_iff.mp hwait⟩
  simp only [sourceChunk, if_neg hkind, if_neg hthere, hspot, hstored, if_true, Bool.not_true, Bool.false_eq_true, if_false]
  split
  · rfl
  · rename_i hr
    obtain ⟨sc, hsc⟩ := e.readSram_eq_of_readable _ _ _ (Bool.eq_false_iff.mpr hr)
    rw [hsc]
    rfl

/-- A source stored in the working banks is read back from there (R114, R277, R483). -/
theorem Engine.sourceChunk_banks (hstored : stored = true) (hspot : x.storedAt b = none) :
    e.sourceChunk n x b d k stored row =
      let r := e.readRows (bankRows n x.srcBanks (k * srcBytes x.desc b) (chunkLen x.desc b d k * srcBytes x.desc b)) row false
      (r.1, if r.2 then .bad 0x19 1 else .bytes (slice d.src (k * srcBytes x.desc b) (chunkLen x.desc b d k * srcBytes x.desc b))) := by
  have hthere := not_or.mpr ⟨Nat.not_lt.mpr hlen, Bool.eq_false_iff.mp hwait⟩
  simp only [sourceChunk, if_neg hkind, if_neg hthere, hspot, hstored, if_true, Bool.not_true, Bool.false_eq_true, if_false]
  split <;> rfl

end

/-- The source of a one-pass job is not stored (R114). -/
theorem Job.storedAt_onePass {x : Job} {b : DraftBlk} (h : b.twoPass = false) : x.storedAt b = none := by
  unfold storedAt
  split <;> simp [h]

/-! ## Carding and drafting -/

/-- The Drafter's pass begins with its scale; a member of a scale group whose read of the source is at fault has a void slot to write (R113,
R115, R119). -/
theorem Engine.view?_beginDrafting {e : Engine} {n : Sp} {id : Nat} {v : JobView} {d : Draft} (hv : e.view? n id = some v) (hd : v.draft = some d)
    (scale : Word) :
    ∃ w, (e.beginDrafting n id scale).view? n id = some w ∧
      (w.draft = some { d with phase := .drafting, scale := some scale } ∨
        (∃ b, v.desc.draft = some b ∧ b.group = true) ∧ w.draft = some { d with phase := .slot, scale := some scale }) := by
  have hbegun : (e.modJob n id fun x => { x with draft := x.draft.map fun c => { c with phase := .drafting, scale := some scale } }).view? n id =
      some { v with draft := some { d with phase := .drafting, scale := some scale } } := by
    rw [view?_of_setView (g := fun v => { v with draft := v.draft.map fun c => { c with phase := .drafting, scale := some scale } }) (fun _ => rfl)
      (views_modJob_eq _ _ _ _ _ fun _ => rfl), hv, Option.map_some, hd, Option.map_some]
  have hasked := (askSource_mayStop _ n id 0).draft hbegun rfl
  exact hasked

/-- The drafting side after the Carder has binned a run of values (R104). -/
def Draft.binned (d : Draft) (base : Int) (vs : List Val) : Draft :=
  { d with carded := d.carded + vs.length, carder := vs.foldl (fun c v => c.add base v) d.carder }

/-- The drafting side after the Drafter has narrowed a run of `k` elements (R120). -/
def Draft.narrowed (d : Draft) (k : Nat) (r : Narrowing) : Draft :=
  { d with drafted := d.drafted + k, codes := d.codes ++ r.codes, clipped := d.clipped + r.clipped }

/-- What the Drafter does with a run that it has narrowed: the source that follows is asked for, tiles are written, and the pass may end. -/
def Engine.draftRun (e : Engine) (n : Sp) (x : Job) (b : DraftBlk) (dr : Draft) : Engine :=
  let e1 := e.modJob n x.id fun y => { y with draft := some dr }
  let e2 := if b.twoPass then e1.askSource n x.id dr.drafted else e1
  (e2.emitTiles n x b ((draftHeader b dr 0 0).tiles + 1) dr).draftEnd n x.id

theorem Engine.HasWork.draftRun {e : Engine} {n : Sp} {x : Job} {d : Draft} (h : e.HasWork n x.id d) (b : DraftBlk) (dr : Draft) :
    (e.draftRun n x b dr).HasWork n x.id dr := by
  have hset : (e.modJob n x.id fun y => { y with draft := some dr }).HasWork n x.id dr :=
    h.modJob (fun _ => rfl) fun _ _ _ _ => ⟨dr, rfl, .refl dr⟩
  refine HasWork.draftEnd (HasWork.emitTiles _ ?_ (.refl dr))
  split
  · exact hset.of_mayStop (askSource_mayStop ..)
  · exact hset

/-- A job that has not ended ends with the fault that it stops by (R70). -/
theorem Engine.ended_stopJob {e : Engine} {n : Sp} {id : Nat} {v : JobView} (hv : e.view? n id = some v) (hended : v.ended = none) (en : Ending) :
    ∃ y, (e.stopJob n id en).jobId? n id = some y ∧ y.ended = some en := by
  obtain ⟨x, hx, rfl⟩ := jobId?_of_view? hv
  obtain ⟨y, hy, hview⟩ := jobId?_of_view? (view?_stopJob en hx hended)
  exact ⟨y, hy, congrArg JobView.ended hview⟩

theorem Engine.withJob_of_worksAt {s : State} {n : Sp} {j : Nat} {x : Job} (h : worksAt s n j x) (f : Job → Engine) : s.eng.withJob n j f = f x := by
  obtain ⟨hlive, hjob, -, hacts⟩ := h
  simp [withJob, hjob, hlive, hacts]

theorem Engine.jobId?_of_worksAt {s : State} {n : Sp} {j : Nat} {x : Job} (h : worksAt s n j x) : s.eng.jobId? n x.id = some x := by
  obtain ⟨-, -, hid, -⟩ := h
  exact hid

theorem Job.ended_of_acts {x : Job} (h : x.acts = true) : x.ended = none := by
  simp only [acts, Bool.and_eq_true, Option.isNone_iff_eq_none] at h
  exact h.1.1.2

theorem Job.ended_of_worksAt {s : State} {n : Sp} {j : Nat} {x : Job} (h : worksAt s n j x) : x.ended = none := by
  obtain ⟨-, -, -, hacts⟩ := h
  exact ended_of_acts hacts

/-- A job has the work of its own drafting side. -/
theorem Engine.hasWork_of_jobId? {e : Engine} {n : Sp} {x : Job} {d : Draft} (hx : e.jobId? n x.id = some x) (hd : x.draft = some d) :
    e.HasWork n x.id d := ⟨x.view, d, view?_of_jobId? hx, hd, .refl d⟩

theorem Engine.HasWork.exists_jobId? {e : Engine} {n : Sp} {id : Nat} {d : Draft} (h : e.HasWork n id d) :
    ∃ y c, e.jobId? n id = some y ∧ y.draft = some c ∧ d.SameWork c := by
  obtain ⟨v, c, hv, hc, hw⟩ := h
  obtain ⟨y, hy, rfl⟩ := jobId?_of_view? hv
  exact ⟨y, c, hy, hc, hw⟩

section
variable {n : Sp} {j : Nat} {s : State} {x : Job} {d : Draft} {b : DraftBlk} (hx : worksAt s n j x) (hd : x.draft = some d) (hb : x.desc.draft = some b)
include hx hd hb

theorem exec_carderSourceRead_of_bytes (row : Ecc) (hpass : s.eng.mayPass n x false = true) (bs : List Byte)
    (hchunk : s.eng.sourceChunk n x b d d.carded false row = (s.eng, .bytes bs)) :
    let vs := (chunks (srcBytes x.desc b) bs).map (srcVal x.desc b d)
    ∃ t, exec (.carderSourceRead n j row) s = .next t ∧ t.sec = s.sec ∧
      t.eng.HasWork n x.id (d.binned b.histBase vs) := by
  intro vs
  refine ⟨_, rfl, rfl, ?_⟩
  simp only [State.onEng_eng, Engine.withJob_of_worksAt hx, hd, hb, hpass, hchunk, Engine.onArrive, Bool.not_true, Bool.false_eq_true, if_false]
  refine Engine.HasWork.carded (Engine.HasWork.of_mayStop ?_ (Engine.askSource_mayStop ..))
  have hcarded : ((s.eng.modJob n x.id fun y => { y with draft := y.draft.map fun c =>
      { c with carded := d.carded + vs.length, carder := vs.foldl (fun c v => c.add b.histBase v) c.carder } }).modSp n fun p =>
        { p with srcRead := p.srcRead + bs.length }).HasWork n x.id (d.binned b.histBase vs) := by
    refine Engine.HasWork.of_views ?_ (Engine.views_modSp _ n n _ fun _ => rfl)
    refine (Engine.hasWork_of_jobId? (Engine.jobId?_of_worksAt hx) hd).modJob (fun _ => rfl) fun y c hc hw => ?_
    refine ⟨_, by rw [hc, Option.map_some], ?_⟩
    rw [hw]
    rfl
  split
  · exact hcarded.of_views (Engine.views_putScratch ..)
  · exact hcarded

theorem exec_scaleChosen_of_carded (hphase : d.phase = .carding) (htwo : b.twoPass = true) (hgroup : b.group = false) (hcarded : d.carded = d.n)
    (hsome : d.n ≠ 0) :
    ∃ t y, exec (.scaleChosen n j) s = .next t ∧ t.sec = s.sec ∧ t.eng.jobId? n x.id = some y ∧
      y.draft = some { d with phase := .drafting, scale := some (chooseScale x.grids b d.carder) } := by
  have hexec : exec (.scaleChosen n j) s = .next (s.onEng fun e => e.beginDrafting n x.id (chooseScale x.grids b d.carder)) := by
    change done (s.onEng _) = _
    simp [done, State.onEng, Engine.withJob_of_worksAt hx, hd, hb, hphase, htwo, hgroup, hcarded, hsome]
  obtain ⟨w, hw, hdraft | ⟨⟨b', hb', hgroup'⟩, -⟩⟩ :=
    Engine.view?_beginDrafting (Engine.view?_of_jobId? (Engine.jobId?_of_worksAt hx)) hd (chooseScale x.grids b d.carder)
  · obtain ⟨y, hy, rfl⟩ := Engine.jobId?_of_view? hw
    exact ⟨_, y, hexec, rfl, hy, hdraft⟩
  · obtain rfl : b = b' := Option.some.inj (hb.symm.trans hb')
    simp [hgroup] at hgroup'

omit hx hd hb in
/-- The Drafter may read: a one-pass Drafter follows its Carder. -/
theorem drafterWaits_eq_false (hpass : s.eng.mayPass n x true = true)
    (hdue : b.twoPass = true ∨ d.drafted + chunkLen x.desc b d d.drafted ≤ d.carded) :
    (!s.eng.mayPass n x true || (!b.twoPass && decide (d.carded < d.drafted + chunkLen x.desc b d d.drafted))) = false := by
  rcases hdue with h | h <;> simp [hpass, h]

/-- The Drafter narrows the elements it reads, or faults its job at a SLUB (R120, R174). -/
theorem exec_drafterSourceRead_of_bytes (row : Ecc) (hpass : s.eng.mayPass n x true = true)
    (hdue : b.twoPass = true ∨ d.drafted + chunkLen x.desc b d d.drafted ≤ d.carded) {e : Engine} {bs : List Byte}
    (hchunk : s.eng.sourceChunk n x b d d.drafted b.twoPass row = (e, .bytes bs)) (hviews : e.views n = s.eng.views n)
    (hlen : bs.length = chunkLen x.desc b d d.drafted * srcBytes x.desc b) :
    let r := narrowRun x.grids b (d.scale.getD f32One) ((chunks (srcBytes x.desc b) bs).map (srcVal x.desc b d))
    (r.slub = true → ∃ t y, exec (.drafterSourceRead n j row) s = .next t ∧ t.sec = s.sec ∧ t.eng.jobId? n x.id = some y ∧
      y.ended = some ⟨1, 4, 7, 0⟩) ∧
    (r.slub = false → ∃ t y c, exec (.drafterSourceRead n j row) s = .next t ∧ t.sec = s.sec ∧ t.eng.jobId? n x.id = some y ∧
      y.draft = some c ∧ c.drafted = d.drafted + chunkLen x.desc b d d.drafted ∧ c.codes = d.codes ++ r.codes ∧
      c.clipped = d.clipped + r.clipped) := by
  intro r
  have hcount : ((chunks (srcBytes x.desc b) bs).map (srcVal x.desc b d)).length = chunkLen x.desc b d d.drafted := by
    rw [List.length_map, length_chunks (srcBytes_pos ..) _ hlen]
  have hexec : exec (.drafterSourceRead n j row) s = .next (s.onEng fun _ =>
      if r.slub then (e.countRun n x b d r).fault n x.id 4 7 0
      else (e.countRun n x b d r).draftRun n x b (d.narrowed (chunkLen x.desc b d d.drafted) r)) := by
    change done (s.onEng _) = _
    simp only [done, State.onEng, Engine.withJob_of_worksAt hx, hd, hb, drafterWaits_eq_false hpass hdue, hchunk, Engine.onArrive, hcount,
      Bool.false_eq_true, if_false]
    rfl
  have hcounted : (e.countRun n x b d r).views n = s.eng.views n := (Engine.views_countRun ..).trans hviews
  have hid := Engine.jobId?_of_worksAt hx
  refine ⟨fun hslub => ?_, fun hslub => ?_⟩
  · rw [if_pos hslub] at hexec
    obtain ⟨y, hy, hended⟩ := Engine.ended_stopJob ((Engine.view?_congr hcounted x.id).trans (Engine.view?_of_jobId? hid))
      (Job.ended_of_worksAt hx) ⟨1, 4, 7, 0⟩
    exact ⟨_, y, hexec, rfl, hy, hended⟩
  · rw [if_neg (Bool.eq_false_iff.mp hslub)] at hexec
    have hwork := ((Engine.hasWork_of_jobId? hid hd).of_views hcounted).draftRun b (d.narrowed (chunkLen x.desc b d d.drafted) r)
    obtain ⟨y, c, hy, hc, hsame⟩ := hwork.exists_jobId?
    exact ⟨_, y, c, hexec, rfl, hy, hc, hsame.drafted, hsame.codes, hsame.clipped⟩

/-- A stored row that cannot be read faults the Drafter's job (R483). -/
theorem exec_drafterSourceRead_of_bad (row : Ecc) (hpass : s.eng.mayPass n x true = true)
    (hdue : b.twoPass = true ∨ d.drafted + chunkLen x.desc b d d.drafted ≤ d.carded) {e : Engine} {v : Nat}
    (hchunk : s.eng.sourceChunk n x b d d.drafted b.twoPass row = (e, .bad 0x19 v)) (hviews : e.views n = s.eng.views n) :
    ∃ t y, exec (.drafterSourceRead n j row) s = .next t ∧ t.sec = s.sec ∧ t.eng.jobId? n x.id = some y ∧ y.ended = some ⟨1, 0x19, v, 0⟩ := by
  have hexec : exec (.drafterSourceRead n j row) s = .next (s.onEng fun _ => e.fault n x.id 0x19 v 0) := by
    change done (s.onEng _) = _
    simp only [done, State.onEng, Engine.withJob_of_worksAt hx, hd, hb, drafterWaits_eq_false hpass hdue, hchunk, Engine.onArrive,
      Bool.false_eq_true, if_false, Option.getD_none]
  obtain ⟨y, hy, hended⟩ := Engine.ended_stopJob
    ((Engine.view?_congr hviews x.id).trans (Engine.view?_of_jobId? (Engine.jobId?_of_worksAt hx))) (Job.ended_of_worksAt hx) ⟨1, 0x19, v, 0⟩
  exact ⟨_, y, hexec, rfl, hy, hended⟩

end

/-! ## The header is acknowledged (R35, R115) -/

theorem Engine.finish_creel (e : Engine) (n : Sp) (id : Nat) : (e.finish n id).creel = e.creel := by
  unfold finish
  dsimp only
  rw [modJob_creel]
  split
  · unfold endSideWait; split <;> rfl
  · rfl

/-- A job whose work is done ends without fault, with the drafting side it had. -/
theorem Engine.jobId?_finish {e : Engine} {n : Sp} {id : Nat} {x : Job} (hx : e.jobId? n id = some x) :
    ∃ y, (e.finish n id).jobId? n id = some y ∧ y.draft = x.draft ∧ y.ended = some ⟨0, 0, 0, 0⟩ := by
  have hwait : (e.endSideWait n x).view? n id = some x.view := by
    rw [view?_congr (views_endSideWait ..), view?_of_jobId? hx]
  obtain ⟨y, hy, hview⟩ := jobId?_of_view? hwait
  simp only [finish, hx]
  rw [jobId?_modJob, hy]
  · exact ⟨_, rfl, congrArg JobView.draft hview, rfl⟩
  · exact fun _ => rfl

/-- A drafting job whose header is acknowledged ends once its halves are (R35, R366). -/
theorem Engine.draftDone_eq {e : Engine} {n : Sp} {id : Nat} {x : Job} {d : Draft} (hx : e.jobId? n id = some x) (hd : x.draft = some d)
    (hphase : d.phase = .done) (hended : x.ended = none) : e.draftDone n id = if x.halves.all (fun h => h.acked) then e.finish n id else e := by
  simp [draftDone, hx, hd, hphase, hended]

theorem exec_streamHeaderWriteAck_of_written {n : Sp} {j : Nat} {s : State} {x : Job} {d : Draft} (hx : worksAt s n j x) (hd : x.draft = some d)
    (hphase : d.phase = .header) (hout : s.eng.writesOut n x [32, 33, 34] = false) :
    ∃ t y, exec (.streamHeaderWriteAck n j) s = .next t ∧ t.sec = s.sec ∧ t.eng.creel = s.eng.creel ∧ t.eng.jobId? n x.id = some y ∧
      y.draft = some { d with phase := .done } ∧ y.ended = if x.halves.all (fun h => h.acked) then some ⟨0, 0, 0, 0⟩ else none := by
  have hexec : exec (.streamHeaderWriteAck n j) s = .next (s.onEng fun e =>
      (e.modJob n x.id fun y => { y with draft := y.draft.map fun c => { c with phase := .done } }).draftDone n x.id) := by
    change done (s.onEng _) = _
    simp [done, State.onEng, Engine.withJob_of_worksAt hx, hd, hphase, hout]
  obtain ⟨-, -, hid, hacts⟩ := hx
  have hended := Job.ended_of_acts hacts
  have hjob : (s.eng.modJob n x.id fun y => { y with draft := y.draft.map fun c => { c with phase := .done } }).jobId? n x.id =
      some { x with draft := some { d with phase := .done } } := by
    refine (Engine.jobId?_modJob_of hid ?_).trans ?_
    · exact fun _ => rfl
    · rw [hd, Option.map_some]
  have hdone := Engine.draftDone_eq hjob rfl rfl hended
  simp only [State.onEng, hdone] at hexec
  by_cases hacked : x.halves.all (fun h => h.acked) = true
  · simp only [if_pos hacked] at hexec ⊢
    obtain ⟨y, hy, hdraft, hend⟩ := Engine.jobId?_finish hjob
    exact ⟨_, y, hexec, rfl, Engine.finish_creel .., hy, hdraft, hend⟩
  · simp only [if_neg hacked] at hexec ⊢
    exact ⟨_, _, hexec, rfl, rfl, hjob, rfl, hended⟩

/-- Settles O53, one command of the Carder and the Drafter after the other; the source stands in the buffer, in scratch space, or in the
working banks. -/
theorem carderAndDrafterPasses : Obligations.CarderAndDrafterPasses := by
  intro n j s x d b hx hd hb w len vals stored there
  refine ⟨fun hpass hthere => ?_, fun hphase htwo hgroup hcarded hsome => ?_, ?_⟩
  · obtain ⟨hkind, hlen, hwait⟩ := hthere
    have hcount : (vals d.carded).length = chunkLen x.desc b d d.carded := by
      rw [List.length_map, length_chunks (srcBytes_pos ..) _ (length_slice ..)]
    obtain ⟨t, ht, hsec, hwork⟩ := exec_carderSourceRead_of_bytes hx hd hb .ok hpass _ (Engine.sourceChunk_buffered .ok hkind hlen hwait rfl)
    obtain ⟨y, c, hy, hc, hsame⟩ := hwork.exists_jobId?
    exact ⟨t, y, c, ht, hsec, hy, hc, hsame.carded.trans (congrArg (d.carded + ·) hcount), hsame.carder, hsame.drafted, hsame.codes⟩
  · obtain ⟨t, y, ht, hsec, hy, hdraft⟩ := exec_scaleChosen_of_carded hx hd hb hphase htwo hgroup hcarded hsome
    exact ⟨t, y, _, ht, hsec, hy, hdraft, rfl, rfl, rfl⟩
  intro lost
  refine ⟨fun hpass hthere hdue hlost => ?_, fun hpass hthere hdue hlost => ?_, fun hphase hout => ?_⟩
  · obtain ⟨hkind, hlen, hwait⟩ := hthere
    obtain ⟨htwo, hfails⟩ := Bool.and_eq_true_iff.mp hlost
    cases hspot : x.storedAt b with
    | some p =>
      rw [hspot] at hfails
      obtain ⟨t, y, ht, hsec, hy, hended⟩ := exec_drafterSourceRead_of_bad hx hd hb .ok hpass hdue
        ((Engine.sourceChunk_scratch .ok hkind hlen hwait htwo hspot).trans (congrArg (Prod.mk _) (if_pos hfails))) (Engine.views_readSram ..)
      exact ⟨t, y, _, ht, hsec, hy, hended, by simp⟩
    | none =>
      rw [hspot] at hfails
      obtain ⟨t, y, ht, hsec, hy, hended⟩ := exec_drafterSourceRead_of_bad hx hd hb .ok hpass hdue
        ((Engine.sourceChunk_banks .ok hkind hlen hwait htwo hspot).trans (congrArg (Prod.mk _) (if_pos hfails))) (Engine.views_readRows ..)
      exact ⟨t, y, _, ht, hsec, hy, hended, fun _ => rfl⟩
  · obtain ⟨hkind, hlen, hwait⟩ := hthere
    dsimp only [stored, lost] at hlost ⊢
    cases htwo : b.twoPass with
    | false =>
      rw [Job.storedAt_onePass htwo]
      exact exec_drafterSourceRead_of_bytes hx hd hb .ok hpass hdue (Engine.sourceChunk_buffered .ok hkind hlen hwait htwo) rfl (length_slice ..)
    | true =>
      rw [htwo, Bool.true_and] at hlost
      cases hspot : x.storedAt b with
      | some p =>
        rw [hspot] at hlost
        exact exec_drafterSourceRead_of_bytes hx hd hb .ok hpass hdue
          ((Engine.sourceChunk_scratch .ok hkind hlen hwait htwo hspot).trans (congrArg (Prod.mk _) (if_neg (Bool.eq_false_iff.mp hlost))))
          (Engine.views_readSram ..) (Engine.length_readAt ..)
      | none =>
        rw [hspot] at hlost
        exact exec_drafterSourceRead_of_bytes hx hd hb .ok hpass hdue
          ((Engine.sourceChunk_banks .ok hkind hlen hwait htwo hspot).trans (congrArg (Prod.mk _) (if_neg (Bool.eq_false_iff.mp hlost))))
          (Engine.views_readRows ..) (length_slice ..)
  · obtain ⟨t, y, ht, hsec, hcreel, hy, hdraft, hended⟩ := exec_streamHeaderWriteAck_of_written hx hd hphase hout
    exact ⟨t, y, _, ht, hsec, hcreel, hy, hdraft, rfl, hended⟩

/-! ## Scale groups (R116 to R118) -/

/-- An operation reaches its knot's bank as the last one, in the dispatch clock that the table stands in (R362). -/
theorem Engine.knotIssue_bank (e : Engine) (w : Issuer) (k : Nat) (v : KnotVerb) (a : Word) :
    (e.knotIssue w k v a).knots.banks[knotBank k] = e.knots.banks[knotBank k] ++ [⟨(e.knotIssue w k v a).knots.clock, w, k % 65536, v, a⟩] := by
  have hbanks : (e.knots.issueClock w).banks = e.knots.banks := by unfold Knots.issueClock; split <;> rfl
  simp [knotIssue, hbanks]

theorem exec_groupSlotWriteAck_of_written {n : Sp} {j : Nat} {s : State} {x : Job} {d : Draft} {b : DraftBlk} (hjob : s.eng.job? n j = some x)
    (hid : s.eng.jobId? n x.id = some x) (hd : x.draft = some d) (hb : x.desc.draft = some b) (hlive : s.eng.live = true)
    (hphase : d.phase = .slot) (hknot : d.knotDone = false) (hout : s.eng.writesOut n x [35] = false) :
    ∃ t y, exec (.groupSlotWriteAck n j) s = .next t ∧ t.sec = s.sec ∧ t.eng.jobId? n x.id = some y ∧
      y.draft = some { d with phase := .groupWait, knotDone := true } ∧
      t.eng.knots.banks[knotBank b.groupKnot] = s.eng.knots.banks[knotBank b.groupKnot] ++
        [⟨t.eng.knots.clock, .spindle n.val, b.groupKnot % 65536, .add, 1⟩] := by
  have hexec : exec (.groupSlotWriteAck n j) s = .next (s.onEng fun e =>
      (e.modJob n x.id fun y => { y with draft := y.draft.map fun c => { c with phase := .groupWait, knotDone := true } }).knotIssue
        (.spindle n.val) b.groupKnot .add 1) := by
    change done (s.onEng _) = _
    simp [done, State.onEng, hjob, hd, hb, hlive, hphase, hknot, hout]
  refine ⟨_, { x with draft := some { d with phase := .groupWait, knotDone := true } }, hexec, rfl, ?_, rfl, Engine.knotIssue_bank ..⟩
  refine (Engine.jobId?_modJob_of (e := s.eng) hid ?_).trans ?_
  · exact fun _ => rfl
  · rw [hd, Option.map_some]

/-- A read that has been answered gives the bytes at its address. -/
theorem Engine.arrive_of_readIsIn {s : State} {n : Sp} {x : Job} {p : Nat × Nat} {a : Addr} {len : Nat} (h : readIsIn s n x p a len) :
    s.eng.arrive n x p a len .ok = (s.eng, .bytes (s.eng.readAt a len)) := by
  obtain ⟨hwait, htrans, hplace, hrows⟩ := h
  simp [arrive, hwait, htrans, hplace, hrows]

/-- What the end of a scale group's wait does with its slots (R117, R118). -/
theorem exec_groupWaitEnd_of_reached {n : Sp} {j : Nat} {s : State} {x : Job} {d : Draft} {b : DraftBlk} (hx : worksAt s n j x)
    (hd : x.draft = some d) (hb : x.desc.draft = some b) (hphase : d.phase = .groupWait) (hasked : d.asked = true)
    (hknot : b.groupCount ≤ (s.eng.knot b.groupKnot).count.toNat) (hread : readIsIn s n x pSlots (b.slotAddr 0) (576 * b.groupCount)) :
    exec (.groupWaitEnd n j) s = .next (s.onEng fun e =>
      (mergeSlots b.groupCount (chunks 576 (s.eng.readAt (b.slotAddr 0) (576 * b.groupCount)))).elim (e.fault n x.id 6 0 0) fun c =>
        (e.modJob n x.id fun y => { y with draft := y.draft.map fun d => { d with grouped := true } }).beginDrafting n x.id
          (chooseScale x.grids b c)) := by
  have harrive := Engine.arrive_of_readIsIn hread
  have hid := Engine.jobId?_of_worksAt hx
  have hended := Job.ended_of_worksAt hx
  change done (s.onEng _) = _
  simp only [done, State.onEng, Engine.withJob_of_worksAt hx, hd, hb, hphase, hasked, decide_eq_true hknot, beq_self_eq_true, Bool.and_self, if_true,
    hid, hended, harrive, Engine.onArrive, Option.isSome_none, Bool.false_eq_true, if_false]
  cases mergeSlots b.groupCount (chunks 576 (s.eng.readAt (b.slotAddr 0) (576 * b.groupCount))) <;> rfl

/-! ## What decides whether a write has a place (R271 to R287) -/

/-- The image, the rebinding under way and the entries that tensors keep: a write's place rests on nothing else. -/
def Engine.placing (e : Engine) : Option Cfg × Option Activation × (Nat → Option PlaceE) := (e.cfg, e.act, fun t => (e.tensor t).entry)

theorem Engine.placing_of_fields {e e' : Engine} (hcfg : e'.cfg = e.cfg) (hact : e'.act = e.act) (htensors : e'.tensors = e.tensors) :
    e'.placing = e.placing := by
  simp only [placing, tensor, hcfg, hact, htensors]

theorem Engine.writeFault_congr {e e' : Engine} (h : e'.placing = e.placing) (n : Sp) (a : Addr) (len : Nat) :
    e'.writeFault n a len = e.writeFault n a len := by
  obtain ⟨hcfg, hact, hentry⟩ : e'.cfg = e.cfg ∧ e'.act = e.act ∧ (fun t => (e'.tensor t).entry) = fun t => (e.tensor t).entry := by
    simpa only [placing, Prod.mk.injEq] using h
  have hconf : e'.conf = e.conf := by rw [conf, hcfg, conf]
  have hplace (t : Nat) : e'.placeE t = e.placeE t := by rw [placeE, congrFun hentry t, hconf, placeE]
  have hat (c : Addr) : e'.placeFaultAt n true c = e.placeFaultAt n true c := by
    cases c <;> simp [placeFaultAt, hconf, hplace, bankAway, hact]
  have hspan : e'.placeFault n true a len = e.placeFault n true a len := by simp only [placeFault, hat]
  unfold writeFault
  rw [hspan]
  cases a <;> simp [hplace]

@[simp] theorem Engine.placing_modSp (e : Engine) (n : Sp) (f : Spindle → Spindle) : (e.modSp n f).placing = e.placing := rfl
@[simp] theorem Engine.placing_modJob (e : Engine) (n : Sp) (id : Nat) (f : Job → Job) : (e.modJob n id f).placing = e.placing := rfl

@[simp] theorem Engine.placing_issue (e : Engine) (n : Sp) (id : Nat) (w : Bool) (p : Nat × Nat) (ls : List Nat) :
    (e.issue n id w p ls).placing = e.placing := by
  unfold issue
  split
  · rfl
  · unfold pump
    split <;> rfl

@[simp] theorem Engine.placing_lookUp (e : Engine) (n : Sp) (t : Nat) : (e.lookUp n t).placing = e.placing := by
  unfold lookUp; split <;> rfl

/-- Bytes put at an address change the stores alone. -/
theorem Engine.putAll_fields (a : Addr) (bs : List Byte) (e : Engine) :
    (e.putAll a bs).cfg = e.cfg ∧ (e.putAll a bs).act = e.act ∧ (e.putAll a bs).tensors = e.tensors := by
  induction bs generalizing e a with
  | nil => exact ⟨rfl, rfl, rfl⟩
  | cons c bs ih =>
    have hbyte : (e.putByte (e.loc a) c).cfg = e.cfg ∧ (e.putByte (e.loc a) c).act = e.act ∧ (e.putByte (e.loc a) c).tensors = e.tensors := by
      unfold putByte
      split <;> exact ⟨rfl, rfl, rfl⟩
    simpa only [putAll, hbyte] using ih (a.plus 1) (e.putByte (e.loc a) c)

theorem Engine.writeAt_fields (e : Engine) (a : Addr) (bs : List Byte) :
    (e.writeAt a bs).cfg = e.cfg ∧ (e.writeAt a bs).act = e.act ∧ (e.writeAt a bs).tensors = e.tensors := by
  unfold writeAt
  dsimp only
  split <;> exact e.putAll_fields ..

@[simp] theorem Engine.placing_writeAt (e : Engine) (a : Addr) (bs : List Byte) : (e.writeAt a bs).placing = e.placing := by
  obtain ⟨hcfg, hact, htensors⟩ := e.writeAt_fields a bs
  exact placing_of_fields hcfg hact htensors

/-- A tensor that stays placed keeps its entry, and the others keep theirs. -/
theorem Engine.placing_modTensor (e : Engine) (t : Nat) (f : Tensor → Tensor) (hplaced : (f (e.tensor t)).placed = true)
    (hentry : (f (e.tensor t)).entry = (e.tensor t).entry) : (e.modTensor t f).placing = e.placing := by
  have hne : f (e.tensor t) ≠ {} := fun h => by simp [h] at hplaced
  have htensor (k : Nat) : ((e.modTensor t f).tensor k).entry = (e.tensor k).entry := by
    by_cases hk : k = t
    · subst hk
      have hput : (e.modTensor k f).tensor k = f (e.tensor k) := by
        rw [tensor, modTensor, Tab.getD, Tab.put, if_neg hne, Tab.get?_ins, Option.getD_some]
      rw [hput, hentry]
    · rw [tensor, modTensor, Tab.getD_put_ne _ hk, ← tensor]
  simp only [placing, modTensor_cfg, modTensor_act, htensor]

/-- Bytes that a job puts at an address change the place of no write; a tensor that they lie in is placed. -/
theorem Engine.placing_putJob (e : Engine) (n : Sp) (id : Nat) (p : Nat × Nat) (a : Addr) (bs : List Byte)
    (h : ∀ t off, a = .placed t off → (e.tensor t).placed = true) : (e.putJob n id p a bs).placing = e.placing := by
  have hbytes : (e.putBytes n a bs).placing = e.placing := by
    unfold putBytes
    cases a with
    | placed t off =>
      have htensor : (e.writeAt (.placed t off) bs).tensor t = e.tensor t := by rw [tensor, (e.writeAt_fields _ bs).2.2, ← tensor]
      have hplaced : ((e.writeAt (.placed t off) bs).tensor t).placed = true := by
        rw [htensor]
        exact h t off rfl
      exact (placing_modTensor (e.writeAt (.placed t off) bs) t (fun x => { x with high := max x.high (off + bs.length) }) hplaced rfl).trans
        (e.placing_writeAt _ bs)
    | mem a => exact e.placing_writeAt _ bs
    | bobbin a => exact e.placing_writeAt _ bs
    | bad => exact e.placing_writeAt _ bs
  unfold putJob
  dsimp only
  rw [placing_issue, placing_modJob, hbytes]

@[simp] theorem Engine.placing_pushHeld (n : Sp) (id t fuel : Nat) (e : Engine) : (e.pushHeld n id t fuel).placing = e.placing := by
  induction fuel generalizing e with
  | zero => rfl
  | succ fuel ih =>
    simp only [pushHeld]
    split
    · rfl
    · split
      · rfl
      · split
        · rfl
        · split
          · rename_i hcovered
            rw [ih, placing_putJob, placing_modJob]
            rintro t' off h
            obtain ⟨rfl, -⟩ := Addr.placed.inj h
            exact (Bool.and_eq_true_iff.mp hcovered).1
          · split <;> rfl

@[simp] theorem Engine.placing_putDuty (e : Engine) (n : Sp) (id : Nat) (p : Nat × Nat) (a : Addr) (bs : List Byte) :
    (e.putDuty n id p a bs).placing = e.placing := by
  unfold putDuty
  split
  · unfold releaseHeld
    split <;> simp
  · rename_i hne
    exact placing_putJob _ _ _ _ _ _ fun t off h => absurd h (hne t off)

/-! ## A header is written (R35, R205) -/

@[simp] theorem length_leBytes (k v : Nat) : (leBytes k v).length = k := by
  induction k generalizing v with
  | zero => rfl
  | succ k ih => rw [leBytes, List.length_cons, ih]

theorem SkeinHdr.length_toBytes (h : SkeinHdr) : h.toBytes.length = 64 := by
  unfold toBytes
  simp only [List.length_append]
  simp only [length_leBytes]

theorem Addr.plus_zero (a : Addr) : a.plus 0 = a := by cases a <;> rfl

/-- What a checked access of one job leaves of any job: it is as it was, or has ended. -/
theorem Engine.MayStop.cases {n : Sp} {id : Nat} {e e' : Engine} (h : MayStop n id e e') {k : Nat} {v : JobView} (hv : e.view? n k = some v) :
    ∃ w, e'.view? n k = some w ∧ (w = v ∨ w.ended.isSome = true) := by
  rcases h with ⟨en, rfl⟩ | hsame
  · exact e.view?_stopJob_cases n id en hv
  · exact ⟨v, (view?_congr hsame k).trans hv, .inl rfl⟩

/-- The view of a job whose header is asked for. -/
def JobView.heading (v : JobView) : JobView := { v with draft := v.draft.map fun d => { d with phase := .header } }

@[simp] theorem JobView.heading_id (v : JobView) : v.heading.id = v.id := rfl

theorem Engine.views_heading (e : Engine) (n : Sp) (id : Nat) :
    (e.modJob n id fun x => { x with draft := x.draft.map fun d => { d with phase := .header } }).views n = setView id .heading (e.views n) :=
  views_modJob_eq _ _ _ _ _ fun _ => rfl

/-- A header's write leaves every other job as it is or ended, and its own job in its header's phase or ended. -/
theorem Engine.view?_writeHeader (e : Engine) (n : Sp) (x : Job) (b : DraftBlk) (dr : Draft) {k : Nat} {v : JobView} (hv : e.view? n k = some v) :
    ∃ w, (e.writeHeader n x b dr).view? n k = some w ∧ (w.ended.isSome = true ∨ w = if k = x.id then v.heading else v) := by
  have hset : (e.modJob n x.id fun x => { x with draft := x.draft.map fun d => { d with phase := .header } }).view? n k =
      some (if k = x.id then v.heading else v) := by
    rw [view?_of_setView_at JobView.heading_id (e.views_heading n x.id), hv, Option.map_some]
  obtain ⟨w, hw, hcases⟩ := (draftWrite_mayStop _ n x wHeader 0 (draftHeader b dr dr.share dr.tableAt).toBytes).cases hset
  exact ⟨w, hw, hcases.symm⟩

/-- A header that has a place and room does not fault its job, and changes the place of no later one (R271 to R284, R375). -/
theorem Engine.writeHeader_of_room {e : Engine} {n : Sp} {x : Job} (hplace : e.writeFault n (Addr.parse x.desc.dstAddr) 64 = none)
    (hroom : 64 ≤ x.desc.dstSpace) (b : DraftBlk) (dr : Draft) :
    (e.writeHeader n x b dr).views n = setView x.id .heading (e.views n) ∧ (e.writeHeader n x b dr).placing = e.placing := by
  have hwrite (e : Engine) (bs : List Byte) (hbs : bs.length = 64) (hplace : e.writeFault n (Addr.parse x.desc.dstAddr) 64 = none) :
      (e.draftWrite n x wHeader 0 bs).views n = e.views n ∧ (e.draftWrite n x wHeader 0 bs).placing = e.placing := by
    have hspace : decide (x.desc.dstSpace < 0 + bs.length) = false := by
      rw [hbs]
      exact decide_eq_false (by omega)
    have hdirect : e.draftWrite n x wHeader 0 bs = e.jobWrite n x.id wHeader (Addr.parse x.desc.dstAddr) bs := by
      simp only [draftWrite, hspace, Bool.and_false, Bool.false_eq_true, if_false, Addr.plus_zero]
    rw [hdirect, jobWrite]
    split
    · exact ⟨rfl, rfl⟩
    · split
      · exact ⟨rfl, rfl⟩
      · rw [hbs, hplace]
        exact ⟨views_putDuty .., placing_putDuty ..⟩
  obtain ⟨hviews, hsame⟩ := hwrite (e.modJob n x.id fun x => { x with draft := x.draft.map fun d => { d with phase := .header } })
    (draftHeader b dr dr.share dr.tableAt).toBytes (SkeinHdr.length_toBytes _) hplace
  exact ⟨hviews.trans (e.views_heading n x.id), hsame⟩

/-! ## A step set commits (R205) -/

theorem mem_insertTag {x y : Job} {l : List Job} : y ∈ insertTag x l ↔ y = x ∨ y ∈ l := by
  induction l with
  | nil => simp [insertTag]
  | cons z l ih =>
    rw [insertTag]
    split
    · exact List.mem_cons
    · rw [List.mem_cons, ih, List.mem_cons, or_left_comm]

theorem mem_foldl_insertTag {y : Job} (l acc : List Job) : y ∈ l.foldl (fun acc x => insertTag x acc) acc ↔ y ∈ acc ∨ y ∈ l := by
  induction l generalizing acc with
  | nil => simp
  | cons x l ih =>
    rw [List.foldl_cons, ih, mem_insertTag, List.mem_cons, or_comm (a := y = x), or_assoc]

/-- The header of a drafting job of a step set is written. -/
def Engine.commitOne (n : Sp) (e : Engine) (x : Job) : Engine :=
  match x.draft, x.desc.draft with
  | some dr, some b => e.writeHeader n x b dr
  | _, _ => e

/-- A job whose header is asked for, or which has ended. -/
def JobView.Headed (v : JobView) : Prop := v.ended.isSome = true ∨ ∃ d, v.draft = some d ∧ d.phase = .header

/-- A job that drafts, or which has ended. -/
def JobView.Drafts (v : JobView) : Prop := v.ended.isSome = true ∨ v.draft.isSome = true

theorem JobView.Headed.heading {v : JobView} (h : v.Drafts) : v.heading.Headed := by
  rcases h with h | h
  · exact .inl h
  · obtain ⟨d, hd⟩ := Option.isSome_iff_exists.mp h
    exact .inr ⟨{ d with phase := .header }, by rw [JobView.heading, hd, Option.map_some], rfl⟩

theorem JobView.Headed.drafts {v : JobView} (h : v.Headed) : v.Drafts := by
  rcases h with h | ⟨d, hd, -⟩
  · exact .inl h
  · exact .inr (by rw [hd, Option.isSome_some])

/-- A commit of any job's header keeps a job headed, and keeps it drafting. -/
theorem Engine.commitOne_keeps (n : Sp) (e : Engine) (x : Job) {k : Nat} {v : JobView} (hv : e.view? n k = some v) (h : v.Drafts) :
    ∃ w, (commitOne n e x).view? n k = some w ∧ w.Drafts ∧ (v.Headed → w.Headed) := by
  unfold commitOne
  split
  · rename_i dr b _ _
    obtain ⟨w, hw, hended | rfl⟩ := e.view?_writeHeader n x b dr hv
    · exact ⟨w, hw, .inl hended, fun _ => .inl hended⟩
    · refine ⟨_, hw, ?_⟩
      split
      · exact ⟨(JobView.Headed.heading h).drafts, fun _ => .heading h⟩
      · exact ⟨h, id⟩
  · exact ⟨v, hv, h, id⟩

theorem Engine.commitOne_heads (n : Sp) (e : Engine) {x : Job} {d : Draft} {b : DraftBlk} (hd : x.draft = some d) (hb : x.desc.draft = some b)
    {v : JobView} (hv : e.view? n x.id = some v) (h : v.Drafts) : ∃ w, (commitOne n e x).view? n x.id = some w ∧ w.Headed := by
  obtain ⟨w, hw, hended | rfl⟩ := e.view?_writeHeader n x b d hv
  · exact ⟨w, by rw [commitOne, hd, hb]; exact hw, .inl hended⟩
  · exact ⟨_, by rw [commitOne, hd, hb]; exact hw, by rw [if_pos rfl]; exact .heading h⟩

/-- So the commit of a list of headers leaves a job headed when it was, or when it is one of them. -/
theorem Engine.foldl_commitOne_heads (n : Sp) {x : Job} {d : Draft} {b : DraftBlk} (hd : x.draft = some d) (hb : x.desc.draft = some b)
    (ys : List Job) {e : Engine} {v : JobView} (hv : e.view? n x.id = some v) (h : v.Drafts) (hx : v.Headed ∨ x ∈ ys) :
    ∃ w, (ys.foldl (commitOne n) e).view? n x.id = some w ∧ w.Headed := by
  induction ys generalizing e v with
  | nil => exact ⟨v, hv, hx.resolve_right (List.not_mem_nil)⟩
  | cons y ys ih =>
    obtain ⟨w, hw, hdrafts, hkeeps⟩ := commitOne_keeps n e y hv h
    rcases hx with hx | hx
    · exact ih hw hdrafts (.inl (hkeeps hx))
    · rcases List.mem_cons.mp hx with rfl | hx
      · obtain ⟨u, hu, hheaded⟩ := commitOne_heads n e hd hb hv h
        exact ih hu hheaded.drafts (.inl hheaded)
      · exact ih hw hdrafts (.inr hx)

/-- Where every header has a place and room, no job ends. -/
theorem Engine.foldl_commitOne_of_room (n : Sp) {k : Nat} (ys : List Job) {e e0 : Engine} {v : JobView} (hv : e.view? n k = some v)
    (hsame : e.placing = e0.placing) (hroom : ∀ y ∈ ys, e0.writeFault n (Addr.parse y.desc.dstAddr) 64 = none ∧ 64 ≤ y.desc.dstSpace) :
    ∃ w, (ys.foldl (commitOne n) e).view? n k = some w ∧ w.ended = v.ended := by
  induction ys generalizing e v with
  | nil => exact ⟨v, hv, rfl⟩
  | cons y ys ih =>
    have hrest : ∀ z ∈ ys, e0.writeFault n (Addr.parse z.desc.dstAddr) 64 = none ∧ 64 ≤ z.desc.dstSpace :=
      fun z hz => hroom z (List.mem_cons_of_mem _ hz)
    obtain ⟨hplace, hspace⟩ := hroom y List.mem_cons_self
    rw [List.foldl_cons, commitOne]
    split
    · rename_i dr b _ _
      obtain ⟨hviews, hplacing⟩ := writeHeader_of_room (e := e) (by rw [writeFault_congr hsame, hplace]) hspace b dr
      have hview : (e.writeHeader n y b dr).view? n k = some (if k = y.id then v.heading else v) := by
        rw [view?_of_setView_at JobView.heading_id hviews, hv, Option.map_some]
      obtain ⟨w, hw, hended⟩ := ih hview (hplacing.trans hsame) hrest
      refine ⟨w, hw, hended.trans ?_⟩
      split <;> rfl
    · exact ih hv hsame hrest

/-- The members of a step set that stand on spindle n. -/
def Engine.setMembers (e : Engine) (n : Sp) (setId : Nat) : List Job := (e.sp n).jobs.filter fun x => x.desc.step && x.desc.setId == setId

/-- The drafting jobs of a step set, in the order of their return tags. -/
def Engine.setHeaders (e : Engine) (n : Sp) (setId : Nat) : List Job :=
  ((e.setMembers n setId).filter fun x => x.draft.isSome).foldl (fun acc x => insertTag x acc) []

theorem Engine.mem_setHeaders {e : Engine} {n : Sp} {setId : Nat} {y : Job} :
    y ∈ e.setHeaders n setId ↔ y ∈ e.setMembers n setId ∧ y.draft.isSome = true := by
  rw [setHeaders, mem_foldl_insertTag, List.mem_filter]
  simp

/-- A drafting job of a step set that has finished without fault stands ready for the commit (R205). -/
def Engine.SetReady (e : Engine) (n : Sp) (y : Job) : Prop :=
  (y.ended = none ∨ ∃ en, y.ended = some en ∧ en.status = 0) ∧
  ∀ d : Draft, y.draft = some d → y.acts = true ∧ y.desc.draft.isSome = true ∧ d.phase = .setWait ∧ e.writesOut n y [32] = false ∧
    ∀ h ∈ y.held, h.purpose ≠ wStats

theorem exec_stepSetCommit_of_ready {n : Sp} {s : State} {x : Job} {setId : Nat} (hlive : s.eng.live = true)
    (hx : x ∈ s.eng.setMembers n setId) (hdraft : x.draft.isSome = true) (hlen : (s.eng.setMembers n setId).length = x.desc.stepSize)
    (hready : ∀ y ∈ s.eng.setMembers n setId, y.desc.stepSize = x.desc.stepSize ∧ s.eng.SetReady n y) :
    exec (.stepSetCommit n setId) s = .next (s.onEng fun e => (e.setHeaders n setId).foldl (Engine.commitOne n) e) := by
  refine congrArg Host.Outcome.next (congrArg (fun e => { s with eng := e }) (if_pos ?_))
  have hsize : ((s.eng.setMembers n setId).head?.map fun y => y.desc.stepSize).getD 0 = x.desc.stepSize := by
    obtain ⟨y, ys, hmembers⟩ := List.exists_cons_of_ne_nil (List.ne_nil_of_mem hx)
    obtain ⟨hy, -⟩ := hready y (hmembers ▸ List.mem_cons_self)
    rw [hmembers, List.head?_cons, Option.map_some, Option.getD_some, hy]
  simp only [Bool.and_eq_true, List.all_eq_true]
  refine ⟨⟨⟨⟨hlive, beq_iff_eq.mpr (hlen.trans hsize.symm)⟩, ?_⟩, fun y hy => ?_⟩, fun y hy => ?_⟩
  · have hmem : x ∈ (s.eng.setMembers n setId).filter fun y => y.draft.isSome := List.mem_filter.mpr ⟨hx, hdraft⟩
    rw [Bool.not_eq_true', List.isEmpty_eq_false_iff]
    exact List.ne_nil_of_mem hmem
  · obtain ⟨-, hended | ⟨en, hended, hstatus⟩, -⟩ := hready y hy
    · rw [hended]
    · simp [hended, hstatus]
  · obtain ⟨hmem, hsome⟩ := List.mem_filter.mp hy
    obtain ⟨d, hd⟩ := Option.isSome_iff_exists.mp hsome
    obtain ⟨-, -, hdrafts⟩ := hready y hmem
    obtain ⟨hacts, -, hphase, hout, hheld⟩ := hdrafts d hd
    refine ⟨⟨hacts, by simp [hd, hphase]⟩, ?_⟩
    simpa [Engine.mayHead, hout] using hheld

/-- Settles O54: the slot is counted, the slots are merged, and the set's headers are written. -/
theorem groupSlotsAndStepSets : Obligations.GroupSlotsAndStepSets := by
  intro n j s x d b hjob hid hd hb hlive
  refine ⟨fun hphase hknot hout => ?_, fun hacts hphase hasked hcount hread _ => ?_, fun setId => ?_⟩
  · obtain ⟨t, y, ht, hsec, hy, hdraft, hbank⟩ := exec_groupSlotWriteAck_of_written hjob hid hd hb hlive hphase hknot hout
    exact ⟨t, y, _, ht, hsec, hy, hdraft, rfl, hbank⟩
  · have hexec := exec_groupWaitEnd_of_reached ⟨hlive, hjob, hid, hacts⟩ hd hb hphase hasked hcount hread
    refine ⟨fun hnone => ?_, fun c hsome => ?_⟩
    · rw [hnone] at hexec
      obtain ⟨y, hy, hended⟩ := Engine.ended_stopJob (Engine.view?_of_jobId? hid) (Job.ended_of_acts hacts) ⟨1, 6, 0, 0⟩
      exact ⟨_, y, hexec, rfl, hy, hended⟩
    · rw [hsome] at hexec
      have hgrouped : (s.eng.modJob n x.id fun y => { y with draft := y.draft.map fun d => { d with grouped := true } }).view? n x.id =
          some { x.view with draft := some { d with grouped := true } } := by
        refine (Engine.view?_of_jobId? (Engine.jobId?_modJob_of hid ?_)).trans ?_
        · exact fun _ => rfl
        · rw [hd]
          rfl
      obtain ⟨w, hw, hdraft⟩ := Engine.view?_beginDrafting hgrouped rfl (chooseScale x.grids b c)
      obtain ⟨y, hy, rfl⟩ := Engine.jobId?_of_view? hw
      rcases hdraft with hdraft | ⟨-, hdraft⟩
      · exact ⟨_, y, _, hexec, rfl, hy, hdraft, rfl, rfl⟩
      · exact ⟨_, y, _, hexec, rfl, hy, hdraft, rfl, rfl⟩
  · intro members _ hx hlen hready
    have hexec := exec_stepSetCommit_of_ready hlive hx (by rw [hd]; rfl) hlen fun y hy => hready y hy
    have hview := Engine.view?_of_jobId? hid
    have hmem : x ∈ s.eng.setHeaders n setId := Engine.mem_setHeaders.mpr ⟨hx, by rw [hd]; rfl⟩
    obtain ⟨w, hw, hheaded⟩ := Engine.foldl_commitOne_heads n hd hb _ hview (.inr (by rw [Job.view_draft, hd]; rfl)) (.inr hmem)
    obtain ⟨y, hy, rfl⟩ := Engine.jobId?_of_view? hw
    refine ⟨_, y, hexec, rfl, hy, hheaded, fun hroom => ?_⟩
    obtain ⟨-, -, hdrafts⟩ := hready x hx
    obtain ⟨hacts, -⟩ := hdrafts d hd
    obtain ⟨w, hw', hend⟩ := Engine.foldl_commitOne_of_room n (s.eng.setHeaders n setId) hview rfl
      fun z hz => hroom z (Engine.mem_setHeaders.mp hz).1
    obtain rfl : y.view = w := Option.some.inj (hw.symm.trans hw')
    exact hend.trans (Job.ended_of_acts hacts)

end Sys2Proof.Machine
end

section
/-! PROOFS. Expansion and the dense Ply array (05_expansion_and_ply): a Ply job whose next tile read is at fault takes its step set with
it, and the fill that asks for that read then changes the Creel. -/

namespace Sys2Proof.Machine

/-! ## A read that follows a fill is at fault (R144, R204, R287, R308, R373) -/

namespace FillAtFault

/-- Two activation vectors of 16 elements, one tile each. -/
def actHdr : SkeinHdr :=
  { magic := magicSkein, format := 1, version := 1, ndim := 2, tileRows := 1, tileCols := 1, tileChans := 16, dim0 := 16, dim1 := 2, dim2 := 1, dim3 := 1,
    elements := 32, scale := f32One, tableOffset := 64, tileCount := 2 }

/-- One output of 16 weights, in one tile. -/
def weightHdr : SkeinHdr := { actHdr with ndim := 1, dim1 := 1, elements := 16, tileCount := 1 }

/-- An expansion of the stream at an address for a DEST, whole and with its own scale. -/
def wholeStream (addr dest : Nat) : ExpBlk :=
  { streamAddr := addr, foldAddr := 0, tileFirst := 0, tileRun := 0, scaleSrc := 0, deliv := 0, dest := dest }

/-- The activations, in placed tensor 7: vector 0 is decoded, and the tile of vector 1 is planned but not yet asked for (R139, R151). -/
def acts : Strm :=
  { blk := wholeStream (3 * 2 ^ 62 + 7 * 2 ^ 48) 1, phase := .open, hdr := actHdr, count := 2, asked := 1, paid := 1, decoded := 1,
    held := [(0, List.replicate 16 (some 1))], plan := [(1, 1)], planVec := 2 }

/-- The weights, in memory, all decoded. -/
def weights : Strm :=
  { blk := wholeStream 0x2000 2, phase := .open, hdr := weightHdr, count := 1, asked := 1, paid := 1, decoded := 1,
    held := [(0, List.replicate 16 (some 1))], planVec := 2 }

/-- The stream that the Ply job drafts: FP32 sources, in one pass with a given scale. -/
def draftOut : DraftBlk :=
  { scaleMode := 0, srcType := 0, format := 1, codeType := 0, gridSlot := 0, histBase := -32, tensorClass := 0, verify := false, comb := false,
    group := false, clipTarget := 0, clipThresh := 0xFFFF, givenScale := f32One, statsAddr := 0, groupAddr := 0, groupKnot := 0,
    groupIndex := 0, groupCount := 0, tensorKind := 0 }
def shapeOut : ShapeBlk := { ndim := 1, tileRows := 1, tileCols := 1, tileChans := 2, dim0 := 2, dim1 := 1, dim2 := 1, dim3 := 1 }

/-- Job 0: the Ply job, of step set 3, before its first fill. -/
def plyJob : Job :=
  { id := 0, level := 7, inst := none, begun := true, strA := some acts, strB := some weights, ply := some {},
    draft := some { shape := shapeOut, scale := some f32One, zeroed := true },
    desc := { step := true, setId := 3, stepSize := 2, srcKind := 3, expA := some acts.blk, expB := some weights.blk, draft := some draftOut,
              shape := some shapeOut, dstAddr := 0x4000, dstSpace := 0x1000 } }

/-- Job 1: a feed job of the same step set, which has sent the first word of its packet into queue 5. -/
def feedJob : Job :=
  { id := 1, level := 7, inst := none, begun := true, sent := 1, words := [{ data := List.replicate 64 8, bytes := 64, last := true }],
    strA := some { weights with blk := wholeStream 0x3000 0 },
    desc := { step := true, setId := 3, stepSize := 2, outQ := 5, expA := some (wholeStream 0x3000 0) } }

/-- The open packet that job 1 writes: one cell so far. -/
def openPacket : Pkt := { cells := [{ data := List.replicate 64 7, first := true }] }

/-- Spindle 0 in service with both jobs: the parts of tensor 7 have become LOST since its stream was opened (R287). -/
def state : State :=
  State.reset.onEng fun e =>
    { e.modSp 0 (fun p => { p with pwr := .on, enable := true, jobs := [plyJob, feedJob], jobNext := 2 }) with
      power := { e.power with phase := .running, regPort := true, wakes := [], bobbin := .on }
      cfg := some { queues := [(5, { mode := 2, level := 7, producer := 0, consumer := 0x20, limit := 16, fullWait := 10, staleUs := 100 })]
                    placement := [(7, { homeAddr := 0x100000, sizeMax := 4096, owner := 0xFF })] }
      tensors := [(7, { placed := true, lost := true })]
      creel := { e.creel with queues := [(5, { pkts := [openPacket] })] } }

theorem worksAt_plyJob : worksAt state 0 0 plyJob := ⟨rfl, rfl, rfl, rfl⟩

/-- The array is free for the Ply job, and the tile of vector 0 is decoded: the fill comes about. -/
theorem fill_is_due :
    state.eng.arrayFor 0 plyJob.id = true ∧ 0 < acts.positions ∧
      acts.readyFor 0 (fillKey (segCount acts.hdr.dim0) (laneGroups weights.cols) 0 0) = true := by decide

/-- The fill asks for the tile table entry of vector 1, which lies in the LOST part: the Ply job faults, its step set stops with it, and
the open packet of the feed job is rewound (R204, R287, R309, R373). -/
theorem fillBank_stops_set :
    let e := state.eng.fillBank 0 plyJob {} acts weights
    ((e.jobId? 0 plyJob.id).bind fun y => y.ended) = some ⟨1, 0x13, 0, 0⟩ ∧
      ((e.jobId? 0 feedJob.id).bind fun y => y.ended) = some ⟨2, 0x17, 3, 0⟩ ∧ e.creel.rewindCnt = 1 := by decide

theorem exec_whorlBankFilled : exec (.whorlBankFilled 0 0) state = .next (state.onEng fun e => e.fillBank 0 plyJob {} acts weights) := rfl

end FillAtFault

/-- Refutes O52: its fill clause keeps the Creel without a premise that the streams are readable.  Where the read that follows the fill is
at fault, the Ply job's step set stops with it, and a feed job of that set has its open packet rewound. -/
theorem not_plyArrayFillsReadsAndDrains : ¬ Obligations.PlyArrayFillsReadsAndDrains := by
  intro h
  obtain ⟨hfree, hvec, hready⟩ := FillAtFault.fill_is_due
  obtain ⟨hfill, -⟩ := h 0 0 FillAtFault.state FillAtFault.plyJob {} FillAtFault.acts FillAtFault.weights FillAtFault.worksAt_plyJob
    (by decide) rfl rfl rfl hfree
  obtain ⟨t, y, ht, -, hcreel, -⟩ := hfill (by decide) hvec hready
  rw [FillAtFault.exec_whorlBankFilled] at ht
  obtain rfl := Host.Outcome.next.inj ht
  obtain ⟨-, -, hrewound⟩ := FillAtFault.fillBank_stops_set
  have hkept := congrArg Creel.rewindCnt hcreel
  exact absurd (hrewound.symm.trans hkept) (by decide)

end Sys2Proof.Machine
end

section
/-! PROOFS. What accesses, stops and the lanes' work leave of a spindle: the frames that sparse matching rests on. -/

namespace Sys2Proof.Machine

/-! ## What accesses leave of a spindle -/

/-- A job without what accesses, placement and working space change of it, and without the note that NEP_THRESH was raised. -/
def Job.still (x : Job) : Job :=
  { x with bytesOut := 0, held := [], spilled := false, scratch := false, slices := [], spots := [], nepRaised := false }

/-- A spindle without its transactions, the translations that it waits for, its store and its job counters, and with still jobs. -/
def Spindle.still (s : Spindle) : Spindle :=
  { s with txns := [], xlateWait := [], store := [], cnt := {}, jobs := s.jobs.map Job.still }

/-- What accesses leave of spindle n. -/
def Engine.still (e : Engine) (n : Sp) : Spindle := (e.sp n).still

theorem Engine.still_of_spindles {e e' : Engine} (h : e'.spindles = e.spindles) (m : Sp) : e'.still m = e.still m := by
  simp only [still, sp, h]

theorem Engine.still_modSp (e : Engine) (n m : Sp) (f : Spindle → Spindle) (hf : ∀ s, (f s).still = s.still) :
    (e.modSp n f).still m = e.still m := by
  by_cases hm : m = n
  · rw [hm, still, sp_modSp, hf, ← still]
  · rw [still, sp_modSp_ne e hm, ← still]

theorem Engine.still_modJob (e : Engine) (n m : Sp) (id : Nat) (f : Job → Job) (hf : ∀ x, (f x).still = x.still) :
    (e.modJob n id f).still m = e.still m := by
  refine still_modSp e n m _ fun s => ?_
  rw [Spindle.still, Spindle.still, List.map_map]
  refine congrArg (fun js => { s with txns := [], xlateWait := [], store := [], cnt := {}, jobs := js }) (List.map_congr_left fun x _ => ?_)
  dsimp only [Function.comp]
  split <;> simp [hf]

theorem Engine.still_foldl {α : Type} (f : Engine → α → Engine) (m : Sp) (hf : ∀ e a, (f e a).still m = e.still m) (as : List α) (e : Engine) :
    (as.foldl f e).still m = e.still m :=
  List.foldlRecOn (motive := fun e' => e'.still m = e.still m) as f rfl fun e' he a _ => (hf e' a).trans he

@[simp] theorem Engine.still_raise (e : Engine) (ev : Event) (m : Sp) : (e.raise ev).still m = e.still m := rfl

@[simp] theorem Engine.still_modTensor (e : Engine) (t : Nat) (f : Tensor → Tensor) (m : Sp) : (e.modTensor t f).still m = e.still m := rfl

@[simp] theorem Engine.still_spill (e : Engine) (n : Sp) (t r a b c : Nat) (tag : Word) (m : Sp) : (e.spill n t r a b c tag).still m = e.still m :=
  (still_raise ..).trans ((still_modSp _ n m _ fun _ => by rfl).trans (still_of_spindles (e.telEntry_spindles _ _) m))

@[simp] theorem Engine.still_putByte (e : Engine) (l : Loc) (b : Byte) (m : Sp) : (e.putByte l b).still m = e.still m := by
  cases l with
  | store n a => exact still_modSp e n m _ fun _ => by rfl
  | bobbin a => rfl
  | mem a => rfl

@[simp] theorem Engine.still_putAll (a : Addr) (bs : List Byte) (m : Sp) (e : Engine) : (e.putAll a bs).still m = e.still m := by
  induction bs generalizing e a with
  | nil => rfl
  | cons b bs ih => rw [putAll, ih, still_putByte]

@[simp] theorem Engine.still_writeAt (e : Engine) (a : Addr) (bs : List Byte) (m : Sp) : (e.writeAt a bs).still m = e.still m := by
  unfold writeAt
  dsimp only
  split
  · exact still_putAll ..
  · exact still_putAll a bs m e

@[simp] theorem Engine.still_pump (e : Engine) (n m : Sp) : (e.pump n).still m = e.still m := by
  unfold pump
  split
  · rfl
  · exact still_modSp e n m _ fun _ => by rfl

@[simp] theorem Engine.still_issue (e : Engine) (n : Sp) (id : Nat) (w : Bool) (p : Nat × Nat) (ls : List Nat) (m : Sp) :
    (e.issue n id w p ls).still m = e.still m := by
  unfold issue
  split
  · rfl
  · exact (still_pump ..).trans (still_modSp e n m _ fun _ => by rfl)

@[simp] theorem Engine.still_lookUp (e : Engine) (n : Sp) (t : Nat) (m : Sp) : (e.lookUp n t).still m = e.still m := by
  unfold lookUp
  split
  · rfl
  · exact still_modSp e n m _ fun _ => by rfl

@[simp] theorem Engine.still_lookAt (e : Engine) (n : Sp) (a : Addr) (m : Sp) : (e.lookAt n a).still m = e.still m := by
  cases a <;> simp [lookAt]

@[simp] theorem Engine.still_putBytes (e : Engine) (n : Sp) (a : Addr) (bs : List Byte) (m : Sp) : (e.putBytes n a bs).still m = e.still m := by
  refine (still_modSp _ n m _ fun _ => by rfl).trans ?_
  cases a <;> simp

@[simp] theorem Engine.still_putJob (e : Engine) (n : Sp) (id : Nat) (p : Nat × Nat) (a : Addr) (bs : List Byte) (m : Sp) :
    (e.putJob n id p a bs).still m = e.still m :=
  (still_issue ..).trans ((still_modJob _ n m id _ fun _ => by rfl).trans (still_putBytes ..))

@[simp] theorem Engine.still_pushHeld (n : Sp) (id t fuel : Nat) (m : Sp) (e : Engine) : (e.pushHeld n id t fuel).still m = e.still m := by
  induction fuel generalizing e with
  | zero => rfl
  | succ fuel ih =>
    simp only [pushHeld]
    split
    · rfl
    · split
      · rfl
      · split
        · rfl
        · split
          · exact (ih _).trans ((still_putJob ..).trans (still_modJob e n m id _ fun _ => by rfl))
          · split <;> rfl

@[simp] theorem Engine.still_putDuty (e : Engine) (n : Sp) (id : Nat) (p : Nat × Nat) (a : Addr) (bs : List Byte) (m : Sp) :
    (e.putDuty n id p a bs).still m = e.still m := by
  have hheld (t off : Nat) : ((e.lookUp n t).modJob n id fun x => { x with held := x.held ++ [⟨t, off, bs, p⟩] }).still m = e.still m :=
    (still_modJob _ n m id _ fun _ => by rfl).trans (still_lookUp ..)
  cases a with
  | placed t off =>
    simp only [putDuty, releaseHeld]
    split
    · exact (still_pushHeld ..).trans (hheld t off)
    · exact hheld t off
  | mem a => exact still_putJob ..
  | bobbin a => exact still_putJob ..
  | bad => exact still_putJob ..

/-! ## Placement and working space -/

@[simp] theorem Engine.still_placeTensor (e : Engine) (n : Sp) (tag : Word) (i : Option Nat) (t : Nat) (m : Sp) :
    (e.placeTensor n tag i t).1.still m = e.still m := by
  unfold placeTensor
  dsimp only
  split <;> simp

@[simp] theorem Engine.still_growOnce (e : Engine) (n : Sp) (tag : Word) (t : Nat) (m : Sp) : (e.growOnce n tag t).1.still m = e.still m := by
  unfold growOnce
  dsimp only
  (repeat' split) <;> simp

@[simp] theorem Engine.still_grow (n : Sp) (tag : Word) (t u fuel : Nat) (m : Sp) (e : Engine) (sp : Bool) :
    (e.grow n tag t u fuel sp).1.still m = e.still m := by
  induction fuel generalizing e sp with
  | zero => rfl
  | succ fuel ih =>
    unfold grow
    split
    · rfl
    · exact (ih ..).trans (still_growOnce ..)

@[simp] theorem Engine.still_makeRoom (e : Engine) (n : Sp) (tag : Word) (i : Option Nat) (t u : Nat) (m : Sp) :
    (e.makeRoom n tag i t u).1.still m = e.still m := by
  refine (still_grow ..).trans ?_
  split
  · rfl
  · exact still_placeTensor ..

@[simp] theorem Engine.still_flushHeld (e : Engine) (n : Sp) (id : Nat) (m : Sp) : (e.flushHeld n id).still m = e.still m := by
  unfold flushHeld
  split
  · rfl
  · refine (still_foldl _ m (fun e h => ?_) _ _).trans (still_modJob e n m id _ fun _ => by rfl)
    refine (still_putJob ..).trans ?_
    split
    · exact (still_modJob _ n m id _ fun _ => by rfl).trans (still_makeRoom ..)
    · exact still_makeRoom ..

@[simp] theorem Engine.still_takeSpot (e : Engine) (n : Sp) (id k b p : Nat) (m : Sp) : (e.takeSpot n id k b p).still m = e.still m :=
  (still_spill ..).trans (still_modJob e n m id _ fun _ => by rfl)

@[simp] theorem Engine.still_putScratch (e : Engine) (n : Sp) (id k off : Nat) (bs : List Byte) (m : Sp) :
    (e.putScratch n id k off bs).still m = e.still m := by
  unfold putScratch
  split
  · exact (still_issue ..).trans (still_writeAt ..)
  · rfl

@[simp] theorem Engine.still_checkNep (e : Engine) (n : Sp) (id : Nat) (m : Sp) : (e.checkNep n id).still m = e.still m := by
  unfold checkNep
  split
  · refine iteInduction (motive := fun e' : Engine => e'.still m = e.still m) (fun _ => ?_) fun _ => rfl
    exact (still_raise ..).trans (still_modJob e n m id _ fun _ => by rfl)
  · rfl

/-! ## Jobs of still spindles -/

theorem Engine.jobId?_still (e : Engine) (n : Sp) (id : Nat) : (e.still n).jobs.find? (fun x => x.id == id) = (e.jobId? n id).map Job.still := by
  rw [still, Spindle.still, List.find?_map]
  rfl

theorem Engine.work_still (e : Engine) (n : Sp) : (e.still n).work = (e.sp n).work := rfl
theorem Engine.ringRecs_still (e : Engine) (n : Sp) : (e.still n).ringRecs = (e.sp n).ringRecs := rfl
theorem Engine.lane_still (e : Engine) (n : Sp) (l : Nat) : (e.still n).lane l = (e.sp n).lane l := rfl

/-- A job found before accesses is found after them, and is the same but for what accesses change. -/
theorem Engine.jobId?_of_still {e e' : Engine} {n : Sp} {id : Nat} {x : Job} (h : e'.still n = e.still n) (hx : e.jobId? n id = some x) :
    ∃ y, e'.jobId? n id = some y ∧ y.still = x.still := by
  have hy := e'.jobId?_still n id
  rw [h, jobId?_still, hx, Option.map_some] at hy
  exact Option.map_eq_some_iff.mp hy.symm

/-! ## What stops leave of a job -/

/-- A job's number, operands and sparse side, which neither accesses nor stops change. -/
structure SparseView where
  id : Nat
  strA : Option Strm
  strB : Option Strm
  sparse : Option Sparse

def Job.sides (x : Job) : SparseView := ⟨x.id, x.strA, x.strB, x.sparse⟩

/-- The operands and sparse sides of the started jobs of spindle n. -/
def Engine.sides (e : Engine) (n : Sp) : List SparseView := (e.sp n).jobs.map Job.sides

theorem Engine.jobId?_sides (e : Engine) (n : Sp) (id : Nat) : (e.sides n).find? (fun v => v.id == id) = (e.jobId? n id).map Job.sides := by
  rw [sides, List.find?_map]
  rfl

theorem Engine.jobId?_of_sides {e e' : Engine} {n : Sp} {id : Nat} {x : Job} (h : e'.sides n = e.sides n) (hx : e.jobId? n id = some x) :
    ∃ y, e'.jobId? n id = some y ∧ y.sides = x.sides := by
  have hy := e'.jobId?_sides n id
  rw [h, jobId?_sides, hx, Option.map_some] at hy
  exact Option.map_eq_some_iff.mp hy.symm

theorem Engine.sides_of_still {e e' : Engine} {m : Sp} (h : e'.still m = e.still m) : e'.sides m = e.sides m := by
  have hs (e : Engine) : (e.still m).jobs.map Job.sides = e.sides m := by
    rw [still, Spindle.still, List.map_map]
    rfl
  rw [← hs e', h, hs e]

theorem Engine.sides_of_spindles {e e' : Engine} (h : e'.spindles = e.spindles) (m : Sp) : e'.sides m = e.sides m :=
  sides_of_still (still_of_spindles h m)

theorem Engine.sides_modSp (e : Engine) (n m : Sp) (f : Spindle → Spindle) (hf : ∀ s, (f s).jobs = s.jobs) : (e.modSp n f).sides m = e.sides m := by
  by_cases hm : m = n
  · rw [hm, sides, sp_modSp, hf, ← sides]
  · rw [sides, sp_modSp_ne e hm, ← sides]

theorem Engine.sides_modJob (e : Engine) (n m : Sp) (id : Nat) (f : Job → Job) (hf : ∀ x, (f x).sides = x.sides) :
    (e.modJob n id f).sides m = e.sides m := by
  by_cases hm : m = n
  · rw [hm, sides, modJob, sp_modSp, List.map_map, sides]
    refine List.map_congr_left fun x _ => ?_
    dsimp only [Function.comp]
    split <;> simp [hf]
  · rw [sides, modJob, sp_modSp_ne e hm, ← sides]

theorem Engine.sides_foldl {α : Type} (f : Engine → α → Engine) (m : Sp) (hf : ∀ e a, (f e a).sides m = e.sides m) (as : List α) (e : Engine) :
    (as.foldl f e).sides m = e.sides m :=
  List.foldlRecOn (motive := fun e' => e'.sides m = e.sides m) as f rfl fun e' he a _ => (hf e' a).trans he

/-! ## Stops (R70, R119, R204, R259, R373) -/

theorem Engine.sides_voidSlot (e : Engine) (n : Sp) (x : Job) (m : Sp) : (e.voidSlot n x).sides m = e.sides m := by
  have hdue (d : Draft) : (e.modJob n x.id fun y => { y with draft := some d }).sides m = e.sides m := sides_modJob e n m x.id _ fun _ => by rfl
  cases hb : x.desc.draft with
  | none => simp [voidSlot, hb]
  | some b =>
    rw [voidSlot_eq e n x b hb]
    split
    · dsimp only
      split
      · exact hdue _
      · exact (sides_of_still (still_putDuty ..)).trans (hdue _)
    · rfl

theorem Engine.sides_zeroMagic (e : Engine) (n : Sp) (en : Ending) (x : Job) (m : Sp) : (e.zeroMagic n en x).sides m = e.sides m := by
  refine sides_of_still ?_
  unfold zeroMagic
  dsimp only
  (repeat' split) <;> simp

theorem Engine.sides_loseParts (e : Engine) (n : Sp) (en : Ending) (x : Job) (m : Sp) : (e.loseParts n en x).sides m = e.sides m := by
  unfold loseParts
  split
  · exact sides_of_still (still_flushHeld e n x.id m)
  · rfl

theorem Engine.sides_stopSparse (e : Engine) (n : Sp) (id : Nat) (m : Sp) : (e.stopSparse n id).sides m = e.sides m := by
  simp only [sides, sp, stopSparse, Fin.getElem_fin, Vector.getElem_mapFinIdx]
  (repeat' split) <;> rfl

theorem Engine.sides_dropTxns (e : Engine) (n : Sp) (id : Nat) (m : Sp) : (e.dropTxns n id).sides m = e.sides m :=
  sides_modSp e n m _ fun _ => by rfl

theorem Engine.sides_dropBack (e : Engine) (n : Sp) (x : Job) (m : Sp) : (e.dropBack n x).sides m = e.sides m := by
  unfold dropBack
  split
  · refine sides_foldl _ m (fun e w => ?_) _ e
    exact (sides_modSp _ n m _ fun _ => by rfl).trans (sides_of_spindles (e.violation_spindles ..) m)
  · rfl

theorem Engine.sides_ringDuties (e : Engine) (n : Sp) (x : Job) (m : Sp) : (e.ringDuties n x).sides m = e.sides m := by
  have hrelease (e : Engine) (h : HalfRead) (down : Bool) : (e.releaseHalf n h down).sides m = e.sides m := by
    cases h <;> rfl
  refine (sides_modJob _ n m x.id _ fun _ => by rfl).trans ?_
  split
  · rw [hrelease, hrelease]
  · rfl

theorem Engine.sides_waits (e : Engine) (n : Sp) (x : Job) (m : Sp) : ((e.endSideWait n x).endHaloWait n x).sides m = e.sides m := by
  have hside : (e.endSideWait n x).sides m = e.sides m := by
    unfold endSideWait
    split
    · exact (sides_modJob _ n m x.id _ fun _ => by rfl).trans (sides_modSp e.draw.2 n m _ fun _ => by rfl)
    · rfl
  refine Eq.trans ?_ hside
  unfold endHaloWait
  split
  · exact sides_modSp (e.endSideWait n x).draw.2 n m _ fun _ => by rfl
  · rfl

theorem Engine.sides_stopOne (e : Engine) (n : Sp) (en : Ending) (x : Job) (m : Sp) : (e.stopOne n en x).sides m = e.sides m := by
  have hleave : ((e.badOut x).giveUpIn x).sides m = e.sides m := by
    unfold giveUpIn badOut
    (repeat' split) <;> rfl
  unfold stopOne
  cases x.ended with
  | some old =>
    dsimp only
    split
    · rw [sides_loseParts, sides_zeroMagic]
      exact (sides_modJob _ n m x.id _ fun _ => by rfl).trans (sides_dropTxns ..)
    · rfl
  | none =>
    dsimp only
    rw [sides_loseParts, sides_zeroMagic, sides_stopSparse, sides_ringDuties, sides_voidSlot, sides_dropBack]
    refine (sides_modSp _ n m _ fun _ => by rfl).trans ?_
    refine (sides_modJob _ n m x.id _ fun _ => by rfl).trans ?_
    rw [sides_waits]
    exact (sides_dropTxns ..).trans hleave

theorem Engine.sides_stopSetOf (e : Engine) (n : Sp) (d : Desc) (id : Option Nat) (m : Sp) : (e.stopSetOf n d id).sides m = e.sides m := by
  unfold stopSetOf
  split
  · have hothers (ys : List Job) : (ys.foldl (fun e y => e.stopOne n ⟨2, 0x17, 3, 0⟩ y) e).sides m = e.sides m :=
      sides_foldl _ m (fun e y => sides_stopOne e n _ y m) ys e
    dsimp only
    split
    · exact hothers _
    · exact (sides_modSp _ n m _ fun _ => by rfl).trans (hothers _)
  · rfl

/-- A job that faults keeps its operands and its sparse side, and so does every other job. -/
@[simp] theorem Engine.sides_fault (e : Engine) (n : Sp) (id c d w : Nat) (m : Sp) : (e.fault n id c d w).sides m = e.sides m := by
  unfold fault stopJob
  split
  · split
    · rfl
    · exact (sides_stopSetOf ..).trans (sides_stopOne ..)
  · rfl

/-- A job that has not ended ends with the fault (R70). -/
theorem Engine.ended_fault {e : Engine} {n : Sp} {id : Nat} {x : Job} (hx : e.jobId? n id = some x) (hended : x.ended = none) (c d w : Nat) :
    ∃ y, (e.fault n id c d w).jobId? n id = some y ∧ y.ended = some ⟨1, c, d, w⟩ := ended_stopJob (view?_of_jobId? hx) hended ⟨1, c, d, w⟩

@[simp] theorem Engine.sides_jobRead (e : Engine) (n : Sp) (id : Nat) (p : Nat × Nat) (a : Addr) (len : Nat) (m : Sp) :
    (e.jobRead n id p a len).sides m = e.sides m := by
  unfold jobRead
  split
  · rfl
  · split
    · rfl
    · split
      · exact sides_fault ..
      · split
        · dsimp only
          split
          · exact sides_of_still (still_lookUp ..)
          · exact sides_of_still ((still_issue ..).trans (still_lookUp ..))
        · exact sides_of_still (still_issue ..)

end Sys2Proof.Machine
end

section
/-! PROOFS. The lanes of a spindle, and the operations of sparse matching that change one spindle alone: free lanes go to a job, and a
thief reads on. -/

namespace Sys2Proof.Machine

/-! ## Lanes -/

theorem Spindle.wf_modLane {s : Spindle} (h : Tab.wf {} s.lanes = true) (l : Nat) (f : Lane → Lane) :
    Tab.wf {} (s.modLane l f).lanes = true := Tab.wf_put l _ h

theorem Spindle.lane_modLane {s : Spindle} (h : Tab.wf {} s.lanes = true) (l : Nat) (f : Lane → Lane) :
    (s.modLane l f).lane l = f (s.lane l) := Tab.getD_put h l _

theorem Spindle.lane_modLane_ne (s : Spindle) {l m : Nat} (hm : m ≠ l) (f : Lane → Lane) : (s.modLane l f).lane m = s.lane m :=
  Tab.getD_put_ne s.lanes hm _ _

/-! ## Changes of one spindle -/

/-- The engine after is the engine before with spindle n changed within `R`. -/
def Engine.ChangesSp (n : Sp) (R : Spindle → Spindle → Prop) (e e' : Engine) : Prop := ∃ s, e' = e.modSp n (fun _ => s) ∧ R (e.sp n) s

theorem Engine.modSp_eq_const (e : Engine) (n : Sp) (f : Spindle → Spindle) : e.modSp n f = e.modSp n fun _ => f (e.sp n) := rfl

theorem Engine.modSp_sp_self (e : Engine) (n : Sp) : (e.modSp n fun _ => e.sp n) = e := by
  have hset : e.spindles.set n (e.sp n) = e.spindles := Vector.set_getElem_self _
  unfold modSp
  rw [hset]

theorem Engine.modSp_modSp (e : Engine) (n : Sp) (f g : Spindle → Spindle) : (e.modSp n f).modSp n g = e.modSp n fun s => g (f s) := by
  unfold modSp
  simp

section
variable {n : Sp} {R : Spindle → Spindle → Prop} {e e' e'' : Engine}

theorem Engine.ChangesSp.refl (hR : ∀ s, R s s) (e : Engine) : e.ChangesSp n R e := ⟨e.sp n, (e.modSp_sp_self n).symm, hR _⟩

theorem Engine.ChangesSp.trans (hR : ∀ {s t u}, R s t → R t u → R s u) (h : ChangesSp n R e e') (h' : ChangesSp n R e' e'') : ChangesSp n R e e'' := by
  obtain ⟨s, rfl, hs⟩ := h
  obtain ⟨t, rfl, ht⟩ := h'
  rw [sp_modSp] at ht
  exact ⟨t, modSp_modSp .., hR hs ht⟩

theorem Engine.ChangesSp.of_modSp (f : Spindle → Spindle) (h : R (e.sp n) (f (e.sp n))) : ChangesSp n R e (e.modSp n f) :=
  ⟨f (e.sp n), rfl, h⟩

theorem Engine.ChangesSp.after (hR : ∀ {s t u}, R s t → R t u → R s u) (h : ChangesSp n R e e') (f : Spindle → Spindle)
    (hf : R (e'.sp n) (f (e'.sp n))) : ChangesSp n R e (e'.modSp n f) := h.trans hR (.of_modSp f hf)

theorem Engine.ChangesSp.sp (h : ChangesSp n R e e') : R (e.sp n) (e'.sp n) := by
  obtain ⟨s, rfl, hs⟩ := h
  rwa [sp_modSp]

theorem Engine.ChangesSp.sp_ne (h : ChangesSp n R e e') {m : Sp} (hm : m ≠ n) : e'.sp m = e.sp m := by
  obtain ⟨s, rfl, -⟩ := h
  exact sp_modSp_ne e hm _

theorem Engine.ChangesSp.mem (h : ChangesSp n R e e') : e'.mem = e.mem := by
  obtain ⟨s, rfl, -⟩ := h
  rfl

end

/-! ## Free lanes go to a job (R163, R335) -/

/-- The number of a job, and the rows of its operands with the sorter's place in them, which opening and reading on do not change (R164, R170). -/
def Job.sorts (x : Job) : Nat × Option (List (List (Nat × Nat)) × Nat × Nat) × Option (List (List (Nat × Nat)) × Nat × Nat) :=
  (x.id, x.strA.map fun s => (s.rows, s.sorted, s.passes), x.strB.map fun s => (s.rows, s.sorted, s.passes))

/-- Spindles that differ in the work that the lanes hold, and in the lanes' part of the jobs. -/
def Spindle.SameButLanes (s t : Spindle) : Prop :=
  ∃ mg ls js, t = { s with merge := mg, lanes := ls, jobs := js } ∧ js.map Job.sorts = s.jobs.map Job.sorts

theorem Spindle.SameButLanes.refl (s : Spindle) : s.SameButLanes s := ⟨s.merge, s.lanes, s.jobs, rfl, rfl⟩

theorem Spindle.SameButLanes.trans {s t u : Spindle} (h : s.SameButLanes t) (h' : t.SameButLanes u) : s.SameButLanes u := by
  obtain ⟨mg, ls, js, rfl, hj⟩ := h
  obtain ⟨mg', ls', js', rfl, hj'⟩ := h'
  exact ⟨mg', ls', js', rfl, hj'.trans hj⟩

theorem Spindle.SameButLanes.modLane (s : Spindle) (l : Nat) (f : Lane → Lane) : s.SameButLanes (s.modLane l f) := ⟨s.merge, _, s.jobs, rfl, rfl⟩

theorem Spindle.SameButLanes.modJobs (s : Spindle) (id : Nat) (f : Job → Job) (hf : ∀ x, (f x).sorts = x.sorts) :
    s.SameButLanes { s with jobs := s.jobs.map fun x => if x.id = id then f x else x } := by
  refine ⟨s.merge, s.lanes, _, rfl, ?_⟩
  rw [List.map_map]
  refine List.map_congr_left fun x _ => ?_
  dsimp only [Function.comp]
  split
  · exact hf x
  · rfl

theorem Spindle.SameButLanes.foldl_modLane (os : List Nat) (g : Nat → Nat) (f : Nat → Lane → Lane) (s : Spindle) :
    s.SameButLanes (os.foldl (fun s o => s.modLane (g o) (f o)) s) := by
  induction os generalizing s with
  | nil => exact .refl s
  | cons o os ih => exact (SameButLanes.modLane s _ _).trans (ih _)

theorem Engine.openGroups_changes (n : Sp) (id : Nat) (c : MergeCtx) (fuel : Nat) (e : Engine) :
    ChangesSp n Spindle.SameButLanes e (e.openGroups n id c fuel) := by
  induction fuel generalizing e with
  | zero => exact .refl .refl e
  | succ fuel ih =>
    unfold openGroups
    split
    · exact .refl .refl e
    · split
      · exact .refl .refl e
      · dsimp only
        split
        · exact .refl .refl e
        · refine ChangesSp.trans .trans (ChangesSp.after .trans (.of_modSp _ ?_) _ (.foldl_modLane _ _ _ _)) (ih _)
          exact .modJobs _ _ _ fun _ => by rfl

theorem Engine.kickSparse_changes (e : Engine) (n : Sp) : ChangesSp n Spindle.SameButLanes e (e.kickSparse n) := by
  unfold kickSparse
  split
  · exact .refl .refl e
  · split
    · unfold regainLanes
      split
      · refine .after .trans (.of_modSp _ ⟨_, _, (e.sp n).jobs, by rfl, by rfl⟩) _ (.modJobs _ _ _ fun _ => by rfl)
      · exact .refl .refl e
    · unfold takeLanes
      split
      · exact .refl .refl e
      · split
        · refine .trans .trans (.of_modSp _ ⟨_, _, (e.sp n).jobs, by rfl, by rfl⟩) (openGroups_changes ..)
        · exact .refl .refl e

/-- A thief without segments left gives its lanes up: nothing else of the engine changes (R185). -/
theorem Engine.thiefIdle_changes (e : Engine) (n : Sp) : ChangesSp n Spindle.SameButLanes e (e.thiefIdle n) := by
  unfold thiefIdle
  split
  · split
    · exact .trans .trans (.of_modSp _ ⟨_, _, (e.sp n).jobs, by rfl, by rfl⟩) (kickSparse_changes ..)
    · exact .refl .refl e
  · exact .refl .refl e

/-! ## A thief reads on (R181) -/

/-- Spindles that differ in what a thief's lanes have read of their segments, in transactions and translations, and in the counts of what was
read. -/
def Spindle.SameButReads (s t : Spindle) : Prop :=
  (∃ ls ts xs k w, t = { s with lanes := ls, txns := ts, xlateWait := xs, srcRead := k, work := { s.work with srcStall := w } }) ∧
  (Tab.wf {} s.lanes = true → Tab.wf {} t.lanes = true ∧ ∀ l, unread (t.lane l) = unread (s.lane l))

theorem Spindle.SameButReads.of_lanes {s t : Spindle} (hl : t.lanes = s.lanes)
    (h : ∃ ls ts xs k w, t = { s with lanes := ls, txns := ts, xlateWait := xs, srcRead := k, work := { s.work with srcStall := w } }) :
    s.SameButReads t := ⟨h, fun hwf => ⟨by rwa [hl], fun l => by rw [lane, hl, ← lane]⟩⟩

theorem Spindle.SameButReads.refl (s : Spindle) : s.SameButReads s := .of_lanes rfl ⟨_, _, _, _, _, rfl⟩

theorem Spindle.SameButReads.trans {s t u : Spindle} (h : s.SameButReads t) (h' : t.SameButReads u) : s.SameButReads u := by
  obtain ⟨⟨ls, ts, xs, k, w, rfl⟩, hl⟩ := h
  obtain ⟨⟨ls', ts', xs', k', w', rfl⟩, hl'⟩ := h'
  refine ⟨⟨ls', ts', xs', k', w', rfl⟩, fun hwf => ?_⟩
  obtain ⟨hwf', hsame⟩ := hl hwf
  obtain ⟨hwf'', hsame'⟩ := hl' hwf'
  exact ⟨hwf'', fun l => (hsame' l).trans (hsame l)⟩

theorem Spindle.SameButReads.modLane (s : Spindle) (l : Nat) (f : Lane → Lane) (hf : ∀ x, unread (f x) = unread x) :
    s.SameButReads (s.modLane l f) := by
  refine ⟨⟨_, _, _, _, _, rfl⟩, fun hwf => ⟨wf_modLane hwf l _, fun m => ?_⟩⟩
  by_cases hm : m = l
  · rw [hm, lane_modLane hwf, hf]
  · rw [lane_modLane_ne s hm]

/-- A thief's reading changes its own spindle alone (R181). -/
abbrev Engine.Reads (n : Sp) (e e' : Engine) : Prop := ChangesSp n Spindle.SameButReads e e'

theorem Engine.Reads.refl (n : Sp) (e : Engine) : Reads n e e := ChangesSp.refl .refl e

theorem Engine.Reads.trans {n : Sp} {e e' e'' : Engine} (h : Reads n e e') (h' : Reads n e' e'') : Reads n e e'' := ChangesSp.trans .trans h h'

theorem Engine.Reads.modLane (n : Sp) (e : Engine) (l : Nat) (f : Lane → Lane) (hf : ∀ x, unread (f x) = unread x) :
    Reads n e (e.modSp n fun s => s.modLane l f) := .of_modSp _ (.modLane _ l f hf)

theorem Engine.Reads.countSource (n : Sp) (e : Engine) (len waited : Nat) : Reads n e (e.countSource n len waited) :=
  .of_modSp _ (.of_lanes (by rfl) ⟨_, _, _, _, _, by rfl⟩)

theorem Engine.Reads.pump (n : Sp) (e : Engine) : Reads n e (e.pump n) := by
  unfold Engine.pump
  split
  · exact .refl n e
  · exact .of_modSp _ (.of_lanes (by rfl) ⟨_, _, _, _, _, by rfl⟩)

theorem Engine.Reads.issue (n : Sp) (e : Engine) (id : Nat) (w : Bool) (p : Nat × Nat) (ls : List Nat) : Reads n e (e.issue n id w p ls) := by
  unfold Engine.issue
  split
  · exact .refl n e
  · refine .trans ?_ (.pump n _)
    exact .of_modSp _ (.of_lanes (by rfl) ⟨_, _, _, _, _, by rfl⟩)

theorem Engine.Reads.lookAt (n : Sp) (e : Engine) (a : Addr) : Reads n e (e.lookAt n a) := by
  unfold Engine.lookAt
  split
  · unfold lookUp
    split
    · exact .refl n e
    · exact .of_modSp _ (.of_lanes (by rfl) ⟨_, _, _, _, _, by rfl⟩)
  · exact .refl n e

theorem Engine.Reads.foldl {α : Type} {n : Sp} (f : Engine → α → Engine) (hf : ∀ e a, Reads n e (f e a)) (as : List α) (e : Engine) :
    Reads n e (as.foldl f e) := by
  induction as generalizing e with
  | nil => exact .refl n e
  | cons a as ih => exact (hf e a).trans (ih _)

theorem Engine.Reads.thiefAsk (n : Sp) (e : Engine) (l : Nat) (op : Strm) (ps : List (Nat × Nat)) : Reads n e (e.thiefAsk n l op ps) := by
  unfold Engine.thiefAsk
  dsimp only
  split
  · exact .modLane n e l _ fun _ => by rfl
  · exact .foldl _ (fun e p => .trans (.lookAt n e _) (.issue ..)) _ e

theorem Engine.Reads.thiefStep (n : Sp) (e : Engine) (c : MergeCtx) (l : Nat) (g : Seg) : Reads n e (e.thiefStep n c l g) := by
  delta Engine.thiefStep
  extract_lets r put fail isA op row have_ setRow t0 tiles ranges ask next p len es get one
  have hput (e : Engine) (f : SegRead → SegRead) : Reads n e (put e f) := .modLane n e l _ fun _ => by rfl
  clear_value put
  have hask (e : Engine) (op : Strm) (row stage : Nat) : Reads n e (ask e op row stage) := by
    unfold ask
    exact (hput e _).trans (.thiefAsk ..)
  have hnext (e : Engine) : Reads n e (next e) := by
    unfold next
    split
    · exact hask ..
    · exact hput ..
  clear_value ask next setRow
  split
  · exact hput ..
  · split
    · exact hask ..
    · split
      · extract_lets w askIdx allKnown bs q
        have haskIdx (e : Engine) (p0 len : Nat) (known : List (Nat × Nat)) : Reads n e (askIdx e p0 len known) := by
          unfold askIdx
          split
          · exact .thiefAsk ..
          · exact .refl n e
        have hallKnown (e : Engine) (known : List (Nat × Nat)) : Reads n e (allKnown e known) := by
          unfold allKnown
          exact (hput e _).trans (.thiefAsk ..)
        clear_value askIdx allKnown
        split
        · split
          · exact hput ..
          · exact (hput ..).trans (haskIdx ..)
        · split
          · split
            · exact hallKnown ..
            · extract_lets known e1
              have he1 : Reads n e e1 := (hput ..).trans (.countSource ..)
              split
              · exact he1.trans (haskIdx ..)
              · exact he1.trans (hallKnown ..)
          · exact ((hput ..).trans (.countSource ..)).trans (hnext _)
      · split
        · split
          · exact hput ..
          · exact (hput ..).trans (.thiefAsk ..)
        · split
          · exact hput ..
          · exact ((hput ..).trans (.countSource ..)).trans (hnext _)

theorem Engine.Reads.thiefLane (n : Sp) (l fuel : Nat) (e : Engine) : Reads n e (e.thiefLane n l fuel) := by
  induction fuel generalizing e with
  | zero => exact .refl n e
  | succ fuel ih =>
    unfold Engine.thiefLane
    split
    · dsimp only
      split
      · exact .refl n e
      · exact (thiefStep ..).trans (ih _)
    · exact .refl n e

theorem Engine.Reads.thiefAdvance (n : Sp) (e : Engine) : Reads n e (e.thiefAdvance n) := .foldl _ (fun e l => .thiefLane n l 80 e) _ e

end Sys2Proof.Machine
end

section
/-! PROOFS. Sparse matching (06_sparse_matching) within a spindle: searches, merges and lane steals (R166 to R180, R183). -/

namespace Sys2Proof.Machine

/-! ## The search and the steals of the lanes (R166, R178 to R180) -/

section
variable {n : Sp} {l : Fin 64} {s : State} (hwf : Tab.wf {} (s.eng.sp n).lanes = true)

theorem laneAt_modSp (f : Spindle → Spindle) (m : Nat) : laneAt (s.onEng fun e => e.modSp n f) n m = (f (s.eng.sp n)).lane m := by
  rw [laneAt, State.onEng_eng, Engine.sp_modSp]

include hwf in
theorem exec_searchDone_of_searching {g : Seg} (hcur : ((s.eng.sp n).lane l).cur = some (g, false)) :
    ∃ t, exec (.searchDone n l) s = .next t ∧ t.sec = s.sec ∧ laneAt t n l = { (s.eng.sp n).lane l with cur := some (g, true) } ∧
      (∀ m : Nat, m ≠ l.val → laneAt t n m = (s.eng.sp n).lane m) ∧ t.eng.creel = s.eng.creel := by
  refine ⟨_, rfl, rfl, ?_, fun m hm => ?_, rfl⟩
  · rw [laneAt_modSp, hcur, Spindle.lane_modLane hwf]
  · rw [laneAt_modSp, hcur, Spindle.lane_modLane_ne _ hm]

/-- A lane that asks another has its request stand, and the other has the request behind those it has. -/
theorem Spindle.lane_ask {sp : Spindle} (hwf : Tab.wf {} sp.lanes = true) {l v : Nat} (hlv : v ≠ l) (st : StealSt) :
    (sp.ask l v st).lane l = { sp.lane l with steal := st } ∧ (sp.ask l v st).lane v = { sp.lane v with asked := (sp.lane v).asked ++ [l] } := by
  constructor
  · rw [ask, lane_modLane_ne _ hlv.symm, lane_modLane hwf]
  · rw [ask, lane_modLane (wf_modLane hwf l _), lane_modLane_ne _ hlv]

theorem neighbour_ne (l : Fin 64) (k : Nat) (hk : 0 < k) (hk' : k < 64) : (l.val + k) % 64 ≠ l.val := by omega

include hwf in
theorem exec_laneStealRequest_of_mayAsk (hask : (s.eng.sp n).mayAsk n l = true) (hidle : ((s.eng.sp n).lane l).steal = .idle) :
    ∃ t, exec (.laneStealRequest n l) s = .next t ∧ t.sec = s.sec ∧ (laneAt t n l).steal = .askedFirst ∧
      (laneAt t n ((l + 1) % 64)).asked = ((s.eng.sp n).lane ((l + 1) % 64)).asked ++ [l.val] := by
  obtain ⟨hl, hv⟩ := Spindle.lane_ask hwf (neighbour_ne l 1 (by omega) (by omega)) .askedFirst
  refine ⟨_, rfl, rfl, ?_, ?_⟩
  · rw [laneAt_modSp, hask, hidle]
    exact congrArg Lane.steal hl
  · rw [laneAt_modSp, hask, hidle]
    exact congrArg Lane.asked hv

/-- The spindle after lane l, as a victim, has given the later half of its unstarted segments to lane t (R179). -/
def Spindle.halved (sp : Spindle) (l t : Nat) : Spindle :=
  let keep := (sp.lane l).unstarted.length / 2
  (sp.modLane l fun x => { x with asked := x.asked.erase t, unstarted := x.unstarted.take keep }).modLane t fun x =>
    { x with answer := some ((sp.lane l).unstarted.drop keep) }

theorem Spindle.unstarted_halved {sp : Spindle} (hwf : Tab.wf {} sp.lanes = true) (l t : Nat) :
    ((sp.halved l t).lane l).unstarted = (sp.lane l).unstarted.take ((sp.lane l).unstarted.length / 2) := by
  unfold halved
  by_cases ht : l = t
  · rw [← ht, lane_modLane (wf_modLane hwf l _), lane_modLane hwf]
  · rw [lane_modLane_ne _ ht, lane_modLane hwf]

theorem Spindle.answer_halved {sp : Spindle} (hwf : Tab.wf {} sp.lanes = true) (l t : Nat) :
    ((sp.halved l t).lane t).answer = some ((sp.lane l).unstarted.drop ((sp.lane l).unstarted.length / 2)) := by
  unfold halved
  rw [lane_modLane (wf_modLane hwf l _)]

include hwf in
theorem exec_laneStealDecide_of_asked (hasked : ((s.eng.sp n).lane l).asked ≠ []) :
    let x := (s.eng.sp n).lane l
    ∃ t, exec (.laneStealDecide n l) s = .next t ∧ t.sec = s.sec ∧ (laneAt t n l).unstarted = x.unstarted.take (x.unstarted.length / 2) ∧
      (laneAt t n (leastLane x.asked)).answer = some (x.unstarted.drop (x.unstarted.length / 2)) ∧
      (t.eng.sp n).work.stealLane = satAdd (s.eng.sp n).work.stealLane (x.unstarted.length - x.unstarted.length / 2) := by
  intro x
  have hsome : ¬ x.asked.isEmpty = true := by rwa [List.isEmpty_iff]
  have hexec : exec (.laneStealDecide n l) s = .next (s.onEng fun e => e.modSp n fun sp =>
      { sp.halved l (leastLane x.asked) with
        work := { sp.work with stealLane := satAdd sp.work.stealLane (x.unstarted.drop (x.unstarted.length / 2)).length } }) :=
    congrArg (fun sp => Host.Outcome.next (s.onEng fun e => e.modSp n fun _ => sp)) (if_neg hsome)
  refine ⟨_, hexec, rfl, ?_, ?_, ?_⟩
  · rw [laneAt_modSp]
    exact Spindle.unstarted_halved hwf l _
  · rw [laneAt_modSp]
    exact Spindle.answer_halved hwf l _
  · rw [State.onEng_eng, Engine.sp_modSp, List.length_drop]

theorem answer_unread (x : Lane) : (unread x).answer = x.answer := rfl
theorem steal_unread (x : Lane) : (unread x).steal = x.steal := rfl

/-- Where a thief reads on after a change of its spindle's lanes, the lanes stand as after the change but for what they have read. -/
theorem unread_laneAt_thiefAdvance {f : Spindle → Spindle} (hf : Tab.wf {} (f (s.eng.sp n)).lanes = true) (m : Nat) :
    unread (laneAt (s.onEng fun e => (e.modSp n f).thiefAdvance n) n m) = unread ((f (s.eng.sp n)).lane m) := by
  obtain ⟨-, hlanes⟩ := (Engine.Reads.thiefAdvance n (s.eng.modSp n f)).sp
  rw [Engine.sp_modSp] at hlanes
  exact (hlanes hf).2 m

include hwf in
/-- Granted segments join the lane's unstarted ones, and an idle lane takes the first up (R178, R179). -/
theorem exec_laneStealAnswer_of_granted {c : MergeCtx} {g : Seg} {gs : List Seg} (hmerge : (s.eng.sp n).merge = some c)
    (hanswer : ((s.eng.sp n).lane l).answer = some (g :: gs)) :
    let x := (s.eng.sp n).lane l
    ∃ t, exec (.laneStealAnswer n l) s = .next t ∧ t.sec = s.sec ∧
      unread (laneAt t n l) = unread (({ x with answer := none, steal := .idle, unstarted := x.unstarted ++ g :: gs } : Lane).takeUp c) := by
  intro x
  refine ⟨_, rfl, rfl, ?_⟩
  rw [unread_laneAt_thiefAdvance]
  · simp only [hanswer, hmerge]
    rw [Spindle.lane_modLane hwf]
  · simp only [hanswer, hmerge]
    exact Spindle.wf_modLane hwf l _

include hwf in
/-- A lane refused by its right neighbour asks its left one, if it may still ask (R178). -/
theorem exec_laneStealAnswer_of_refusedFirst (hanswer : ((s.eng.sp n).lane l).answer = some [])
    (hsteal : ((s.eng.sp n).lane l).steal = .askedFirst) :
    ∃ t, exec (.laneStealAnswer n l) s = .next t ∧ t.sec = s.sec ∧ (laneAt t n l).answer = none ∧ (laneAt t n l).steal =
      (if ((s.eng.sp n).modLane l fun x => { x with answer := none }).mayAsk n l then .askedSecond else .idle) := by
  have hkept := Spindle.wf_modLane hwf l fun x => { x with answer := none }
  have hself := Spindle.lane_modLane hwf l fun x => { x with answer := none }
  have hf : ∃ f, exec (.laneStealAnswer n l) s = .next (s.onEng fun e => (e.modSp n f).thiefAdvance n) ∧
      Tab.wf {} (f (s.eng.sp n)).lanes = true ∧ (f (s.eng.sp n)).lane l = { (s.eng.sp n).lane l with
        answer := none, steal := if ((s.eng.sp n).modLane l fun x => { x with answer := none }).mayAsk n l then .askedSecond else .idle } := by
    refine ⟨_, rfl, ?_⟩
    simp only [hanswer, hsteal, if_true]
    split
    · refine ⟨Spindle.wf_modLane (Spindle.wf_modLane hkept l _) _ _, ?_⟩
      rw [(Spindle.lane_ask hkept (neighbour_ne l 63 (by omega) (by omega)) .askedSecond).1, hself]
    · refine ⟨Spindle.wf_modLane hkept l _, ?_⟩
      rw [Spindle.lane_modLane hkept, hself]
  obtain ⟨f, hexec, hwf', hlane⟩ := hf
  have hunread := unread_laneAt_thiefAdvance hwf' l.val
  rw [hlane] at hunread
  refine ⟨_, hexec, rfl, ?_, ?_⟩
  · rw [← answer_unread, hunread, answer_unread]
  · rw [← steal_unread, hunread, steal_unread]

include hwf in
theorem exec_laneStealAnswer_of_refusedSecond (hanswer : ((s.eng.sp n).lane l).answer = some [])
    (hsteal : ((s.eng.sp n).lane l).steal = .askedSecond) :
    ∃ t, exec (.laneStealAnswer n l) s = .next t ∧ t.sec = s.sec ∧
      unread (laneAt t n l) = unread { (s.eng.sp n).lane l with answer := none, steal := .waiting } := by
  have hkept := Spindle.wf_modLane hwf l fun x => { x with answer := none }
  refine ⟨_, rfl, rfl, ?_⟩
  rw [unread_laneAt_thiefAdvance]
  · simp only [hanswer, hsteal, reduceCtorEq, if_false]
    rw [Spindle.lane_modLane hkept, Spindle.lane_modLane hwf]
  · simp only [hanswer, hsteal, reduceCtorEq, if_false]
    exact Spindle.wf_modLane hkept l _

include hwf in
theorem exec_laneStealRetry_of_waiting (hsteal : ((s.eng.sp n).lane l).steal = .waiting) :
    ∃ t, exec (.laneStealRetry n l) s = .next t ∧ t.sec = s.sec ∧
      (laneAt t n l).steal = (if (s.eng.sp n).mayAsk n l then .askedFirst else .idle) := by
  refine ⟨_, rfl, rfl, ?_⟩
  rw [laneAt_modSp, hsteal, beq_self_eq_true, if_pos rfl]
  split
  · rw [(Spindle.lane_ask hwf (neighbour_ne l 1 (by omega) (by omega)) .askedFirst).1]
  · rw [Spindle.lane_modLane hwf]

end

/-! ## The end of a segment (R149, R167, R168, R175 to R177, R183) -/

/-- The spindle after the array waited for a Whorl bank and for an accumulator (R149). -/
def Spindle.waited (sp : Spindle) (whorl drain : Nat) : Spindle :=
  { sp with work := { sp.work with whorlStall := satAdd sp.work.whorlStall whorl, drainStall := satAdd sp.work.drainStall drain } }

section
variable {n : Sp} {l : Fin 64} {s : State} {c : MergeCtx} {g : Seg} {w d : Nat} (hmerge : (s.eng.sp n).merge = some c)
  (hcur : ((s.eng.sp n).lane l).cur = some (g, true)) (hbank : s.eng.bankThere n c l g = true)

include hmerge hcur hbank in
theorem exec_mergeSegmentDone_of_bankThere :
    exec (.mergeSegmentDone n ⟨l, w, d, .ok⟩) s = .next (s.onEng fun e =>
      let r := (e.modSp n fun sp => sp.waited w d).readRows (c.whorlRows n g) .ok false
      if r.2 && c.owner == n.val then r.1.fault n c.job 0x19 4 0 else r.1.mergeDone n l) := by
  change done (s.onEng _) = _
  simp only [done, State.onEng, hmerge, hcur, hbank, if_true]
  rfl

include hmerge hcur hbank in
/-- A Whorl row of the spindle's own job that cannot be read faults the job (R168, R483). -/
theorem exec_mergeSegmentDone_of_unreadable {r : RowAt} (howner : c.owner = n.val)
    (hrow : s.eng.scrub.unreadable (c.whorlRows n g) .ok = some r) (hlive : s.eng.jobLive n c.job = true) :
    ∃ t z, exec (.mergeSegmentDone n ⟨l, w, d, .ok⟩) s = .next t ∧ t.sec = s.sec ∧ t.eng.jobId? n c.job = some z ∧
      z.ended = some ⟨1, 0x19, 4, 0⟩ := by
  have hexec := exec_mergeSegmentDone_of_bankThere (w := w) (d := d) hmerge hcur hbank
  have hfails : ((s.eng.modSp n fun sp => sp.waited w d).readRows (c.whorlRows n g) .ok false).2 = true := by
    rw [Engine.readRows_fails, Engine.modSp_scrub, hrow]
    rfl
  obtain ⟨x, hx, hended⟩ : ∃ x, s.eng.jobId? n c.job = some x ∧ x.ended = none := by
    unfold Engine.jobLive at hlive
    split at hlive
    · exact ⟨_, ‹_›, Option.isNone_iff_eq_none.mp hlive⟩
    · exact absurd hlive Bool.false_ne_true
  have hview : ((s.eng.modSp n fun sp => sp.waited w d).readRows (c.whorlRows n g) .ok false).1.view? n c.job = some x.view := by
    refine Eq.trans (Engine.view?_congr ?_ c.job) (Engine.view?_of_jobId? hx)
    exact (Engine.views_readRows ..).trans (Engine.views_modSp _ n n _ fun _ => by rfl)
  obtain ⟨z, hz, hzended⟩ := Engine.ended_stopJob hview hended ⟨1, 0x19, 4, 0⟩
  refine ⟨_, z, hexec, rfl, ?_, hzended⟩
  simp only [State.onEng_eng, hfails, howner, beq_self_eq_true, Bool.and_self, if_true]
  exact hz

include hmerge hcur hbank in
/-- With its Whorl rows readable, the segment's merge is taken up; the read may correct rows (R482). -/
theorem exec_mergeSegmentDone_of_readable (hrow : s.eng.scrub.unreadable (c.whorlRows n g) .ok = none) :
    ∃ sc, exec (.mergeSegmentDone n ⟨l, w, d, .ok⟩) s = .next (s.onEng fun e =>
      ({ e.modSp n fun sp => sp.waited w d with scrub := sc } : Engine).mergeDone n l) := by
  have hreads : ((s.eng.modSp n fun sp => sp.waited w d).readRows (c.whorlRows n g) .ok false).2 = false := by
    rw [Engine.readRows_fails, Engine.modSp_scrub, hrow]
    rfl
  obtain ⟨sc, hsc⟩ := Engine.readRows_eq_of_readable _ _ _ _ hreads
  refine ⟨sc, (exec_mergeSegmentDone_of_bankThere hmerge hcur hbank).trans ?_⟩
  simp only [State.onEng, hreads, Bool.false_and, Bool.false_eq_true, if_false, hsc]

end

/-- The dropped entries of a segment and the codes that its slice read are counted (R76, R79, R175). -/
def Engine.sliceCounted (e : Engine) (n : Sp) (c : MergeCtx) (run : SliceRun) : Engine :=
  (e.modSp n fun s => { s with work := { s.work with nep := satAdd s.work.nep run.nep } }).countSlice n c run

theorem Engine.sp_sliceCounted (e : Engine) (n : Sp) (c : MergeCtx) (run : SliceRun) :
    ∃ k, (e.sliceCounted n c run).sp n = { e.sp n with work := { (e.sp n).work with nep := satAdd (e.sp n).work.nep run.nep }, code := k } := by
  refine ⟨((e.sliceCounted n c run).sp n).code, ?_⟩
  rw [sliceCounted, countSlice, countCodes, sp_modSp, countCodes, sp_modSp, sp_modSp]

/-! ### The owner's side -/

/-- The partial that a lane holds for an output: 0 where it holds none. -/
def Lane.partialOf (x : Lane) (output : Nat) : Word := ((x.partials.find? fun p => p.output == output).map fun p => p.acc).getD 0

/-- A lane after its segment was merged: the products are in its partial, and it takes up what comes next (R167, R168). -/
def Lane.merged (x : Lane) (c : MergeCtx) (g : Seg) (acc : Word) : Lane :=
  ({ x with cur := none, prev := some g, partials := addPartial x.partials g.output fun _ => acc } : Lane).takeUp c

/-- A job after a segment of an output was merged: it has one segment fewer to come (R175, R186). -/
def Job.merged (x : Job) (g : Seg) (run : SliceRun) (overflow : Bool) : Job :=
  { x with nep := x.nep + run.nep, overflow := x.overflow || overflow, point := false
           sparse := x.sparse.map fun sp =>
             { sp with outstanding := Tab.put sp.outstanding 0 g.output (Tab.getD sp.outstanding g.output 0 - 1) } }

/-- The products of a segment are in the lane's partial, and the segment is counted off its output: what MERGE_SEGMENT_DONE comes to at the
owner, a descending index apart (R168, R175, R176). -/
def Engine.mergedHere (e : Engine) (n : Sp) (c : MergeCtx) (l : Nat) (g : Seg) (run : SliceRun) : Engine :=
  let r := segSum c run (((e.sp n).lane l).partialOf g.output)
  ((((e.sliceCounted n c run).modSp n fun s => s.modLane l fun x => x.merged c g r.1).modJob n c.job fun x => x.merged g run r.2)).checkNep n c.job

/-- The end of a segment at the owner: a descending index faults the job once the segment is merged (R177). -/
def Engine.mergeEnd (e : Engine) (n : Sp) (c : MergeCtx) (l : Nat) (g : Seg) (run : SliceRun) : Engine :=
  match run.bad with
  | some .a => (e.mergedHere n c l g run).fault n c.job 0x04 5 (c.opA.first + g.row)
  | some .b => (e.mergedHere n c l g run).fault n c.job 0x04 5 (c.opB.first + g.bRow)
  | none => e.mergedHere n c l g run

theorem Engine.mergeEnd_of_ascending (e : Engine) (n : Sp) (c : MergeCtx) (l : Nat) (g : Seg) {run : SliceRun} (h : run.bad = none) :
    e.mergeEnd n c l g run = e.mergedHere n c l g run := by
  rw [mergeEnd, h]

/-- The list row or row of tiles in which a slice met a descending index (R177). -/
def MergeCtx.badRow (c : MergeCtx) (g : Seg) : Opnd → Nat
  | .a => c.opA.first + g.row
  | .b => c.opB.first + g.bRow

theorem Engine.mergeEnd_of_descending (e : Engine) (n : Sp) (c : MergeCtx) (l : Nat) (g : Seg) {run : SliceRun} {o : Opnd} (h : run.bad = some o) :
    e.mergeEnd n c l g run = (e.mergedHere n c l g run).fault n c.job 0x04 5 (c.badRow g o) := by
  rw [mergeEnd, h]
  cases o <;> rfl

section
variable {e : Engine} {n : Sp} {l : Nat} {c : MergeCtx} {g : Seg} (hmerge : (e.sp n).merge = some c)
  (hcur : ((e.sp n).lane l).cur = some (g, true)) (howner : c.owner = n.val)

include hmerge hcur howner in
theorem Engine.mergeDone_owner :
    e.mergeDone n l = e.mergeEnd n c l g (segPairs c g (e.segRows n c l g).1 (e.segRows n c l g).2) := by
  simp only [mergeDone, hmerge, hcur, howner, if_true, Option.isSome_none, Bool.false_eq_true, if_false]
  rfl

variable (run : SliceRun)

@[simp] theorem Engine.checkNep_creel (e : Engine) (n : Sp) (id : Nat) : (e.checkNep n id).creel = e.creel := by
  unfold checkNep
  split
  · exact iteInduction (motive := fun e' : Engine => e'.creel = e.creel) (fun _ => rfl) fun _ => rfl
  · rfl

theorem Engine.mergedHere_creel : (e.mergedHere n c l g run).creel = e.creel := checkNep_creel ..

theorem Engine.still_mergedHere :
    (e.mergedHere n c l g run).still n = (((e.sliceCounted n c run).modSp n fun s => s.modLane l fun x =>
      x.merged c g (segSum c run (((e.sp n).lane l).partialOf g.output)).1).modJob n c.job fun x =>
        x.merged g run (segSum c run (((e.sp n).lane l).partialOf g.output)).2).still n := still_checkNep ..

theorem Engine.work_mergedHere : ((e.mergedHere n c l g run).sp n).work = { (e.sp n).work with nep := satAdd (e.sp n).work.nep run.nep } := by
  obtain ⟨k, hk⟩ := e.sp_sliceCounted n c run
  rw [← work_still, still_mergedHere, work_still, modJob, sp_modSp, sp_modSp, hk]
  rfl

theorem Engine.lane_mergedHere (hwf : Tab.wf {} (e.sp n).lanes = true) :
    ((e.mergedHere n c l g run).sp n).lane l =
      ((e.sp n).lane l).merged c g (segSum c run (((e.sp n).lane l).partialOf g.output)).1 := by
  obtain ⟨k, hk⟩ := e.sp_sliceCounted n c run
  rw [← lane_still, still_mergedHere, lane_still, modJob, sp_modSp, sp_modSp, hk]
  exact Spindle.lane_modLane hwf l fun x => x.merged c g _

theorem Engine.jobId?_mergedHere {y : Job} (hy : e.jobId? n c.job = some y) :
    ∃ z ovf, (e.mergedHere n c l g run).jobId? n c.job = some z ∧ z.still = (y.merged g run ovf).still := by
  obtain ⟨k, hk⟩ := e.sp_sliceCounted n c run
  have hcounted (f : Lane → Lane) : ((e.sliceCounted n c run).modSp n fun s => s.modLane l f).jobId? n c.job = some y := by
    rw [jobId?, sp_modSp, hk, ← hy]
    rfl
  obtain ⟨z, hz, hstill⟩ := jobId?_of_still (still_mergedHere run) (jobId?_modJob_of (hcounted _) fun _ => by rfl)
  exact ⟨z, _, hz, hstill⟩

end

/-! ### The thief's side -/

/-- The record of a segment that a thief has merged or failed to (R183). -/
def mergeRecord (n : Sp) (l : Nat) (c : MergeCtx) (g : Seg) (run : SliceRun) : List Byte :=
  if run.bad.isSome then stealRecord g.output (64 * n.val + l) (2 + 4 * b2n (segSum c run 0).2) 5 0 run.nep
  else stealRecord g.output (64 * n.val + l) (4 * b2n (segSum c run 0).2) 0 (segSum c run 0).1 run.nep

theorem length_mergeRecord (n : Sp) (l : Nat) (c : MergeCtx) (g : Seg) (run : SliceRun) : (mergeRecord n l c g run).length = 16 := by
  unfold mergeRecord stealRecord
  split <;> simp only [List.length_append, length_leBytes]

/-- A thief's lane after it merged a segment: the counts and the lane, before the record is written. -/
def Engine.mergedAway (e : Engine) (n : Sp) (c : MergeCtx) (l : Nat) (g : Seg) (run : SliceRun) : Engine :=
  (e.sliceCounted n c run).modSp n fun s => s.modLane l fun x => ({ x with cur := none, prev := some g } : Lane).takeUp c

theorem Engine.sp_mergedAway (e : Engine) (n : Sp) (c : MergeCtx) (l : Nat) (g : Seg) (run : SliceRun) :
    ∃ k ls, (e.mergedAway n c l g run).sp n =
      { e.sp n with work := { (e.sp n).work with nep := satAdd (e.sp n).work.nep run.nep }, code := k, lanes := ls } := by
  obtain ⟨k, hk⟩ := e.sp_sliceCounted n c run
  refine ⟨k, ((e.mergedAway n c l g run).sp n).lanes, ?_⟩
  rw [mergedAway, sp_modSp, hk]
  rfl

section
variable {e : Engine} {n : Sp} {l : Nat} {c : MergeCtx} {g : Seg} (hmerge : (e.sp n).merge = some c)
  (hcur : ((e.sp n).lane l).cur = some (g, true)) (howner : c.owner ≠ n.val) (hfail : ((e.sp n).lane l).read.fail = none)

include hmerge hcur howner hfail in
theorem Engine.mergeDone_thief :
    let run := segPairs c g (e.segRows n c l g).1 (e.segRows n c l g).2
    e.mergeDone n l = ((((e.mergedAway n c l g run).writeRecord n c (g.record.getD 0) (mergeRecord n l c g run)).thiefAdvance n).thiefIdle n) := by
  intro run
  have hrec : (match (if run.bad.isSome then some 5 else none : Option Nat) with
      | some d => stealRecord g.output (64 * n.val + l) (2 + 4 * b2n (segSum c run 0).2) d 0 run.nep
      | none => stealRecord g.output (64 * n.val + l) (4 * b2n (segSum c run 0).2) 0 (segSum c run 0).1 run.nep) = mergeRecord n l c g run := by
    unfold mergeRecord
    cases run.bad <;> rfl
  rw [← hrec]
  simp only [mergeDone, hmerge, hcur, if_neg howner, hfail, Option.isSome_none, Bool.false_eq_true, if_false]
  rfl

end

/-! ### Records in memory (R183) -/

theorem Engine.putAll_mem (bs : List Byte) (a : Nat) (e : Engine) : e.putAll (.mem a) bs = { e with mem := writeBytes e.mem a bs } := by
  induction bs generalizing e a with
  | nil => rfl
  | cons b bs ih => exact ih (a + 1) _

theorem Engine.mem_putJob_mem (e : Engine) (n : Sp) (id : Nat) (p : Nat × Nat) (a : Nat) (bs : List Byte) :
    (e.putJob n id p (.mem a) bs).mem = writeBytes e.mem a bs := by
  refine (Reads.issue n _ id true p _).mem.trans ?_
  change (e.writeAt (.mem a) bs).mem = _
  unfold writeAt
  rw [putAll_mem]
  dsimp only
  split <;> rfl

/-- A record whose place is in memory is written there (R183). -/
theorem Engine.writeRecord_mem {c : MergeCtx} {a : Nat} (ha : Addr.parse c.stealArea = .mem a) (e : Engine) (n : Sp) (k : Nat) (bs : List Byte) :
    e.writeRecord n c k bs =
      (e.modSp n fun s => { s with ringRecs := s.ringRecs ++ [⟨c.owner, c.job, k, c.stealKnot, none⟩] }).putJob n thiefJob (wRecord k)
        (.mem (a + 16 * k)) bs := by
  have hfree (m : Sp) : e.writeFault m (.mem (a + 16 * k)) 16 = none := rfl
  simp only [writeRecord, ha, Addr.plus, hfree, Option.or_none]

theorem readAt_mem_writeBytes {e : Engine} {m : Tab Byte} {a : Nat} {bs : List Byte} (hm : Tab.wf 0 m = true) (h : e.mem = writeBytes m a bs) :
    e.readAt (.mem a) bs.length = bs := by
  refine List.ext_getElem (by simp [Engine.readAt]) fun i hi hi' => ?_
  simp only [Engine.readAt, List.getElem_map, List.getElem_range, Addr.plus, Engine.loc, Engine.byteAt, h]
  exact readByte_writeBytes_in bs m a i hi' hm

section
variable {e : Engine} {n : Sp} {l : Nat} {c : MergeCtx} {g : Seg} (run : SliceRun) {a : Nat} (ha : Addr.parse c.stealArea = .mem a)

include ha in
/-- What a thief's merge leaves behind when its record goes to memory: the dropped entries are counted, the record stands and its write is
not acknowledged. -/
theorem Engine.mergedAway_recorded (k : Nat) (bs : List Byte) :
    let e' := (((e.mergedAway n c l g run).writeRecord n c k bs).thiefAdvance n).thiefIdle n
    (e'.sp n).work.nep = satAdd (e.sp n).work.nep run.nep ∧
      (e'.sp n).ringRecs = (e.sp n).ringRecs ++ [⟨c.owner, c.job, k, c.stealKnot, none⟩] ∧ e'.mem = writeBytes e.mem (a + 16 * k) bs := by
  intro e'
  have hreads := Reads.thiefAdvance n ((e.mergedAway n c l g run).writeRecord n c k bs)
  have hlanes := thiefIdle_changes (((e.mergedAway n c l g run).writeRecord n c k bs).thiefAdvance n) n
  have hmem : e'.mem = ((e.mergedAway n c l g run).writeRecord n c k bs).mem := hlanes.mem.trans hreads.mem
  obtain ⟨⟨ls, ts, xs, k', w, hread⟩, -⟩ := hreads.sp
  obtain ⟨mg, ls', js, hidle, -⟩ := hlanes.sp
  have hsp : e'.sp n = _ := hidle
  rw [hread] at hsp
  have hstill := still_putJob ((e.mergedAway n c l g run).modSp n fun s => { s with ringRecs := s.ringRecs ++ [⟨c.owner, c.job, k, c.stealKnot, none⟩] })
    n thiefJob (wRecord k) (.mem (a + 16 * k)) bs n
  rw [← writeRecord_mem ha] at hstill
  obtain ⟨code, ls'', haway⟩ := e.sp_mergedAway n c l g run
  rw [still, still, sp_modSp, haway] at hstill
  refine ⟨?_, ?_, ?_⟩
  · rw [hsp]
    exact congrArg (fun s : Spindle => s.work.nep) hstill
  · rw [hsp]
    exact congrArg Spindle.ringRecs hstill
  · rw [hmem, writeRecord_mem ha, mem_putJob_mem]
    rfl

end

/-! ## MERGE_SEGMENT_DONE -/

/-- The engine in which a segment's merge is taken up: the array's waits are counted, and the rows read are corrected (R149, R482). -/
def Engine.mergeReady (e : Engine) (n : Sp) (w d : Nat) (sc : Scrub) : Engine := { e.modSp n fun sp => sp.waited w d with scrub := sc }

section
variable (e : Engine) (n : Sp) (w d : Nat) (sc : Scrub)

theorem Engine.sp_mergeReady : (e.mergeReady n w d sc).sp n = (e.sp n).waited w d := e.sp_modSp n fun sp => sp.waited w d

theorem Engine.segRows_mergeReady (c : MergeCtx) (l : Nat) (g : Seg) : (e.mergeReady n w d sc).segRows n c l g = e.segRows n c l g := by
  rw [segRows, sp_mergeReady]
  rfl

theorem Engine.jobId?_mergeReady (id : Nat) : (e.mergeReady n w d sc).jobId? n id = e.jobId? n id := by
  rw [jobId?, sp_mergeReady]
  rfl

end

section
variable {n : Sp} {l : Fin 64} {s : State} {c : MergeCtx} {g : Seg} {w d : Nat} (hmerge : (s.eng.sp n).merge = some c)
  (hcur : ((s.eng.sp n).lane l).cur = some (g, true)) (hbank : s.eng.bankThere n c l g = true)
  (hrow : s.eng.scrub.unreadable (c.whorlRows n g) .ok = none)
include hmerge hcur hbank hrow

theorem exec_mergeSegmentDone_owner (howner : c.owner = n.val) :
    ∃ sc, exec (.mergeSegmentDone n ⟨l, w, d, .ok⟩) s = .next (s.onEng fun e =>
      (e.mergeReady n w d sc).mergeEnd n c l g (segPairs c g (s.eng.segRows n c l g).1 (s.eng.segRows n c l g).2)) := by
  obtain ⟨sc, hexec⟩ := exec_mergeSegmentDone_of_readable (w := w) (d := d) hmerge hcur hbank hrow
  have hsp := s.eng.sp_mergeReady n w d sc
  have hdone := Engine.mergeDone_owner (e := s.eng.mergeReady n w d sc) (by rw [hsp]; exact hmerge) (by rw [hsp]; exact hcur) howner
  rw [Engine.segRows_mergeReady] at hdone
  exact ⟨sc, hexec.trans (congrArg (fun e => Host.Outcome.next { s with eng := e }) hdone)⟩

variable {run : SliceRun} (hrun : segPairs c g (s.eng.segRows n c l g).1 (s.eng.segRows n c l g).2 = run)
include hrun

/-- The owner's segment in which no index descends (R168, R175). -/
theorem exec_mergeSegmentDone_of_ascending (hwf : Tab.wf {} (s.eng.sp n).lanes = true) (howner : c.owner = n.val) {y : Job} {q : Sparse}
    (hgood : run.bad = none) (hy : s.eng.jobId? n c.job = some y) (hq : y.sparse = some q) :
    let x := (s.eng.sp n).lane l
    ∃ t z, exec (.mergeSegmentDone n ⟨l, w, d, .ok⟩) s = .next t ∧ t.sec = s.sec ∧ t.eng.creel = s.eng.creel ∧
      (t.eng.sp n).work = { ((s.eng.sp n).waited w d).work with nep := satAdd (s.eng.sp n).work.nep run.nep } ∧
      laneAt t n l = x.merged c g (segSum c run (x.partialOf g.output)).1 ∧
      t.eng.jobId? n c.job = some z ∧ z.nep = y.nep + run.nep ∧ z.ended = y.ended ∧
      z.sparse = some { q with outstanding := Tab.put q.outstanding 0 g.output (Tab.getD q.outstanding g.output 0 - 1) } := by
  intro x
  obtain ⟨sc, hexec⟩ := exec_mergeSegmentDone_owner (w := w) (d := d) hmerge hcur hbank hrow howner
  rw [hrun] at hexec
  have hsp := s.eng.sp_mergeReady n w d sc
  have hend := (s.eng.mergeReady n w d sc).mergeEnd_of_ascending n c l g hgood
  have hy' := (s.eng.jobId?_mergeReady n w d sc c.job).trans hy
  obtain ⟨z, ovf, hz, hstill⟩ := Engine.jobId?_mergedHere (l := l) (g := g) run hy'
  have hwork := Engine.work_mergedHere (e := s.eng.mergeReady n w d sc) (n := n) (l := l) (c := c) (g := g) run
  have hlane := Engine.lane_mergedHere (e := s.eng.mergeReady n w d sc) (l := l) (c := c) (g := g) run (by rw [hsp]; exact hwf)
  rw [hsp] at hwork hlane
  refine ⟨_, z, hexec, rfl, ?_, ?_, ?_, ?_, congrArg Job.nep hstill, (congrArg Job.ended hstill :), ?_⟩
  · rw [State.onEng_eng, hend]
    exact Engine.mergedHere_creel run
  · rw [State.onEng_eng, hend]
    exact hwork
  · rw [laneAt, State.onEng_eng, hend]
    exact hlane
  · rw [State.onEng_eng, hend]
    exact hz
  · exact (congrArg Job.sparse hstill).trans (congrArg (Option.map _) hq)

/-- The owner's segment in which an index descends (R177). -/
theorem exec_mergeSegmentDone_of_descending (howner : c.owner = n.val) {y : Job} {o : Opnd} (hbad : run.bad = some o)
    (hy : s.eng.jobId? n c.job = some y) (hended : y.ended = none) :
    ∃ t z, exec (.mergeSegmentDone n ⟨l, w, d, .ok⟩) s = .next t ∧ t.sec = s.sec ∧ t.eng.jobId? n c.job = some z ∧
      z.ended = some ⟨1, 4, 5, c.badRow g o⟩ := by
  obtain ⟨sc, hexec⟩ := exec_mergeSegmentDone_owner (w := w) (d := d) hmerge hcur hbank hrow howner
  rw [hrun] at hexec
  obtain ⟨z, ovf, hz, hstill⟩ := Engine.jobId?_mergedHere (l := l) (g := g) run ((s.eng.jobId?_mergeReady n w d sc c.job).trans hy)
  have hsame : z.ended = y.ended := (congrArg Job.ended hstill :)
  obtain ⟨z', hz', hend⟩ := Engine.ended_fault hz (hsame.trans hended) 4 5 (c.badRow g o)
  refine ⟨_, z', hexec, rfl, ?_, hend⟩
  rw [State.onEng_eng, Engine.mergeEnd_of_descending _ _ _ _ _ hbad]
  exact hz'

/-- A thief's segment whose record goes to memory (R183). -/
theorem exec_mergeSegmentDone_of_thief (howner : c.owner ≠ n.val) (hfail : ((s.eng.sp n).lane l).read.fail = none) {a : Nat}
    (ha : Addr.parse c.stealArea = .mem a) (hmem : Tab.wf 0 s.eng.mem = true) :
    ∃ t, exec (.mergeSegmentDone n ⟨l, w, d, .ok⟩) s = .next t ∧ t.sec = s.sec ∧ (t.eng.sp n).work.nep = satAdd (s.eng.sp n).work.nep run.nep ∧
      (t.eng.sp n).ringRecs = (s.eng.sp n).ringRecs ++ [⟨c.owner, c.job, g.record.getD 0, c.stealKnot, none⟩] ∧
      t.eng.readAt (.mem (a + 16 * g.record.getD 0)) 16 = mergeRecord n l c g run := by
  obtain ⟨sc, hexec⟩ := exec_mergeSegmentDone_of_readable (w := w) (d := d) hmerge hcur hbank hrow
  have hsp := s.eng.sp_mergeReady n w d sc
  have hdone := Engine.mergeDone_thief (e := s.eng.mergeReady n w d sc) (by rw [hsp]; exact hmerge) (by rw [hsp]; exact hcur) howner
    (by rw [hsp]; exact hfail)
  rw [Engine.segRows_mergeReady, hrun] at hdone
  obtain ⟨hnep, hrecs, hbytes⟩ := Engine.mergedAway_recorded (e := s.eng.mergeReady n w d sc) (n := n) (l := l) (g := g) run ha
    (g.record.getD 0) (mergeRecord n l c g run)
  rw [hsp] at hnep hrecs
  have hread := readAt_mem_writeBytes hmem hbytes
  rw [length_mergeRecord] at hread
  rw [← hdone] at hnep hrecs hread
  refine ⟨_, hexec, rfl, ?_, ?_, ?_⟩
  · rw [State.onEng_eng]
    exact hnep
  · rw [State.onEng_eng]
    exact hrecs
  · rw [State.onEng_eng]
    exact hread

end

/-- Settles O55: the search, the end of a segment at its owner and at a thief, and the steals of the lanes. -/
theorem lanesMergeAndSteal : Obligations.LanesMergeAndSteal := by
  intro n l s hwf
  refine ⟨fun g hcur => exec_searchDone_of_searching hwf hcur, ?_, ?_, exec_laneStealRequest_of_mayAsk hwf, exec_laneStealDecide_of_asked hwf,
    fun c g gs => exec_laneStealAnswer_of_granted hwf, exec_laneStealAnswer_of_refusedFirst hwf, exec_laneStealAnswer_of_refusedSecond hwf,
    exec_laneStealRetry_of_waiting hwf⟩
  · intro c g w d r hmerge hcur hbank howner hrow hlive
    exact exec_mergeSegmentDone_of_unreadable hmerge hcur hbank howner hrow hlive
  · intro c g w d hmerge hcur hbank hrow
    refine ⟨fun y q howner hgood hy hq => ?_, fun y o howner hbad hy hended => ?_, fun a howner hfail ha _ hmem => ?_⟩
    · obtain ⟨t, z, ht, hsec, hcreel, hwork, hlane, hz, hnep, hended, hsparse⟩ :=
        exec_mergeSegmentDone_of_ascending (w := w) (d := d) hmerge hcur hbank hrow rfl hwf howner hgood hy hq
      exact ⟨t, z, ht, hsec, hcreel, congrArg WorkCnt.nep hwork, congrArg WorkCnt.whorlStall hwork, congrArg WorkCnt.drainStall hwork, hlane,
        hz, hnep, hended, hsparse⟩
    · exact exec_mergeSegmentDone_of_descending hmerge hcur hbank hrow rfl howner hbad hy hended
    · exact exec_mergeSegmentDone_of_thief hmerge hcur hbank hrow rfl howner hfail ha hmem

end Sys2Proof.Machine
end

section
/-! PROOFS. Sparse matching (06_sparse_matching) around the ring: requests, answers, records and notices of abandonment (R181 to R185). -/

namespace Sys2Proof.Machine

/-! ## The fullest lane of a victim (R182) -/

/-- A row of a canonical table is found under its key. -/
theorem Tab.get?_of_mem {α : Type} [DecidableEq α] {d : α} {t : Tab α} {l : Option Nat} (h : Tab.okFrom d l t = true) {p : Nat × α} (hp : p ∈ t) :
    Tab.get? t p.1 = some p.2 := by
  induction t generalizing l with
  | nil => cases hp
  | cons q t ih =>
    simp only [okFrom, Bool.and_eq_true] at h
    rcases List.mem_cons.mp hp with rfl | hp
    · simp [get?]
    · have hfound := ih h.2 hp
      have hne : q.1 ≠ p.1 := fun hk => by
        rw [get?_below t h.2 hk.ge] at hfound
        cases hfound
      simpa [get?, hne] using hfound

theorem Tab.mem_of_get? {α : Type} {t : Tab α} {k : Nat} {v : α} (h : Tab.get? t k = some v) : (k, v) ∈ t := by
  induction t with
  | nil => cases h
  | cons q t ih =>
    simp only [get?] at h
    split at h
    · next hk =>
      cases h
      rw [← hk]
      exact List.mem_cons_self
    · exact List.mem_cons_of_mem q (ih h)

/-- The number that the search for the fullest lane ends with bounds every lane, and belongs to its lane or is the one it began with. -/
theorem fullest_foldl (ls : List (Nat × Lane)) (b : Nat × Nat) :
    let r := ls.foldl (fun best p => if best.2 < p.2.unstarted.length then (p.1, p.2.unstarted.length) else best) b
    (∀ p ∈ ls, p.2.unstarted.length ≤ r.2) ∧ b.2 ≤ r.2 ∧ (r = b ∨ ∃ p ∈ ls, r = (p.1, p.2.unstarted.length)) := by
  induction ls generalizing b with
  | nil => simp
  | cons q ls ih =>
    intro r
    obtain ⟨hall, hb, hr⟩ := ih (if b.2 < q.2.unstarted.length then (q.1, q.2.unstarted.length) else b)
    rw [← List.foldl_cons] at hall hb hr
    change ∀ p ∈ ls, _ ≤ r.2 at hall
    change _ ≤ r.2 at hb
    have hq : q.2.unstarted.length ≤ r.2 ∧ b.2 ≤ r.2 := by
      split at hb
      · next hlt => exact ⟨hb, hlt.le.trans hb⟩
      · next hle => exact ⟨(Nat.le_of_not_lt hle).trans hb, hb⟩
    refine ⟨List.forall_mem_cons.mpr ⟨hq.1, hall⟩, hq.2, ?_⟩
    rcases hr with hr | ⟨p, hp, hr⟩
    · split at hr
      · exact .inr ⟨q, List.mem_cons_self, hr⟩
      · exact .inl hr
    · exact .inr ⟨p, List.mem_cons_of_mem q hp, hr⟩

theorem Spindle.unstarted_fullestLane {v : Spindle} (hwf : Tab.wf {} v.lanes = true) :
    (v.lane v.fullestLane.1).unstarted.length = v.fullestLane.2 := by
  obtain ⟨hall, -, hr⟩ := fullest_foldl v.lanes (0, 0)
  change ∀ p ∈ v.lanes, _ ≤ v.fullestLane.2 at hall
  change v.fullestLane = _ ∨ ∃ p ∈ v.lanes, v.fullestLane = _ at hr
  have hlane {p : Nat × Lane} (hp : p ∈ v.lanes) : v.lane p.1 = p.2 := by
    rw [lane, Tab.getD, Tab.get?_of_mem hwf hp, Option.getD_some]
  rcases hr with hr | ⟨p, hp, hr⟩
  · rw [hr] at hall ⊢
    cases hfound : Tab.get? v.lanes 0 with
    | none => rw [lane, Tab.getD, hfound]; rfl
    | some x =>
      rw [lane, Tab.getD, hfound]
      exact Nat.le_zero.mp (hall _ (Tab.mem_of_get? hfound))
  · rw [hr, hlane hp]

/-! ## A victim's decision (R181, R182) -/

/-- Record numbers apart, an owner grants the segments as they are (R182). -/
theorem numberSegs_unnumbered (gs : List Seg) (k : Nat) :
    (numberSegs k gs).map (fun g => { g with record := none }) = gs.map fun g => { g with record := none } := by
  induction gs generalizing k with
  | nil => rfl
  | cons g gs ih =>
    unfold numberSegs
    split <;> rw [List.map_cons, List.map_cons, ih]

/-- The segments that the job of a merge has granted; as many as it may, where the job is not at work. -/
def Engine.grantedOf (e : Engine) (c : MergeCtx) : Nat :=
  match e.jobId? (spOf c.owner) c.job with
  | some x => (match x.sparse with | some q => q.granted.length | none => 4096)
  | none => 4096

theorem Engine.grantedOf_eq (e : Engine) (c : MergeCtx) :
    e.grantedOf c = match (e.jobId? (spOf c.owner) c.job).bind fun x => x.sparse with | some q => q.granted.length | none => 4096 := by
  unfold grantedOf
  cases e.jobId? (spOf c.owner) c.job <;> rfl

/-- The segments that spindle m may give of its fullest lane (R182). -/
def Engine.ringShare (e : Engine) (m : Sp) (c : MergeCtx) : Nat :=
  let u := (e.sp m).fullestLane.2
  min (min (u - u / 2) 64) (if c.owner == m.val then 4096 - e.grantedOf c else 64)

/-- Spindle m gives nothing of merge c to spindle n (R181, R182, R185). -/
def Engine.ringRefuses (e : Engine) (n m : Sp) (c : MergeCtx) : Bool :=
  let v := e.sp m
  !c.ringSteal || !v.ringEn || v.abandons.contains (c.owner, c.job) || e.conf.clientOf m != e.conf.clientOf n || e.ringShare m c == 0 ||
    (e.sp n).merge.isSome || (!(c.owner == m.val) && c.giver == n.val)

/-- The segments that spindle m gives, numbered by the job that first grants them. -/
def Engine.ringGiven (e : Engine) (m : Sp) (c : MergeCtx) : List Seg :=
  let un := ((e.sp m).lane (e.sp m).fullestLane.1).unstarted
  numberSegs (e.grantedOf c) (un.drop (un.length - e.ringShare m c))

/-- A victim that keeps `keep` of the segments of lane l and gives k of them (R182). -/
def Spindle.gives (s : Spindle) (l : Nat) (keep : List Seg) (k : Nat) : Spindle :=
  { (s.modLane l fun x => { x with unstarted := keep }) with work := { s.work with stealOut := satAdd s.work.stealOut k } }

theorem Spindle.unstarted_gives {s : Spindle} (hwf : Tab.wf {} s.lanes = true) (l : Nat) (keep : List Seg) (k : Nat) :
    ((s.gives l keep k).lane l).unstarted = keep := congrArg Lane.unstarted (lane_modLane hwf l fun x => { x with unstarted := keep })

theorem Spindle.lane_with_jobs (s : Spindle) (js : List Job) (l : Nat) : ({ s with jobs := js }).lane l = s.lane l := rfl

/-- Spindle m after it took its share off its fullest lane. -/
def Engine.ringKept (e : Engine) (m : Sp) (c : MergeCtx) : Spindle :=
  let un := ((e.sp m).lane (e.sp m).fullestLane.1).unstarted
  (e.sp m).gives (e.sp m).fullestLane.1 (un.take (un.length - e.ringShare m c)) (e.ringShare m c)

/-- Victim m has taken its share off its fullest lane, and counts what its own job granted. -/
def Engine.ringTaken (e : Engine) (m : Sp) (c : MergeCtx) : Engine :=
  let e1 := e.modSp m fun _ => e.ringKept m c
  if c.owner == m.val then
    e1.modJob m c.job fun x => { x with sparse := x.sparse.map fun sp =>
      { sp with granted := sp.granted ++ (e.ringGiven m c).map (fun g => (g.record.getD 0, g.output))
                outstanding := (e.ringGiven m c).foldl (fun t g => Tab.put t 0 g.output (Tab.getD t g.output 0 - 1)) sp.outstanding } }
  else e1

theorem Engine.ringDecide_of_merge {e : Engine} {n m : Sp} {c : MergeCtx} (h : (e.sp m).merge = some c) :
    e.ringDecide n m = if e.ringRefuses n m c then e.modSp n fun s => { s with ringAnswer := some none }
      else ((e.ringTaken m c).modSp n fun s =>
        { s with ringAnswer := some (some ({ c with rowsA := [], rowsB := [], whorl := [], giver := m.val }, e.ringGiven m c)) }).thiefIdle m := by
  unfold ringDecide
  simp only [h]
  rfl

section
variable {e : Engine} {n m : Sp} {c : MergeCtx} (hm : m ≠ n) (h : (e.sp m).merge = some c)

include hm in
/-- A decision leaves the request of the spindle that asked. -/
theorem Engine.ringSteal_ringDecide : ((e.ringDecide n m).sp n).ringSteal = (e.sp n).ringSteal := by
  cases h : (e.sp m).merge with
  | none =>
    unfold ringDecide
    simp only [h]
    rw [sp_modSp]
  | some c =>
    rw [ringDecide_of_merge h]
    split
    · rw [sp_modSp]
    · rw [(thiefIdle_changes _ m).sp_ne hm.symm, sp_modSp, ringTaken]
      split
      · rw [modJob, sp_modSp_ne _ hm.symm, sp_modSp_ne _ hm.symm]
      · rw [sp_modSp_ne _ hm.symm]

include h

theorem Engine.ringAnswer_ringDecide_of_refuses (hr : e.ringRefuses n m c = true) :
    ((e.ringDecide n m).sp n).ringAnswer = some none := by
  rw [ringDecide_of_merge h, if_pos hr, sp_modSp]

include hm

theorem Engine.ringAnswer_ringDecide_of_grants (hr : e.ringRefuses n m c = false) :
    ((e.ringDecide n m).sp n).ringAnswer = some (some ({ c with rowsA := [], rowsB := [], whorl := [], giver := m.val }, e.ringGiven m c)) := by
  rw [ringDecide_of_merge h, if_neg (by rw [hr]; decide), (thiefIdle_changes _ m).sp_ne hm.symm, sp_modSp]

omit hm h in
theorem Engine.sp_ringTaken : ∃ js, (e.ringTaken m c).sp m = { (e.ringKept m c) with jobs := js } := by
  unfold ringTaken
  dsimp only
  split
  · rw [modJob, sp_modSp, sp_modSp]
    exact ⟨_, rfl⟩
  · rw [sp_modSp]
    exact ⟨_, rfl⟩

omit hm h in
theorem Engine.merge_ringTaken : ((e.ringTaken m c).sp m).merge = (e.sp m).merge := by
  obtain ⟨js, htaken⟩ := sp_ringTaken (e := e) (m := m) (c := c)
  rw [htaken]
  rfl

theorem Engine.sp_ringDecide_of_grants (hwf : Tab.wf {} (e.sp m).lanes = true) (hr : e.ringRefuses n m c = false) :
    ((e.ringDecide n m).sp m).work.stealOut = satAdd (e.sp m).work.stealOut (e.ringShare m c) ∧
      (c.owner = m.val → (((e.ringDecide n m).sp m).lane (e.sp m).fullestLane.1).unstarted =
        ((e.sp m).lane (e.sp m).fullestLane.1).unstarted.take (((e.sp m).lane (e.sp m).fullestLane.1).unstarted.length - e.ringShare m c)) := by
  obtain ⟨js, htaken⟩ := sp_ringTaken (e := e) (m := m) (c := c)
  rw [ringDecide_of_merge h, if_neg (by rw [hr]; decide)]
  set e' := (e.ringTaken m c).modSp n _ with he'
  have hsp : e'.sp m = (e.ringTaken m c).sp m := sp_modSp_ne _ hm _
  constructor
  · obtain ⟨mg, ls, js, hidle, -⟩ := (thiefIdle_changes e' m).sp
    rw [hidle, hsp, htaken]
    rfl
  · intro hown
    have hidle : e'.thiefIdle m = e' := by
      unfold thiefIdle
      rw [hsp, merge_ringTaken, h]
      exact if_neg fun hc => hc.1 hown
    rw [hidle, hsp, htaken, Spindle.lane_with_jobs]
    exact Spindle.unstarted_gives hwf ..

end

/-- What a victim refuses, as R181 and R182 list it. -/
theorem Engine.ringRefuses_eq_false_iff {e : Engine} {n m : Sp} {c : MergeCtx} (hidle : (e.sp n).merge = none) :
    e.ringRefuses n m c = false ↔ c.ringSteal = true ∧ (e.sp m).ringEn = true ∧ (c.owner, c.job) ∉ (e.sp m).abandons ∧
      e.conf.clientOf m = e.conf.clientOf n ∧ e.ringShare m c ≠ 0 ∧ (c.owner = m.val ∨ c.giver ≠ n.val) := by
  unfold ringRefuses
  simp only [hidle, Bool.or_eq_false_iff, Bool.not_eq_false', Bool.and_eq_false_imp, Bool.not_eq_true', beq_eq_false_iff_ne, bne_eq_false_iff_eq,
    List.contains_eq_mem, decide_eq_false_iff_not, Option.isSome_none, and_true, and_assoc, or_iff_not_imp_left]

/-- A decision does as R182 says. -/
theorem ringAsked_ringDecide (s : State) {n m : Sp} (hm : m ≠ n) (hidle : (s.eng.sp n).merge = none) :
    ringAsked s (s.onEng fun e => e.ringDecide n m) n m := by
  cases h : (s.eng.sp m).merge with
  | none =>
    unfold ringAsked
    simp only [h]
    rw [State.onEng_eng]
    unfold Engine.ringDecide
    simp only [h]
    rw [Engine.sp_modSp]
  | some c =>
    have hgoal : Tab.wf {} (s.eng.sp m).lanes = true →
        let l := (s.eng.sp m).fullestLane.1
        let un := ((s.eng.sp m).lane l).unstarted
        let k := s.eng.ringShare m c
        let t := s.onEng fun e => e.ringDecide n m
        if s.eng.ringRefuses n m c = false then
          ∃ segs : List Seg, (t.eng.sp n).ringAnswer = some (some ({ c with rowsA := [], rowsB := [], whorl := [], giver := m.val }, segs)) ∧
            segs.map (fun g => { g with record := none }) = (un.drop (un.length - k)).map (fun g => { g with record := none }) ∧
            (t.eng.sp m).work.stealOut = satAdd (s.eng.sp m).work.stealOut k ∧
            (c.owner = m.val → (laneAt t m l).unstarted = un.take (un.length - k))
        else (t.eng.sp n).ringAnswer = some none := by
      intro hwf l un k t
      split
      · next hr =>
        obtain ⟨hout, hkept⟩ := Engine.sp_ringDecide_of_grants hm h hwf hr
        exact ⟨_, Engine.ringAnswer_ringDecide_of_grants hm h hr, numberSegs_unnumbered _ _, hout, hkept⟩
      · next hr => exact Engine.ringAnswer_ringDecide_of_refuses h (by simpa using hr)
    unfold ringAsked
    simp only [h]
    intro hwf
    have hshare (g : Nat) (hg : s.eng.grantedOf c = g) : s.eng.ringShare m c =
        min (min (((s.eng.sp m).lane (s.eng.sp m).fullestLane.1).unstarted.length -
          ((s.eng.sp m).lane (s.eng.sp m).fullestLane.1).unstarted.length / 2) 64) (if c.owner = m.val then 4096 - g else 64) := by
      rw [Spindle.unstarted_fullestLane hwf, Engine.ringShare, hg]
      simp only [beq_iff_eq]
    have hgranted := s.eng.grantedOf_eq c
    simp only [Engine.ringRefuses_eq_false_iff hidle] at hgoal
    cases hb : (s.eng.jobId? (spOf c.owner) c.job).bind fun x => x.sparse with
    | none =>
      simp only [hb] at hgranted ⊢
      rw [← hshare 4096 hgranted]
      exact hgoal hwf
    | some q =>
      simp only [hb] at hgranted ⊢
      rw [← hshare _ hgranted]
      exact hgoal hwf

theorem ringAsked_congr {s s' t : State} {n m : Sp} (hsp : s'.eng.sp m = s.eng.sp m) (hconf : s'.eng.conf = s.eng.conf)
    (hjob : ∀ k id, s'.eng.jobId? k id = s.eng.jobId? k id) (h : ringAsked s' t n m) : ringAsked s t n m := by
  unfold ringAsked at h ⊢
  simpa only [hsp, hconf, hjob] using h

/-- A spindle that is idle asks its neighbour; a change of its own request comes first. -/
theorem ringAsked_of_idle (s : State) {n m : Sp} (hm : m ≠ n) (hidle : (s.eng.sp n).merge = none) (f : Spindle → Spindle)
    (hmerge : ∀ sp, (f sp).merge = sp.merge) (hjobs : ∀ sp, (f sp).jobs = sp.jobs) :
    let t := s.onEng fun e => (e.modSp n f).ringDecide n m
    ringAsked s t n m ∧ (t.eng.sp n).ringSteal = (f (s.eng.sp n)).ringSteal := by
  intro t
  have hidle' : ((s.onEng fun e => e.modSp n f).eng.sp n).merge = none := by rw [State.onEng_eng, Engine.sp_modSp, hmerge, hidle]
  constructor
  · refine ringAsked_congr ?_ ?_ ?_ (ringAsked_ringDecide (s.onEng fun e => e.modSp n f) hm hidle')
    · rw [State.onEng_eng, Engine.sp_modSp_ne _ hm]
    · rfl
    · intro k id
      rw [State.onEng_eng, Engine.jobId?, Engine.jobId?]
      by_cases hk : k = n
      · rw [hk, Engine.sp_modSp, hjobs]
      · rw [Engine.sp_modSp_ne _ hk]
  · rw [State.onEng_eng, Engine.ringSteal_ringDecide hm, Engine.sp_modSp]

/-! ## Requests and answers of a thief (R182) -/

theorem ring_next_ne (n : Sp) : n + 1 ≠ n := by
  revert n
  decide

theorem ring_previous_ne (n : Sp) : n + 31 ≠ n := by
  revert n
  decide

theorem Engine.merge_of_mayRingSteal {e : Engine} {n : Sp} (h : e.mayRingSteal n = true) : (e.sp n).merge = none := by
  simp only [mayRingSteal, Bool.and_eq_true, Option.isNone_iff_eq_none] at h
  tauto

/-- A thief's spindle when a grant arrives: the segments are the work of lane 0. -/
def Spindle.takesGrant (s : Spindle) (c : MergeCtx) (segs : List Seg) : Spindle :=
  let s1 := { s with ringAnswer := none, ringSteal := .idle, merge := some c, lanes := [], work := { s.work with stealIn := satAdd s.work.stealIn segs.length } }
  s1.modLane 0 fun x => ({ x with unstarted := segs } : Lane).takeUp c

section
variable {n : Sp} {s : State}

theorem exec_ringStealRequest_of_idle (hmay : s.eng.mayRingSteal n = true) (hidle : (s.eng.sp n).ringSteal = .idle)
    (hanswer : (s.eng.sp n).ringAnswer = none) :
    ∃ t, exec (.ringStealRequest n) s = .next t ∧ t.sec = s.sec ∧ (t.eng.sp n).ringSteal = .askedFirst ∧ ringAsked s t n (n + 1) := by
  obtain ⟨hasked, hsteal⟩ := ringAsked_of_idle s (ring_next_ne n) (Engine.merge_of_mayRingSteal hmay)
    (fun s => { s with ringSteal := .askedFirst }) (fun _ => rfl) fun _ => rfl
  have hexec : exec (.ringStealRequest n) s = .next (s.onEng fun e => (e.modSp n fun s => { s with ringSteal := .askedFirst }).ringDecide n (n + 1)) := by
    refine congrArg (fun e => Host.Outcome.next { s with eng := e }) (if_pos ?_)
    rw [hmay, hidle, hanswer]
    rfl
  exact ⟨_, hexec, rfl, hsteal, hasked⟩

theorem exec_ringStealRetry_of_waiting (hwaiting : (s.eng.sp n).ringSteal = .waiting) :
    ∃ t, exec (.ringStealRetry n) s = .next t ∧ t.sec = s.sec ∧ (t.eng.sp n).ringSteal = (if s.eng.mayRingSteal n then .askedFirst else .idle) ∧
      (s.eng.mayRingSteal n = true → ringAsked s t n (n + 1)) := by
  have hexec : exec (.ringStealRetry n) s = .next (s.onEng fun e =>
      if s.eng.mayRingSteal n then (e.modSp n fun s => { s with ringSteal := .askedFirst }).ringDecide n (n + 1)
      else e.modSp n fun s => { s with ringSteal := .idle }) := by
    refine congrArg (fun e => Host.Outcome.next { s with eng := e }) (if_pos ?_)
    rw [hwaiting]
    rfl
  refine ⟨_, hexec, rfl, ?_⟩
  by_cases hmay : s.eng.mayRingSteal n = true
  · obtain ⟨hasked, hsteal⟩ := ringAsked_of_idle s (ring_next_ne n) (Engine.merge_of_mayRingSteal hmay)
      (fun s => { s with ringSteal := .askedFirst }) (fun _ => rfl) fun _ => rfl
    simp only [hmay, if_true]
    exact ⟨hsteal, fun _ => hasked⟩
  · simp only [hmay, Bool.false_eq_true, if_false]
    exact ⟨congrArg Spindle.ringSteal (Engine.sp_modSp ..), nofun⟩

theorem exec_ringStealAnswer_of_granted {c : MergeCtx} {segs : List Seg} (hanswer : (s.eng.sp n).ringAnswer = some (some (c, segs))) :
    ∃ t, exec (.ringStealAnswer n) s = .next t ∧ t.sec = s.sec ∧ (t.eng.sp n).ringAnswer = none ∧ (t.eng.sp n).ringSteal = .idle ∧
      (t.eng.sp n).merge = some c ∧ (t.eng.sp n).work.stealIn = satAdd (s.eng.sp n).work.stealIn segs.length ∧
      unread (laneAt t n 0) = unread (({ unstarted := segs } : Lane).takeUp c) ∧ (∀ m : Sp, m ≠ n → t.eng.sp m = s.eng.sp m) := by
  have hexec : exec (.ringStealAnswer n) s = .next (s.onEng fun e => (e.modSp n fun s => s.takesGrant c segs).thiefAdvance n) := by
    refine congrArg (fun e => Host.Outcome.next { s with eng := e }) ?_
    simp only [hanswer]
    rfl
  have hreads := Engine.Reads.thiefAdvance n (s.eng.modSp n fun s => s.takesGrant c segs)
  have hwf : Tab.wf {} ((s.eng.sp n).takesGrant c segs).lanes = true := Spindle.wf_modLane (by rfl) 0 _
  obtain ⟨⟨ls, ts, xs, k, w, hsp⟩, -⟩ := hreads.sp
  rw [Engine.sp_modSp] at hsp
  refine ⟨_, hexec, rfl, ?_, ?_, ?_, ?_, ?_, fun m hm => ?_⟩
  · rw [State.onEng_eng, hsp]; rfl
  · rw [State.onEng_eng, hsp]; rfl
  · rw [State.onEng_eng, hsp]; rfl
  · rw [State.onEng_eng, hsp]; rfl
  · rw [unread_laneAt_thiefAdvance hwf]
    exact congrArg unread (Spindle.lane_modLane (by rfl) 0 _)
  · rw [State.onEng_eng, hreads.sp_ne hm, Engine.sp_modSp_ne _ hm]

theorem exec_ringStealAnswer_of_refusedFirst (hanswer : (s.eng.sp n).ringAnswer = some none) (hasked : (s.eng.sp n).ringSteal = .askedFirst) :
    ∃ t, exec (.ringStealAnswer n) s = .next t ∧ t.sec = s.sec ∧
      (t.eng.sp n).ringSteal = (if s.eng.mayRingSteal n then .askedSecond else .idle) ∧
      (s.eng.mayRingSteal n = false → (t.eng.sp n).ringAnswer = none) ∧ (s.eng.mayRingSteal n = true → ringAsked s t n (n + 31)) := by
  have hexec : exec (.ringStealAnswer n) s = .next (s.onEng fun e =>
      if s.eng.mayRingSteal n then (e.modSp n fun s => { s with ringAnswer := none, ringSteal := .askedSecond }).ringDecide n (n + 31)
      else e.modSp n fun s => { s with ringAnswer := none, ringSteal := .idle }) := by
    refine congrArg (fun e => Host.Outcome.next { s with eng := e }) ?_
    simp only [hanswer, hasked, if_true, Engine.modSp_modSp]
  refine ⟨_, hexec, rfl, ?_⟩
  by_cases hmay : s.eng.mayRingSteal n = true
  · obtain ⟨hvictim, hsteal⟩ := ringAsked_of_idle s (ring_previous_ne n) (Engine.merge_of_mayRingSteal hmay)
      (fun s => { s with ringAnswer := none, ringSteal := .askedSecond }) (fun _ => rfl) fun _ => rfl
    simp only [hmay, if_true]
    exact ⟨hsteal, nofun, fun _ => hvictim⟩
  · simp only [hmay, Bool.false_eq_true, if_false]
    exact ⟨congrArg Spindle.ringSteal (Engine.sp_modSp ..), fun _ => congrArg Spindle.ringAnswer (Engine.sp_modSp ..), nofun⟩

theorem exec_ringStealAnswer_of_refusedSecond (hanswer : (s.eng.sp n).ringAnswer = some none) (hasked : (s.eng.sp n).ringSteal = .askedSecond) :
    ∃ t, exec (.ringStealAnswer n) s = .next t ∧ t.sec = s.sec ∧ t.eng.sp n = { s.eng.sp n with ringAnswer := none, ringSteal := .waiting } := by
  have hexec : exec (.ringStealAnswer n) s = .next (s.onEng fun e => e.modSp n fun s => { s with ringAnswer := none, ringSteal := .waiting }) := by
    refine congrArg (fun e => Host.Outcome.next { s with eng := e }) ?_
    simp only [hanswer, hasked, reduceCtorEq, if_false, Engine.modSp_modSp]
  exact ⟨_, hexec, rfl, Engine.sp_modSp ..⟩

theorem exec_ringRecordWriteAck_of_acked {r : RingRec}
    (hacked : ((s.eng.sp n).ringRecs.find? fun r => r.held.isNone && !(s.eng.sp n).waitsFor thiefJob (wRecord r.record)) = some r) :
    exec (.ringRecordWriteAck n) s = .next (s.onEng fun e =>
      (e.modSp n fun s => { s with ringRecs := s.ringRecs.erase r }).knotIssue (.spindle n.val) r.knot .add 1) := by
  refine congrArg (fun e => Host.Outcome.next { s with eng := e }) ?_
  simp only [Spindle.ackedRecord, hacked]

end

/-! ## Records of a thief (R183, R185) -/

/-- Which segment a thief's record is of: owner, job, record number and knot. -/
def RingRec.key (r : RingRec) : Nat × Nat × Nat × Nat := (r.owner, r.job, r.record, r.knot)

theorem Engine.jobLive_of_still {e e' : Engine} {n : Sp} (h : (e'.still n).jobs = (e.still n).jobs) (id : Nat) : e'.jobLive n id = e.jobLive n id := by
  have hlive (e : Engine) : e.jobLive n id = ((e.still n).jobs.find? fun x => x.id == id).any fun x => x.ended.isNone := by
    rw [jobId?_still, jobLive]
    cases e.jobId? n id <;> rfl
  rw [hlive, h, hlive e]

theorem Engine.jobLive_modSp (e : Engine) (n : Sp) (f : Spindle → Spindle) (hf : ∀ s, (f s).jobs = s.jobs) (m : Sp) (id : Nat) :
    (e.modSp n f).jobLive m id = e.jobLive m id := by
  refine jobLive_of_still ?_ id
  by_cases hm : m = n
  · rw [hm, still, sp_modSp, Spindle.still, hf]
    rfl
  · rw [still, sp_modSp_ne e hm, ← still]

theorem Engine.fault_of_not_jobLive {e : Engine} {n : Sp} {id : Nat} (h : e.jobLive n id = false) (c d w : Nat) : e.fault n id c d w = e := by
  unfold fault stopJob
  unfold jobLive at h
  cases hx : e.jobId? n id with
  | none => rfl
  | some x =>
    simp only [hx] at h
    exact if_pos (by simpa using h)

/-- Accesses apart, the engine after is the engine before, but that spindle n has records of the segments `ks` more. -/
def Engine.AddsRecs (n : Sp) (ks : List (Nat × Nat × Nat × Nat)) (e e' : Engine) : Prop :=
  (∀ m, m ≠ n → e'.still m = e.still m) ∧
  ∃ rs, e'.still n = { e.still n with ringRecs := rs } ∧ rs.map RingRec.key = (e.sp n).ringRecs.map RingRec.key ++ ks

section
variable {n : Sp} {ks ks' : List (Nat × Nat × Nat × Nat)} {e e' e'' : Engine}

theorem Engine.AddsRecs.of_still (h : ∀ m, e'.still m = e.still m) : AddsRecs n [] e e' :=
  ⟨fun m _ => h m, (e.sp n).ringRecs, h n, (List.append_nil _).symm⟩

theorem Engine.AddsRecs.refl (n : Sp) (e : Engine) : AddsRecs n [] e e := .of_still fun _ => rfl

theorem Engine.AddsRecs.recs (h : AddsRecs n ks e e') : (e'.sp n).ringRecs.map RingRec.key = (e.sp n).ringRecs.map RingRec.key ++ ks := by
  obtain ⟨-, rs, hn, hrs⟩ := h
  rw [← hrs, ← ringRecs_still e' n, hn]

theorem Engine.AddsRecs.trans (h : AddsRecs n ks e e') (h' : AddsRecs n ks' e' e'') : AddsRecs n (ks ++ ks') e e'' := by
  have hrecs := h.recs
  obtain ⟨hne, rs, hn, -⟩ := h
  obtain ⟨hne', rs', hn', hrs'⟩ := h'
  refine ⟨fun m hm => (hne' m hm).trans (hne m hm), rs', ?_, ?_⟩
  · rw [hn', hn]
  · rw [hrs', hrecs, List.append_assoc]

theorem Engine.AddsRecs.of_modSp (f : Spindle → Spindle) (rs : List RingRec) (hf : (f (e.sp n)).still = { (e.sp n).still with ringRecs := rs })
    (hrs : rs.map RingRec.key = (e.sp n).ringRecs.map RingRec.key ++ ks) : AddsRecs n ks e (e.modSp n f) := by
  refine ⟨fun m hm => ?_, rs, ?_, hrs⟩
  · rw [still, sp_modSp_ne e hm, ← still]
  · rw [still, sp_modSp, hf, ← still]

theorem Engine.AddsRecs.jobLive (h : AddsRecs n ks e e') (m : Sp) (id : Nat) : e'.jobLive m id = e.jobLive m id := by
  obtain ⟨hne, rs, hn, -⟩ := h
  refine jobLive_of_still ?_ id
  by_cases hm : m = n
  · rw [hm, hn]
  · rw [hne m hm]

end

/-- Records that go on are records of the same segments. -/
theorem Engine.pushRecords_addsRecs (n : Sp) (t fuel : Nat) (e : Engine) : AddsRecs n [] e (e.pushRecords n t fuel) := by
  induction fuel generalizing e with
  | zero => exact .refl n e
  | succ fuel ih =>
    unfold pushRecords
    split
    · split
      · exact .refl n e
      · split
        · refine .trans (ks := []) (.trans (ks := []) (.of_modSp _ _ (by rfl) ?_) (.of_still fun m => still_putJob ..)) (ih _)
          rw [List.map_map, List.append_nil]
          refine List.map_congr_left fun r _ => ?_
          dsimp only [Function.comp]
          split <;> rfl
        · split
          · exact .refl n e
          · exact .of_still fun m => still_of_spindles rfl m
    · exact .refl n e

/-- The record of a segment whose job has ended stands among the thief's records (R183, R185). -/
theorem Engine.writeRecord_addsRecs {e : Engine} {c : MergeCtx} (hgone : e.jobLive (spOf c.owner) c.job = false) (n : Sp) (k : Nat) (bs : List Byte) :
    AddsRecs n [(c.owner, c.job, k, c.stealKnot)] e (e.writeRecord n c k bs) := by
  have hadd (held : Option (Nat × Nat × List Byte)) : AddsRecs n [(c.owner, c.job, k, c.stealKnot)] e
      (e.modSp n fun s => { s with ringRecs := s.ringRecs ++ [⟨c.owner, c.job, k, c.stealKnot, held⟩] }) := by
    refine .of_modSp _ _ (by rfl) ?_
    rw [List.map_append]
    rfl
  unfold writeRecord
  dsimp only
  split
  · rw [fault_of_not_jobLive (((hadd none).jobLive _ _).trans hgone)]
    exact hadd none
  · exact ((hadd _).trans (ks' := []) (.of_still fun m => still_lookUp ..)).trans (ks' := []) (pushRecords_addsRecs ..)
  · exact (hadd _).trans (ks' := []) (.of_still fun m => still_putJob ..)

theorem Engine.voidRecords_addsRecs {c : MergeCtx} (n : Sp) (segs : List (Nat × Seg)) {e : Engine}
    (hgone : e.jobLive (spOf c.owner) c.job = false) :
    AddsRecs n (segs.map fun p => (c.owner, c.job, p.2.record.getD 0, c.stealKnot)) e (e.voidRecords n c segs) := by
  induction segs generalizing e with
  | nil => exact .refl n e
  | cons p segs ih =>
    have hfirst := writeRecord_addsRecs hgone n (p.2.record.getD 0) (stealRecord p.2.output (64 * n.val + p.1) 1 0 0 0)
    exact hfirst.trans (ih ((hfirst.jobLive _ _).trans hgone))

theorem Engine.dropThief_addsRecs (e : Engine) (n : Sp) : AddsRecs n [] e (e.dropThief n) :=
  .of_still fun m => still_modSp e n m _ fun _ => by rfl

/-! ## Notices of abandonment (R185) -/

/-- Spindle n stops its work on the ring segments that its lanes hold of the jobs that `p` names. -/
def Engine.stopHeld (e : Engine) (n : Sp) (p : MergeCtx → Bool) : Engine :=
  match (e.sp n).merge with
  | some c =>
    if c.owner != n.val && p c then ((e.dropThief n).voidRecords n c (e.sp n).segments).modSp n fun s => { s with merge := none, lanes := [] } else e
  | none => e

/-- Spindle n stops its work on the ring segments on their way to it, of the jobs that `p` names. -/
def Engine.stopComing (e : Engine) (n : Sp) (p : MergeCtx → Bool) : Engine :=
  match (e.sp n).ringAnswer with
  | some (some (c, segs)) =>
    if p c then (e.voidRecords n c (segs.map fun g => (0, g))).modSp n fun s => { s with ringAnswer := none, ringSteal := .idle } else e
  | _ => e

theorem Engine.stopRing_eq (e : Engine) (n : Sp) (p : MergeCtx → Bool) : e.stopRing n p = ((e.stopHeld n p).stopComing n p).kickSparse n := rfl

theorem Engine.abandons_still (e : Engine) (n : Sp) : (e.still n).abandons = (e.sp n).abandons := rfl
theorem Engine.ringAnswer_still (e : Engine) (n : Sp) : (e.still n).ringAnswer = (e.sp n).ringAnswer := rfl

theorem Engine.AddsRecs.sp {n : Sp} {ks : List (Nat × Nat × Nat × Nat)} {e e' : Engine} (h : AddsRecs n ks e e') :
    (e'.sp n).abandons = (e.sp n).abandons ∧ (e'.sp n).ringAnswer = (e.sp n).ringAnswer := by
  obtain ⟨-, rs, hn, -⟩ := h
  rw [← abandons_still e', ← ringAnswer_still e', hn]
  exact ⟨rfl, rfl⟩

/-- Segments of a job that has ended become records. -/
theorem Engine.voidHeld_addsRecs {e : Engine} {c : MergeCtx} (n : Sp) (hgone : e.jobLive (spOf c.owner) c.job = false) :
    AddsRecs n ((e.sp n).segments.map fun p => (c.owner, c.job, p.2.record.getD 0, c.stealKnot)) e ((e.dropThief n).voidRecords n c (e.sp n).segments) :=
  (dropThief_addsRecs e n).trans (voidRecords_addsRecs n _ (((dropThief_addsRecs e n).jobLive _ _).trans hgone))

section
variable {e : Engine} {n : Sp} {p : MergeCtx → Bool} (hgone : ∀ c, p c = true → e.jobLive (spOf c.owner) c.job = false)
include hgone

theorem Engine.sp_stopHeld : ((e.stopHeld n p).sp n).abandons = (e.sp n).abandons ∧ ((e.stopHeld n p).sp n).ringAnswer = (e.sp n).ringAnswer := by
  unfold stopHeld
  split
  · next c hc =>
    split
    · next hp =>
      rw [sp_modSp]
      exact (voidHeld_addsRecs n (hgone c (Bool.and_eq_true_iff.mp hp).2)).sp
    · exact ⟨rfl, rfl⟩
  · exact ⟨rfl, rfl⟩

theorem Engine.jobLive_stopHeld (m : Sp) (id : Nat) : (e.stopHeld n p).jobLive m id = e.jobLive m id := by
  unfold stopHeld
  split
  · next c hc =>
    split
    · next hp =>
      rw [jobLive_modSp _ n _ fun _ => by rfl]
      exact (voidHeld_addsRecs n (hgone c (Bool.and_eq_true_iff.mp hp).2)).jobLive m id
    · rfl
  · rfl

theorem Engine.abandons_stopComing : ((e.stopComing n p).sp n).abandons = (e.sp n).abandons := by
  unfold stopComing
  split
  · next c segs hc =>
    split
    · next hp =>
      rw [sp_modSp]
      exact (voidRecords_addsRecs n _ (hgone c hp)).sp.1
    · rfl
  · rfl

/-- The segments that a thief's lanes hold of an abandoned job each become a record. -/
theorem Engine.recs_stopHeld {c : MergeCtx} (hmerge : (e.sp n).merge = some c) (hthief : c.owner ≠ n.val) (hp : p c = true) :
    ((e.stopHeld n p).sp n).ringRecs.map RingRec.key =
      (e.sp n).ringRecs.map RingRec.key ++ (e.sp n).segments.map fun p => (c.owner, c.job, p.2.record.getD 0, c.stealKnot) := by
  unfold stopHeld
  simp only [hmerge]
  rw [if_pos (by simp [hthief, hp]), sp_modSp]
  exact (voidHeld_addsRecs n (hgone c hp)).recs

end

theorem Engine.stopComing_of_none {e : Engine} {n : Sp} (p : MergeCtx → Bool) (h : ∀ g, (e.sp n).ringAnswer ≠ some (some g)) : e.stopComing n p = e := by
  unfold stopComing
  split
  · next c segs hc => exact absurd hc (h _)
  · rfl

theorem Engine.sp_kickSparse (e : Engine) (n : Sp) :
    ((e.kickSparse n).sp n).abandons = (e.sp n).abandons ∧ ((e.kickSparse n).sp n).ringRecs = (e.sp n).ringRecs := by
  obtain ⟨mg, ls, js, h, -⟩ := (kickSparse_changes e n).sp
  rw [h]
  exact ⟨rfl, rfl⟩

/-- A merge is of job id of spindle o. -/
def MergeCtx.isOf (o id : Nat) (c : MergeCtx) : Bool := c.owner == o && c.job == id

/-- A notice of abandonment of a job that has ended is taken, and the segments that the thief's lanes hold of it become records. -/
theorem exec_abandonNotice {n : Sp} {s : State} {o id : Nat} {rest : List (Nat × Nat)} (hnotice : (s.eng.sp n).abandons = (o, id) :: rest)
    (hended : s.eng.jobLive (spOf o) id = false) :
    ∃ t, exec (.abandonNotice n) s = .next t ∧ t.sec = s.sec ∧ (t.eng.sp n).abandons = rest ∧
      (∀ c : MergeCtx, (s.eng.sp n).merge = some c → c.owner = o → c.job = id → o ≠ n.val → (∀ p, (s.eng.sp n).ringAnswer ≠ some (some p)) →
        (t.eng.sp n).ringRecs.map RingRec.key =
          (s.eng.sp n).ringRecs.map RingRec.key ++ (s.eng.sp n).segments.map fun p => (o, id, p.2.record.getD 0, c.stealKnot)) := by
  have hexec : exec (.abandonNotice n) s = .next (s.onEng fun e => (e.modSp n fun s => { s with abandons := rest }).stopRing n (MergeCtx.isOf o id)) := by
    refine congrArg (fun e => Host.Outcome.next { s with eng := e }) ?_
    simp only [hnotice]
    rfl
  set e := s.eng.modSp n fun s => { s with abandons := rest } with he
  have hsp : e.sp n = { s.eng.sp n with abandons := rest } := Engine.sp_modSp ..
  have hgone (c : MergeCtx) (hc : c.isOf o id = true) : e.jobLive (spOf c.owner) c.job = false := by
    obtain ⟨rfl, rfl⟩ : c.owner = o ∧ c.job = id := by simpa [MergeCtx.isOf] using hc
    rw [he, Engine.jobLive_modSp _ n _ fun _ => by rfl, hended]
  have hgone' (c : MergeCtx) (hc : c.isOf o id = true) : (e.stopHeld n (MergeCtx.isOf o id)).jobLive (spOf c.owner) c.job = false :=
    (Engine.jobLive_stopHeld hgone _ _).trans (hgone c hc)
  refine ⟨_, hexec, rfl, ?_, ?_⟩
  · rw [State.onEng_eng, Engine.stopRing_eq, (Engine.sp_kickSparse _ n).1, Engine.abandons_stopComing hgone', (Engine.sp_stopHeld hgone).1, hsp]
  · intro c hmerge hown hjob hthief hcoming
    have hcoming' : ∀ g, ((e.stopHeld n (MergeCtx.isOf o id)).sp n).ringAnswer ≠ some (some g) := by
      rw [(Engine.sp_stopHeld hgone).2, hsp]
      exact hcoming
    rw [State.onEng_eng, Engine.stopRing_eq, (Engine.sp_kickSparse _ n).2, Engine.stopComing_of_none _ hcoming',
      Engine.recs_stopHeld hgone (c := c) (by rw [hsp]; exact hmerge) (by rwa [hown]) (by simp [MergeCtx.isOf, hown, hjob]), hsp, hown, hjob]
    rfl

/-- Settles O56: a victim gives its share of its fullest lane, a grant becomes the thief's own work, and an abandoned segment becomes a record. -/
theorem spindlesStealAroundTheRing : Obligations.SpindlesStealAroundTheRing := by
  unfold Obligations.SpindlesStealAroundTheRing
  intro n s sp
  exact ⟨exec_ringStealRequest_of_idle, fun c segs => exec_ringStealAnswer_of_granted, exec_ringStealAnswer_of_refusedFirst,
    exec_ringStealAnswer_of_refusedSecond, exec_ringStealRetry_of_waiting, fun r => exec_ringRecordWriteAck_of_acked,
    fun o id rest => exec_abandonNotice⟩

end Sys2Proof.Machine
end

section
/-! PROOFS. Sparse matching (06_sparse_matching): the passes of the sorter (R170, R171, R289) and the reduction of outputs (R183, R184, R186). -/

namespace Sys2Proof.Machine

/-! ## The sorter's place in an operand -/

/-- The sorter's places in the operands of the started jobs of spindle n. -/
def Engine.sorts (e : Engine) (n : Sp) : List (Nat × Option (List (List (Nat × Nat)) × Nat × Nat) × Option (List (List (Nat × Nat)) × Nat × Nat)) :=
  (e.sp n).jobs.map Job.sorts

theorem Engine.jobId?_sorts (e : Engine) (n : Sp) (id : Nat) : (e.sorts n).find? (fun v => v.1 == id) = (e.jobId? n id).map Job.sorts := by
  rw [sorts, List.find?_map]
  rfl

theorem Engine.jobId?_of_sorts {e e' : Engine} {n : Sp} {id : Nat} {x : Job} (h : e'.sorts n = e.sorts n) (hx : e.jobId? n id = some x) :
    ∃ y, e'.jobId? n id = some y ∧ y.sorts = x.sorts := by
  have hy := e'.jobId?_sorts n id
  rw [h, jobId?_sorts, hx, Option.map_some] at hy
  exact Option.map_eq_some_iff.mp hy.symm

/-- The sorter's places in the operands of a job's sides. -/
def SparseView.sorts (v : SparseView) : Nat × Option (List (List (Nat × Nat)) × Nat × Nat) × Option (List (List (Nat × Nat)) × Nat × Nat) :=
  (v.id, v.strA.map fun s => (s.rows, s.sorted, s.passes), v.strB.map fun s => (s.rows, s.sorted, s.passes))

theorem Engine.sorts_of_sides {e e' : Engine} {n : Sp} (h : e'.sides n = e.sides n) : e'.sorts n = e.sorts n := by
  have hs (e : Engine) : (e.sides n).map SparseView.sorts = e.sorts n := by
    rw [sides, List.map_map]
    rfl
  rw [← hs e', h, hs e]

theorem Engine.sorts_modStrm (e : Engine) (n : Sp) (id : Nat) (o : Opnd) (f : Strm → Strm)
    (hf : ∀ s, ((f s).rows, (f s).sorted, (f s).passes) = (s.rows, s.sorted, s.passes)) : (e.modStrm n id o f).sorts n = e.sorts n := by
  have hjob (x : Job) : (x.modStrm o f).sorts = x.sorts := by
    cases o <;> simp only [Job.modStrm, Job.sorts, Option.map_map, Function.comp_def, hf]
  rw [sorts, modStrm, modJob, sp_modSp, List.map_map, sorts]
  refine List.map_congr_left fun x _ => ?_
  dsimp only [Function.comp]
  split
  · exact hjob x
  · rfl

theorem Engine.sorts_foldl {α : Type} (f : Engine → α → Engine) (n : Sp) (hf : ∀ e a, (f e a).sorts n = e.sorts n) (as : List α) (e : Engine) :
    (as.foldl f e).sorts n = e.sorts n :=
  List.foldlRecOn (motive := fun e' => e'.sorts n = e.sorts n) as f rfl fun e' he a _ => (hf e' a).trans he

theorem Engine.sorts_strmAsk (e : Engine) (n : Sp) (x : Job) (o : Opnd) (p : Nat × Nat) (off len : Nat) :
    (e.strmAsk n x o p off len).sorts n = e.sorts n := by
  unfold strmAsk
  split
  · rfl
  · split
    · rfl
    · exact sorts_of_sides (sides_jobRead ..)

theorem Engine.sorts_askRow (e : Engine) (n : Sp) (id : Nat) (o : Opnd) : (e.askRow n id o).sorts n = e.sorts n := by
  unfold askRow
  split
  · rfl
  · split
    · split
      · split
        · rfl
        · dsimp only
          split
          · split
            · exact sorts_strmAsk ..
            · rfl
          · split
            · exact sorts_strmAsk ..
            · rfl
      · rfl
    · rfl

theorem Engine.sorts_askPayload (e : Engine) (n : Sp) (id : Nat) (o : Opnd) : (e.askPayload n id o).sorts n = e.sorts n := by
  unfold askPayload
  split
  · rfl
  · split
    · rfl
    · split
      · dsimp only
        split
        · exact sorts_modStrm _ _ _ _ _ fun _ => by rfl
        · exact (sorts_strmAsk ..).trans (sorts_modStrm _ _ _ _ _ fun _ => by rfl)
      · rfl

theorem Engine.sorts_askEntry (e : Engine) (n : Sp) (id : Nat) (o : Opnd) : (e.askEntry n id o).sorts n = e.sorts n := by
  unfold askEntry
  split
  · rfl
  · split
    · rfl
    · split
      · rfl
      · split
        · split
          · exact (sorts_strmAsk ..).trans (sorts_modStrm _ _ _ _ _ fun _ => by rfl)
          · rfl
        · rfl

theorem Engine.sorts_readOn (e : Engine) (n : Sp) (id : Nat) (o : Opnd) : (e.readOn n id o).sorts n = e.sorts n := by
  unfold readOn
  split
  · rfl
  · have hboth := (sorts_askEntry ((List.range 5).foldl (fun e _ => e.askPayload n id o) e) n id o).trans
      (sorts_foldl _ n (fun e _ => sorts_askPayload e n id o) _ e)
    exact iteInduction (motive := fun e' : Engine => e'.sorts n = e.sorts n) (fun _ => rfl) fun _ =>
      iteInduction (motive := fun e' : Engine => e'.sorts n = e.sorts n) (fun _ => sorts_askEntry e n id o) fun _ => hboth

theorem Engine.sorts_kickSparse (e : Engine) (n : Sp) : (e.kickSparse n).sorts n = e.sorts n := by
  obtain ⟨mg, ls, js, h, hjs⟩ := (kickSparse_changes e n).sp
  rw [sorts, h, ← sorts] at *
  exact hjs

/-- A sparse job that goes on keeps the sorter's place in its operands. -/
theorem Engine.sorts_sparseOn (e : Engine) (n : Sp) (id : Nat) : (e.sparseOn n id).sorts n = e.sorts n := by
  unfold sparseOn
  split
  · rfl
  · split
    · dsimp only
      rw [sorts_kickSparse]
      split
      · rfl
      · split
        · exact (sorts_askRow ..).trans (sorts_modStrm _ _ _ _ _ fun _ => by rfl)
        · exact (sorts_readOn ..).trans (sorts_modStrm _ _ _ _ _ fun _ => by rfl)
    · rfl

/-! ## Runs of a long row in scratch space (R289) -/

theorem Engine.sides_claimSlice (e : Engine) (n : Sp) (id k b : Nat) (m : Sp) : (e.claimSlice n id k b).sides m = e.sides m := by
  unfold claimSlice
  split
  · split
    · rfl
    · exact sides_fault ..
  · split
    · exact sides_fault ..
    · split
      · exact sides_of_still (still_takeSpot ..)
      · exact sides_fault ..

/-- Runs that go to scratch space, and a fault for want of it, leave the operands of every job. -/
theorem Engine.sides_placeRuns (e : Engine) (n : Sp) (id : Nat) (row : List (Nat × Nat)) (m : Sp) : (e.placeRuns n id row).sides m = e.sides m := by
  refine sides_foldl _ m (fun e i => ?_) _ e
  have hput : ((e.claimSlice n id (2 + i) (runBytes row i).length).putScratch n id (2 + i) 0 (runBytes row i)).sides m = e.sides m :=
    (sides_of_still (still_putScratch ..)).trans (sides_claimSlice ..)
  split
  · rfl
  · dsimp only
    split
    · exact sides_claimSlice ..
    · split
      · exact (sides_of_still (still_issue ..)).trans hput
      · exact hput

/-! ## The passes of the sorter (R170, R171) -/

theorem one_lt_sortPasses {len : Nat} (h : 65536 < len) : 1 < sortPasses len := by
  have hruns : ¬ ceilDiv len 65536 ≤ 1 := by
    unfold ceilDiv
    omega
  unfold sortPasses
  dsimp only
  rw [if_neg hruns]
  omega

theorem Job.strm_of_sides {x y : Job} (h : y.sides = x.sides) (o : Opnd) : y.strm o = x.strm o := by
  cases o
  · exact congrArg SparseView.strA h
  · exact congrArg SparseView.strB h

theorem Job.strm_modStrm {x : Job} {o : Opnd} {st : Strm} (h : x.strm o = some st) (f : Strm → Strm) : (x.modStrm o f).strm o = some (f st) := by
  cases o <;> exact congrArg (Option.map f) h

theorem Job.id_modStrm (x : Job) (o : Opnd) (f : Strm → Strm) : (x.modStrm o f).id = x.id := by cases o <;> rfl

theorem Job.ended_modStrm (x : Job) (o : Opnd) (f : Strm → Strm) : (x.modStrm o f).ended = x.ended := by cases o <;> rfl

theorem Job.strm_of_sorts {x y : Job} {o : Opnd} {st : Strm} (h : y.sorts = x.sorts) (hst : x.strm o = some st) :
    ∃ u, y.strm o = some u ∧ u.rows = st.rows ∧ u.sorted = st.sorted ∧ u.passes = st.passes := by
  have hview (x : Job) : (x.strm o).map (fun s => (s.rows, s.sorted, s.passes)) = match o with | .a => x.sorts.2.1 | .b => x.sorts.2.2 := by
    cases o <;> rfl
  have hy := hview y
  rw [h, ← hview x, hst, Option.map_some] at hy
  obtain ⟨u, hu, hplace⟩ := Option.map_eq_some_iff.mp hy
  simp only [Prod.mk.injEq] at hplace
  exact ⟨u, hu, hplace⟩

theorem Engine.jobLive_of_jobId? {e : Engine} {n : Sp} {id : Nat} {x : Job} (h : e.jobId? n id = some x) : e.jobLive n id = x.ended.isNone := by
  rw [jobLive, h]

theorem Engine.jobId?_modStrm {e : Engine} {n : Sp} {id : Nat} {x : Job} (h : e.jobId? n id = some x) (o : Opnd) (f : Strm → Strm) :
    (e.modStrm n id o f).jobId? n id = some (x.modStrm o f) := jobId?_modJob_of h fun x => x.id_modStrm o f

/-- A pass of the sorter over a row of operand o whose long runs, if it has any, have their places. -/
def Engine.endPass (e : Engine) (n : Sp) (id : Nat) (o : Opnd) (st : Strm) : Engine :=
  let row := st.rows.getD st.sorted []
  if !e.jobLive n id then e
  else if st.passes + 1 < sortPasses row.length then e.modStrm n id o fun s => { s with passes := s.passes + 1 }
  else if !ascending ((sortRow row).map (·.1)) then e.fault n id 0x04 6 (st.first + st.sorted)
  else (e.modStrm n id o fun s => { s with rows := setAt s.rows s.sorted (sortRow row), sorted := s.sorted + 1, passes := 0 }).sparseOn n id

/-- The rows of operand o are to be sorted (R170). -/
def MatchBlk.unsorted (m : MatchBlk) : Opnd → Bool
  | .a => m.unsortedA
  | .b => m.unsortedB

section
variable {n : Sp} {j : Nat} {s : State} {x : Job} {o : Opnd} {st : Strm} {m : MatchBlk} (h : worksAt s n j x) (hst : x.strm o = some st)
  (hm : x.desc.mtch = some m) (hsort : m.unsorted o = true) (hopen : st.phase = .open)
  (hleft : st.sorted < st.decoded) (hwrites : (s.eng.sp n).waits x.id true 40 = false) (hreads : (s.eng.sp n).waits x.id false 22 = false)

include h hst hm hsort hopen hleft hwrites hreads in
theorem exec_sortPassDone : exec (.sortPassDone n j o) s = .next { s with eng := (if st.passes = 0 ∧ 65536 < (st.rows.getD st.sorted []).length
    then s.eng.placeRuns n x.id (st.rows.getD st.sorted []) else s.eng).endPass n x.id o st } := by
  refine congrArg (fun e => Host.Outcome.next { s with eng := e }) ((Engine.withJob_of_worksAt h _).trans ?_)
  simp only [hst, hm]
  refine if_neg ?_
  rw [hopen, hwrites, hreads, decide_eq_false (Nat.not_le.mpr hleft)]
  cases o
  · simp [show m.unsortedA = true from hsort]
  · simp [show m.unsortedB = true from hsort]

include hst in
theorem Engine.endPass_of_merging {e : Engine} (hx : e.jobId? n x.id = some x) (hended : x.ended = none)
    (hpass : st.passes + 1 < sortPasses (st.rows.getD st.sorted []).length) :
    ∃ y, (e.endPass n x.id o st).jobId? n x.id = some y ∧ y.ended = none ∧ y.strm o = some { st with passes := st.passes + 1 } := by
  have hlive : ¬ (!e.jobLive n x.id) = true := by simp [jobLive_of_jobId? hx, hended]
  unfold endPass
  dsimp only
  rw [if_neg hlive, if_pos hpass]
  exact ⟨_, jobId?_modStrm hx o _, (x.ended_modStrm o _).trans hended, Job.strm_modStrm hst _⟩

include hst in
theorem Engine.endPass_of_sorted {e : Engine} (hx : e.jobId? n x.id = some x) (hended : x.ended = none)
    (hpass : sortPasses (st.rows.getD st.sorted []).length ≤ st.passes + 1)
    (hasc : ascending ((sortRow (st.rows.getD st.sorted [])).map (·.1)) = true) :
    ∃ y u, (e.endPass n x.id o st).jobId? n x.id = some y ∧ y.strm o = some u ∧ u.rows = setAt st.rows st.sorted (sortRow (st.rows.getD st.sorted [])) ∧
      u.sorted = st.sorted + 1 ∧ u.passes = 0 := by
  have hlive : ¬ (!e.jobLive n x.id) = true := by simp [jobLive_of_jobId? hx, hended]
  unfold endPass
  dsimp only
  rw [if_neg hlive, if_neg (Nat.not_lt.mpr hpass), if_neg (by rw [hasc]; decide)]
  obtain ⟨y, hy, hsorts⟩ := jobId?_of_sorts (sorts_sparseOn _ n x.id) (jobId?_modStrm hx o _)
  obtain ⟨u, hu, hplace⟩ := Job.strm_of_sorts hsorts (Job.strm_modStrm hst _)
  exact ⟨y, u, hy, hu, hplace⟩

theorem Engine.endPass_of_equal {e : Engine} (hx : e.jobId? n x.id = some x) (hended : x.ended = none)
    (hpass : sortPasses (st.rows.getD st.sorted []).length ≤ st.passes + 1)
    (hasc : ascending ((sortRow (st.rows.getD st.sorted [])).map (·.1)) = false) :
    ∃ y, (e.endPass n x.id o st).jobId? n x.id = some y ∧ y.ended = some ⟨1, 4, 6, st.first + st.sorted⟩ := by
  have hlive : ¬ (!e.jobLive n x.id) = true := by simp [jobLive_of_jobId? hx, hended]
  unfold endPass
  dsimp only
  rw [if_neg hlive, if_neg (Nat.not_lt.mpr hpass), if_pos (by rw [hasc]; decide)]
  exact ended_fault hx hended ..

include hst in
/-- The first pass over a row of several runs counts, unless the job ended for want of scratch space. -/
theorem Engine.endPass_of_firstLong {e : Engine} (hx : e.jobId? n x.id = some x) (hfirst : st.passes = 0)
    (hlong : 65536 < (st.rows.getD st.sorted []).length) :
    ∃ y, ((e.placeRuns n x.id (st.rows.getD st.sorted [])).endPass n x.id o st).jobId? n x.id = some y ∧
      y.strm o = some (if y.ended = none then { st with passes := 1 } else st) := by
  obtain ⟨y, hy, hsides⟩ := jobId?_of_sides (sides_placeRuns e n x.id (st.rows.getD st.sorted []) n) hx
  have hsty : y.strm o = some st := (Job.strm_of_sides hsides o).trans hst
  have hid : y.id = x.id := congrArg SparseView.id hsides
  by_cases hended : y.ended = none
  · rw [← hid] at hy ⊢
    obtain ⟨z, hz, hlive, hstz⟩ := endPass_of_merging hsty hy hended (by rw [hfirst]; exact one_lt_sortPasses hlong)
    exact ⟨z, hz, by rw [hstz, if_pos hlive, hfirst]⟩
  · refine ⟨y, ?_, by rw [hsty, if_neg hended]⟩
    have hdead : (!(e.placeRuns n x.id (st.rows.getD st.sorted [])).jobLive n x.id) = true := by
      rw [jobLive_of_jobId? hy, Option.not_isNone]
      exact Option.isSome_iff_ne_none.mpr hended
    unfold endPass
    dsimp only
    rw [if_pos hdead, hy]

end

/-! ## Reduction (R183, R184, R186) -/

/-- The records of an output, each with its number (R183). -/
def Engine.recsOf (e : Engine) (sp : Sparse) (c : MergeCtx) (o : Nat) : List (Nat × List Byte) :=
  (sp.granted.filter fun r => r.2 == o).map fun r => (r.1, e.readAt ((Addr.parse c.stealArea).plus (16 * r.1)) 16)

/-- Partials added in their order; second result: one overflowed (R186). -/
def sumPlaced (add : Word → Word → Word × Bool) : List Placed → Word × Bool
  | [] => (0, false)
  | p :: ps => ps.foldl (fun st q => ((add st.1 q.acc).1, st.2 || (add st.1 q.acc).2)) (p.acc, false)

theorem sumPlaced_fst (add : Word → Word → Word × Bool) (ps : List Placed) :
    (sumPlaced add ps).1 = match ps with | [] => 0 | p :: ps => ps.foldl (fun a q => (add a q.acc).1) p.acc := by
  have hfold (ps : List Placed) (st : Word × Bool) :
      (ps.foldl (fun st q => ((add st.1 q.acc).1, st.2 || (add st.1 q.acc).2)) st).1 = ps.foldl (fun a q => (add a q.acc).1) st.1 := by
    induction ps generalizing st with
    | nil => rfl
    | cons p ps ih => exact ih _
  cases ps with
  | nil => rfl
  | cons p ps => exact hfold ps _

/-- A job that counts the entries that the records of an output dropped, and what overflowed there. -/
def Job.countsRecs (x : Job) (recs : List (Nat × List Byte)) : Job :=
  { x with nep := x.nep + (recs.map fun r => fieldAt r.2 12 4).sum, overflow := x.overflow || recs.any fun r => bitOf (fieldAt r.2 6 1) 2 }

/-- A job with an output's sum among its results. -/
def Job.addsResult (x : Job) (o : Nat) (r : Word × Bool) : Job :=
  { x with overflow := x.overflow || r.2, sparse := x.sparse.map fun sp => { sp with results := sp.results ++ [⟨o, r.1⟩] } }

/-- A spindle whose lanes have no partial of output o left. -/
def Spindle.dropsPartials (s : Spindle) (o : Nat) : Spindle :=
  { s with lanes := s.lanes.foldl (fun t l => Tab.put t {} l.1 { l.2 with partials := l.2.partials.filter fun p => p.output != o }) s.lanes }

/-- The engine after the job has counted the records of an output. -/
def Engine.countsRecs (e : Engine) (n : Sp) (id : Nat) (recs : List (Nat × List Byte)) : Engine :=
  (e.modJob n id fun x => x.countsRecs recs).checkNep n id

/-- The addition of a merge's partials. -/
def MergeCtx.add (c : MergeCtx) (a b : Word) : Word × Bool := if c.intMode then addI32 a b.toInt else addF32 a b

/-- The partials of an output in R186's order. -/
def Engine.placed (e : Engine) (n : Sp) (o : Nat) (recs : List (Nat × List Byte)) : List Placed :=
  (((e.sp n).lanes.flatMap fun l => (l.2.partials.filter fun p => p.output == o).map fun p => (⟨64 * n.val + l.1, 0, p.acc⟩ : Placed)) ++
    (recs.filter fun r => !bitOf (fieldAt r.2 6 1) 0).map fun r => (⟨fieldAt r.2 4 2, r.1 + 1, w32 (fieldAt r.2 8 4)⟩ : Placed)).foldl
    (fun acc p => insertPlaced p acc) []

theorem placed_eq (s : State) (n : Sp) (o : Nat) (recs : List (Nat × List Byte)) : s.eng.placed n o recs = placedOf s n o recs := rfl

section
variable {e : Engine} {n : Sp} {x y : Job} {sp : Sparse} {c : MergeCtx} {o : Nat}

theorem Engine.reduceOutput_of_fault {r : Nat × List Byte} (hr : ((e.recsOf sp c o).find? fun r => bitOf (fieldAt r.2 6 1) 1) = some r) :
    e.reduceOutput n x sp c o = (e.countsRecs n x.id (e.recsOf sp c o)).fault n x.id 0x04 (fieldAt r.2 7 1) 0 := by
  unfold recsOf at hr
  unfold reduceOutput
  simp only [hr]
  rfl

theorem Engine.reduceOutput_of_good (hr : ((e.recsOf sp c o).find? fun r => bitOf (fieldAt r.2 6 1) 1) = none) :
    e.reduceOutput n x sp c o = ((e.countsRecs n x.id (e.recsOf sp c o)).modSp n fun s => s.dropsPartials o).modJob n x.id fun x =>
      x.addsResult o (sumPlaced c.add (e.placed n o (e.recsOf sp c o))) := by
  unfold recsOf at hr
  unfold reduceOutput
  simp only [hr]
  rfl

/-- The job that counted an output's records is found, with its other parts as they were. -/
theorem Engine.jobId?_countsRecs {id : Nat} (hy : e.jobId? n id = some y) (recs : List (Nat × List Byte)) :
    ∃ z, (e.countsRecs n id recs).jobId? n id = some z ∧ z.ended = y.ended ∧ z.sparse = y.sparse ∧
      z.nep = y.nep + (recs.map fun r => fieldAt r.2 12 4).sum := by
  obtain ⟨z, hz, hstill⟩ := jobId?_of_still (still_checkNep _ n id n) (jobId?_modJob_of hy fun x => (by rfl : (x.countsRecs recs).id = x.id))
  exact ⟨z, hz, (congrArg Job.ended hstill :), (congrArg Job.sparse hstill :), (congrArg Job.nep hstill :)⟩

/-- An output with a record of a fault faults the job, with the record's SLUB (R184). -/
theorem Engine.job_reduceOutput_of_fault (hy : e.jobId? n x.id = some y) (hended : y.ended = none) {r : Nat × List Byte}
    (hr : ((e.recsOf sp c o).find? fun r => bitOf (fieldAt r.2 6 1) 1) = some r) :
    ∃ z, (e.reduceOutput n x sp c o).jobId? n x.id = some z ∧ z.ended = some ⟨1, 4, fieldAt r.2 7 1, 0⟩ := by
  obtain ⟨z, hz, hlive, -⟩ := jobId?_countsRecs hy (e.recsOf sp c o)
  rw [reduceOutput_of_fault hr]
  exact ended_fault hz (hlive.trans hended) ..

/-- An output without such a record has its sum among the job's results (R186). -/
theorem Engine.job_reduceOutput_of_good (hy : e.jobId? n x.id = some y)
    (hr : ((e.recsOf sp c o).find? fun r => bitOf (fieldAt r.2 6 1) 1) = none) :
    ∃ z, (e.reduceOutput n x sp c o).jobId? n x.id = some z ∧ z.ended = y.ended ∧
      z.nep = y.nep + ((e.recsOf sp c o).map fun r => fieldAt r.2 12 4).sum ∧
      z.sparse = y.sparse.map fun sp' =>
        { sp' with results := sp'.results ++ [⟨o, (sumPlaced c.add (e.placed n o (e.recsOf sp c o))).1⟩] } := by
  obtain ⟨z, hz, hended, hsparse, hnep⟩ := jobId?_countsRecs hy (e.recsOf sp c o)
  have hz' : ((e.countsRecs n x.id (e.recsOf sp c o)).modSp n fun s => s.dropsPartials o).jobId? n x.id = some z := by
    rw [jobId?, sp_modSp]
    exact hz
  rw [reduceOutput_of_good hr, ← hsparse]
  exact ⟨_, jobId?_modJob_of hz' fun _ => by rfl, hended, hnep, rfl⟩

/-- A reduction leaves the outputs whose records are asked for. -/
theorem Engine.recAsked_reduceOutput (hy : e.jobId? n x.id = some y) {q : Sparse} (hq : y.sparse = some q) :
    ∃ z q', (e.reduceOutput n x sp c o).jobId? n x.id = some z ∧ z.sparse = some q' ∧ q'.recAsked = q.recAsked := by
  cases hr : (e.recsOf sp c o).find? fun r => bitOf (fieldAt r.2 6 1) 1 with
  | none =>
    obtain ⟨z, hz, -, -, hsparse⟩ := job_reduceOutput_of_good (x := x) (c := c) hy hr
    rw [hq, Option.map_some] at hsparse
    exact ⟨z, _, hz, hsparse, rfl⟩
  | some r =>
    obtain ⟨z, hz, -, hsparse, -⟩ := jobId?_countsRecs hy (e.recsOf sp c o)
    rw [reduceOutput_of_fault hr]
    obtain ⟨z', hz', hsides⟩ := jobId?_of_sides (sides_fault _ n x.id 0x04 (fieldAt r.2 7 1) 0 n) hz
    exact ⟨z', q, hz', ((congrArg SparseView.sparse hsides :).trans hsparse).trans hq, rfl⟩

end

theorem Engine.creel_reduceOutput_of_good {e : Engine} {n : Sp} {x : Job} {sp : Sparse} {c : MergeCtx} {o : Nat}
    (hr : ((e.recsOf sp c o).find? fun r => bitOf (fieldAt r.2 6 1) 1) = none) : (e.reduceOutput n x sp c o).creel = e.creel := by
  rw [reduceOutput_of_good hr]
  exact checkNep_creel ..

/-! ## The reads of an output's records (R184, R284) -/

section
variable {n : Sp} {j output : Nat} {s : State} {x : Job} {sp : Sparse} {c : MergeCtx} (h : worksAt s n j x) (hsp : x.sparse = some sp)
  (hmerge : (s.eng.sp n).merge = some c) (hown : c.owner = n.val) (hjob : c.job = x.id)
  (hopen : output < min (64 * sp.opened) (c.ra * c.rb)) (hundrained : 64 * sp.drained ≤ output)
  (hsegs : Tab.getD sp.outstanding output 0 = 0) (hnew : (sp.results.any fun r => r.output == output) = false)
include h hsp hmerge hown hjob hnew

/-- An output without records, or with its records read, is reduced. -/
theorem Engine.reduceOn_of_ready (hready : (sp.granted.filter fun r => r.2 == output) = [] ∨
      sp.recAsked.contains output = true ∧ (s.eng.sp n).waitsFor x.id (pRecords output) = false ∧
        s.eng.translated n ((Addr.parse c.stealArea).plus (16 * 0)) = true) :
    s.eng.reduceOn n x.id output = s.eng.reduceOutput n x sp c output := by
  unfold reduceOn
  simp only [jobId?_of_worksAt h, hmerge, hsp]
  rw [if_neg (by simp [Job.ended_of_worksAt h, hown, hjob, hnew])]
  refine if_pos ?_
  rcases hready with hnone | ⟨hasked, hwaits, htr⟩
  · rw [hnone]
    rfl
  · rw [hasked, hwaits, htr]
    simp

/-- The first reduction of an output with records asks for them. -/
theorem Engine.recAsked_reduceOn (hmine : (sp.granted.filter fun r => r.2 == output) ≠ []) (hasked : sp.recAsked.contains output = false)
    (hplace : ∀ r ∈ sp.granted.filter fun r => r.2 == output, s.eng.placeFault n false ((Addr.parse c.stealArea).plus (16 * r.1)) 16 = none) :
    ∃ y q, (s.eng.reduceOn n x.id output).jobId? n x.id = some y ∧ y.sparse = some q ∧ q.recAsked = sp.recAsked ++ [output] := by
  have hx := jobId?_of_worksAt h
  have hfind : ((sp.granted.filter fun r => r.2 == output).findSome? fun r =>
      s.eng.placeFault n false ((Addr.parse c.stealArea).plus (16 * r.1)) 16) = none := List.findSome?_eq_none_iff.mpr hplace
  have hempty : (sp.granted.filter fun r => r.2 == output).isEmpty = false := by simpa [List.isEmpty_iff] using hmine
  unfold reduceOn
  simp only [hx, hmerge, hsp]
  rw [if_neg (by simp [Job.ended_of_worksAt h, hown, hjob, hnew]), if_neg (by rw [hempty, hasked]; simp), if_neg (by rw [hasked]; decide)]
  simp only [hfind]
  set e1 := s.eng.modJob n x.id _ with he1
  set e2 := List.foldl _ e1 _ with he2
  have hx1 : e1.jobId? n x.id = some _ := jobId?_modJob_of hx fun _ => by rfl
  have hstill : e2.still n = e1.still n := still_foldl _ n (fun e r => (still_issue ..).trans (still_lookAt ..)) _ e1
  obtain ⟨y, hy, hsame⟩ := jobId?_of_still hstill hx1
  have hsparse : y.sparse = some { sp with recAsked := sp.recAsked ++ [output] } := by
    refine (congrArg Job.sparse hsame :).trans ?_
    exact congrArg (Option.map fun sp : Sparse => { sp with recAsked := sp.recAsked ++ [output] }) hsp
  split
  · exact ⟨y, _, hy, hsparse, rfl⟩
  · exact recAsked_reduceOutput hy hsparse

include hopen hundrained hsegs in
theorem exec_partialReduce (hrecs : (sp.granted.filter fun r => r.2 == output) = [] ∨ s.eng.recordsIn x = true) :
    exec (.partialReduce n j output) s = .next (s.onEng fun e => e.reduceOn n x.id output) := by
  refine congrArg (fun e => Host.Outcome.next { s with eng := e }) ((Engine.withJob_of_worksAt h _).trans ?_)
  simp only [hsp, hmerge]
  refine if_pos ⟨hown, hjob, hopen, hundrained, hsegs, by rw [hnew]; rfl, fun hany => ?_⟩
  rcases hrecs with hnone | hin
  · obtain ⟨r, hr, ho⟩ := List.any_eq_true.mp hany
    exact absurd (List.mem_filter.mpr ⟨hr, ho⟩) (by rw [hnone]; exact List.not_mem_nil)
  · exact hin

end

/-- Settles O57: the passes of the sorter one by one, and an output's reduction by what its records say. -/
theorem rowsAreSortedAndPartialsReduced : Obligations.RowsAreSortedAndPartialsReduced := by
  unfold Obligations.RowsAreSortedAndPartialsReduced
  intro n j s x h
  have hx := Engine.jobId?_of_worksAt h
  have hended := Job.ended_of_worksAt h
  constructor
  · intro o st m hst hm hsort hopen hleft hwrites hreads row
    have hexec := exec_sortPassDone h hst hm (by cases o <;> exact hsort) hopen hleft hwrites hreads
    refine ⟨fun hfirst hlong => ?_, fun hshort => ?_⟩
    · rw [if_pos ⟨hfirst, hlong⟩] at hexec
      obtain ⟨y, hy, hsty⟩ := Engine.endPass_of_firstLong hst hx hfirst hlong
      exact ⟨_, y, hexec, rfl, hy, hsty⟩
    · rw [if_neg fun hlong => hshort.elim (· hlong.1) (Nat.not_le.mpr hlong.2)] at hexec
      refine ⟨fun hpass => ?_, fun hpass => ⟨fun hasc => ?_, fun hasc => ?_⟩⟩
      · obtain ⟨y, hy⟩ := Engine.endPass_of_merging hst hx hended hpass
        exact ⟨_, y, hexec, rfl, hy⟩
      · obtain ⟨y, u, hy⟩ := Engine.endPass_of_sorted hst hx hended hpass hasc
        exact ⟨_, y, u, hexec, rfl, hy⟩
      · obtain ⟨y, hy⟩ := Engine.endPass_of_equal hx hended hpass hasc
        exact ⟨_, y, hexec, rfl, hy⟩
  · intro output sp c hsp hmerge hown hjob hopen hundrained hsegs hnew mine place recs add
    refine ⟨fun hready => ?_, fun hmine hin hasked hplace => ?_⟩
    · have hexec := exec_partialReduce h hsp hmerge hown hjob hopen hundrained hsegs hnew (hready.imp id And.left)
      have hreduce := Engine.reduceOn_of_ready h hsp hmerge hown hjob hnew (hready.imp id And.right)
      rw [State.onEng, hreduce] at hexec
      refine ⟨fun r hr => ?_, fun hr => ?_⟩
      · obtain ⟨y, hy, hfault⟩ := Engine.job_reduceOutput_of_fault (c := c) hx hended hr
        exact ⟨_, y, hexec, rfl, hy, hfault⟩
      · obtain ⟨y, hy, hlive, hnep, hsparse⟩ := Engine.job_reduceOutput_of_good (c := c) hx hr
        rw [hsp, Option.map_some] at hsparse
        exact ⟨_, y, _, _, hexec, rfl, Engine.creel_reduceOutput_of_good hr, hy, hlive.trans hended, hsparse, rfl, rfl, hnep, sumPlaced_fst ..⟩
    · have hexec := exec_partialReduce h hsp hmerge hown hjob hopen hundrained hsegs hnew (.inr hin)
      obtain ⟨y, q, hy, hq⟩ := Engine.recAsked_reduceOn h hsp hmerge hown hjob hnew hmine hasked hplace
      exact ⟨_, y, q, hexec, rfl, hy, hq⟩

end Sys2Proof.Machine
end

section
/-! PROOFS. Training and traffic (07_training_traffic): two jobs that share a number, one of them in a step set, and a forward credit beyond
64, whose fault reaches both through the set. -/

namespace Sys2Proof.Machine

/-! ## A violation where two jobs share a number (R204, R434, R436) -/

namespace SharedNumber

/-- A running job that drafts what arrives on its feed link under a return tag. -/
def backJob (id tag : Nat) (step : Bool) : Job :=
  { id := id, level := 7, inst := none, begun := true, draft := some { shape := ShapeBlk.parse [], zeroed := true },
    desc := { step := step, setId := 3, stepSize := 2, srcKind := 2, srcTag := tag } }

/-- The two members of step set 3, and between them a job of no set that has the second member's number. -/
def firstMember : Job := backJob 0 0 true
def single : Job := backJob 1 1 false
def secondMember : Job := backJob 1 2 true

/-- Spindle 0 in service with the three jobs, its feed link up and holding all 64 forward credits. -/
def state : State :=
  State.reset.onEng fun e =>
    { e.modSp 0 (fun p => { p with
        pwr := .on, enable := true, jobs := [firstMember, single, secondMember], jobNext := 2
        link := { p.link with fwdCredits := 64, backCredits := 32, rst := false } }) with
      power := { e.power with phase := .running, regPort := true, wakes := [], bobbin := .on } }

/-- The next credit is a violation: the link is up and its credits are at their bound. -/
theorem credit_is_beyond_bound :
    state.eng.linkUp 0 = true ∧ (state.eng.sp 0).link.rst = false ∧ 64 ≤ (state.eng.sp 0).link.fwdCredits := by decide

/-- The violation faults the first member, which stops the second with JOB_ABORTED; by its number the single job is taken for the second
and stops with it, so that its own fault finds it ended (R204, R436). -/
theorem resync_aborts_single :
    (((state.eng.violation 0x20 (srcFeedFwd 0) 0).resync 0).jobId? 0 single.id).bind (fun y => y.ended) = some ⟨2, 0x17, 3, 0⟩ := by decide

theorem exec_fwdCreditGrant :
    exec (.fwdCreditGrant 0) state = .next (state.onEng fun e => (e.violation 0x20 (srcFeedFwd 0) 0).resync 0) := rfl

end SharedNumber

/-- Refutes O37: its last clause has no premise that the numbers of a spindle's jobs are distinct (`Safety.storesSound`
asks for it).  Where a job of no set shares its number with a member of a step set, another member's fault on the link ends it with
JOB_ABORTED before BUS_ERROR reaches it. -/
theorem not_feedLinkCreditsAndViolations : ¬ Obligations.FeedLinkCreditsAndViolations := by
  rintro ⟨-, hviolation⟩
  obtain ⟨hup, hrst, hfull⟩ := SharedNumber.credit_is_beyond_bound
  obtain ⟨t, ht, -, -, -, -, -, -, -, -, hfaults⟩ :=
    hviolation 0 SharedNumber.state (.fwdCreditGrant 0) 0x20 64 hup hrst (.inl ⟨rfl, hfull, rfl, rfl⟩)
  obtain ⟨y, hy, hbusError⟩ := hfaults SharedNumber.single rfl rfl rfl (.inr ⟨rfl, rfl, rfl⟩)
  rw [SharedNumber.exec_fwdCreditGrant] at ht
  obtain rfl := Host.Outcome.next.inj ht
  have haborted := SharedNumber.resync_aborts_single
  rw [show ((SharedNumber.state.eng.violation 0x20 (srcFeedFwd 0) 0).resync 0).jobId? 0 SharedNumber.single.id = some y from hy,
    Option.bind_some, hbusError] at haborted
  exact absurd haborted (by decide)

end Sys2Proof.Machine
end

section
/-! PROOFS. What stops and accesses leave of a spindle and of its jobs, the Hank lane's state among it: the frames that the Hank codec and
wrapped streams rest on. -/

namespace Sys2Proof.Machine

/-! ## What stops leave of a spindle (R70, R119, R204, R259, R373) -/

/-- A job without what accesses, claims and stops change of it. -/
def Job.lasting (x : Job) : Job :=
  { x.still with
    ended := none, words := [], claim := none, lockWait := false, banks := [], srcBanks := [], ply := none, run := .running, inPacket := false
    draft := none, window := none, halves := [], sideFrom := none, setDone := false, hank := x.hank.map fun k => { k with held := false } }

/-- A spindle without what accesses, claims and stops change of it, but with its Hank wait counted. -/
def Spindle.lasting (s : Spindle) : Spindle :=
  { s.still with
    jobs := s.jobs.map Job.lasting, link := {}, lanes := [], merge := none, abandons := [], failedSets := [], goneSets := []
    work := { s.work with haloWait := 0 } }

/-- What accesses and stops leave of spindle n, where no wait for a Hank side ends. -/
def Engine.lasting (e : Engine) (n : Sp) : Spindle := (e.sp n).lasting

theorem Spindle.lasting_still (s : Spindle) : s.still.lasting = s.lasting := by
  have hjobs : (s.jobs.map Job.still).map Job.lasting = s.jobs.map Job.lasting := by
    rw [List.map_map]
    rfl
  exact congrArg (fun js => { s.lasting with jobs := js }) hjobs

theorem Engine.lasting_of_still {e e' : Engine} {m : Sp} (h : e'.still m = e.still m) : e'.lasting m = e.lasting m := by
  have hs (e : Engine) : (e.still m).lasting = e.lasting m := Spindle.lasting_still _
  rw [← hs e', h, hs e]

theorem Engine.lasting_of_spindles {e e' : Engine} (h : e'.spindles = e.spindles) (m : Sp) : e'.lasting m = e.lasting m :=
  lasting_of_still (still_of_spindles h m)

theorem Engine.lasting_modSp (e : Engine) (n m : Sp) (f : Spindle → Spindle) (hf : ∀ s, (f s).lasting = s.lasting) :
    (e.modSp n f).lasting m = e.lasting m := by
  by_cases hm : m = n
  · rw [hm, lasting, sp_modSp, hf, ← lasting]
  · rw [lasting, sp_modSp_ne e hm, ← lasting]

theorem Engine.lasting_modJob (e : Engine) (n m : Sp) (id : Nat) (f : Job → Job) (hf : ∀ x, (f x).lasting = x.lasting) :
    (e.modJob n id f).lasting m = e.lasting m := by
  refine lasting_modSp e n m _ fun s => ?_
  refine congrArg (fun js => { s.lasting with jobs := js }) ?_
  rw [List.map_map]
  refine List.map_congr_left fun x _ => ?_
  dsimp only [Function.comp]
  split <;> simp [hf]

theorem Engine.lasting_foldl {α : Type} (f : Engine → α → Engine) (m : Sp) (hf : ∀ e a, (f e a).lasting m = e.lasting m) (as : List α)
    (e : Engine) : (as.foldl f e).lasting m = e.lasting m :=
  List.foldlRecOn (motive := fun e' => e'.lasting m = e.lasting m) as f rfl fun e' he a _ => (hf e' a).trans he

theorem Engine.lasting_dropTxns (e : Engine) (n : Sp) (id : Nat) (m : Sp) : (e.dropTxns n id).lasting m = e.lasting m :=
  lasting_modSp e n m _ fun _ => by rfl

theorem Engine.lasting_leave (e : Engine) (x : Job) (m : Sp) : ((e.badOut x).giveUpIn x).lasting m = e.lasting m := by
  refine lasting_of_spindles ?_ m
  unfold giveUpIn badOut
  (repeat' split) <;> rfl

theorem Engine.lasting_endHaloWait (e : Engine) (n : Sp) (x : Job) (m : Sp) : (e.endHaloWait n x).lasting m = e.lasting m := by
  unfold endHaloWait
  split
  · exact lasting_modSp e.draw.2 n m _ fun _ => by rfl
  · rfl

theorem Engine.lasting_dropBack (e : Engine) (n : Sp) (x : Job) (m : Sp) : (e.dropBack n x).lasting m = e.lasting m := by
  unfold dropBack
  split
  · refine lasting_foldl _ m (fun e w => ?_) _ e
    exact (lasting_modSp _ n m _ fun _ => by rfl).trans (lasting_of_spindles (e.violation_spindles ..) m)
  · rfl

theorem Engine.lasting_voidSlot (e : Engine) (n : Sp) (x : Job) (m : Sp) : (e.voidSlot n x).lasting m = e.lasting m := by
  have hdue (d : Draft) : (e.modJob n x.id fun y => { y with draft := some d }).lasting m = e.lasting m := lasting_modJob e n m x.id _ fun _ => by rfl
  cases hb : x.desc.draft with
  | none => simp [voidSlot, hb]
  | some b =>
    rw [voidSlot_eq e n x b hb]
    split
    · dsimp only
      split
      · exact hdue _
      · exact (lasting_of_still (still_putDuty ..)).trans (hdue _)
    · rfl

theorem Engine.lasting_ringDuties (e : Engine) (n : Sp) (x : Job) (m : Sp) : (e.ringDuties n x).lasting m = e.lasting m := by
  have hrelease (e : Engine) (h : HalfRead) (down : Bool) : (e.releaseHalf n h down).lasting m = e.lasting m := by
    cases h <;> rfl
  refine (lasting_modJob _ n m x.id _ fun _ => by rfl).trans ?_
  split
  · rw [hrelease, hrelease]
  · rfl

theorem Engine.lasting_stopSparse (e : Engine) (n : Sp) (id : Nat) (m : Sp) : (e.stopSparse n id).lasting m = e.lasting m := by
  simp only [lasting, sp, stopSparse, Fin.getElem_fin, Vector.getElem_mapFinIdx]
  (repeat' split) <;> rfl

theorem Engine.lasting_zeroMagic (e : Engine) (n : Sp) (en : Ending) (x : Job) (m : Sp) : (e.zeroMagic n en x).lasting m = e.lasting m := by
  refine lasting_of_still ?_
  unfold zeroMagic
  dsimp only
  (repeat' split) <;> simp

theorem Engine.lasting_loseParts (e : Engine) (n : Sp) (en : Ending) (x : Job) (m : Sp) : (e.loseParts n en x).lasting m = e.lasting m := by
  unfold loseParts
  split
  · exact lasting_of_still (still_flushHeld e n x.id m)
  · rfl

/-- Of what lasts through a stop, only the count of the stopped job's wait for a Hank side changes: what does not see that count is kept. -/
theorem Engine.lasting_stopOne {β : Type} (g : Spindle → β) (n : Sp) (x : Job) (m : Sp)
    (hg : ∀ e : Engine, g ((e.endSideWait n x).lasting m) = g (e.lasting m)) (e : Engine) (en : Ending) :
    g ((e.stopOne n en x).lasting m) = g (e.lasting m) := by
  unfold stopOne
  cases x.ended with
  | some old =>
    dsimp only
    split
    · rw [lasting_loseParts, lasting_zeroMagic]
      exact congrArg g ((lasting_modJob _ n m x.id _ fun _ => by rfl).trans (lasting_dropTxns ..))
    · rfl
  | none =>
    dsimp only
    rw [lasting_loseParts, lasting_zeroMagic, lasting_stopSparse, lasting_ringDuties, lasting_voidSlot, lasting_dropBack,
      lasting_modSp _ n m _ fun _ => by rfl, lasting_modJob _ n m x.id _ fun y => by simp only [Job.lasting, Job.still, Option.map_map, Function.comp_def], lasting_endHaloWait, hg]
    exact congrArg g ((lasting_of_spindles (by rfl) m).trans ((lasting_dropTxns ..).trans (lasting_leave ..)))

/-- What accesses, claims and stops leave of spindle n. -/
def Engine.kept (e : Engine) (n : Sp) : Spindle := { e.lasting n with work := { (e.lasting n).work with hankWait := 0 } }

theorem Engine.kept_of_lasting {e e' : Engine} {m : Sp} (h : e'.lasting m = e.lasting m) : e'.kept m = e.kept m := by
  rw [kept, h, ← kept]

theorem Engine.kept_of_still {e e' : Engine} {m : Sp} (h : e'.still m = e.still m) : e'.kept m = e.kept m := kept_of_lasting (lasting_of_still h)

theorem Engine.kept_modJob (e : Engine) (n m : Sp) (id : Nat) (f : Job → Job) (hf : ∀ x, (f x).lasting = x.lasting) :
    (e.modJob n id f).kept m = e.kept m := kept_of_lasting (lasting_modJob e n m id f hf)

theorem Engine.kept_foldl {α : Type} (f : Engine → α → Engine) (m : Sp) (hf : ∀ e a, (f e a).kept m = e.kept m) (as : List α) (e : Engine) :
    (as.foldl f e).kept m = e.kept m :=
  List.foldlRecOn (motive := fun e' => e'.kept m = e.kept m) as f rfl fun e' he a _ => (hf e' a).trans he

theorem Engine.kept_endSideWait (e : Engine) (n : Sp) (x : Job) (m : Sp) : (e.endSideWait n x).kept m = e.kept m := by
  have hcount (w : Word) : (e.draw.2.modSp n fun s => { s with work := { s.work with hankWait := w } }).kept m = e.kept m := by
    by_cases hm : m = n
    · rw [hm, kept, lasting, sp_modSp]
      rfl
    · rw [kept, lasting, sp_modSp_ne _ hm]
      rfl
  unfold endSideWait
  split
  · exact (kept_modJob _ n m x.id _ fun _ => by rfl).trans (hcount _)
  · rfl

theorem Engine.kept_stopOne (e : Engine) (n : Sp) (en : Ending) (x : Job) (m : Sp) : (e.stopOne n en x).kept m = e.kept m :=
  lasting_stopOne (fun s => { s with work := { s.work with hankWait := 0 } }) n x m (fun e => e.kept_endSideWait n x m) e en

theorem Engine.kept_stopSetOf (e : Engine) (n : Sp) (d : Desc) (id : Option Nat) (m : Sp) : (e.stopSetOf n d id).kept m = e.kept m := by
  unfold stopSetOf
  split
  · have hothers (ys : List Job) : (ys.foldl (fun e y => e.stopOne n ⟨2, 0x17, 3, 0⟩ y) e).kept m = e.kept m :=
      kept_foldl _ m (fun e y => kept_stopOne e n _ y m) ys e
    dsimp only
    split
    · exact hothers _
    · exact (kept_of_lasting (lasting_modSp _ n m _ fun _ => by rfl)).trans (hothers _)
  · rfl

@[simp] theorem Engine.kept_stopJob (e : Engine) (n : Sp) (id : Nat) (en : Ending) (m : Sp) : (e.stopJob n id en).kept m = e.kept m := by
  unfold stopJob
  split
  · split
    · rfl
    · exact (kept_stopSetOf ..).trans (kept_stopOne ..)
  · rfl

@[simp] theorem Engine.kept_fault (e : Engine) (n : Sp) (id c d w : Nat) (m : Sp) : (e.fault n id c d w).kept m = e.kept m := kept_stopJob ..

/-! ## What accesses, claims and the end of a job leave of a spindle -/

@[simp] theorem Engine.kept_jobRead (e : Engine) (n : Sp) (id : Nat) (p : Nat × Nat) (a : Addr) (len : Nat) (m : Sp) :
    (e.jobRead n id p a len).kept m = e.kept m := by
  unfold jobRead
  split
  · rfl
  · split
    · rfl
    · split
      · exact kept_fault ..
      · refine kept_of_still ?_
        split
        · dsimp only
          split
          · exact still_lookUp ..
          · exact (still_issue ..).trans (still_lookUp ..)
        · exact still_issue ..

@[simp] theorem Engine.kept_jobWrite (e : Engine) (n : Sp) (id : Nat) (p : Nat × Nat) (a : Addr) (bs : List Byte) (m : Sp) :
    (e.jobWrite n id p a bs).kept m = e.kept m := by
  unfold jobWrite
  split
  · rfl
  · split
    · rfl
    · split
      · exact kept_fault ..
      · exact kept_of_still (still_putDuty ..)

@[simp] theorem Engine.kept_claimFixed (e : Engine) (n : Sp) (id k : Nat) (m : Sp) : (e.claimFixed n id k).kept m = e.kept m := by
  let P (e' : Engine) : Prop := e'.kept m = e.kept m
  refine iteInduction (motive := P) (fun _ => rfl) fun _ => iteInduction (motive := P) (fun _ => kept_fault ..) fun _ =>
    iteInduction (motive := P) (fun _ => ?_) fun _ => ?_
  · exact kept_modJob e n m id _ fun _ => by rfl
  · exact kept_modJob e n m id _ fun _ => by rfl

@[simp] theorem Engine.kept_trySide (e : Engine) (n : Sp) (id : Nat) (m : Sp) : (e.trySide n id).kept m = e.kept m := by
  unfold trySide
  split
  · let P (e' : Engine) : Prop := e'.kept m = e.kept m
    refine iteInduction (motive := P) (fun _ => rfl) fun _ => iteInduction (motive := P) (fun _ => ?_) fun _ => ?_
    · exact kept_modJob e n m id _ fun y => by simp only [Job.lasting, Job.still, Option.map_map, Function.comp_def]
    · exact kept_modJob e n m id _ fun _ => by rfl
  · rfl

@[simp] theorem Engine.kept_finish (e : Engine) (n : Sp) (id : Nat) (m : Sp) : (e.finish n id).kept m = e.kept m := by
  unfold finish
  refine (kept_modJob _ n m id _ fun y => by simp only [Job.lasting, Job.still, Option.map_map, Function.comp_def]).trans ?_
  split
  · exact kept_endSideWait ..
  · rfl

@[simp] theorem Engine.still_readRows (e : Engine) (rows : List RowAt) (found : Ecc) (ue : Bool) (m : Sp) :
    (e.readRows rows found ue).1.still m = e.still m := by
  unfold readRows
  split
  · refine still_of_spindles ?_ m
    unfold eccEntry raiseIf
    split <;> simp
  · exact still_foldl _ m (fun _ _ => by rfl) _ e

@[simp] theorem Engine.still_readSram (e : Engine) (a : Addr) (len : Nat) (found : Ecc) (m : Sp) : (e.readSram a len found).1.still m = e.still m := by
  unfold readSram
  split
  · rfl
  · exact still_readRows ..

/-- The check of the rows that an answered read lies in leaves the spindles. -/
@[simp] theorem Engine.still_arrive (e : Engine) (n : Sp) (x : Job) (p : Nat × Nat) (a : Addr) (len : Nat) (row : Ecc) (m : Sp) :
    (e.arrive n x p a len row).1.still m = e.still m := by
  unfold arrive
  split
  · rfl
  · split
    · rfl
    · dsimp only
      split <;> simp

/-! ## Jobs of kept spindles -/

theorem Engine.jobId?_kept (e : Engine) (n : Sp) (id : Nat) : (e.kept n).jobs.find? (fun x => x.id == id) = (e.jobId? n id).map Job.lasting := by
  have hjobs : (e.kept n).jobs = (e.sp n).jobs.map Job.lasting := rfl
  rw [hjobs, List.find?_map]
  rfl

/-- A job is found after accesses, claims and stops, and is the same but for what they change. -/
theorem Engine.jobId?_of_kept {e e' : Engine} {n : Sp} {id : Nat} {x : Job} (h : e'.kept n = e.kept n) (hx : e.jobId? n id = some x) :
    ∃ y, e'.jobId? n id = some y ∧ y.lasting = x.lasting := by
  have hy := e'.jobId?_kept n id
  rw [h, jobId?_kept, hx, Option.map_some] at hy
  exact Option.map_eq_some_iff.mp hy.symm

theorem Job.strm_of_lasting {x y : Job} (h : y.lasting = x.lasting) (o : Opnd) : y.strm o = x.strm o := by
  cases o
  · exact (congrArg Job.strA h :)
  · exact (congrArg Job.strB h :)

end Sys2Proof.Machine
end

section
/-! PROOFS. Reads and writes of a job that have a place, and the Hank lane of a spindle as its jobs' accesses and ends leave it (R216 to
R241, R271 to R287). -/

namespace Sys2Proof.Machine

/-! ## What decides whether a read has a place (R271 to R287) -/

/-- The tensors of which a part is LOST: beside what a write's place rests on, a read's place rests on them (R287). -/
def Engine.losses (e : Engine) (t : Nat) : Bool := (e.tensor t).lost

/-- A read that has a place has one in an engine with the same image, rebinding, entries and losses. -/
theorem Engine.placeFault_congr {e e' : Engine} (h : e'.placing = e.placing) (hlost : e'.losses = e.losses) (n : Sp) (a : Addr) (len : Nat) :
    e'.placeFault n false a len = e.placeFault n false a len := by
  obtain ⟨hcfg, hact, hentry⟩ : e'.cfg = e.cfg ∧ e'.act = e.act ∧ (fun t => (e'.tensor t).entry) = fun t => (e.tensor t).entry := by
    simpa only [placing, Prod.mk.injEq] using h
  have hconf : e'.conf = e.conf := by rw [conf, hcfg, conf]
  have hplace (t : Nat) : e'.placeE t = e.placeE t := by rw [placeE, congrFun hentry t, hconf, placeE]
  have hloss (t : Nat) : (e'.tensor t).lost = (e.tensor t).lost := congrFun hlost t
  have hat (c : Addr) : e'.placeFaultAt n false c = e.placeFaultAt n false c := by
    cases c <;> simp [placeFaultAt, hconf, hplace, hloss, bankAway, hact]
  simp only [placeFault, hat]

theorem Engine.losses_of_tensors {e e' : Engine} (h : e'.tensors = e.tensors) : e'.losses = e.losses := by
  funext t
  rw [losses, losses, tensor, h, ← tensor]

@[simp] theorem Engine.losses_modSp (e : Engine) (n : Sp) (f : Spindle → Spindle) : (e.modSp n f).losses = e.losses := rfl
@[simp] theorem Engine.losses_modJob (e : Engine) (n : Sp) (id : Nat) (f : Job → Job) : (e.modJob n id f).losses = e.losses := rfl

@[simp] theorem Engine.losses_issue (e : Engine) (n : Sp) (id : Nat) (w : Bool) (p : Nat × Nat) (ls : List Nat) :
    (e.issue n id w p ls).losses = e.losses := by
  unfold issue
  split
  · rfl
  · unfold pump
    split <;> rfl

@[simp] theorem Engine.losses_lookUp (e : Engine) (n : Sp) (t : Nat) : (e.lookUp n t).losses = e.losses := by
  unfold lookUp; split <;> rfl

/-- A tensor that stays placed and keeps its losses, and the others keep theirs. -/
theorem Engine.losses_modTensor (e : Engine) (t : Nat) (f : Tensor → Tensor) (hplaced : (f (e.tensor t)).placed = true)
    (hlost : (f (e.tensor t)).lost = (e.tensor t).lost) : (e.modTensor t f).losses = e.losses := by
  have hne : f (e.tensor t) ≠ {} := fun h => by simp [h] at hplaced
  funext k
  by_cases hk : k = t
  · subst hk
    have hput : (e.modTensor k f).tensor k = f (e.tensor k) := by
      rw [tensor, modTensor, Tab.getD, Tab.put, if_neg hne, Tab.get?_ins, Option.getD_some]
    rw [losses, hput, hlost, ← losses]
  · rw [losses, tensor, modTensor, Tab.getD_put_ne _ hk, ← tensor, ← losses]

/-- Bytes that a job puts at an address lose no part; a tensor that they lie in is placed. -/
theorem Engine.losses_putJob (e : Engine) (n : Sp) (id : Nat) (p : Nat × Nat) (a : Addr) (bs : List Byte)
    (h : ∀ t off, a = .placed t off → (e.tensor t).placed = true) : (e.putJob n id p a bs).losses = e.losses := by
  have hwrite (a : Addr) : (e.writeAt a bs).losses = e.losses := losses_of_tensors (e.writeAt_fields a bs).2.2
  have hbytes : (e.putBytes n a bs).losses = e.losses := by
    unfold putBytes
    cases a with
    | placed t off =>
      have htensor : (e.writeAt (.placed t off) bs).tensor t = e.tensor t := by rw [tensor, (e.writeAt_fields _ bs).2.2, ← tensor]
      have hplaced : ((e.writeAt (.placed t off) bs).tensor t).placed = true := by
        rw [htensor]
        exact h t off rfl
      exact (losses_modTensor (e.writeAt (.placed t off) bs) t (fun x => { x with high := max x.high (off + bs.length) }) hplaced rfl).trans (hwrite _)
    | mem a => exact hwrite _
    | bobbin a => exact hwrite _
    | bad => exact hwrite _
  unfold putJob
  dsimp only
  rw [losses_issue, losses_modJob, hbytes]

@[simp] theorem Engine.losses_pushHeld (n : Sp) (id t fuel : Nat) (e : Engine) : (e.pushHeld n id t fuel).losses = e.losses := by
  induction fuel generalizing e with
  | zero => rfl
  | succ fuel ih =>
    simp only [pushHeld]
    split
    · rfl
    · split
      · rfl
      · split
        · rfl
        · split
          · rename_i hcovered
            rw [ih, losses_putJob, losses_modJob]
            rintro t' off h
            obtain ⟨rfl, -⟩ := Addr.placed.inj h
            exact (Bool.and_eq_true_iff.mp hcovered).1
          · split <;> rfl

@[simp] theorem Engine.losses_putDuty (e : Engine) (n : Sp) (id : Nat) (p : Nat × Nat) (a : Addr) (bs : List Byte) :
    (e.putDuty n id p a bs).losses = e.losses := by
  unfold putDuty
  split
  · unfold releaseHeld
    split <;> simp
  · rename_i hne
    exact losses_putJob _ _ _ _ _ _ fun t off h => absurd h (hne t off)

/-! ## Accesses that have a place -/

/-- Engines with the same jobs but for what accesses change, in which the same reads and writes have a place. -/
structure Engine.Alike (n : Sp) (e e' : Engine) : Prop where
  still : e'.still n = e.still n
  placing : e'.placing = e.placing
  losses : e'.losses = e.losses

theorem Engine.Alike.refl (n : Sp) (e : Engine) : Alike n e e := ⟨rfl, rfl, rfl⟩

theorem Engine.Alike.trans {n : Sp} {e e' e'' : Engine} (h : Alike n e e') (h' : Alike n e' e'') : Alike n e e'' :=
  ⟨h'.still.trans h.still, h'.placing.trans h.placing, h'.losses.trans h.losses⟩

theorem Engine.Alike.placeFault {n : Sp} {e e' : Engine} (h : Alike n e e') (a : Addr) (len : Nat) :
    e'.placeFault n false a len = e.placeFault n false a len := placeFault_congr h.placing h.losses n a len

theorem Engine.Alike.writeFault {n : Sp} {e e' : Engine} (h : Alike n e e') (a : Addr) (len : Nat) :
    e'.writeFault n a len = e.writeFault n a len := writeFault_congr h.placing n a len

theorem Engine.Alike.issue (n : Sp) (e : Engine) (id : Nat) (w : Bool) (p : Nat × Nat) (ls : List Nat) : Alike n e (e.issue n id w p ls) :=
  ⟨by simp, by simp, by simp⟩

/-- A read that has a place leaves its job as it is (R271 to R287). -/
theorem Engine.jobRead_alike {e : Engine} {n : Sp} {a : Addr} {len : Nat} (h : e.placeFault n false a len = none) (id : Nat) (p : Nat × Nat) :
    Alike n e (e.jobRead n id p a len) := by
  unfold jobRead
  split
  · exact .refl n e
  · split
    · exact .refl n e
    · rw [h]
      dsimp only
      split
      · rename_i t _
        have hlook : Alike n e (e.lookUp n t) := ⟨by simp, by simp, by simp⟩
        split
        · exact hlook.trans ⟨rfl, rfl, rfl⟩
        · exact hlook.trans (.issue ..)
      · exact .issue ..

/-- A write that has a place leaves its job as it is (R271 to R287). -/
theorem Engine.jobWrite_alike {e : Engine} {n : Sp} {a : Addr} {bs : List Byte} (h : e.writeFault n a bs.length = none) (id : Nat) (p : Nat × Nat) :
    Alike n e (e.jobWrite n id p a bs) := by
  unfold jobWrite
  split
  · exact .refl n e
  · split
    · exact .refl n e
    · rw [h]
      exact ⟨by simp, by simp, by simp⟩

/-! ## A run of accesses faults its job, or leaves it -/

/-- What a run of accesses of a job comes to: they leave it as it was, or one of them has faulted it. -/
def Engine.Accesses (n : Sp) (id : Nat) (e e' : Engine) : Prop :=
  e'.still n = e.still n ∨
    ∃ (e1 : Engine) (c d w : Nat), e1.still n = e.still n ∧ e1.jobLive n id = true ∧ e'.still n = (e1.fault n id c d w).still n

theorem Engine.jobLive_fault (e : Engine) (n : Sp) (id c d w : Nat) : (e.fault n id c d w).jobLive n id = false := by
  cases hx : e.jobId? n id with
  | none =>
    have hsame : e.fault n id c d w = e := by simp [fault, stopJob, hx]
    rw [hsame, jobLive, hx]
  | some x =>
    cases hended : x.ended with
    | none =>
      obtain ⟨y, hy, hfault⟩ := ended_fault hx hended c d w
      rw [jobLive_of_jobId? hy, hfault]
      rfl
    | some en =>
      have hsame : e.fault n id c d w = e := by simp [fault, stopJob, hx, hended]
      rw [hsame, jobLive_of_jobId? hx, hended]
      rfl

theorem Engine.Accesses.refl (n : Sp) (id : Nat) (e : Engine) : Accesses n id e e := .inl rfl

theorem Engine.Accesses.trans {n : Sp} {id : Nat} {e e' e'' : Engine} (h : Accesses n id e e') (h' : Accesses n id e' e'') :
    Accesses n id e e'' := by
  rcases h' with hsame' | ⟨e1, c, d, w, hsame', hlive, hfault'⟩
  · rcases h with hsame | ⟨e1, c, d, w, hsame, hlive, hfault⟩
    · exact .inl (hsame'.trans hsame)
    · exact .inr ⟨e1, c, d, w, hsame, hlive, hsame'.trans hfault⟩
  · rcases h with hsame | ⟨e0, c', d', w', -, -, hfault⟩
    · exact .inr ⟨e1, c, d, w, hsame'.trans hsame, hlive, hfault'⟩
    · rw [jobLive_of_still (congrArg Spindle.jobs (hsame'.trans hfault)), jobLive_fault] at hlive
      exact absurd hlive (by decide)

theorem Engine.Accesses.fault (n : Sp) (id : Nat) (e : Engine) (c d w : Nat) : Accesses n id e (e.fault n id c d w) := by
  cases hlive : e.jobLive n id with
  | true => exact .inr ⟨e, c, d, w, rfl, hlive, rfl⟩
  | false =>
    rw [fault_of_not_jobLive hlive]
    exact .refl n id e

theorem Engine.Accesses.jobRead (n : Sp) (id : Nat) (e : Engine) (p : Nat × Nat) (a : Addr) (len : Nat) : Accesses n id e (e.jobRead n id p a len) := by
  cases hplace : e.placeFault n false a len with
  | none => exact .inl (jobRead_alike hplace id p).still
  | some f =>
    unfold Engine.jobRead
    rw [hplace]
    split
    · exact .refl n id e
    · split
      · exact .refl n id e
      · exact .fault n id e ..

theorem Engine.Accesses.jobWrite (n : Sp) (id : Nat) (e : Engine) (p : Nat × Nat) (a : Addr) (bs : List Byte) :
    Accesses n id e (e.jobWrite n id p a bs) := by
  cases hplace : e.writeFault n a bs.length with
  | none => exact .inl (jobWrite_alike hplace id p).still
  | some f =>
    unfold Engine.jobWrite
    rw [hplace]
    split
    · exact .refl n id e
    · split
      · exact .refl n id e
      · exact .fault n id e ..

/-- A fault of a job that waits for no side and stands in no step set leaves the count of Hank waits (R241). -/
theorem Engine.hankWait_fault {e : Engine} {n : Sp} {id : Nat} {x : Job} (hx : e.jobId? n id = some x) (hside : x.sideFrom = none)
    (hstep : x.desc.step = false) (c d w : Nat) : ((e.fault n id c d w).sp n).work.hankWait = (e.sp n).work.hankWait := by
  have hone (en : Ending) : ((e.stopOne n en x).sp n).work.hankWait = (e.sp n).work.hankWait :=
    lasting_stopOne (fun s => s.work.hankWait) n x n (fun e => by simp [endSideWait, hside]) e en
  unfold fault stopJob
  rw [hx]
  dsimp only
  split
  · rfl
  · rw [stopSet, stopSetOf, hstep]
    exact hone _

/-- So accesses leave that count where the job goes on, or stands in no step set. -/
theorem Engine.Accesses.hankWait {n : Sp} {id : Nat} {e e' : Engine} (h : Accesses n id e e') {x y : Job} (hx : e.jobId? n id = some x)
    (hside : x.sideFrom = none) (hy : e'.jobId? n id = some y) (hend : y.ended = none ∨ x.desc.step = false) :
    (e'.sp n).work.hankWait = (e.sp n).work.hankWait := by
  have hcount {e e' : Engine} (h : e'.still n = e.still n) : (e'.sp n).work.hankWait = (e.sp n).work.hankWait :=
    (congrArg (fun s : Spindle => s.work.hankWait) h :)
  rcases h with hsame | ⟨e1, c, d, w, hsame, hlive, hfault⟩
  · exact hcount hsame
  · obtain ⟨z, hz, hstill⟩ := jobId?_of_still hsame hx
    have hdesc : z.desc = x.desc := (congrArg Job.desc hstill :)
    rcases hend with hend | hstep
    · have hdead := jobLive_fault e1 n id c d w
      rw [← jobLive_of_still (congrArg Spindle.jobs hfault), jobLive_of_jobId? hy, hend] at hdead
      exact absurd hdead (by decide)
    · rw [hcount hfault, hankWait_fault hz (((congrArg Job.sideFrom hstill :)).trans hside) (by rw [hdesc, hstep]), hcount hsame]

/-! ## The Hank lane of a spindle (R218, R219, R241) -/

/-- The tables and counts of a spindle's Hank lane. -/
structure HankLane where
  gen : BitVec 16
  heads : Tab Word
  links : Tab Nat
  enc : Word
  stored : Word
  dec : Word
  err : Word

def Spindle.hankLane (s : Spindle) : HankLane :=
  ⟨s.hankGen, s.hankHeads, s.hankLinks, s.work.hankEnc, s.work.hankStored, s.work.hankDec, s.work.hankErr⟩

theorem Engine.hankLane_of_kept {e e' : Engine} {n : Sp} (h : e'.kept n = e.kept n) : (e'.sp n).hankLane = (e.sp n).hankLane :=
  (congrArg Spindle.hankLane h :)

/-- The Hank lane of spindle n stands so, and the Hank side of its job with a number meets P. -/
def Engine.HankIs (e : Engine) (n : Sp) (id : Nat) (c : HankLane) (P : Hank → Prop) : Prop :=
  (e.sp n).hankLane = c ∧ ∃ x k, e.jobId? n id = some x ∧ x.hank = some k ∧ P k

section
variable {e e' : Engine} {n : Sp} {id : Nat} {c : HankLane} {P Q : Hank → Prop}

/-- Accesses, claims and stops leave what a Hank side has done; whether the job holds its side is not part of it. -/
theorem Engine.HankIs.of_kept (h : e.HankIs n id c P) (hkept : e'.kept n = e.kept n) (hP : ∀ k b, P k → P { k with held := b }) :
    e'.HankIs n id c P := by
  obtain ⟨hlane, x, k, hx, hk, hPk⟩ := h
  obtain ⟨y, hy, hsame⟩ := jobId?_of_kept hkept hx
  have hhank : (y.hank.map fun k => { k with held := false }) = x.hank.map fun k => { k with held := false } := congrArg Job.hank hsame
  rw [hk, Option.map_some] at hhank
  obtain ⟨q, hq, hqk⟩ := Option.map_eq_some_iff.mp hhank
  refine ⟨(hankLane_of_kept hkept).trans hlane, y, q, hy, hq, ?_⟩
  have hfree := hP k false hPk
  rw [← hqk] at hfree
  exact hP { q with held := false } q.held hfree

/-- A change of the job's Hank side carries what it meets on. -/
theorem Engine.HankIs.modHank (h : e.HankIs n id c P) (f : Job → Job) (g : Hank → Hank) (hid : ∀ x, (f x).id = x.id)
    (hf : ∀ x, (f x).hank = x.hank.map g) (hg : ∀ k, P k → Q (g k)) : (e.modJob n id f).HankIs n id c Q := by
  obtain ⟨hlane, x, k, hx, hk, hPk⟩ := h
  refine ⟨?_, f x, g k, jobId?_modJob_of hx hid, by rw [hf, hk, Option.map_some], hg k hPk⟩
  rw [modJob, sp_modSp]
  exact hlane

/-- A change of the spindle beside its jobs changes the lane alone. -/
theorem Engine.HankIs.modSp (h : e.HankIs n id c P) (f : Spindle → Spindle) (hf : ∀ s, (f s).jobs = s.jobs) :
    (e.modSp n f).HankIs n id (f (e.sp n)).hankLane P := by
  obtain ⟨-, x, k, hx, hk, hPk⟩ := h
  refine ⟨by rw [sp_modSp], x, k, ?_, hk, hPk⟩
  rw [jobId?, sp_modSp, hf, ← jobId?, hx]

end

end Sys2Proof.Machine
end

section
/-! PROOFS. The Hank codec (08_hank_lossless): side grants, the encoder's stages, and the decoder's headers, entries and blocks (R217 to
R241). -/

namespace Sys2Proof.Machine

/-! ## The accesses of a Hank job -/

theorem Engine.Accesses.kept {n : Sp} {id : Nat} {e e' : Engine} (h : Accesses n id e e') : e'.kept n = e.kept n := by
  rcases h with hsame | ⟨e1, c, d, w, hsame, -, hfault⟩
  · exact kept_of_still hsame
  · rw [kept_of_still hfault, kept_fault, kept_of_still hsame]

/-- Accesses leave their job as it was, or ended. -/
theorem Engine.Accesses.still_or_ended {n : Sp} {id : Nat} {e e' : Engine} (h : Accesses n id e e') {x : Job} (hx : e.jobId? n id = some x) :
    ∃ y, e'.jobId? n id = some y ∧ (y.still = x.still ∨ y.ended.isSome = true) := by
  rcases h with hsame | ⟨e1, c, d, w, hsame, -, hfault⟩
  · obtain ⟨y, hy, hstill⟩ := jobId?_of_still hsame hx
    exact ⟨y, hy, .inl hstill⟩
  · obtain ⟨y, hy, -⟩ := jobId?_of_kept (kept_of_still hsame) hx
    obtain ⟨z, hz, -⟩ := jobId?_of_kept (kept_fault e1 n id c d w n) hy
    obtain ⟨u, hu, hstill⟩ := jobId?_of_still hfault hz
    have hdead := jobLive_fault e1 n id c d w
    rw [← jobLive_of_still (congrArg Spindle.jobs hfault), jobLive_of_jobId? hu] at hdead
    exact ⟨u, hu, .inr (by simpa using hdead)⟩

theorem Engine.Accesses.askBlock (n : Sp) (id : Nat) (e : Engine) (b : HankBlk) (k : Nat) : Accesses n id e (e.askBlock n id b k) :=
  iteInduction (motive := Accesses n id e) (fun _ => .jobRead n id e ..) fun _ => .refl n id e

theorem Engine.Accesses.hankWrite (n : Sp) (e : Engine) (x : Job) (b : HankBlk) (p : Nat × Nat) (off : Nat) (bs : List Byte) :
    Accesses n x.id e (e.hankWrite n x b p off bs) :=
  iteInduction (motive := Accesses n x.id e) (fun _ => .fault n x.id e ..) fun _ => .jobWrite n x.id e ..

/-- A block of the source that has its place is asked for. -/
theorem Engine.askBlock_alike {e : Engine} {n : Sp} {b : HankBlk} (hfree : ∀ off len, e.placeFault n false ((Addr.parse b.srcAddr).plus off) len = none)
    (id k : Nat) : Alike n e (e.askBlock n id b k) :=
  iteInduction (motive := Alike n e) (fun _ => jobRead_alike (hfree ..) id _) fun _ => .refl n e

/-- A part of a frame that has its place and room is written. -/
theorem Engine.hankWrite_alike {e : Engine} {n : Sp} {b : HankBlk} {off : Nat} {bs : List Byte} (hroom : off + bs.length ≤ b.dstSpace)
    (hplace : e.writeFault n ((Addr.parse b.dstAddr).plus off) bs.length = none) (x : Job) (p : Nat × Nat) :
    Alike n e (e.hankWrite n x b p off bs) := by
  rw [hankWrite, if_neg (Nat.not_lt.mpr hroom)]
  exact jobWrite_alike hplace x.id p

/-! ## A side is granted (R235, R241) -/

/-- The job with its side, and no wait for it. -/
def Job.granted (x : Job) : Job := { x with hank := x.hank.map fun k => { k with held := true }, sideFrom := none }

/-- A Hank job's first accesses: its frame's MAGIC and the first two blocks of its source, or the header of the frame that it decodes (R226). -/
def Engine.hankStart (e : Engine) (n : Sp) (x : Job) (b : HankBlk) : Engine :=
  if b.op = 0 then ((e.askBlock n x.id b 0).askBlock n x.id b 1).hankWrite n x b wHank 0 (leBytes 4 0)
  else e.jobRead n x.id pHankHdr (Addr.parse b.srcAddr) 64

theorem Engine.hankStart_accesses (e : Engine) (n : Sp) (x : Job) (b : HankBlk) : Accesses n x.id e (e.hankStart n x b) :=
  iteInduction (motive := Accesses n x.id e)
    (fun _ => ((Accesses.askBlock n x.id e b 0).trans (.askBlock ..)).trans (.hankWrite ..)) fun _ => .jobRead n x.id e ..

theorem Engine.hankStart_alike {e : Engine} {n : Sp} {b : HankBlk} (hfree : ∀ off len, e.placeFault n false ((Addr.parse b.srcAddr).plus off) len = none)
    (hplace : e.writeFault n (Addr.parse b.dstAddr) 4 = none) (hroom : 4 ≤ b.dstSpace) (x : Job) : Alike n e (e.hankStart n x b) := by
  unfold hankStart
  split
  · have hfirst := askBlock_alike hfree x.id 0
    have hboth := hfirst.trans (askBlock_alike (fun off len => (hfirst.placeFault _ len).trans (hfree off len)) x.id 1)
    refine hboth.trans (hankWrite_alike (by simpa using hroom) ?_ x wHank)
    rw [Addr.plus_zero, length_leBytes, hboth.writeFault, hplace]
  · refine jobRead_alike ?_ x.id pHankHdr
    have h := hfree 0 64
    rwa [Addr.plus_zero] at h

theorem Engine.hankBegin_eq {e : Engine} {n : Sp} {x : Job} {k : Hank} {b : HankBlk} (hx : e.jobId? n x.id = some x) (hk : x.hank = some k)
    (hb : x.desc.hank = some b) :
    e.hankBegin n x.id = if x.begun || !x.acts || !k.held then e else (e.modJob n x.id fun y => { y with begun := true }).hankStart n x b := by
  unfold hankBegin
  rw [hx]
  simp only [hk, hb]
  rfl

section
variable {n : Sp} {s : State} {side : HankSide} {x : Job} (waited : Nat) (hwaiter : s.eng.sideWaiter n side = some x)
  (hid : s.eng.jobId? n x.id = some x) (hlive : s.eng.live = true) (hfree : s.eng.sideFree n side = true)

/-- The engine with the wait for a side counted and the side given to the job. -/
def Engine.sideGiven (e : Engine) (n : Sp) (id waited : Nat) : Engine :=
  (e.modSp n fun p => { p with work := { p.work with hankWait := satAdd p.work.hankWait waited } }).modJob n id Job.granted

theorem Engine.work_sideGiven (e : Engine) (n : Sp) (id : Nat) :
    ((e.sideGiven n id waited).sp n).work.hankWait = satAdd (e.sp n).work.hankWait waited := by
  rw [sideGiven, modJob, sp_modSp, sp_modSp]

include hid in
theorem Engine.jobId?_sideGiven : (s.eng.sideGiven n x.id waited).jobId? n x.id = some x.granted := by
  refine jobId?_modJob_of ?_ fun _ => by rfl
  rw [jobId?, sp_modSp]
  exact hid

include hwaiter in
theorem Engine.waits_of_sideWaiter : x.waitsSide = true ∧ x.side = side := by
  simpa using List.find?_some hwaiter

include hwaiter hid hlive hfree in
theorem exec_hankSideGrant : exec (.hankSideGrant n side waited) s = .next (s.onEng fun e => (e.sideGiven n x.id waited).hankBegin n x.id) := by
  obtain ⟨hwaits, hside⟩ := Engine.waits_of_sideWaiter hwaiter
  refine congrArg (fun e => Host.Outcome.next { s with eng := e }) ?_
  simp only [hwaiter, hlive, hfree, Bool.and_self, if_true]
  refine congrArg (fun e : Engine => e.hankBegin n x.id) ?_
  set e0 := s.eng.modSp n fun p => { p with work := { p.work with hankWait := satAdd p.work.hankWait waited } } with he0
  have hjobs : (e0.sp n).jobs = (s.eng.sp n).jobs := by rw [he0, Engine.sp_modSp]
  have hx : e0.jobId? n x.id = some x := by rw [Engine.jobId?, hjobs, ← Engine.jobId?, hid]
  have hfirst : e0.sideWaiter n side = some x := by rw [Engine.sideWaiter, hjobs, ← Engine.sideWaiter, hwaiter]
  have hopen : e0.sideFree n side = true := by rw [Engine.sideFree, hjobs, ← Engine.sideFree, hfree]
  unfold Engine.trySide
  rw [hx]
  simp only [hwaits, hside, hfirst, hopen, Bool.not_true, Bool.false_eq_true, if_false, beq_self_eq_true, Bool.and_self, if_true]
  rfl

/-- Accesses after a grant leave the side held, or have ended the job. -/
theorem Engine.Accesses.granted {e e' : Engine} {id : Nat} (h : Accesses n id e e') {y : Job} {k : Hank} (hy : e.jobId? n id = some y)
    (hk : y.hank = some k) (hheld : k.held = true) (hside : y.sideFrom = none) :
    ∃ z q, e'.jobId? n id = some z ∧ (z.ended = none ∨ y.desc.step = false → (e'.sp n).work.hankWait = (e.sp n).work.hankWait) ∧
      z.hank = some q ∧ (q.held = true ∨ z.ended.isSome = true) := by
  obtain ⟨z, hz, hcases⟩ := h.still_or_ended hy
  have hcount := fun hend => h.hankWait hy hside hz hend
  rcases hcases with hstill | hended
  · exact ⟨z, k, hz, hcount, (congrArg Job.hank hstill :).trans hk, .inl hheld⟩
  · obtain ⟨z', hz', hsame⟩ := jobId?_of_kept h.kept hy
    obtain rfl : z = z' := Option.some.inj (hz.symm.trans hz')
    have hhank : (z.hank.map fun k => { k with held := false }) = y.hank.map fun k => { k with held := false } := (congrArg Job.hank hsame :)
    rw [hk, Option.map_some] at hhank
    obtain ⟨q, hq, -⟩ := Option.map_eq_some_iff.mp hhank
    exact ⟨z, q, hz, hcount, hq, .inr hended⟩

end

theorem Job.hank_granted {x : Job} {k : Hank} (h : x.hank = some k) : x.granted.hank = some { k with held := true } := by
  rw [granted, h, Option.map_some]

/-- Reads that cannot fault cannot in an engine with the same entries and losses. -/
theorem placeFault_of_freeToRead {s : State} {n : Sp} {a : Addr} (h : freeToRead s n a) {e : Engine} (hplacing : e.placing = s.eng.placing)
    (hlosses : e.losses = s.eng.losses) (off len : Nat) : e.placeFault n false (a.plus off) len = none :=
  (Engine.placeFault_congr hplacing hlosses ..).trans (h off len)

/-- A side that is granted is held, or the job's first access has ended it (R235, R241). -/
theorem exec_hankSideGrant_of_codec {n : Sp} {s : State} {side : HankSide} {x : Job} {b : HankBlk} (waited : Nat)
    (hwaiter : s.eng.sideWaiter n side = some x) (hid : s.eng.jobId? n x.id = some x) (hb : x.desc.hank = some b) (hlive : s.eng.live = true)
    (hfree : s.eng.sideFree n side = true) :
    ∃ t y k, exec (.hankSideGrant n side waited) s = .next t ∧ t.sec = s.sec ∧ t.eng.jobId? n x.id = some y ∧
      (y.ended = none ∨ x.desc.step = false → (t.eng.sp n).work.hankWait = satAdd (s.eng.sp n).work.hankWait waited) ∧
      y.hank = some k ∧ (k.held = true ∨ y.ended.isSome = true) ∧
      (freeToRead s n (Addr.parse b.srcAddr) → s.eng.writeFault n (Addr.parse b.dstAddr) 4 = none → 4 ≤ b.dstSpace →
        k.held = true ∧ y.ended = none) := by
  have hexec := exec_hankSideGrant waited hwaiter hid hlive hfree
  obtain ⟨hwaits, -⟩ := Engine.waits_of_sideWaiter hwaiter
  obtain ⟨k, hk, hended⟩ : ∃ k, x.hank = some k ∧ x.ended = none := by
    unfold Job.waitsSide at hwaits
    split at hwaits
    · rename_i k hk
      exact ⟨k, hk, by simpa using (Bool.and_eq_true_iff.mp hwaits).2⟩
    · exact absurd hwaits (by decide)
  have hx := Engine.jobId?_sideGiven waited hid
  have hkg := Job.hank_granted hk
  have hbegin := Engine.hankBegin_eq (x := x.granted) hx hkg hb
  split at hbegin
  · refine ⟨_, x.granted, _, hexec, rfl, (congrArg (fun e : Engine => e.jobId? n x.id) hbegin).trans hx, fun _ => ?_, hkg, .inl rfl,
      fun _ _ _ => ⟨rfl, hended⟩⟩
    rw [State.onEng_eng, show (s.eng.sideGiven n x.id waited).hankBegin n x.id = _ from hbegin, Engine.work_sideGiven]
  · set e1 := (s.eng.sideGiven n x.id waited).modJob n x.granted.id fun y => { y with begun := true } with he1
    have hx1 : e1.jobId? n x.id = some { x.granted with begun := true } := Engine.jobId?_modJob_of hx fun _ => by rfl
    have hcount : (e1.sp n).work.hankWait = satAdd (s.eng.sp n).work.hankWait waited := by
      rw [he1, Engine.modJob, Engine.sp_modSp]
      exact Engine.work_sideGiven ..
    obtain ⟨y, q, hy, hwait, hq, hheld⟩ := (e1.hankStart_accesses n x.granted b).granted hx1 hkg rfl rfl
    refine ⟨_, y, q, hexec, rfl, (congrArg (fun e : Engine => e.jobId? n x.id) hbegin).trans hy, fun hend => ?_, hq, hheld,
      fun hread hwrite hroom => ?_⟩
    · exact (congrArg (fun e : Engine => (e.sp n).work.hankWait) hbegin).trans ((hwait hend).trans hcount)
    · have halike : Engine.Alike n e1 (e1.hankStart n x.granted b) :=
        Engine.hankStart_alike (placeFault_of_freeToRead hread (by rfl) (by rfl)) ((Engine.writeFault_congr (by rfl) ..).trans hwrite) hroom _
      obtain ⟨z, hz, hstill⟩ := Engine.jobId?_of_still halike.still hx1
      obtain rfl : y = z := Option.some.inj (hy.symm.trans hz)
      have hsame : y.hank = some { k with held := true } := (congrArg Job.hank hstill :).trans hkg
      obtain rfl := Option.some.inj (hq.symm.trans hsame)
      exact ⟨rfl, (congrArg Job.ended hstill :).trans hended⟩

/-- A job whose stream is wrapped takes its side, and goes on with its own work later (R235, R239). -/
theorem exec_hankSideGrant_of_wrapped {n : Sp} {s : State} {side : HankSide} {x : Job} (waited : Nat)
    (hwaiter : s.eng.sideWaiter n side = some x) (hid : s.eng.jobId? n x.id = some x) (hb : x.desc.hank = none) (hlive : s.eng.live = true)
    (hfree : s.eng.sideFree n side = true) :
    ∃ t y k, exec (.hankSideGrant n side waited) s = .next t ∧ t.sec = s.sec ∧
      (t.eng.sp n).work.hankWait = satAdd (s.eng.sp n).work.hankWait waited ∧
      t.eng.jobId? n x.id = some y ∧ y.hank = some k ∧ k.held = true ∧ y.ended = x.ended := by
  have hexec := exec_hankSideGrant waited hwaiter hid hlive hfree
  obtain ⟨hwaits, -⟩ := Engine.waits_of_sideWaiter hwaiter
  have hx := Engine.jobId?_sideGiven waited hid
  have hbegin : (s.eng.sideGiven n x.id waited).hankBegin n x.id = s.eng.sideGiven n x.id waited := by
    unfold Engine.hankBegin
    rw [hx]
    simp [Job.granted, hb]
  simp only [State.onEng, hbegin] at hexec
  unfold Job.waitsSide at hwaits
  split at hwaits
  · rename_i k hk
    exact ⟨_, _, _, hexec, rfl, Engine.work_sideGiven .., hx, Job.hank_granted hk, rfl, rfl⟩
  · exact absurd hwaits (by decide)

/-! ## The encoder's stages (R217 to R227, R237) -/

theorem Engine.hankIs_of_jobId? {e : Engine} {n : Sp} {id : Nat} {x : Job} {k : Hank} (hx : e.jobId? n id = some x) (hk : x.hank = some k) :
    e.HankIs n id (e.sp n).hankLane (· = k) := ⟨rfl, x, k, hx, hk, rfl⟩

theorem Engine.HankIs.of_accesses {e e' : Engine} {n : Sp} {id : Nat} {c : HankLane} {P : Hank → Prop} (h : e.HankIs n id c P)
    (ha : Accesses n id e e') (hP : ∀ k b, P k → P { k with held := b }) : e'.HankIs n id c P := h.of_kept ha.kept hP

/-- A job that goes on after accesses that have their place. -/
theorem Engine.Alike.ended {n : Sp} {id : Nat} {e e' : Engine} (h : Alike n e e') {x y : Job} (hx : e.jobId? n id = some x)
    (hy : e'.jobId? n id = some y) : y.ended = x.ended := by
  obtain ⟨z, hz, hstill⟩ := jobId?_of_still h.still hx
  obtain rfl : y = z := Option.some.inj (hy.symm.trans hz)
  exact (congrArg Job.ended hstill :)

theorem le_roundUp_sixteen (k : Nat) : k ≤ roundUp k 16 := by
  unfold roundUp ceilDiv
  omega

section
variable {n : Sp} {j : Nat} {s : State} {x : Job} {k : Hank} {b : HankBlk} (hx : worksAt s n j x) (hk : x.hank = some k) (hb : x.desc.hank = some b)
include hx hk hb

theorem exec_hankMatchDone_of_arrived (bad : List (Fin 65536)) (hop : b.op = 0) (hheld : k.held = true) (hbegun : x.begun = true)
    (hmatched : k.matched = none) (hnext : k.next < b.frame.blockCount)
    (hread : readIsIn s n x (pHankData k.next) ((Addr.parse b.srcAddr).plus (k.next * hankB b.blockSize)) (b.frame.blockLen k.next)) :
    let r := hankMatch b.blockSize b.chainDepth ((s.eng.sp n).hankGen + 1).toNat (s.eng.sp n).hankHeads (s.eng.sp n).hankLinks (bad.map (·.val))
      (s.eng.readAt ((Addr.parse b.srcAddr).plus (k.next * hankB b.blockSize)) (b.frame.blockLen k.next))
    ∃ t y q, exec (.hankMatchDone n ⟨j, bad⟩) s = .next t ∧ t.sec = s.sec ∧
      (t.eng.sp n).hankLane = { (s.eng.sp n).hankLane with gen := (s.eng.sp n).hankGen + 1, heads := r.2.1, links := r.2.2 } ∧
      t.eng.jobId? n x.id = some y ∧ y.hank = some q ∧ q.next = k.next + 1 ∧ q.matched = some (k.next, r.1) ∧
      (freeToRead s n (Addr.parse b.srcAddr) → y.ended = none) := by
  intro r
  have hexec : exec (.hankMatchDone n ⟨j, bad⟩) s = .next (s.onEng fun e =>
      ((e.modSp n fun p => { p with hankGen := (s.eng.sp n).hankGen + 1, hankHeads := r.2.1, hankLinks := r.2.2 }).modJob n x.id fun y =>
        { y with hank := y.hank.map fun h => { h with next := k.next + 1, matched := some (k.next, r.1) } }).askBlock n x.id b (k.next + 2)) := by
    change done (s.onEng _) = _
    simp only [done, State.onEng, Engine.withJob_of_worksAt hx, hk, hb, Engine.arrive_of_readIsIn hread, Engine.onArrive]
    rw [if_neg (by simp [hop, hheld, hbegun, hmatched, hnext])]
  have hid := Engine.jobId?_of_worksAt hx
  clear_value r
  set e0 := s.eng.modSp n fun p => { p with hankGen := (s.eng.sp n).hankGen + 1, hankHeads := r.2.1, hankLinks := r.2.2 } with he0
  set e1 := e0.modJob n x.id fun y => { y with hank := y.hank.map fun h => { h with next := k.next + 1, matched := some (k.next, r.1) } } with he1
  have hside : e1.HankIs n x.id { (s.eng.sp n).hankLane with gen := (s.eng.sp n).hankGen + 1, heads := r.2.1, links := r.2.2 }
      fun q => q.next = k.next + 1 ∧ q.matched = some (k.next, r.1) := by
    refine ((Engine.hankIs_of_jobId? hid hk).modSp _ fun _ => by rfl).modHank _
      (fun h => { h with next := k.next + 1, matched := some (k.next, r.1) }) (fun _ => by rfl) (fun _ => by rfl) ?_
    exact fun _ _ => ⟨rfl, rfl⟩
  have hx1 : ∃ z, e1.jobId? n x.id = some z ∧ z.ended = x.ended := by
    refine ⟨_, Engine.jobId?_modJob_of (x := x) ?_ fun _ => by rfl, rfl⟩
    rw [he0, Engine.jobId?, Engine.sp_modSp]
    exact hid
  obtain ⟨z, hz, hzended⟩ := hx1
  obtain ⟨hl, y, q, hy, hq, hqnext, hqmatched⟩ := hside.of_accesses (.askBlock n x.id e1 b (k.next + 2)) fun _ _ h => h
  refine ⟨_, y, q, hexec, rfl, hl, hy, hq, hqnext, hqmatched, fun hfree => ?_⟩
  have halike : Engine.Alike n e1 (e1.askBlock n x.id b (k.next + 2)) :=
    Engine.askBlock_alike (placeFault_of_freeToRead hfree (by rfl) (by rfl)) ..
  exact (halike.ended hz hy).trans (hzended.trans (Job.ended_of_worksAt hx))

omit hb in
theorem exec_hankBuildDone_of_matched {i : Nat} {syms : List (Nat × Nat)} (hmatched : k.matched = some (i, syms)) (hbuilt : k.built = none) :
    ∃ t y, exec (.hankBuildDone n j) s = .next t ∧ t.sec = s.sec ∧ t.eng.creel = s.eng.creel ∧ t.eng.jobId? n x.id = some y ∧
      y.hank = some { k with matched := none, built := some (i, (hankBuild (symbolData syms) syms).1, (hankBuild (symbolData syms) syms).2) } := by
  have hexec : exec (.hankBuildDone n j) s = .next (s.onEng fun e => e.modJob n x.id fun y => { y with
      point := false, hank := y.hank.map fun h => { h with
        matched := none, built := some (i, (hankBuild (symbolData syms) syms).1, (hankBuild (symbolData syms) syms).2) } }) := by
    change done (s.onEng _) = _
    simp only [done, State.onEng, Engine.withJob_of_worksAt hx, hk, hmatched, hbuilt]
  refine ⟨_, _, hexec, rfl, rfl, Engine.jobId?_modJob_of (Engine.jobId?_of_worksAt hx) fun _ => by rfl, ?_⟩
  rw [hk]
  rfl

end

/-! ## The emit stage and the end of a frame (R226, R227) -/

/-- The end of a Hank job changes of its Hank side only that it is held and that its header is written. -/
theorem Engine.HankIs.hankEnd {e : Engine} {n : Sp} {id : Nat} {c : HankLane} {P : Hank → Prop} (h : e.HankIs n id c P)
    (hP : ∀ k b, P k → P { k with held := b }) (hheaded : ∀ k b, P k → P { k with headed := b }) : (e.hankEnd n id).HankIs n id c P := by
  have hfinish {e : Engine} (h : e.HankIs n id c P) : (e.finish n id).HankIs n id c P := h.of_kept (kept_finish ..) hP
  unfold Engine.hankEnd
  split
  · rename_i x hx
    obtain rfl := jobId?_id hx
    split
    · rename_i k b _ _
      split
      · exact h
      · split
        · exact hfinish h
        · have hhead := h.modHank (Q := P) (fun x => { x with hank := x.hank.map fun h => { h with headed := true } }) (fun h => { h with headed := true })
            (fun _ => by rfl) (fun _ => by rfl) fun k => hheaded k true
          have hwritten := hhead.of_accesses (.hankWrite n _ x b wHankHdr 0
            ({ b.frame with tableOffset := roundUp k.cursor 8, storedCount := k.stored }).toBytes) hP
          dsimp only
          split
          · split
            · exact hwritten
            · exact hfinish hwritten
          · exact hwritten
    · exact h
  · exact h

/-- The table behind the last block, and the header, leave what the blocks came to. -/
theorem Engine.HankIs.hankClose {e : Engine} {n : Sp} {id : Nat} {c : HankLane} {P : Hank → Prop} (h : e.HankIs n id c P) (b : HankBlk)
    (hP : ∀ k b, P k → P { k with held := b }) (hheaded : ∀ k b, P k → P { k with headed := b })
    (hclosing : ∀ k b, P k → P { k with closing := b }) : (e.hankClose n id b).HankIs n id c P := by
  unfold Engine.hankClose
  split
  · rename_i x hx
    obtain rfl := jobId?_id hx
    split
    · rename_i k _
      split
      · exact h
      · have hwritten := h.of_accesses (.hankWrite n e x b wHank k.cursor (List.replicate (roundUp k.cursor 8 - k.cursor) 0 ++
          k.entries.flatMap fun (o, l, st) => leBytes 4 o ++ leBytes 3 l ++ leBytes 1 (b2n st))) hP
        dsimp only
        split
        · split
          · exact hwritten
          · refine HankIs.hankEnd ?_ hP hheaded
            exact hwritten.modHank _ (fun h => { h with closing := true }) (fun _ => by rfl) (fun _ => by rfl) fun k => hclosing k true
        · exact hwritten
    · exact h
  · exact h

/-- A Hank job with the block of its emit stage at its place in the frame (R226). -/
def Job.emits (x : Job) (off len : Nat) (st : Bool) : Job :=
  { x with point := true, hank := x.hank.map fun h =>
      { h with built := none, entries := h.entries ++ [(off, len, st)], cursor := off + len, stored := h.stored + b2n st } }

section
variable {n : Sp} {j : Nat} {s : State} {x : Job} {k : Hank} {b : HankBlk} (hx : worksAt s n j x) (hk : x.hank = some k) (hb : x.desc.hank = some b)
include hx hk hb

/-- What the emit stage does with a built block: it is written, and counted unless its write ends the job; after the last one the frame is
closed (R226, R227, R241). -/
theorem exec_hankEmitDone {i : Nat} {bs : List Byte} {st : Bool} (hbuilt : k.built = some (i, bs, st)) :
    let e1 := (s.eng.modJob n x.id fun y => y.emits (roundUp k.cursor 16) bs.length st).hankWrite n x b wHank k.cursor
      (List.replicate (roundUp k.cursor 16 - k.cursor) 0 ++ bs)
    let e2 := e1.modSp n fun p => { p with work := { p.work with
      hankEnc := satInc p.work.hankEnc, hankStored := satAdd p.work.hankStored (b2n st) } }
    exec (.hankEmitDone n j) s = .next (s.onEng fun _ =>
      if (!e1.jobLive n x.id) = true then e1 else if i + 1 = b.frame.blockCount then e2.hankClose n x.id b else e2) := by
  change done (s.onEng _) = _
  simp only [done, State.onEng, Engine.withJob_of_worksAt hx, hk, hb, hbuilt]
  rfl

theorem exec_hankEmitDone_of_full {i : Nat} {bs : List Byte} {st : Bool} (hbuilt : k.built = some (i, bs, st))
    (hfull : b.dstSpace < roundUp k.cursor 16 + bs.length) :
    ∃ t y, exec (.hankEmitDone n j) s = .next t ∧ t.sec = s.sec ∧ (t.eng.sp n).work.hankEnc = (s.eng.sp n).work.hankEnc ∧
      t.eng.jobId? n x.id = some y ∧ y.ended = some ⟨1, 0x16, 5, 0⟩ := by
  have hexec := exec_hankEmitDone hx hk hb hbuilt
  have hlen : k.cursor + (List.replicate (roundUp k.cursor 16 - k.cursor) (0 : Byte) ++ bs).length = roundUp k.cursor 16 + bs.length := by
    have hle := le_roundUp_sixteen k.cursor
    simp only [List.length_append, List.length_replicate]
    omega
  have hid := Engine.jobId?_of_worksAt hx
  have hgoes : x.ended = none := Job.ended_of_worksAt hx
  set e0 := s.eng.modJob n x.id fun y => y.emits (roundUp k.cursor 16) bs.length st with he0
  have hx0 : e0.jobId? n x.id = some (x.emits (roundUp k.cursor 16) bs.length st) := Engine.jobId?_modJob_of hid fun _ => by rfl
  have hfault (bs' : List Byte) (h : b.dstSpace < k.cursor + bs'.length) : e0.hankWrite n x b wHank k.cursor bs' = e0.fault n x.id 0x16 5 0 := if_pos h
  rw [hfault _ (by rw [hlen]; exact hfull)] at hexec
  simp only [Engine.jobLive_fault, Bool.not_false, if_true] at hexec
  obtain ⟨y, hy, hended⟩ := Engine.ended_fault (x := x.emits (roundUp k.cursor 16) bs.length st) hx0 hgoes 0x16 5 0
  refine ⟨_, y, hexec, rfl, ?_, hy, hended⟩
  have hlane : ((e0.fault n x.id 0x16 5 0).sp n).hankLane = (e0.sp n).hankLane := Engine.hankLane_of_kept (Engine.kept_fault ..)
  refine (congrArg HankLane.enc hlane).trans ?_
  rw [he0, Engine.modJob, Engine.sp_modSp]
  rfl

theorem exec_hankEmitDone_of_room {i : Nat} {bs : List Byte} {st : Bool} (hbuilt : k.built = some (i, bs, st))
    (hroom : roundUp k.cursor 16 + bs.length ≤ b.dstSpace)
    (hplace : s.eng.writeFault n ((Addr.parse b.dstAddr).plus k.cursor) (roundUp k.cursor 16 - k.cursor + bs.length) = none) :
    ∃ t y q, exec (.hankEmitDone n j) s = .next t ∧ t.sec = s.sec ∧
      (t.eng.sp n).hankLane = { (s.eng.sp n).hankLane with
        enc := satInc (s.eng.sp n).work.hankEnc, stored := satAdd (s.eng.sp n).work.hankStored (b2n st) } ∧
      t.eng.jobId? n x.id = some y ∧ y.hank = some q ∧
      (q.built = none ∧ q.entries = k.entries ++ [(roundUp k.cursor 16, bs.length, st)] ∧ q.cursor = roundUp k.cursor 16 + bs.length) ∧
      (i + 1 ≠ b.frame.blockCount → y.ended = none) := by
  have hexec := exec_hankEmitDone hx hk hb hbuilt
  have hlen : (List.replicate (roundUp k.cursor 16 - k.cursor) (0 : Byte) ++ bs).length = roundUp k.cursor 16 - k.cursor + bs.length := by
    rw [List.length_append, List.length_replicate]
  have hfits : k.cursor + (List.replicate (roundUp k.cursor 16 - k.cursor) (0 : Byte) ++ bs).length ≤ b.dstSpace := by
    have hle := le_roundUp_sixteen k.cursor
    rw [hlen]
    omega
  have hid := Engine.jobId?_of_worksAt hx
  have hgoes : x.ended = none := Job.ended_of_worksAt hx
  set e0 := s.eng.modJob n x.id fun y => y.emits (roundUp k.cursor 16) bs.length st with he0
  have hx0 : e0.jobId? n x.id = some (x.emits (roundUp k.cursor 16) bs.length st) := Engine.jobId?_modJob_of hid fun _ => by rfl
  have hside : e0.HankIs n x.id (s.eng.sp n).hankLane fun q =>
      q.built = none ∧ q.entries = k.entries ++ [(roundUp k.cursor 16, bs.length, st)] ∧ q.cursor = roundUp k.cursor 16 + bs.length := by
    refine (Engine.hankIs_of_jobId? hid hk).modHank _ (fun h => { h with
      built := none, entries := h.entries ++ [(roundUp k.cursor 16, bs.length, st)], cursor := roundUp k.cursor 16 + bs.length,
      stored := h.stored + b2n st }) (fun _ => by rfl) (fun _ => by rfl) ?_
    rintro q rfl
    exact ⟨rfl, rfl, rfl⟩
  set e1 := e0.hankWrite n x b wHank k.cursor (List.replicate (roundUp k.cursor 16 - k.cursor) 0 ++ bs) with he1
  have halike : Engine.Alike n e0 e1 :=
    Engine.hankWrite_alike hfits ((Engine.writeFault_congr (by rfl) ..).trans (by rw [hlen]; exact hplace)) x wHank
  have hlive : e1.jobLive n x.id = true := by
    rw [Engine.jobLive_of_still (congrArg Spindle.jobs halike.still), Engine.jobLive_of_jobId? hx0]
    exact Option.isNone_iff_eq_none.mpr hgoes
  have hside1 := hside.of_kept (Engine.kept_of_still halike.still) fun _ _ h => h
  set e2 := e1.modSp n fun p => { p with work := { p.work with
    hankEnc := satInc p.work.hankEnc, hankStored := satAdd p.work.hankStored (b2n st) } } with he2
  have hlane1 : (e1.sp n).hankLane = (s.eng.sp n).hankLane := hside1.1
  have hside2 : e2.HankIs n x.id { (s.eng.sp n).hankLane with
      enc := satInc (s.eng.sp n).work.hankEnc, stored := satAdd (s.eng.sp n).work.hankStored (b2n st) } fun q =>
      q.built = none ∧ q.entries = k.entries ++ [(roundUp k.cursor 16, bs.length, st)] ∧ q.cursor = roundUp k.cursor 16 + bs.length := by
    obtain ⟨hl, hrest⟩ := hside1.modSp (fun p => { p with work := { p.work with
      hankEnc := satInc p.work.hankEnc, hankStored := satAdd p.work.hankStored (b2n st) } }) fun _ => by rfl
    refine ⟨hl.trans ?_, hrest⟩
    exact congrArg (fun c : HankLane => { c with enc := satInc c.enc, stored := satAdd c.stored (b2n st) }) hlane1
  simp only [hlive, Bool.not_true, Bool.false_eq_true, if_false] at hexec
  by_cases hlast : i + 1 = b.frame.blockCount
  · rw [if_pos hlast] at hexec
    obtain ⟨hl, y, q, hy, hq, hwork⟩ := hside2.hankClose b (fun _ _ h => h) (fun _ _ h => h) fun _ _ h => h
    exact ⟨_, y, q, hexec, rfl, hl, hy, hq, hwork, fun hne => absurd hlast hne⟩
  · rw [if_neg hlast] at hexec
    obtain ⟨hl, y, q, hy, hq, hwork⟩ := hside2
    refine ⟨_, y, q, hexec, rfl, hl, hy, hq, hwork, fun _ => ?_⟩
    have hy1 : e1.jobId? n x.id = some y := by
      rw [he2, Engine.jobId?, Engine.sp_modSp] at hy
      exact hy
    exact (halike.ended hx0 hy1).trans hgoes

end

/-! ## The decoder's header (R229, R232) -/

/-- What a decoder's set-up does once the header and the entries have been taken as they came. -/
def Engine.hankSetup (e : Engine) (n : Sp) (id : Nat) : Engine :=
  match e.jobId? n id with
  | some x =>
    match x.hank, x.desc.hank with
    | some k, some b =>
      match k.entries[k.setups]? with
      | some (off, len, _) =>
        if b.op == 0 || k.closing || x.ended.isSome || decide (k.next + 2 ≤ k.setups) then e
        else if !hankEntryOk off len then
          (if k.setups = k.next then e.hankFail n x 0x0A 4 (b.blockFirst + k.setups) else e)
        else
          Engine.onArrive (e.arrive n x (pHankData k.setups) ((Addr.parse b.srcAddr).plus off) len .ok) n x (b.blockFirst + k.setups) fun e _ =>
            e.modJob n x.id fun x => { x with hank := x.hank.map fun h => { h with setups := h.setups + 1 } }
      | none => e
    | _, _ => e
  | none => e

theorem exec_hankDecodeSetupDone {n : Sp} {j : Nat} {s : State} {x : Job} (hx : worksAt s n j x) :
    exec (.hankDecodeSetupDone n j) s = .next (s.onEng fun e => ((e.hankAdvance n x.id).hankAdvance n x.id).hankSetup n x.id) := by
  change done (s.onEng _) = _
  simp only [done, State.onEng, Engine.withJob_of_worksAt hx]
  rfl

/-! A decoder that has ended goes on with nothing. -/

section
variable {e : Engine} {n : Sp} {id : Nat} {x : Job} (hx : e.jobId? n id = some x) (hended : x.ended.isSome = true)
include hended

theorem Job.acts_of_ended : x.acts = false := by
  cases h : x.ended with
  | none => simp [h] at hended
  | some en => simp [acts, h]

include hx

theorem Engine.hankAskEntry_of_ended (b : HankBlk) : e.hankAskEntry n id b = e := by
  unfold hankAskEntry
  simp only [hx, Job.acts_of_ended hended, Bool.false_and, Bool.false_eq_true, if_false]
  (repeat' split) <;> rfl

theorem Engine.hankAdvance_of_ended : e.hankAdvance n id = e := by
  unfold hankAdvance
  simp only [hx, Job.acts_of_ended hended, Bool.not_false, Bool.true_or, if_true]
  (repeat' split) <;> rfl

theorem Engine.hankSetup_of_ended : e.hankSetup n id = e := by
  unfold hankSetup
  simp only [hx, hended, Bool.or_true, Bool.true_or, if_true]
  (repeat' split) <;> rfl

end

/-- The decoder of a job has taken a header. -/
def Engine.HeaderIs (e : Engine) (n : Sp) (id : Nat) (h : HankHdr) : Prop := ∃ c, e.HankIs n id c fun k => k.hdr = some h

section
variable {e e' : Engine} {n : Sp} {id : Nat} {h : HankHdr}

theorem Engine.HeaderIs.of_kept (he : e.HeaderIs n id h) (hkept : e'.kept n = e.kept n) : e'.HeaderIs n id h := by
  obtain ⟨c, hc⟩ := he
  exact ⟨c, hc.of_kept hkept fun _ _ hk => hk⟩

theorem Engine.HeaderIs.modHank (he : e.HeaderIs n id h) (f : Job → Job) (g : Hank → Hank) (hid : ∀ x, (f x).id = x.id)
    (hf : ∀ x, (f x).hank = x.hank.map g) (hg : ∀ k, (g k).hdr = k.hdr) : (e.modJob n id f).HeaderIs n id h := by
  obtain ⟨c, hc⟩ := he
  exact ⟨c, hc.modHank f g hid hf fun k hk => (hg k).trans hk⟩

theorem Engine.HeaderIs.hankFail (he : e.HeaderIs n id h) (x : Job) (c d w : Nat) : (e.hankFail n x c d w).HeaderIs n id h := by
  obtain ⟨l, hl⟩ := he
  exact ⟨_, (hl.modSp _ fun _ => by rfl).of_kept (kept_fault ..) fun _ _ hk => hk⟩

/-- What has come for the job leaves its header, if what is done with the bytes does. -/
theorem Engine.HeaderIs.onArrive (he : e.HeaderIs n id h) (x : Job) (p : Nat × Nat) (a : Addr) (len w : Nat) {f : Engine → List Byte → Engine}
    (hf : ∀ e bs, e.HeaderIs n id h → (f e bs).HeaderIs n id h) : (Engine.onArrive (e.arrive n x p a len .ok) n x w f).HeaderIs n id h := by
  have hcome := he.of_kept (kept_of_still (still_arrive e n x p a len .ok n))
  unfold Engine.onArrive
  split
  · exact hcome
  · exact hcome.of_kept (kept_fault ..)
  · exact hf _ _ hcome

theorem Engine.HeaderIs.hankAskEntry (he : e.HeaderIs n id h) (b : HankBlk) : (e.hankAskEntry n id b).HeaderIs n id h := by
  unfold Engine.hankAskEntry
  split
  · split
    · split
      · split
        · exact (he.modHank _ (fun k => { k with asked := k.asked + 1 }) (fun _ => by rfl) (fun _ => by rfl) fun _ => by rfl).of_kept (kept_jobRead ..)
        · exact he
      · exact he
    · exact he
  · exact he

theorem Engine.HeaderIs.hankEntry (he : e.HeaderIs n id h) {x : Job} (hid : x.id = id) (b : HankBlk) (k : Hank) (h' : HankHdr) :
    (e.hankEntry n x b k h').HeaderIs n id h := by
  subst hid
  unfold Engine.hankEntry
  dsimp only
  split
  · exact he
  · refine he.onArrive _ _ _ _ _ fun e bs he => ?_
    have hjoined := he.modHank (fun x => { x with hank := x.hank.map fun k => { k with
      entries := k.entries ++ [((TileEntry.parse bs).offset, (TileEntry.parse bs).length, false)] } }) (fun k => { k with
      entries := k.entries ++ [((TileEntry.parse bs).offset, (TileEntry.parse bs).length, false)] }) (fun _ => by rfl) (fun _ => by rfl) fun _ => by rfl
    split
    · exact hjoined.of_kept (kept_jobRead ..)
    · exact hjoined

theorem Engine.HeaderIs.hankAdvance (he : e.HeaderIs n id h) : (e.hankAdvance n id).HeaderIs n id h := by
  obtain ⟨c, hlane, x, k, hx, hk, hhdr⟩ := he
  have he : e.HeaderIs n id h := ⟨c, hlane, x, k, hx, hk, hhdr⟩
  unfold Engine.hankAdvance
  simp only [hx, hk]
  split
  · rename_i k' b hk' _
    obtain rfl := Option.some.inj hk'
    split
    · exact he
    · rw [hhdr]
      exact (he.hankEntry (jobId?_id hx) b k h).hankAskEntry b
  · exact he

theorem Engine.HeaderIs.hankSetup (he : e.HeaderIs n id h) : (e.hankSetup n id).HeaderIs n id h := by
  unfold Engine.hankSetup
  split
  · rename_i x hx
    obtain rfl := jobId?_id hx
    split
    · split
      · split
        · exact he
        · split
          · split
            · exact he.hankFail ..
            · exact he
          · refine he.onArrive _ _ _ _ _ fun e _ he => ?_
            exact he.modHank _ (fun h => { h with setups := h.setups + 1 }) (fun _ => by rfl) (fun _ => by rfl) fun _ => by rfl
      · exact he
    · exact he
  · exact he

end

theorem Engine.ended_hankFail {e : Engine} {n : Sp} {x : Job} (hx : e.jobId? n x.id = some x) (hended : x.ended = none) (c d w : Nat) :
    ∃ y, (e.hankFail n x c d w).jobId? n x.id = some y ∧ y.ended = some ⟨1, c, d, w⟩ := by
  refine Engine.ended_fault (x := x) ?_ hended c d w
  rw [Engine.jobId?, Engine.sp_modSp]
  exact hx

theorem Engine.hankErr_hankFail (e : Engine) (n : Sp) (x : Job) (c d w : Nat) :
    ((e.hankFail n x c d w).sp n).work.hankErr = satInc (e.sp n).work.hankErr := by
  refine (congrArg HankLane.err (hankLane_of_kept (kept_fault _ n x.id c d w n))).trans ?_
  rw [sp_modSp]
  rfl

section
variable {n : Sp} {j : Nat} {s : State} {x : Job} {k : Hank} {b : HankBlk} (hx : worksAt s n j x) (hk : x.hank = some k) (hb : x.desc.hank = some b)
include hx hk hb

/-- A decoder that waits for its header takes it when it has come. -/
theorem Engine.hankAdvance_of_header (hheld : k.held = true) (hbegun : x.begun = true) (hop : b.op = 1) (hclosing : k.closing = false)
    (hhdr : k.hdr = none) : s.eng.hankAdvance n x.id = (s.eng.hankHeader n x b).hankAskEntry n x.id b := by
  obtain ⟨-, -, hid, hacts⟩ := hx
  unfold hankAdvance
  simp [hid, hk, hb, hacts, hheld, hbegun, hop, hclosing, hhdr]

theorem exec_hankDecodeSetupDone_of_badHeader {d : Nat} (hheld : k.held = true) (hbegun : x.begun = true) (hop : b.op = 1)
    (hclosing : k.closing = false) (hhdr : k.hdr = none) (hread : readIsIn s n x pHankHdr (Addr.parse b.srcAddr) 64)
    (hbad : hankOpenError (s.eng.readAt (Addr.parse b.srcAddr) 64) = some d) :
    ∃ t, exec (.hankDecodeSetupDone n j) s = .next t ∧ t.sec = s.sec ∧ (t.eng.sp n).work.hankErr = satInc (s.eng.sp n).work.hankErr ∧
      ∃ y, t.eng.jobId? n x.id = some y ∧ y.ended = some ⟨1, 0x0A, d, 0⟩ := by
  have hheader : s.eng.hankHeader n x b = s.eng.hankFail n x 0x0A d 0 := by
    simp only [Engine.hankHeader, Engine.arrive_of_readIsIn hread, Engine.onArrive, hbad]
  obtain ⟨y, hy, hended⟩ := Engine.ended_hankFail (Engine.jobId?_of_worksAt hx) (Job.ended_of_worksAt hx) 0x0A d 0
  have hsome : y.ended.isSome = true := by rw [hended]; rfl
  refine ⟨_, exec_hankDecodeSetupDone hx, rfl, ?_⟩
  rw [State.onEng_eng, Engine.hankAdvance_of_header hx hk hb hheld hbegun hop hclosing hhdr, hheader, Engine.hankAskEntry_of_ended hy hsome,
    Engine.hankAdvance_of_ended hy hsome, Engine.hankSetup_of_ended hy hsome]
  exact ⟨Engine.hankErr_hankFail .., y, hy, hended⟩

theorem exec_hankDecodeSetupDone_of_header {h : HankHdr} (hheld : k.held = true) (hbegun : x.begun = true) (hop : b.op = 1)
    (hclosing : k.closing = false) (hhdr : k.hdr = none) (hread : readIsIn s n x pHankHdr (Addr.parse b.srcAddr) 64)
    (hgood : hankOpenError (s.eng.readAt (Addr.parse b.srcAddr) 64) = none) (hparse : HankHdr.parse (s.eng.readAt (Addr.parse b.srcAddr) 64) = h)
    (hfirst : b.blockFirst < h.blockCount) (hrun : b.blockFirst + b.run h ≤ h.blockCount)
    (hroom : ((List.range (b.run h)).map fun i => h.blockLen (b.blockFirst + i)).sum ≤ b.dstSpace) :
    ∃ t y q, exec (.hankDecodeSetupDone n j) s = .next t ∧ t.sec = s.sec ∧ t.eng.jobId? n x.id = some y ∧ y.hank = some q ∧ q.hdr = some h := by
  have hheader : s.eng.hankHeader n x b = (s.eng.modJob n x.id fun x => { x with hank := x.hank.map fun k => { k with hdr := some h } }).claimFixed
      n x.id (sideBanks .dec h.blockSize) := by
    simp only [Engine.hankHeader, Engine.arrive_of_readIsIn hread, Engine.onArrive, hgood, hparse]
    rw [if_neg (by omega), if_neg (by omega)]
  have htaken : (s.eng.hankHeader n x b).HeaderIs n x.id h := by
    rw [hheader]
    refine Engine.HeaderIs.of_kept ⟨(s.eng.sp n).hankLane, ?_⟩ (Engine.kept_claimFixed ..)
    exact (Engine.hankIs_of_jobId? (Engine.jobId?_of_worksAt hx) hk).modHank _ (fun k => { k with hdr := some h }) (fun _ => by rfl) (fun _ => by rfl)
      fun _ _ => rfl
  obtain ⟨c, -, y, q, hy, hq, hhdr'⟩ := (htaken.hankAskEntry b).hankAdvance.hankSetup
  rw [← Engine.hankAdvance_of_header hx hk hb hheld hbegun hop hclosing hhdr] at hy
  exact ⟨_, y, q, exec_hankDecodeSetupDone hx, rfl, hy, hq, hhdr'⟩

/-! ## The set-up of a block (R233, R238) -/

/-- With nothing to take in, a set-up checks the entry that stands next. -/
theorem exec_hankDecodeSetupDone_of_settled {off len : Nat} {st : Bool} (hsettled : s.eng.hankAdvance n x.id = s.eng)
    (hentry : k.entries[k.setups]? = some (off, len, st)) (hop : b.op = 1) (hclosing : k.closing = false) (hahead : k.setups < k.next + 2) :
    exec (.hankDecodeSetupDone n j) s = .next (s.onEng fun e =>
      if (!hankEntryOk off len) = true then (if k.setups = k.next then e.hankFail n x 0x0A 4 (b.blockFirst + k.setups) else e)
      else Engine.onArrive (e.arrive n x (pHankData k.setups) ((Addr.parse b.srcAddr).plus off) len .ok) n x (b.blockFirst + k.setups) fun e _ =>
        e.modJob n x.id fun x => { x with hank := x.hank.map fun h => { h with setups := h.setups + 1 } }) := by
  rw [exec_hankDecodeSetupDone hx]
  simp only [State.onEng, hsettled]
  unfold Engine.hankSetup
  have hnone : x.ended.isSome = false := by rw [Job.ended_of_worksAt hx]; rfl
  have hle : decide (k.next + 2 ≤ k.setups) = false := by simpa using hahead
  simp only [Engine.jobId?_of_worksAt hx, hk, hb, hentry, hop, hclosing, hnone, hle]
  rfl

theorem exec_hankDecodeSetupDone_of_badEntry {off len : Nat} {st : Bool} (hsettled : s.eng.hankAdvance n x.id = s.eng)
    (hentry : k.entries[k.setups]? = some (off, len, st)) (hop : b.op = 1) (hclosing : k.closing = false) (hahead : k.setups < k.next + 2)
    (hbad : hankEntryOk off len = false) (hnext : k.setups = k.next) :
    ∃ t, exec (.hankDecodeSetupDone n j) s = .next t ∧ t.sec = s.sec ∧ (t.eng.sp n).work.hankErr = satInc (s.eng.sp n).work.hankErr ∧
      ∃ y, t.eng.jobId? n x.id = some y ∧ y.ended = some ⟨1, 0x0A, 4, b.blockFirst + k.setups⟩ := by
  have hexec := exec_hankDecodeSetupDone_of_settled hx hk hb hsettled hentry hop hclosing hahead
  simp only [hbad, Bool.not_false, if_true, if_pos hnext] at hexec
  exact ⟨_, hexec, rfl, Engine.hankErr_hankFail .., Engine.ended_hankFail (Engine.jobId?_of_worksAt hx) (Job.ended_of_worksAt hx) ..⟩

theorem exec_hankDecodeSetupDone_of_entry {off len : Nat} {st : Bool} (hsettled : s.eng.hankAdvance n x.id = s.eng)
    (hentry : k.entries[k.setups]? = some (off, len, st)) (hop : b.op = 1) (hclosing : k.closing = false) (hahead : k.setups < k.next + 2)
    (hgood : hankEntryOk off len = true) (hread : readIsIn s n x (pHankData k.setups) ((Addr.parse b.srcAddr).plus off) len) :
    ∃ t y, exec (.hankDecodeSetupDone n j) s = .next t ∧ t.sec = s.sec ∧ t.eng.creel = s.eng.creel ∧ t.eng.jobId? n x.id = some y ∧
      y.hank = some { k with setups := k.setups + 1 } := by
  have hexec := exec_hankDecodeSetupDone_of_settled hx hk hb hsettled hentry hop hclosing hahead
  simp only [State.onEng, hgood, Bool.not_true, Bool.false_eq_true, if_false, Engine.arrive_of_readIsIn hread, Engine.onArrive] at hexec
  refine ⟨_, _, hexec, rfl, rfl, Engine.jobId?_modJob_of (Engine.jobId?_of_worksAt hx) fun _ => by rfl, ?_⟩
  rw [hk]
  rfl

end

/-! ## A decoded block (R216, R232 to R234) -/

/-- What a decoder asks for next leaves what its blocks came to. -/
theorem Engine.HankIs.hankAskEntry {e : Engine} {n : Sp} {id : Nat} {c : HankLane} {P : Hank → Prop} (h : e.HankIs n id c P) (b : HankBlk)
    (hP : ∀ k b, P k → P { k with held := b }) (hasked : ∀ k a, P k → P { k with asked := a }) : (e.hankAskEntry n id b).HankIs n id c P := by
  unfold Engine.hankAskEntry
  split
  · split
    · split
      · split
        · exact (h.modHank _ (fun k => { k with asked := k.asked + 1 }) (fun _ => by rfl) (fun _ => by rfl) fun k => hasked k _).of_kept
            (kept_jobRead ..) hP
        · exact h
      · exact h
    · exact h
  · exact h

/-- A decoder that asks for an entry at a place goes on. -/
theorem Engine.ended_hankAskEntry {e : Engine} {n : Sp} {id : Nat} {y z : Job} {b : HankBlk}
    (hfree : ∀ off len, e.placeFault n false ((Addr.parse b.srcAddr).plus off) len = none) (hy : e.jobId? n id = some y)
    (hz : (e.hankAskEntry n id b).jobId? n id = some z) : z.ended = y.ended := by
  have hsame (h : e.jobId? n id = some z) : z.ended = y.ended := by rw [Option.some.inj (h.symm.trans hy)]
  unfold hankAskEntry at hz
  simp only [hy] at hz
  split at hz
  · split at hz
    · split at hz
      · have hasked := jobId?_modJob_of (f := fun x => { x with hank := x.hank.map fun k => { k with asked := k.asked + 1 } }) hy fun _ => by rfl
        exact ((jobRead_alike ((placeFault_congr (by rfl) (by rfl) ..).trans (hfree ..)) id _).ended hasked hz :)
      · exact hsame hz
    · exact hsame hz
  · exact hsame hz

/-- A decoder's end finishes its job without fault, or waits for its writes. -/
theorem Engine.ended_hankEnd_of_decode {e : Engine} {n : Sp} {id : Nat} {y z : Job} {b : HankBlk} (hy : e.jobId? n id = some y)
    (hb : y.desc.hank = some b) (hop : b.op = 1) (hz : (e.hankEnd n id).jobId? n id = some z) : z.ended = y.ended ∨ z.ended = some ⟨0, 0, 0, 0⟩ := by
  have hsame (h : e.jobId? n id = some z) : z.ended = y.ended := by rw [Option.some.inj (h.symm.trans hy)]
  unfold hankEnd at hz
  simp only [hy, hb] at hz
  split at hz
  · rename_i hb'
    obtain rfl := Option.some.inj hb'
    split at hz
    · exact .inl (hsame hz)
    · rw [if_pos (.inl (by rw [hop]; decide))] at hz
      obtain ⟨u, hu, -, hended⟩ := jobId?_finish hy
      rw [Option.some.inj (hz.symm.trans hu)]
      exact .inr hended
  · exact .inl (hsame hz)

/-- A Hank job with its next block decoded, as the last one or not. -/
def Job.decodes (x : Job) (last : Bool) : Job :=
  { x with point := true, hank := x.hank.map fun k => { k with next := k.next + 1, closing := last } }

section
variable {n : Sp} {j : Nat} {s : State} {x : Job} {k : Hank} {b : HankBlk} {h : HankHdr} {off len : Nat} {st : Bool} (hx : worksAt s n j x)
  (hk : x.hank = some k) (hb : x.desc.hank = some b) (hhdr : k.hdr = some h) (hentry : k.entries[k.next]? = some (off, len, st)) (hop : b.op = 1)
  (hclosing : k.closing = false) (hset : k.next < k.setups)
include hx hk hb hhdr hentry hop hclosing hset

theorem exec_hankBlockDecoded_of_error {f d : Nat}
    (hbad : hankDecode (h.blockLen (b.blockFirst + k.next)) (s.eng.readAt ((Addr.parse b.srcAddr).plus off) len) = .error (f, d)) :
    ∃ t, exec (.hankBlockDecoded n j) s = .next t ∧ t.sec = s.sec ∧ (t.eng.sp n).work.hankErr = satInc (s.eng.sp n).work.hankErr ∧
      ∃ y, t.eng.jobId? n x.id = some y ∧ y.ended = some ⟨1, f, d, b.blockFirst + k.next⟩ := by
  have hexec : exec (.hankBlockDecoded n j) s = .next (s.onEng fun e => e.hankFail n x f d (b.blockFirst + k.next)) := by
    have hle : decide (k.setups ≤ k.next) = false := by simpa using hset
    change done (s.onEng _) = _
    simp only [done, State.onEng, Engine.withJob_of_worksAt hx, hk, hb, hhdr, hentry, hclosing, hle, hbad, hop]
    rfl
  exact ⟨_, hexec, rfl, Engine.hankErr_hankFail .., Engine.ended_hankFail (Engine.jobId?_of_worksAt hx) (Job.ended_of_worksAt hx) ..⟩

theorem exec_hankBlockDecoded {out : List Byte}
    (hgood : hankDecode (h.blockLen (b.blockFirst + k.next)) (s.eng.readAt ((Addr.parse b.srcAddr).plus off) len) = .ok out) :
    exec (.hankBlockDecoded n j) s = .next (s.onEng fun e =>
      let e2 := ((e.modSp n fun s => { s with work := { s.work with hankDec := satInc s.work.hankDec } }).modJob n x.id fun y =>
        y.decodes (k.next + 1 == b.run h)).jobWrite n x.id wHank ((Addr.parse b.dstAddr).plus (k.next * hankB h.blockSize)) out
      if (k.next + 1 == b.run h) = true then e2.hankEnd n x.id else e2.hankAskEntry n x.id b) := by
  have hle : decide (k.setups ≤ k.next) = false := by simpa using hset
  change done (s.onEng _) = _
  simp only [done, State.onEng, Engine.withJob_of_worksAt hx, hk, hb, hhdr, hentry, hclosing, hle, hgood, hop]
  rfl

theorem exec_hankBlockDecoded_of_data {out : List Byte}
    (hgood : hankDecode (h.blockLen (b.blockFirst + k.next)) (s.eng.readAt ((Addr.parse b.srcAddr).plus off) len) = .ok out) :
    ∃ t y q, exec (.hankBlockDecoded n j) s = .next t ∧ t.sec = s.sec ∧ (t.eng.sp n).work.hankDec = satInc (s.eng.sp n).work.hankDec ∧
      t.eng.jobId? n x.id = some y ∧ y.hank = some q ∧ q.next = k.next + 1 ∧ q.closing = (k.next + 1 == b.run h) ∧
      (freeToRead s n (Addr.parse b.srcAddr) → s.eng.writeFault n ((Addr.parse b.dstAddr).plus (k.next * hankB h.blockSize)) out.length = none →
        y.ended = none ∨ y.ended = some ⟨0, 0, 0, 0⟩) := by
  have hexec := exec_hankBlockDecoded hx hk hb hhdr hentry hop hclosing hset hgood
  have hid := Engine.jobId?_of_worksAt hx
  have hgoes := Job.ended_of_worksAt hx
  dsimp only [State.onEng] at hexec
  generalize (k.next + 1 == b.run h) = fin at hexec ⊢
  set e0 := s.eng.modSp n fun s => { s with work := { s.work with hankDec := satInc s.work.hankDec } } with he0
  set e1 := e0.modJob n x.id fun y => y.decodes fin with he1
  set e2 := e1.jobWrite n x.id wHank ((Addr.parse b.dstAddr).plus (k.next * hankB h.blockSize)) out with he2
  let P (q : Hank) : Prop := q.next = k.next + 1 ∧ q.closing = fin
  have hside : e2.HankIs n x.id { (s.eng.sp n).hankLane with dec := satInc (s.eng.sp n).work.hankDec } P := by
    refine Engine.HankIs.of_kept (e := e1) ?_ (Engine.kept_jobWrite ..) fun _ _ hq => hq
    refine ((Engine.hankIs_of_jobId? hid hk).modSp _ fun _ => by rfl).modHank _ (fun q => { q with next := q.next + 1, closing := fin })
      (fun _ => by rfl) (fun _ => by rfl) ?_
    rintro q rfl
    exact ⟨rfl, rfl⟩
  have hx1 : e1.jobId? n x.id = some (x.decodes fin) := by
    refine Engine.jobId?_modJob_of ?_ fun _ => by rfl
    rw [he0, Engine.jobId?, Engine.sp_modSp]
    exact hid
  have hend : (if fin = true then e2.hankEnd n x.id else e2.hankAskEntry n x.id b).HankIs n x.id
      { (s.eng.sp n).hankLane with dec := satInc (s.eng.sp n).work.hankDec } P := by
    split
    · exact hside.hankEnd (fun _ _ hq => hq) fun _ _ hq => hq
    · exact hside.hankAskEntry b (fun _ _ hq => hq) fun _ _ hq => hq
  obtain ⟨hl, y, q, hy, hq, hnext, hclosed⟩ := hend
  refine ⟨_, y, q, hexec, rfl, (congrArg HankLane.dec hl :), hy, hq, hnext, hclosed, fun hfree hplace => ?_⟩
  have halike : Engine.Alike n e1 e2 := Engine.jobWrite_alike ((Engine.writeFault_congr (by rfl) ..).trans hplace) x.id wHank
  obtain ⟨z, hz, hstill⟩ := Engine.jobId?_of_still halike.still hx1
  have hzended : z.ended = none := (congrArg Job.ended hstill :).trans hgoes
  split at hy
  · have hzb : z.desc.hank = some b := (congrArg (fun x : Job => x.desc.hank) hstill :).trans hb
    exact (Engine.ended_hankEnd_of_decode hz hzb hop hy).imp_left (·.trans hzended)
  · refine .inl ((Engine.ended_hankAskEntry (fun off len => ?_) hz hy).trans hzended)
    exact (halike.placeFault _ len).trans (placeFault_of_freeToRead hfree (by rfl) (by rfl) off len)

end

/-- Settles O58, clause by clause: a side's grant, the encoder's three stages, and the decoder's header, entries and blocks. -/
theorem hankStagesTakeBlocksInOrder : Obligations.HankStagesTakeBlocksInOrder := by
  unfold Obligations.HankStagesTakeBlocksInOrder
  intro n s
  refine ⟨fun side x b waited hw hid hb hl hf => exec_hankSideGrant_of_codec waited hw hid hb hl hf,
    fun side x waited hw hid hb hl hf => exec_hankSideGrant_of_wrapped waited hw hid hb hl hf, fun j x k b hx hk hb => ?_⟩
  refine ⟨fun bad hop hheld hbegun hmatched hnext hread => ?_, fun i syms hm hbuilt => exec_hankBuildDone_of_matched hx hk hm hbuilt,
    fun i bs stored hbuilt => ⟨fun hfull => ?_, fun hroom hplace => ?_⟩,
    fun hheld hbegun hop hclosing hhdr hread => ⟨fun d hbad =>
      exec_hankDecodeSetupDone_of_badHeader hx hk hb hheld hbegun hop hclosing hhdr hread hbad, fun hgood hfirst hrun hroom =>
      exec_hankDecodeSetupDone_of_header hx hk hb hheld hbegun hop hclosing hhdr hread hgood rfl hfirst hrun hroom⟩,
    fun off len st hsettled hentry hop hclosing hahead => ⟨fun hgood hread =>
      exec_hankDecodeSetupDone_of_entry hx hk hb hsettled hentry hop hclosing hahead hgood hread, fun hbad hnext =>
      exec_hankDecodeSetupDone_of_badEntry hx hk hb hsettled hentry hop hclosing hahead hbad hnext⟩,
    fun h off len st hhdr hentry hop hclosing hset => ⟨fun out hgood =>
      exec_hankBlockDecoded_of_data hx hk hb hhdr hentry hop hclosing hset hgood, fun f d hbad =>
      exec_hankBlockDecoded_of_error hx hk hb hhdr hentry hop hclosing hset hbad⟩⟩
  · obtain ⟨t, y, q, hexec, hsec, hl, hy, hq, hqnext, hqmatched, hended⟩ :=
      exec_hankMatchDone_of_arrived hx hk hb bad hop hheld hbegun hmatched hnext hread
    obtain ⟨hgen, hheads, hlinks, -⟩ := HankLane.mk.inj hl
    exact ⟨t, y, q, hexec, hsec, hgen, hheads, hlinks, hy, hq, hqnext, hqmatched, hended⟩
  · obtain ⟨t, y, hexec, hsec, henc, hy, hended⟩ := exec_hankEmitDone_of_full hx hk hb hbuilt hfull
    exact ⟨t, hexec, hsec, henc, y, hy, hended⟩
  · obtain ⟨t, y, q, hexec, hsec, hl, hy, hq, ⟨hqbuilt, hqentries, hqcursor⟩, hended⟩ := exec_hankEmitDone_of_room hx hk hb hbuilt hroom hplace
    exact ⟨t, y, q, hexec, hsec, congrArg HankLane.enc hl, congrArg HankLane.stored hl, hy, hq, hqbuilt, hqentries, hqcursor, hended⟩

end Sys2Proof.Machine
end

section
/-! PROOFS. What reading on, opening and forming leave of the operands of a spindle's jobs (R138 to R142, R151, R165, R248 to R268). -/

namespace Sys2Proof.Machine

/-! ## Operands that stay as they are -/

/-- The number and the operands of a job. -/
def Job.operands (x : Job) : Nat × Option Strm × Option Strm := (x.id, x.strA, x.strB)

/-- The operands of the started jobs of spindle n. -/
def Engine.operands (e : Engine) (n : Sp) : List (Nat × Option Strm × Option Strm) := (e.sp n).jobs.map Job.operands

theorem Engine.operands_of_kept {e e' : Engine} {n : Sp} (h : e'.kept n = e.kept n) : e'.operands n = e.operands n := by
  have hs (e : Engine) : (e.kept n).jobs.map Job.operands = e.operands n := by
    have hjobs : (e.kept n).jobs = (e.sp n).jobs.map Job.lasting := rfl
    rw [hjobs, List.map_map]
    rfl
  rw [← hs e', h, hs e]

theorem Engine.operands_of_still {e e' : Engine} {n : Sp} (h : e'.still n = e.still n) : e'.operands n = e.operands n :=
  operands_of_kept (kept_of_still h)

theorem Engine.operands_of_sides {e e' : Engine} {n : Sp} (h : e'.sides n = e.sides n) : e'.operands n = e.operands n := by
  have hs (e : Engine) : (e.sides n).map (fun v => (v.id, v.strA, v.strB)) = e.operands n := by
    rw [sides, List.map_map]
    rfl
  rw [← hs e', h, hs e]

theorem Engine.operands_modSp (e : Engine) (n : Sp) (f : Spindle → Spindle) (hf : ∀ s, (f s).jobs = s.jobs) :
    (e.modSp n f).operands n = e.operands n := by
  rw [operands, sp_modSp, hf, ← operands]

theorem Engine.operands_modJob (e : Engine) (n : Sp) (id : Nat) (f : Job → Job) (hf : ∀ x, (f x).operands = x.operands) :
    (e.modJob n id f).operands n = e.operands n := by
  rw [operands, modJob, sp_modSp, List.map_map, operands]
  refine List.map_congr_left fun x _ => ?_
  dsimp only [Function.comp]
  split
  · exact hf x
  · rfl

theorem Engine.jobId?_of_operands {e e' : Engine} {n : Sp} {id : Nat} {x : Job} (h : e'.operands n = e.operands n) (hx : e.jobId? n id = some x) :
    ∃ y, e'.jobId? n id = some y ∧ y.operands = x.operands := by
  have hfind (e : Engine) : (e.operands n).find? (fun v => v.1 == id) = (e.jobId? n id).map Job.operands := by
    rw [operands, List.find?_map]
    rfl
  have hy := hfind e'
  rw [h, hfind, hx, Option.map_some] at hy
  exact Option.map_eq_some_iff.mp hy.symm

theorem Job.strm_of_operands {x y : Job} (h : y.operands = x.operands) (o : Opnd) : y.strm o = x.strm o := by
  obtain ⟨-, ha, hb⟩ : y.id = x.id ∧ y.strA = x.strA ∧ y.strB = x.strB := by simpa only [operands, Prod.mk.injEq] using h
  cases o
  · exact ha
  · exact hb

@[simp] theorem Engine.operands_fault (e : Engine) (n : Sp) (id c d w : Nat) : (e.fault n id c d w).operands n = e.operands n :=
  operands_of_kept (kept_fault ..)

theorem Engine.operands_dropReads (e : Engine) (n : Sp) (id : Nat) (p : Nat × Nat) : (e.dropReads n id p).operands n = e.operands n :=
  operands_modSp e n _ fun _ => by rfl

theorem Engine.operands_countSat (e : Engine) (n : Sp) (k : Nat) : (e.countSat n k).operands n = e.operands n :=
  operands_modSp e n _ fun _ => by rfl

theorem Engine.operands_countSource (e : Engine) (n : Sp) (len waited : Nat) : (e.countSource n len waited).operands n = e.operands n :=
  operands_modSp e n _ fun _ => by rfl

theorem Engine.operands_countCodes (e : Engine) (n : Sp) (c : Nat × Nat) : (e.countCodes n c).operands n = e.operands n :=
  operands_modSp e n _ fun _ => by rfl

theorem Engine.operands_feedTile (e : Engine) (n : Sp) (x : Job) (s : Strm) (cs : List (Option Nat)) :
    (e.feedTile n x s cs).operands n = e.operands n :=
  (operands_countSat ..).trans (operands_modJob _ _ _ _ fun _ => by rfl)

/-! The tap lines of a window job (R248, R257). -/

/-- What a half's release changes of a window rests in the job's window alone. -/
theorem Engine.kept_releaseUnneeded (e : Engine) (n : Sp) (x : Job) (b : WindowBlk) (h : SkeinHdr) (w : Window) :
    (e.releaseUnneeded n x b h w).kept n = e.kept n := by
  have hrelease (e : Engine) (v : HalfRead) (down : Bool) (f : Job → Job) (hf : ∀ x, (f x).lasting = x.lasting) :
      ((e.releaseHalf n v down).modJob n x.id f).kept n = e.kept n := by
    refine (kept_modJob _ n n x.id f hf).trans ?_
    cases v <;> rfl
  let P (e' : Engine) : Prop := e'.kept n = e.kept n
  unfold releaseUnneeded
  dsimp only
  refine iteInduction (motive := P) (fun _ => ?_) fun _ => (hrelease _ _ _ _ fun _ => by rfl).trans ?_
  all_goals exact iteInduction (motive := P) (fun _ => rfl) fun _ => hrelease e _ _ _ fun _ => by rfl

theorem Engine.operands_putTap (e : Engine) (n : Sp) (id : Nat) (b : WindowBlk) (ws : List FeedWord) :
    (e.putTap n id b ws).operands n = e.operands n := by
  refine operands_modJob e n id _ fun x => ?_
  split <;> rfl

theorem Engine.operands_tapDone (e : Engine) (n : Sp) (id : Nat) (b : WindowBlk) (h : SkeinHdr) (ws : List FeedWord) :
    (e.tapDone n id b h ws).operands n = e.operands n := by
  unfold tapDone
  dsimp only
  split
  · split
    · exact (operands_of_kept (kept_releaseUnneeded ..)).trans (operands_putTap ..)
    · exact operands_putTap ..
  · exact operands_putTap ..

/-! The flexible claims and the zero MAGIC of a job whose operands are open (R288, R289, R293). -/

theorem Engine.operands_claimFlexible (e : Engine) (n : Sp) (id kind bytes : Nat) : (e.claimFlexible n id kind bytes).operands n = e.operands n := by
  let P (e' : Engine) : Prop := e'.operands n = e.operands n
  refine iteInduction (motive := P) (fun _ => rfl) fun _ => iteInduction (motive := P) (fun _ => ?_) fun _ =>
    iteInduction (motive := P) (fun _ => ?_) fun _ => ?_
  · refine (operands_modJob _ n id _ fun x => ?_).trans (operands_modJob e n id _ fun _ => by rfl)
    split <;> rfl
  · exact operands_of_still (still_takeSpot ..)
  · exact operands_of_sides (sides_claimSlice ..)

theorem Engine.operands_flexClaims (e : Engine) (n : Sp) (x : Job) : (e.flexClaims n x).operands n = e.operands n :=
  (operands_claimFlexible ..).trans (operands_claimFlexible ..)

theorem Engine.operands_draftZero (e : Engine) (n : Sp) (x : Job) : (e.draftZero n x).operands n = e.operands n := by
  refine (operands_modJob _ n x.id _ fun _ => by rfl).trans ?_
  let P (e' : Engine) : Prop := e'.operands n = e.operands n
  exact iteInduction (motive := P) (fun _ => operands_fault ..) fun _ => operands_of_kept (kept_jobWrite ..)

/-! Lanes that a sparse job takes (R163, R335). -/

theorem Engine.operands_openGroups (n : Sp) (id : Nat) (c : MergeCtx) (fuel : Nat) (e : Engine) :
    (e.openGroups n id c fuel).operands n = e.operands n := by
  have hlanes (os : List Nat) (s : Spindle) : (os.foldl (fun s o => s.modLane (o % 64) fun l =>
      ({ l with unstarted := l.unstarted ++ outputSegs c o }).takeUp c) s).jobs = s.jobs :=
    List.foldlRecOn (motive := fun s' : Spindle => s'.jobs = s.jobs) os _ rfl fun _ h _ _ => h
  induction fuel generalizing e with
  | zero => rfl
  | succ fuel ih =>
    unfold openGroups
    split
    · rfl
    · split
      · rfl
      · dsimp only
        split
        · rfl
        · refine (ih _).trans ((operands_modSp _ n _ fun s => hlanes _ s).trans (operands_modJob e n id _ fun _ => by rfl))

theorem Engine.operands_kickSparse (e : Engine) (n : Sp) : (e.kickSparse n).operands n = e.operands n := by
  unfold kickSparse
  split
  · rfl
  · split
    · unfold regainLanes
      split
      · exact (operands_modJob _ n _ _ fun _ => by rfl).trans (operands_modSp e n _ fun _ => by rfl)
      · rfl
    · unfold takeLanes
      split
      · rfl
      · split
        · exact (operands_openGroups ..).trans (operands_modSp e n _ fun _ => by rfl)
        · rfl

/-! ## An operand that its reads leave as it is -/

/-- Operand o of the job of spindle n with a number meets P. -/
def Engine.StrmIs (e : Engine) (n : Sp) (id : Nat) (o : Opnd) (P : Strm → Prop) : Prop :=
  ∃ y u, e.jobId? n id = some y ∧ y.strm o = some u ∧ P u

/-- What is said of a stream does not rest on how much of it has been asked for. -/
def Unasked (P : Strm → Prop) : Prop := ∀ u a p, P u → P { u with asked := a, paid := p }

/-- What is said of a stream rests on its phase and on the tiles decoded alone. -/
def Steady (P : Strm → Prop) : Prop := ∀ u v : Strm, v.phase = u.phase → v.decoded = u.decoded → P u → P v

theorem Steady.unasked {P : Strm → Prop} (h : Steady P) : Unasked P := fun u _ _ hu => h u _ rfl rfl hu

section
variable {e e' : Engine} {n : Sp} {id : Nat} {o : Opnd} {P Q : Strm → Prop}

theorem Engine.StrmIs.of_operands (h : e.StrmIs n id o P) (hsame : e'.operands n = e.operands n) : e'.StrmIs n id o P := by
  obtain ⟨x, u, hx, hu, hP⟩ := h
  obtain ⟨y, hy, hops⟩ := jobId?_of_operands hsame hx
  exact ⟨y, u, hy, (Job.strm_of_operands hops o).trans hu, hP⟩

theorem Engine.StrmIs.of_kept (h : e.StrmIs n id o P) (hsame : e'.kept n = e.kept n) : e'.StrmIs n id o P := h.of_operands (operands_of_kept hsame)

theorem Job.strm_modStrm_ne {x : Job} {o o' : Opnd} (h : o' ≠ o) (f : Strm → Strm) : (x.modStrm o' f).strm o = x.strm o :=
  match o, o', h with
  | .a, .b, _ => rfl
  | .b, .a, _ => rfl
  | .a, .a, h => absurd rfl h
  | .b, .b, h => absurd rfl h

theorem Engine.StrmIs.modStrm (h : e.StrmIs n id o P) {f : Strm → Strm} (hf : ∀ u, P u → Q (f u)) : (e.modStrm n id o f).StrmIs n id o Q := by
  obtain ⟨x, u, hx, hu, hP⟩ := h
  exact ⟨_, f u, jobId?_modStrm hx o f, Job.strm_modStrm hu f, hf u hP⟩

theorem Engine.StrmIs.modStrm_ne (h : e.StrmIs n id o P) {o' : Opnd} (ho : o' ≠ o) (f : Strm → Strm) : (e.modStrm n id o' f).StrmIs n id o P := by
  obtain ⟨x, u, hx, hu, hP⟩ := h
  exact ⟨_, u, jobId?_modStrm hx o' f, (Job.strm_modStrm_ne ho f).trans hu, hP⟩

/-- A change of either operand that does not touch what is said of a stream. -/
theorem Engine.StrmIs.modStrm_of (h : e.StrmIs n id o P) (o' : Opnd) {f : Strm → Strm} (hf : ∀ u, P u → P (f u)) :
    (e.modStrm n id o' f).StrmIs n id o P := by
  by_cases ho : o' = o
  · subst ho
    exact h.modStrm hf
  · exact h.modStrm_ne ho f

theorem Engine.StrmIs.modStrm_steady (h : e.StrmIs n id o P) (hP : Steady P) (o' : Opnd) {f : Strm → Strm} (hphase : ∀ u, (f u).phase = u.phase)
    (hdecoded : ∀ u, (f u).decoded = u.decoded) : (e.modStrm n id o' f).StrmIs n id o P :=
  h.modStrm_of o' fun u hu => hP u _ (hphase u) (hdecoded u) hu

theorem Engine.kept_strmAsk (e : Engine) (n : Sp) (x : Job) (o : Opnd) (p : Nat × Nat) (off len : Nat) :
    (e.strmAsk n x o p off len).kept n = e.kept n := by
  unfold strmAsk
  split
  · rfl
  · split
    · rfl
    · exact kept_jobRead ..

theorem Engine.StrmIs.askPayload (h : e.StrmIs n id o P) (hP : Unasked P) (o' : Opnd) : (e.askPayload n id o').StrmIs n id o P := by
  unfold Engine.askPayload
  split
  · exact h
  · split
    · exact h
    · split
      · have hpaid := h.modStrm_of o' (f := fun s => { s with paid := s.paid + 1 }) fun u hu => hP u u.asked _ hu
        dsimp only
        split
        · exact hpaid
        · exact hpaid.of_kept (kept_strmAsk ..)
      · exact h

theorem Engine.StrmIs.askEntry (h : e.StrmIs n id o P) (hP : Unasked P) (o' : Opnd) : (e.askEntry n id o').StrmIs n id o P := by
  unfold Engine.askEntry
  split
  · exact h
  · split
    · exact h
    · split
      · exact h
      · split
        · split
          · exact (h.modStrm_of o' fun u hu => hP u _ u.paid hu).of_kept (kept_strmAsk ..)
          · exact h
        · exact h

theorem Engine.StrmIs.readOn (h : e.StrmIs n id o P) (hP : Unasked P) (o' : Opnd) : (e.readOn n id o').StrmIs n id o P := by
  unfold Engine.readOn
  split
  · exact h
  · have hpayloads : ((List.range 5).foldl (fun e _ => e.askPayload n id o') e).StrmIs n id o P :=
      List.foldlRecOn (motive := fun e : Engine => e.StrmIs n id o P) _ _ h fun _ he _ _ => he.askPayload hP o'
    exact iteInduction (motive := fun e' : Engine => e'.StrmIs n id o P) (fun _ => h) fun _ =>
      iteInduction (motive := fun e' : Engine => e'.StrmIs n id o P) (fun _ => h.askEntry hP o') fun _ => hpayloads.askEntry hP o'

theorem Engine.StrmIs.askRow (h : e.StrmIs n id o P) (o' : Opnd) : (e.askRow n id o').StrmIs n id o P := by
  have hask (x : Job) (p : Nat × Nat) (off len : Nat) : (e.strmAsk n x o' p off len).StrmIs n id o P := h.of_kept (kept_strmAsk ..)
  unfold Engine.askRow
  split
  · exact h
  · split
    · split
      · split
        · exact h
        · dsimp only
          split
          · split
            · exact hask ..
            · exact h
          · split
            · exact hask ..
            · exact h
      · exact h
    · exact h

theorem Engine.StrmIs.sparseOn (h : e.StrmIs n id o P) (hP : Steady P) : (e.sparseOn n id).StrmIs n id o P := by
  unfold Engine.sparseOn
  split
  · exact h
  · split
    · refine StrmIs.of_operands ?_ (operands_kickSparse ..)
      split
      · exact h
      · split
        · exact (h.modStrm_steady hP .b (fun _ => by rfl) fun _ => by rfl).askRow .b
        · exact (h.modStrm_steady hP .b (fun _ => by rfl) fun _ => by rfl).readOn hP.unasked .b
    · exact h

/-! The plan of a Ply job's reads (R151, R518). -/

theorem Strm.planTo_steady (isAct : Bool) (segs groups v vecs fuel : Nat) (s : Strm) :
    (s.planTo isAct segs groups v vecs fuel).phase = s.phase ∧ (s.planTo isAct segs groups v vecs fuel).decoded = s.decoded := by
  induction fuel generalizing s with
  | zero => exact ⟨rfl, rfl⟩
  | succ fuel ih =>
    unfold planTo
    split
    · exact ⟨rfl, rfl⟩
    · exact ih _

theorem Job.id_plyPlan (x : Job) : x.plyPlan.id = x.id := by
  unfold plyPlan
  (repeat' split) <;> rfl

/-- A plan changes of an operand neither the phase nor the tiles decoded. -/
theorem Job.strm_plyPlan {x : Job} {o : Opnd} {u : Strm} (hu : x.strm o = some u) :
    ∃ v, x.plyPlan.strm o = some v ∧ v.phase = u.phase ∧ v.decoded = u.decoded := by
  unfold plyPlan
  split
  · rename_i p a w _ ha hw
    split
    · exact ⟨u, hu, rfl, rfl⟩
    · cases o with
      | a =>
        obtain rfl := Option.some.inj (ha.symm.trans hu)
        exact ⟨_, rfl, Strm.planTo_steady ..⟩
      | b =>
        obtain rfl := Option.some.inj (hw.symm.trans hu)
        exact ⟨_, rfl, Strm.planTo_steady ..⟩
  · exact ⟨u, hu, rfl, rfl⟩

theorem Engine.StrmIs.plyOn (h : e.StrmIs n id o P) (hP : Steady P) : (e.plyOn n id).StrmIs n id o P := by
  have hplan : (e.modJob n id Job.plyPlan).StrmIs n id o P := by
    obtain ⟨x, u, hx, hu, hPu⟩ := h
    obtain ⟨v, hv, hphase, hdecoded⟩ := Job.strm_plyPlan hu
    exact ⟨_, v, jobId?_modJob_of hx Job.id_plyPlan, hv, hP u v hphase hdecoded hPu⟩
  exact (hplan.readOn hP.unasked .a).readOn hP.unasked .b

/-- Both operands open: claims, the zero MAGIC and the array's start leave an operand's phase and the tiles decoded. -/
theorem Engine.StrmIs.bothOpen (h : e.StrmIs n id o P) (hP : Steady P) : (e.bothOpen n id).StrmIs n id o P := by
  unfold Engine.bothOpen
  split
  · exact h
  · split
    · split
      · exact h
      · split
        · exact h.of_kept (kept_fault ..)
        · have hclaims (x : Job) (f : Job → Job) (hf : ∀ x, (f x).operands = x.operands) : ((e.modJob n id f).flexClaims n x).StrmIs n id o P :=
            (h.of_operands (operands_modJob e n id f hf)).of_operands (operands_flexClaims ..)
          have hzero {e : Engine} (h : e.StrmIs n id o P) (x : Job) : (if e.jobLive n id then e.draftZero n x else e).StrmIs n id o P :=
            iteInduction (motive := fun e : Engine => e.StrmIs n id o P) (fun _ => h.of_operands (operands_draftZero ..)) fun _ => h
          dsimp only
          split
          · exact (hzero (hclaims _ _ fun _ => by rfl) _).plyOn hP
          · exact (hzero (hclaims _ _ fun _ => by rfl) _).sparseOn hP
    · exact h

/-! The lines of a window job and the boxes of a crop job (R139, R248 to R250, R263 to R268). -/

theorem Engine.kept_lineAsk (e : Engine) (n : Sp) (x : Job) (base : Option Addr) (p : Nat × Nat) (off len : Nat) :
    (e.lineAsk n x base p off len).kept n = e.kept n := by
  cases base
  · exact kept_strmAsk ..
  · exact kept_jobRead ..

theorem Engine.StrmIs.lineOn (h : e.StrmIs n id o P) (hP : Unasked P) (fuel : Nat) : (e.lineOn n id fuel).StrmIs n id o P := by
  induction fuel generalizing e with
  | zero => exact h
  | succ fuel ih =>
    unfold Engine.lineOn
    split
    · exact h
    · split
      · exact h
      · split
        · exact h
        · split
          · have hpaid := h.modStrm_of .a (f := fun s => { s with paid := s.paid + 1 }) fun u hu => hP u u.asked _ hu
            refine ih ?_
            split
            · exact hpaid
            · exact hpaid.of_kept (kept_lineAsk ..)
          · split
            · split
              · exact (h.modStrm_of .a fun u hu => hP u _ u.paid hu).of_kept (kept_lineAsk ..)
              · exact h
            · exact h

theorem Engine.StrmIs.windowNext (h : e.StrmIs n id o P) (hP : Unasked P) (fuel : Nat) : (e.windowNext n id fuel).StrmIs n id o P := by
  induction fuel generalizing e with
  | zero => exact h
  | succ fuel ih =>
    unfold Engine.windowNext
    split
    · exact h
    · split
      · split
        · exact h
        · split
          · split
            · exact h.of_kept (kept_finish ..)
            · exact h
          · split
            · exact ih (h.of_operands (operands_tapDone ..))
            · exact h.of_operands (operands_modJob e n id _ fun _ => by rfl)
            · exact h.lineOn hP 6
      · exact h

theorem Engine.StrmIs.windowFirst (h : e.StrmIs n id o P) (hP : Steady P) (b : WindowBlk) : (e.windowFirst n id b).StrmIs n id o P := by
  have hdrop := (h.of_operands (operands_dropReads e n id (pPayload .a 0))).modStrm_of .a (f := fun s => { s with entries := [], asked := 0, paid := 0 })
    fun u hu => hP u _ rfl rfl hu
  unfold Engine.windowFirst
  split
  · exact h
  · split
    · exact h
    · dsimp only
      split
      · split
        · split
          · exact h.windowNext hP.unasked _
          · exact h.of_kept (kept_fault ..)
        · exact hdrop.windowNext hP.unasked _
      · exact hdrop.windowNext hP.unasked _

theorem Engine.StrmIs.cropNext (h : e.StrmIs n id o P) (hP : Steady P) : (e.cropNext n id).StrmIs n id o P := by
  have hask {e : Engine} (h : e.StrmIs n id o P) (x : Job) (p : Nat × Nat) (off len : Nat) :
      ((e.modStrm n id .a fun s => { s with entries := [] }).strmAsk n x .a p off len).StrmIs n id o P :=
    (h.modStrm_steady hP .a (f := fun s => { s with entries := [] }) (fun _ => by rfl) fun _ => by rfl).of_kept (kept_strmAsk ..)
  have hform (k : Nat) (f : Job → Job) (hf : ∀ x, (f x).operands = x.operands) : ((e.countSat n k).modJob n id f).StrmIs n id o P :=
    (h.of_operands (operands_countSat ..)).of_operands (operands_modJob _ n id f hf)
  unfold Engine.cropNext
  split
  · exact h
  · split
    · split
      · exact h
      · split
        · exact h
        · dsimp only
          split
          · split
            · split
              · split
                · exact hform _ _ fun _ => by rfl
                · exact (hform _ _ fun _ => by rfl).of_kept (kept_fault ..)
              · exact hask ((hform _ _ fun _ => by rfl).of_operands (operands_dropReads ..)) ..
            · exact hask (hform _ _ fun _ => by rfl) ..
          · split
            · exact (hform _ _ fun _ => by rfl).of_operands (operands_modSp _ n _ fun _ => by rfl)
            · exact hform _ _ fun _ => by rfl
    · exact h

end

end Sys2Proof.Machine
end

section
/-! PROOFS. Streams that are read where they lie: headers, table entries, set-up and payloads (R67, R131 to R142, R162, R239, R372). -/

namespace Sys2Proof.Machine

/-! ## A job whose stream's reads have a place -/

/-- A job with a number that has not ended, and of whose operand o, which stands at an address, no read can fault where it stands. -/
def Engine.Reaches (e : Engine) (n : Sp) (id : Nat) (o : Opnd) (a : Addr) : Prop :=
  (∃ y u, e.jobId? n id = some y ∧ y.strm o = some u ∧ y.ended = none ∧ u.addr = a) ∧ ∀ off len, e.placeFault n false (a.plus off) len = none

section
variable {e e' : Engine} {n : Sp} {id : Nat} {o : Opnd} {a : Addr}

theorem Engine.Reaches.ended (h : e.Reaches n id o a) {y : Job} (hy : e.jobId? n id = some y) : y.ended = none := by
  obtain ⟨⟨z, u, hz, -, hended, -⟩, -⟩ := h
  rw [Option.some.inj (hy.symm.trans hz), hended]

theorem Engine.Reaches.of_alike (h : e.Reaches n id o a) (halike : Alike n e e') : e'.Reaches n id o a := by
  obtain ⟨⟨y, u, hy, hu, hended, haddr⟩, hplace⟩ := h
  obtain ⟨z, hz, hstill⟩ := jobId?_of_still halike.still hy
  have hstrm : z.strm o = y.strm o := by
    cases o
    · exact (congrArg Job.strA hstill :)
    · exact (congrArg Job.strB hstill :)
  exact ⟨⟨z, u, hz, hstrm.trans hu, (congrArg Job.ended hstill :).trans hended, haddr⟩, fun off len => (halike.placeFault _ len).trans (hplace off len)⟩

theorem Engine.Reaches.modSp (h : e.Reaches n id o a) {f : Spindle → Spindle} (hf : ∀ s, (f s).jobs = s.jobs) : (e.modSp n f).Reaches n id o a := by
  obtain ⟨⟨y, u, hy, hrest⟩, hplace⟩ := h
  refine ⟨⟨y, u, ?_, hrest⟩, fun off len => (placeFault_congr (by rfl) (by rfl) ..).trans (hplace off len)⟩
  rw [jobId?, sp_modSp, hf]
  exact hy

theorem Engine.Reaches.modJob (h : e.Reaches n id o a) {f : Job → Job} (hid : ∀ x, (f x).id = x.id) (hended : ∀ x, (f x).ended = x.ended)
    (haddr : ∀ x, ((f x).strm o).map Strm.addr = (x.strm o).map Strm.addr) : (e.modJob n id f).Reaches n id o a := by
  obtain ⟨⟨y, u, hy, hu, hnone, ha⟩, hplace⟩ := h
  have hat := haddr y
  rw [hu, Option.map_some] at hat
  obtain ⟨v, hv, hva⟩ := Option.map_eq_some_iff.mp hat
  exact ⟨⟨f y, v, jobId?_modJob_of hy hid, hv, (hended y).trans hnone, hva.trans ha⟩, fun off len =>
    (placeFault_congr (by rfl) (by rfl) ..).trans (hplace off len)⟩

theorem Engine.Reaches.modStrm (h : e.Reaches n id o a) {f : Strm → Strm} (hf : ∀ u, (f u).addr = u.addr) : (e.modStrm n id o f).Reaches n id o a := by
  refine h.modJob (fun x => x.id_modStrm o f) (fun x => x.ended_modStrm o f) fun x => ?_
  cases hu : x.strm o with
  | none => cases o <;> exact congrArg (fun u : Option Strm => (u.map f).map Strm.addr) hu
  | some u => rw [Job.strm_modStrm hu, Option.map_some, Option.map_some, hf]

theorem Engine.Reaches.strmAsk (h : e.Reaches n id o a) {x : Job} {s : Strm} (hs : x.strm o = some s) (haddr : s.addr = a) (p : Nat × Nat)
    (off len : Nat) : (e.strmAsk n x o p off len).Reaches n id o a := by
  unfold Engine.strmAsk
  rw [hs]
  dsimp only
  split
  · exact h
  · refine h.of_alike (jobRead_alike ?_ x.id p)
    obtain ⟨-, hplace⟩ := h
    rw [haddr]
    exact hplace off len

/-- The operand of the job that is found stands at the address. -/
theorem Engine.Reaches.addr (h : e.Reaches n id o a) {x : Job} {s : Strm} (hx : e.jobId? n id = some x) (hs : x.strm o = some s) : s.addr = a := by
  obtain ⟨⟨y, u, hy, hu, -, haddr⟩, -⟩ := h
  obtain rfl := Option.some.inj (hx.symm.trans hy)
  rw [Option.some.inj (hs.symm.trans hu), haddr]

theorem Engine.Reaches.askPayload (h : e.Reaches n id o a) : (e.askPayload n id o).Reaches n id o a := by
  unfold Engine.askPayload
  split
  · exact h
  · rename_i x hx
    split
    · exact h
    · rename_i s hs
      split
      · have hpaid := h.modStrm (f := fun s => { s with paid := s.paid + 1 }) fun _ => by rfl
        dsimp only
        split
        · exact hpaid
        · exact hpaid.strmAsk hs (h.addr hx hs) ..
      · exact h

theorem Engine.Reaches.askEntry (h : e.Reaches n id o a) : (e.askEntry n id o).Reaches n id o a := by
  unfold Engine.askEntry
  split
  · exact h
  · rename_i x hx
    split
    · exact h
    · rename_i s hs
      split
      · exact h
      · split
        · split
          · exact (h.modStrm (f := fun s => { s with asked := s.asked + 1 }) fun _ => by rfl).strmAsk hs (h.addr hx hs) ..
          · exact h
        · exact h

theorem Engine.Reaches.readOn (h : e.Reaches n id o a) : (e.readOn n id o).Reaches n id o a := by
  unfold Engine.readOn
  split
  · exact h
  · have hpayloads : ((List.range 5).foldl (fun e _ => e.askPayload n id o) e).Reaches n id o a :=
      List.foldlRecOn (motive := fun e : Engine => e.Reaches n id o a) _ _ h fun _ he _ _ => he.askPayload
    exact iteInduction (motive := fun e' : Engine => e'.Reaches n id o a) (fun _ => h) fun _ =>
      iteInduction (motive := fun e' : Engine => e'.Reaches n id o a) (fun _ => h.askEntry) fun _ => hpayloads.askEntry

end

/-! ## A stream that is read where it lies -/

section
variable {n : Sp} {j : Nat} {o : Opnd} {s : State} {x : Job} {st : Strm} (hx : worksAt s n j x) (hst : x.strm o = some st) (hplain : st.wrapped = none)

include hst hplain in
/-- What a read of such a stream has brought. -/
theorem Engine.strmRead_of_readIsIn {p : Nat × Nat} {off len : Nat} (hread : readIsIn s n x p (st.addr.plus off) len) (beyond : Nat) :
    s.eng.strmRead n x o p off len beyond .ok = (s.eng, .bytes (s.eng.readAt (st.addr.plus off) len)) := by
  unfold strmRead
  simp only [hst, hplain]
  exact arrive_of_readIsIn hread

include hx hst in
theorem Engine.strmIs_of_worksAt : s.eng.StrmIs n x.id o (· = st) := ⟨x, st, jobId?_of_worksAt hx, hst, rfl⟩

include hx hst hplain in
theorem Engine.reaches_of_readable (h : readable s n st) : s.eng.Reaches n x.id o st.addr := by
  refine ⟨⟨x, st, jobId?_of_worksAt hx, hst, Job.ended_of_worksAt hx, rfl⟩, ?_⟩
  rcases h with hwrapped | hplace
  · rw [hplain] at hwrapped
    exact absurd hwrapped (by decide)
  · exact hplace

end

/-- A working job that faults ends with that fault. -/
theorem ended_fault_of_worksAt {n : Sp} {j : Nat} {s : State} {x : Job} (hx : worksAt s n j x) (c d w : Nat) :
    ∃ y, (s.eng.fault n x.id c d w).jobId? n x.id = some y ∧ y.ended = some ⟨1, c, d, w⟩ :=
  Engine.ended_fault (Engine.jobId?_of_worksAt hx) (Job.ended_of_worksAt hx) c d w

/-! ## Table entries (R139) -/

section
variable {n : Sp} {j : Nat} {o : Opnd} {s : State} {x : Job} {st : Strm} (hx : worksAt s n j x) (hst : x.strm o = some st) (hplain : st.wrapped = none)
include hx hst hplain

theorem exec_tileEntryArrive {k : Nat} (hlst : st.lst = none) (hwindow : x.form ≠ .window) (hcrop : x.form ≠ .crop)
    (hphase : st.phase = .entry ∨ st.phase = .setup ∨ st.phase = .open) (htile : x.readTile o st st.entries.length = some k)
    (hasked : st.decoded + st.entries.length < st.asked)
    (hread : readIsIn s n x (pEntry o (st.decoded + st.entries.length)) (st.addr.plus (st.hdr.tableOffset + 8 * k)) 8) :
    let en := TileEntry.parse (s.eng.readAt (st.addr.plus (st.hdr.tableOffset + 8 * k)) 8)
    exec (.tileEntryArrive n j o .ok) s = .next (s.onEng fun e =>
      if (!en.ok st.hdr k) = true then e.fault n x.id 0x03 0 k
      else (e.modStrm n x.id o fun s => { s with entries := s.entries ++ [en], phase := if s.phase = .entry then .setup else s.phase }).readOn n x.id o) := by
  have hnext : exec (.tileEntryArrive n j o .ok) s = .next (s.onEng fun e => e.nextEntry n x o st .ok) := by
    change done (s.onEng _) = _
    have hread : (x.form == .window || x.form == .crop) = false := by simp [hwindow, hcrop]
    simp only [done, State.onEng, Engine.withJob_of_worksAt hx, hst, hlst, hread]
    rcases hphase with hphase | hphase | hphase <;> simp only [hphase, Bool.false_eq_true, if_false]
  rw [hnext]
  simp only [State.onEng, Engine.nextEntry, htile, if_neg (Nat.not_le.mpr hasked), Engine.strmRead_of_readIsIn hst hplain hread, Engine.onArrive]

/-! ## Payloads (R136, R139) -/

theorem exec_tilePayloadArrive {k : Nat} {en : TileEntry} {rest : List TileEntry} (hphase : st.phase = .open) (hlst : st.lst = none)
    (hwindow : x.form ≠ .window) (hcrop : x.form ≠ .crop) (hwords : x.form = .feed → x.words = []) (hmay : x.mayDecode o st = true)
    (hentries : st.entries = en :: rest) (htile : x.readTile o st 0 = some k) (hpaid : st.decoded < st.paid) (hzero : en.zero = false)
    (hread : readIsIn s n x (pPayload o st.decoded) (st.addr.plus en.offset) en.length) (waited : Nat) :
    exec (.tilePayloadArrive n j o .ok waited) s = .next (s.onEng fun e =>
      match decodeTile st.hdr k en (e.readAt (st.addr.plus en.offset) en.length) with
      | .error d => e.fault n x.id 0x04 d k
      | .ok cs =>
        let e1 := e.countSource n en.length waited
        (if x.form = .sparse then e1 else e1.countCodes n (readCounts st.ct cs)).tileDecoded n x o st k cs) := by
  have hnext : exec (.tilePayloadArrive n j o .ok waited) s = .next (s.onEng fun e => e.nextTile n x o st .ok waited) := by
    obtain ⟨-, -, -, hacts⟩ := id hx
    have hlock : x.lockWait = false := by
      simp only [Job.acts, Bool.and_eq_true, Bool.not_eq_true'] at hacts
      exact hacts.1.2
    change done (s.onEng _) = _
    simp only [done, State.onEng, Engine.withJob_of_worksAt hx, hst, hphase, hlst, bne_self_eq_false, Bool.false_eq_true, if_false]
    split
    · contradiction
    · contradiction
    · rename_i hfeed
      rw [hwords hfeed, hlock]
      rfl
    · rfl
  rw [hnext]
  have hdecodes : ¬ (st.paid ≤ st.decoded ∨ (!x.mayDecode o st) = true) := by
    rw [hmay]
    simpa using hpaid
  simp only [State.onEng, Engine.nextTile, hentries, htile, if_neg hdecodes, hzero, Bool.false_eq_true, if_false,
    Engine.strmRead_of_readIsIn hst hplain hread, Engine.onArrive] <;> rfl

end

section
variable {n : Sp} {j : Nat} {o : Opnd} {s : State} {x : Job} {st : Strm} (hx : worksAt s n j x) (hst : x.strm o = some st) (hplain : st.wrapped = none)

/-! ## An entry joins the table, or faults the job (R139) -/

include hx hst hplain in
theorem exec_tileEntryArrive_of_ok {k : Nat} (hlst : st.lst = none) (hwindow : x.form ≠ .window) (hcrop : x.form ≠ .crop)
    (hphase : st.phase = .entry ∨ st.phase = .setup ∨ st.phase = .open) (htile : x.readTile o st st.entries.length = some k)
    (hasked : st.decoded + st.entries.length < st.asked)
    (hread : readIsIn s n x (pEntry o (st.decoded + st.entries.length)) (st.addr.plus (st.hdr.tableOffset + 8 * k)) 8)
    (hgood : (TileEntry.parse (s.eng.readAt (st.addr.plus (st.hdr.tableOffset + 8 * k)) 8)).ok st.hdr k = true) :
    ∃ t y u, exec (.tileEntryArrive n j o .ok) s = .next t ∧ t.sec = s.sec ∧ t.eng.jobId? n x.id = some y ∧ y.strm o = some u ∧
      u.entries = st.entries ++ [TileEntry.parse (s.eng.readAt (st.addr.plus (st.hdr.tableOffset + 8 * k)) 8)] ∧ u.decoded = st.decoded ∧
      (readable s n st → y.ended = none) := by
  have hexec := exec_tileEntryArrive hx hst hplain hlst hwindow hcrop hphase htile hasked hread
  simp only [hgood, Bool.not_true, Bool.false_eq_true, if_false] at hexec
  generalize TileEntry.parse (s.eng.readAt (st.addr.plus (st.hdr.tableOffset + 8 * k)) 8) = en at hexec
  have hjoined := ((Engine.strmIs_of_worksAt hx hst).modStrm (Q := fun u => u.entries = st.entries ++ [en] ∧ u.decoded = st.decoded)
    (f := fun s => { s with entries := s.entries ++ [en], phase := if s.phase = .entry then .setup else s.phase })
    (by rintro u rfl; exact ⟨rfl, rfl⟩)).readOn (fun _ _ _ h => h) o
  obtain ⟨y, u, hy, hu, hentries, hdecoded⟩ := hjoined
  refine ⟨_, y, u, hexec, rfl, hy, hu, hentries, hdecoded, fun hfree => ?_⟩
  exact ((Engine.reaches_of_readable hx hst hplain hfree).modStrm fun _ => by rfl).readOn.ended hy

include hx hst hplain in
theorem exec_tileEntryArrive_of_bad {k : Nat} (hlst : st.lst = none) (hwindow : x.form ≠ .window) (hcrop : x.form ≠ .crop)
    (hphase : st.phase = .entry ∨ st.phase = .setup ∨ st.phase = .open) (htile : x.readTile o st st.entries.length = some k)
    (hasked : st.decoded + st.entries.length < st.asked)
    (hread : readIsIn s n x (pEntry o (st.decoded + st.entries.length)) (st.addr.plus (st.hdr.tableOffset + 8 * k)) 8)
    (hbad : (TileEntry.parse (s.eng.readAt (st.addr.plus (st.hdr.tableOffset + 8 * k)) 8)).ok st.hdr k = false) :
    ∃ t, exec (.tileEntryArrive n j o .ok) s = .next t ∧ t.sec = s.sec ∧ ∃ y, t.eng.jobId? n x.id = some y ∧ y.ended = some ⟨1, 3, 0, k⟩ := by
  have hexec := exec_tileEntryArrive hx hst hplain hlst hwindow hcrop hphase htile hasked hread
  simp only [hbad, Bool.not_false, if_true] at hexec
  exact ⟨_, hexec, rfl, ended_fault_of_worksAt hx ..⟩

/-! ## An operand's set-up (R138) -/

/-- The next operand to open is not one that is open. -/
theorem Engine.StrmIs.openNext {e : Engine} {n : Sp} {id : Nat} {o : Opnd} (h : e.StrmIs n id o (·.phase = .open)) :
    (e.openNext n id).StrmIs n id o (·.phase = .open) := by
  unfold Engine.openNext
  split
  · exact h
  · rename_i x hx
    dsimp only
    split
    · rename_i o' hfind
      split
      · rename_i v hv
        have hne : o' ≠ o := by
          rintro rfl
          obtain ⟨y, u, hy, hu, hopen⟩ := h
          obtain rfl := Option.some.inj (hx.symm.trans hy)
          have hclosed := List.find?_some hfind
          simp only [hu, hopen] at hclosed
          exact absurd hclosed (by decide)
        split
        · exact h
        · split
          · exact h.of_kept (kept_fault ..)
          · have hasked := (h.modStrm_ne hne fun s => { s with phase := .header }).of_kept (kept_jobRead _ n id (pHeader o') v.addr 64 n)
            split
            · exact hasked.of_kept (kept_jobRead ..)
            · exact hasked
      · exact h
    · exact h

/-- What the form of a job does once one of its operands is open and the next begins to open. -/
def Engine.formOpened (e : Engine) (n : Sp) (x : Job) : Engine :=
  match x.form with
  | .window => (match x.desc.window with | some b => e.windowFirst n x.id b | none => e)
  | .crop => e.cropNext n x.id
  | .ply => e.bothOpen n x.id
  | .sparse => e.bothOpen n x.id
  | _ => e

theorem steady_open : Steady (·.phase = .open) := fun _ _ hphase _ hu => hphase.trans hu

theorem Engine.StrmIs.formOpened {e : Engine} {n : Sp} {x : Job} {o : Opnd} (h : e.StrmIs n x.id o (·.phase = .open)) :
    (e.formOpened n x).StrmIs n x.id o (·.phase = .open) := by
  unfold Engine.formOpened
  split
  · split
    · exact h.windowFirst steady_open _
    · exact h
  · exact h.cropNext steady_open
  · exact h.bothOpen steady_open
  · exact h.bothOpen steady_open
  · exact h

include hx hst in
theorem exec_streamSetupDone_of_setup (hphase : st.phase = .setup) :
    ∃ t y u, exec (.streamSetupDone n j o) s = .next t ∧ t.sec = s.sec ∧ t.eng.jobId? n x.id = some y ∧ y.strm o = some u ∧ u.phase = .open := by
  have hexec : exec (.streamSetupDone n j o) s = .next (s.onEng fun e =>
      ((e.modStrm n x.id o fun s => { s with phase := .open }).openNext n x.id).formOpened n x) := by
    change done (s.onEng _) = _
    simp only [done, State.onEng, Engine.withJob_of_worksAt hx, hst, hphase, if_true]
    rfl
  obtain ⟨y, u, hy, hu, hopen⟩ := (((Engine.strmIs_of_worksAt hx hst).modStrm (Q := (·.phase = .open)) (f := fun s => { s with phase := .open })
    fun _ _ => rfl).openNext).formOpened
  exact ⟨_, y, u, hexec, rfl, hy, hu, hopen⟩

/-! ## A payload counts as decoded, or faults the job (R136, R139) -/

/-- A decoded tile is counted, and the units behind the decoder go on. -/
theorem Engine.StrmIs.tileDecoded {e : Engine} {n : Sp} {x : Job} {o : Opnd} {st : Strm} (h : e.StrmIs n x.id o (· = st)) (k : Nat)
    (cs : List (Option Nat)) : (e.tileDecoded n x o st k cs).StrmIs n x.id o (·.decoded = st.decoded + 1) := by
  have hsteady : Steady (·.decoded = st.decoded + 1) := fun _ _ _ hdecoded hu => hdecoded.trans hu
  have hnext {e : Engine} (h : e.StrmIs n x.id o (· = st)) {f : Strm → Strm} (hf : (f st).decoded = st.decoded + 1) :
      (e.modStrm n x.id o f).StrmIs n x.id o (·.decoded = st.decoded + 1) := h.modStrm (by rintro u rfl; exact hf)
  unfold Engine.tileDecoded
  dsimp only
  split
  · exact (hnext (h.of_operands (operands_feedTile ..)) (by rfl)).readOn hsteady.unasked o
  · exact ((hnext h (by rfl)).readOn hsteady.unasked o).sparseOn hsteady
  · exact (hnext h (by rfl)).plyOn hsteady

/-- A feed job's stream moves on by a tile, and the job goes on where its reads have a place. -/
theorem Engine.tileDecoded_of_feed {e : Engine} {n : Sp} {x : Job} {o : Opnd} {st : Strm} {en : TileEntry} {rest : List TileEntry}
    (hfeed : x.form = .feed) (h : e.StrmIs n x.id o (· = st)) (hentries : st.entries = en :: rest) (k : Nat) (cs : List (Option Nat)) :
    (e.tileDecoded n x o st k cs).StrmIs n x.id o (·.entries = rest) ∧
      (e.Reaches n x.id o st.addr → (e.tileDecoded n x o st k cs).Reaches n x.id o st.addr) := by
  unfold tileDecoded
  simp only [hfeed]
  refine ⟨((h.of_operands (operands_feedTile ..)).modStrm ?_).readOn (fun _ _ _ h => h) o, fun hfree => ?_⟩
  · rintro u rfl
    change u.entries.drop 1 = rest
    rw [hentries, List.drop_one, List.tail_cons]
  · refine (Reaches.modStrm ?_ fun _ => by rfl).readOn
    exact (hfree.modJob (fun _ => by rfl) (fun _ => by rfl) fun _ => by cases o <;> rfl).modSp fun _ => by rfl

include hx hst hplain in
theorem exec_tilePayloadArrive_of_ok {k : Nat} {en : TileEntry} {rest : List TileEntry} (hphase : st.phase = .open) (hlst : st.lst = none)
    (hwindow : x.form ≠ .window) (hcrop : x.form ≠ .crop) (hwords : x.form = .feed → x.words = []) (hmay : x.mayDecode o st = true)
    (hentries : st.entries = en :: rest) (htile : x.readTile o st 0 = some k) (hpaid : st.decoded < st.paid) (hzero : en.zero = false)
    (hread : readIsIn s n x (pPayload o st.decoded) (st.addr.plus en.offset) en.length) (waited : Nat) {cs : List (Option Nat)}
    (hdecode : decodeTile st.hdr k en (s.eng.readAt (st.addr.plus en.offset) en.length) = .ok cs) :
    ∃ t y u, exec (.tilePayloadArrive n j o .ok waited) s = .next t ∧ t.sec = s.sec ∧ t.eng.jobId? n x.id = some y ∧ y.strm o = some u ∧
      u.decoded = st.decoded + 1 ∧ (x.form = .feed → u.entries = rest ∧ (readable s n st → y.ended = none)) := by
  have hexec := exec_tilePayloadArrive hx hst hplain hphase hlst hwindow hcrop hwords hmay hentries htile hpaid hzero hread waited
  simp only [State.onEng, hdecode] at hexec
  set e1 := s.eng.countSource n en.length waited with he1
  have hstart := (Engine.strmIs_of_worksAt hx hst).of_operands (Engine.operands_countSource s.eng n en.length waited)
  have hcounted : (if x.form = .sparse then e1 else e1.countCodes n (readCounts st.ct cs)).StrmIs n x.id o (· = st) :=
    iteInduction (motive := fun e : Engine => e.StrmIs n x.id o (· = st)) (fun _ => hstart) fun _ => hstart.of_operands (Engine.operands_countCodes ..)
  obtain ⟨y, u, hy, hu, hdecoded⟩ := hcounted.tileDecoded k cs
  refine ⟨_, y, u, hexec, rfl, hy, hu, hdecoded, fun hfeed => ?_⟩
  obtain ⟨⟨y', u', hy', hu', hrest⟩, hgoes⟩ := Engine.tileDecoded_of_feed hfeed hcounted hentries k cs
  obtain rfl := Option.some.inj (hy.symm.trans hy')
  obtain rfl := Option.some.inj (hu.symm.trans hu')
  refine ⟨hrest, fun hfree => (hgoes ?_).ended hy⟩
  have hreaches := (Engine.reaches_of_readable hx hst hplain hfree).modSp (f := fun s => { s with
    srcRead := s.srcRead + en.length, work := { s.work with srcStall := satAdd s.work.srcStall waited } }) fun _ => by rfl
  exact iteInduction (motive := fun e : Engine => e.Reaches n x.id o st.addr) (fun _ => hreaches) fun _ => hreaches.modSp fun _ => by rfl

include hx hst hplain in
theorem exec_tilePayloadArrive_of_error {k : Nat} {en : TileEntry} {rest : List TileEntry} (hphase : st.phase = .open) (hlst : st.lst = none)
    (hwindow : x.form ≠ .window) (hcrop : x.form ≠ .crop) (hwords : x.form = .feed → x.words = []) (hmay : x.mayDecode o st = true)
    (hentries : st.entries = en :: rest) (htile : x.readTile o st 0 = some k) (hpaid : st.decoded < st.paid) (hzero : en.zero = false)
    (hread : readIsIn s n x (pPayload o st.decoded) (st.addr.plus en.offset) en.length) (waited : Nat) {d : Nat}
    (hdecode : decodeTile st.hdr k en (s.eng.readAt (st.addr.plus en.offset) en.length) = .error d) :
    ∃ t, exec (.tilePayloadArrive n j o .ok waited) s = .next t ∧ t.sec = s.sec ∧ ∃ y, t.eng.jobId? n x.id = some y ∧ y.ended = some ⟨1, 4, d, k⟩ := by
  have hexec := exec_tilePayloadArrive hx hst hplain hphase hlst hwindow hcrop hwords hmay hentries htile hpaid hzero hread waited
  simp only [State.onEng, hdecode] at hexec
  exact ⟨_, hexec, rfl, ended_fault_of_worksAt hx ..⟩

end

/-! ## Headers (R67, R131, R132, R138, R162, R239, R372) -/

/-- A working job that is aborted ends with that abort (R373). -/
theorem Engine.ended_abort {e : Engine} {n : Sp} {id : Nat} {x : Job} (hx : e.jobId? n id = some x) (hended : x.ended = none) (d : Nat) :
    ∃ y, (e.abort n id d).jobId? n id = some y ∧ y.ended = some ⟨2, 0x17, d, 0⟩ := by
  have hstop : e.abort n id d = e.stopJob n id ⟨2, 0x17, d, 0⟩ := by simp [abort, stopJob, abortable, hx, hended]
  rw [hstop]
  exact ended_stopJob (view?_of_jobId? hx) hended _

/-- What a job's form asks of its operand changes the job's window and claims alone. -/
theorem Engine.kept_formChecks (e : Engine) (n : Sp) (x : Job) (st : Strm) : (e.formChecks n x st).kept n = e.kept n := by
  unfold formChecks
  split
  · split
    · have hwindow (f : Job → Job) (hf : ∀ x, (f x).lasting = x.lasting) : (e.modJob n x.id f).kept n = e.kept n := kept_modJob e n n x.id f hf
      let P (e' : Engine) : Prop := e'.kept n = e.kept n
      exact iteInduction (motive := P) (fun _ => (kept_fault ..).trans (hwindow _ fun _ => by rfl)) fun _ =>
        (kept_releaseUnneeded ..).trans (hwindow _ fun _ => by rfl)
    · rfl
  · split
    · exact kept_fault ..
    · exact kept_claimFixed ..
  · rfl

theorem Engine.formChecks_of_ne (e : Engine) (n : Sp) {x : Job} (hwindow : x.form ≠ .window) (hcrop : x.form ≠ .crop) (st : Strm) :
    e.formChecks n x st = e := by
  unfold formChecks
  split
  · contradiction
  · contradiction
  · rfl

/-- A stream without a list that is accepted keeps its header, and enters its table while its job goes on. -/
theorem Engine.jobId?_enterStream {e : Engine} {n : Sp} {id : Nat} {x : Job} {o : Opnd} {st : Strm} (hx : e.jobId? n id = some x)
    (hst : x.strm o = some st) (hlst : st.lst = none) :
    ∃ y u, (e.enterStream n id o).jobId? n id = some y ∧ y.strm o = some u ∧ u.hdr = st.hdr ∧ (y.ended = none → u.phase = .entry) := by
  cases hended : x.ended with
  | some en =>
    have hstays : e.enterStream n id o = e := by simp [enterStream, hx, hended]
    rw [hstays]
    exact ⟨x, st, hx, hst, rfl, fun hnone => absurd (hended.symm.trans hnone) (by simp)⟩
  | none =>
    have hentered : e.enterStream n id o = (e.modStrm n id o fun s => { s with phase := .entry }).askEntry n id o := by
      simp [enterStream, hx, hended, hst, hlst]
    have hstart : e.StrmIs n id o (· = st) := ⟨x, st, hx, hst, rfl⟩
    obtain ⟨y, u, hy, hu, hhdr, hphase⟩ := (hstart.modStrm (Q := fun u => u.hdr = st.hdr ∧ u.phase = .entry) (f := fun s => { s with phase := .entry })
      (by rintro u rfl; exact ⟨rfl, rfl⟩)).askEntry (fun _ _ _ hu => hu) o
    rw [hentered]
    exact ⟨y, u, hy, hu, hhdr, fun _ => hphase⟩

theorem Engine.Reaches.enterStream {e : Engine} {n : Sp} {id : Nat} {o : Opnd} {a : Addr} (h : e.Reaches n id o a) :
    (e.enterStream n id o).Reaches n id o a := by
  have hentry := h.modStrm (f := fun s => { s with phase := .entry }) fun _ => by rfl
  unfold Engine.enterStream
  split
  · exact h
  · rename_i x hx
    split
    · exact h
    · dsimp only
      split
      · rename_i st hst
        split
        · exact hentry.strmAsk hst (h.addr hx hst) ..
        · exact hentry.askEntry
      · exact hentry

/-- The checks of both operands of a job hold of its operand o and of the other (R131, R159). -/
def pairFits (x : Job) : Opnd → Strm → Strm → Bool
  | .a, u, v => pairOk x u v
  | .b, u, v => pairOk x v u

theorem pairFits_eq (x : Job) (o : Opnd) (u v : Strm) : pairFits x o u v = match o with | .a => pairOk x u v | .b => pairOk x v u := by
  cases o <;> rfl

section
variable {n : Sp} {j : Nat} {o : Opnd} {s : State} {x : Job} {st : Strm} (hx : worksAt s n j x) (hst : x.strm o = some st) (hplain : st.wrapped = none)
  (hphase : st.phase = .header) (hscale : st.blk.scaleSrc ≠ 1) (hfold : (s.eng.sp n).waitsFor x.id (pFold o) = false)
  (hread : readIsIn s n x (pHeader o) st.addr 64)
include hx hst hplain hphase hscale hfold hread

/-- What a header that has come does: of a Hank frame, or the stream's own. -/
theorem exec_streamHeaderArrive :
    exec (.streamHeaderArrive n j o .ok) s = .next (s.onEng fun e =>
      if fieldAt (e.readAt st.addr 64) 0 4 = magicHank then e.openWrapped n x o (e.readAt st.addr 64) else e.header n x o st (e.readAt st.addr 64)) := by
  have hno : (st.blk.scaleSrc == 1) = false := by simpa using hscale
  change done (s.onEng _) = _
  simp only [done, State.onEng, Engine.withJob_of_worksAt hx, hst, hplain, hphase, hfold, hno, bne_self_eq_false, Bool.false_and, Bool.or_self,
    Bool.false_eq_true, if_false, Engine.arrive_of_readIsIn hread, Engine.onArrive]

/-! A Hank frame's header (R232, R239, R372). -/

theorem exec_streamHeaderArrive_of_badFrame {d : Nat} (hmagic : fieldAt (s.eng.readAt st.addr 64) 0 4 = magicHank)
    (hbad : hankOpenError (s.eng.readAt st.addr 64) = some d) :
    ∃ t, exec (.streamHeaderArrive n j o .ok) s = .next t ∧ t.sec = s.sec ∧ (t.eng.sp n).work.hankErr = satInc (s.eng.sp n).work.hankErr ∧
      ∃ y, t.eng.jobId? n x.id = some y ∧ y.ended = some ⟨1, 0x0A, d, 0⟩ := by
  have hexec := exec_streamHeaderArrive hx hst hplain hphase hscale hfold hread
  simp only [State.onEng, if_pos hmagic, Engine.openWrapped, hbad] at hexec
  exact ⟨_, hexec, rfl, Engine.hankErr_hankFail .., Engine.ended_hankFail (Engine.jobId?_of_worksAt hx) (Job.ended_of_worksAt hx) ..⟩

theorem exec_streamHeaderArrive_of_disabled (hmagic : fieldAt (s.eng.readAt st.addr 64) 0 4 = magicHank)
    (hgood : hankOpenError (s.eng.readAt st.addr 64) = none) (hen : (s.eng.sp n).hankEn = false) (hdrain : (s.eng.sp n).drainHank = none) :
    ∃ t y, exec (.streamHeaderArrive n j o .ok) s = .next t ∧ t.sec = s.sec ∧ t.eng.jobId? n x.id = some y ∧ y.ended = some ⟨2, 0x17, 2, 0⟩ := by
  have hexec := exec_streamHeaderArrive hx hst hplain hphase hscale hfold hread
  simp only [State.onEng, if_pos hmagic, Engine.openWrapped, hgood, hen, hdrain, Bool.not_false, Option.isNone_none, Bool.and_self, if_true] at hexec
  obtain ⟨y, hy, hended⟩ := Engine.ended_abort (Engine.jobId?_of_worksAt hx) (Job.ended_of_worksAt hx) 2
  exact ⟨_, y, hexec, rfl, hy, hended⟩

theorem exec_streamHeaderArrive_of_frame (hmagic : fieldAt (s.eng.readAt st.addr 64) 0 4 = magicHank)
    (hgood : hankOpenError (s.eng.readAt st.addr 64) = none) (hmay : (s.eng.sp n).hankEn = true ∨ (s.eng.sp n).drainHank.isSome = true) :
    ∃ t y u, exec (.streamHeaderArrive n j o .ok) s = .next t ∧ t.sec = s.sec ∧ t.eng.jobId? n x.id = some y ∧ y.hank.isSome = true ∧
      y.strm o = some u ∧ u.wrapped = some (HankHdr.parse (s.eng.readAt st.addr 64)) := by
  have hexec := exec_streamHeaderArrive hx hst hplain hphase hscale hfold hread
  have hon : ¬ (!(s.eng.sp n).hankEn && (s.eng.sp n).drainHank.isNone) = true := by
    rcases hmay with hen | hdrain
    · simp [hen]
    · simp [Option.isNone_eq_false_iff.mpr hdrain]
  simp only [State.onEng, if_pos hmagic, Engine.openWrapped, hgood, if_neg hon] at hexec
  generalize HankHdr.parse (s.eng.readAt st.addr 64) = h at hexec ⊢
  have hwrapped := Engine.jobId?_modStrm (Engine.jobId?_of_worksAt hx) o fun s => { s with wrapped := some h }
  have hopened := Engine.jobId?_modJob_of (f := fun x => { x.trimBuffers with hank := some (x.hank.getD {}) }) hwrapped fun _ => by rfl
  obtain ⟨y, hy, hsame⟩ := Engine.jobId?_of_kept ((Engine.kept_claimFixed _ n x.id (sideBanks .dec h.blockSize - x.decBanks) n).trans
    (Engine.kept_trySide _ n x.id n)) hopened
  obtain ⟨u, hu, huw⟩ : ∃ u, y.strm o = some u ∧ u.wrapped = some h := by
    rw [Job.strm_of_lasting hsame]
    have hstrm := Job.strm_modStrm hst fun s => { s with wrapped := some h }
    cases o
    · exact ⟨_, congrArg (Option.map _) hstrm, rfl⟩
    · exact ⟨_, congrArg (Option.map _) hstrm, rfl⟩
  refine ⟨_, y, u, hexec, rfl, hy, ?_, hu, huw⟩
  have hhank : (y.hank.map fun k => { k with held := false }).isSome = true := (congrArg (fun x => x.hank.isSome) hsame :)
  rwa [Option.isSome_map] at hhank

/-! A list's header and a stream's own (R67, R131, R132, R162). -/

theorem exec_streamHeaderArrive_of_badList (hmagic : fieldAt (s.eng.readAt st.addr 64) 0 4 ≠ magicHank)
    (hlist : (x.form = .sparse ∨ st.blk.dest = 3) ∧ fieldAt (s.eng.readAt st.addr 64) 0 4 ≠ magicSkein)
    (hbad : fieldAt (s.eng.readAt st.addr 64) 0 4 ≠ magicList ∨
      (ListHdr.parse (s.eng.readAt st.addr 64)).ok x.grids (fieldAt (s.eng.readAt st.addr 64) 5 1) = false) :
    ∃ t, exec (.streamHeaderArrive n j o .ok) s = .next t ∧ t.sec = s.sec ∧ ∃ y, t.eng.jobId? n x.id = some y ∧ y.ended = some ⟨1, 5, 0, 0⟩ := by
  have hexec := exec_streamHeaderArrive hx hst hplain hphase hscale hfold hread
  have hfails : fieldAt (s.eng.readAt st.addr 64) 0 4 ≠ magicList ∨
      (!(ListHdr.parse (s.eng.readAt st.addr 64)).ok x.grids (fieldAt (s.eng.readAt st.addr 64) 5 1)) = true := hbad.imp_right (by simp [·])
  simp only [State.onEng, if_neg hmagic, Engine.header, if_pos hlist, if_pos hfails] at hexec
  exact ⟨_, hexec, rfl, ended_fault_of_worksAt hx ..⟩

theorem exec_streamHeaderArrive_of_badStream (hmagic : fieldAt (s.eng.readAt st.addr 64) 0 4 ≠ magicHank)
    (hstream : ¬ ((x.form = .sparse ∨ st.blk.dest = 3) ∧ fieldAt (s.eng.readAt st.addr 64) 0 4 ≠ magicSkein))
    (hbad : (SkeinHdr.parse (s.eng.readAt st.addr 64)).ok x.grids = false) :
    ∃ t, exec (.streamHeaderArrive n j o .ok) s = .next t ∧ t.sec = s.sec ∧ ∃ y, t.eng.jobId? n x.id = some y ∧ y.ended = some ⟨1, 2, 0, 0⟩ := by
  have hexec := exec_streamHeaderArrive hx hst hplain hphase hscale hfold hread
  simp only [State.onEng, if_neg hmagic, Engine.header, if_neg hstream, hbad, Bool.not_false, Bool.true_or, if_true] at hexec
  exact ⟨_, hexec, rfl, ended_fault_of_worksAt hx ..⟩

/-- A good header of a job outside a lockstep set, with its scale in the stream, is put in the operand, and what the form asks follows. -/
theorem exec_streamHeaderArrive_of_accepted {h : SkeinHdr} {u0 : Strm} (hparse : SkeinHdr.parse (s.eng.readAt st.addr 64) = h)
    (hopened : st.opened x o h none 0 = u0) (hmagic : fieldAt (s.eng.readAt st.addr 64) 0 4 ≠ magicHank)
    (hstream : ¬ ((x.form = .sparse ∨ st.blk.dest = 3) ∧ fieldAt (s.eng.readAt st.addr 64) 0 4 ≠ magicSkein))
    (hgood : h.ok x.grids = true) (hlock : x.desc.lock = false) (hblock : blockOk x o u0 = true)
    (hpair : x.isSecond o = false ∨ ∃ v, x.strm (otherOpnd o) = some v ∧ pairFits x o u0 v = true) :
    exec (.streamHeaderArrive n j o .ok) s = .next (s.onEng fun e =>
      ((e.modStrm n x.id o fun _ => u0).formChecks n (x.modStrm o fun _ => u0) u0).enterStream n x.id o) := by
  rw [exec_streamHeaderArrive hx hst hplain hphase hscale hfold hread]
  have hzero : w32 (if st.blk.scaleSrc = 1 then s.eng.natAt (Addr.parse st.blk.foldAddr) 4 else 0) = 0 := by
    rw [if_neg hscale]
    rfl
  have hscale0 : u0.blk.scaleSrc ≠ 1 := by
    rw [← hopened]
    exact hscale
  simp only [State.onEng, if_neg hmagic, Engine.header, if_neg hstream, hparse, hgood, hplain, Bool.not_true, Bool.or_self, Bool.false_eq_true,
    if_false, hzero, hopened]
  simp only [Engine.headerPassed, hblock, hlock, Bool.not_true, Bool.false_or, Bool.false_and, Bool.false_eq_true, if_false, hscale0, false_and]
  refine congrArg (fun e => Host.Outcome.next { s with eng := e }) (if_neg ?_)
  rcases hpair with hfirst | ⟨v, hv, hpair⟩
  · simp [hfirst]
  · rw [hv]
    cases o
    · simpa [pairFits] using fun _ => hpair
    · simpa [pairFits] using fun _ => hpair

theorem exec_streamHeaderArrive_of_header (hmagic : fieldAt (s.eng.readAt st.addr 64) 0 4 ≠ magicHank)
    (hstream : ¬ ((x.form = .sparse ∨ st.blk.dest = 3) ∧ fieldAt (s.eng.readAt st.addr 64) 0 4 ≠ magicSkein)) {h : SkeinHdr} {u0 : Strm}
    (hparse : SkeinHdr.parse (s.eng.readAt st.addr 64) = h) (hopened : st.opened x o h none 0 = u0)
    (hgood : h.ok x.grids = true) (hlock : x.desc.lock = false) (hblock : blockOk x o u0 = true)
    (hpair : x.isSecond o = false ∨ ∃ v, x.strm (otherOpnd o) = some v ∧ pairFits x o u0 v = true) :
    ∃ t y u, exec (.streamHeaderArrive n j o .ok) s = .next t ∧ t.sec = s.sec ∧ t.eng.jobId? n x.id = some y ∧ y.strm o = some u ∧ u.hdr = h ∧
      (y.ended = none → u.phase = .entry) ∧ (x.form ≠ .window → x.form ≠ .crop → readable s n st → y.ended = none) := by
  have hexec := exec_streamHeaderArrive_of_accepted hx hst hplain hphase hscale hfold hread hparse hopened hmagic hstream hgood hlock hblock hpair
  have hhdr : u0.hdr = h := by rw [← hopened]; rfl
  have hlst : u0.lst = none := by rw [← hopened]; rfl
  have haddr : u0.addr = st.addr := by rw [← hopened]; rfl
  have hx1 := Engine.jobId?_modStrm (Engine.jobId?_of_worksAt hx) o fun _ => u0
  obtain ⟨y, hy, hsame⟩ := Engine.jobId?_of_kept (Engine.kept_formChecks _ n (x.modStrm o fun _ => u0) u0) hx1
  have hu : y.strm o = some u0 := (Job.strm_of_lasting hsame o).trans (Job.strm_modStrm hst fun _ => u0)
  obtain ⟨z, u, hz, hzu, huhdr, huphase⟩ := Engine.jobId?_enterStream hy hu hlst
  refine ⟨_, z, u, hexec, rfl, hz, hzu, huhdr.trans hhdr, huphase, fun hwindow hcrop hfree => ?_⟩
  obtain ⟨-, hplace⟩ := Engine.reaches_of_readable hx hst hplain hfree
  have hput : (s.eng.modStrm n x.id o fun _ => u0).Reaches n x.id o st.addr :=
    ⟨⟨_, u0, hx1, Job.strm_modStrm hst _, (x.ended_modStrm o _).trans (Job.ended_of_worksAt hx), haddr⟩, fun off len =>
      (Engine.placeFault_congr (by rfl) (by rfl) ..).trans (hplace off len)⟩
  have hform : (x.modStrm o fun _ => u0).form = x.form := by cases o <;> rfl
  have hchecks : (s.eng.modStrm n x.id o fun _ => u0).formChecks n (x.modStrm o fun _ => u0) u0 = s.eng.modStrm n x.id o fun _ => u0 := by
    exact Engine.formChecks_of_ne _ n (by rwa [hform]) (by rwa [hform]) u0
  refine Engine.Reaches.ended (a := st.addr) (Engine.Reaches.enterStream ?_) hz
  rw [hchecks]
  exact hput

end

/-- Settles O51, clause by clause: a stream's header of each kind, its table entries, its operand's set-up and its payloads. -/
theorem streamsAreReadInOrder : Obligations.StreamsAreReadInOrder := by
  unfold Obligations.StreamsAreReadInOrder
  intro n j o s x st hx hst hplain
  refine ⟨fun hphase hscale hfold hread => ⟨fun d hmagic hbad => ?_, fun hmagic hgood hen hdrain => ?_, fun hmagic hgood hmay => ?_,
    fun hmagic hlist hbad => ?_, fun hmagic hstream hbad => ?_, fun hmagic hstream hgood hlock hblock hpair => ?_⟩,
    fun k hlst hwindow hcrop hphase htile hasked hread => ⟨fun hgood => ?_, fun hbad => ?_⟩, exec_streamSetupDone_of_setup hx hst,
    fun en rest k hphase hlst hwindow hcrop hwords hmay hentries htile hpaid hzero hread waited => ⟨fun cs hdecode => ?_, fun d hdecode => ?_⟩⟩
  · exact exec_streamHeaderArrive_of_badFrame hx hst hplain hphase hscale hfold hread hmagic hbad
  · exact exec_streamHeaderArrive_of_disabled hx hst hplain hphase hscale hfold hread hmagic hgood hen hdrain
  · exact exec_streamHeaderArrive_of_frame hx hst hplain hphase hscale hfold hread hmagic hgood hmay
  · exact exec_streamHeaderArrive_of_badList hx hst hplain hphase hscale hfold hread hmagic hlist hbad
  · exact exec_streamHeaderArrive_of_badStream hx hst hplain hphase hscale hfold hread hmagic hstream hbad
  · exact exec_streamHeaderArrive_of_header hx hst hplain hphase hscale hfold hread hmagic hstream rfl rfl hgood hlock hblock
      (hpair.imp_right fun ⟨v, hv, hfits⟩ => ⟨v, hv, (pairFits_eq ..).trans hfits⟩)
  · exact exec_tileEntryArrive_of_ok hx hst hplain hlst hwindow hcrop hphase htile hasked hread hgood
  · exact exec_tileEntryArrive_of_bad hx hst hplain hlst hwindow hcrop hphase htile hasked hread hbad
  · exact exec_tilePayloadArrive_of_ok hx hst hplain hphase hlst hwindow hcrop hwords hmay hentries htile hpaid hzero hread waited hdecode
  · exact exec_tilePayloadArrive_of_error hx hst hplain hphase hlst hwindow hcrop hwords hmay hentries htile hpaid hzero hread waited hdecode

end Sys2Proof.Machine
end

section
/-! PROOFS. The halves that jobs publish and read, and the count of readers' waits, as stops and accesses leave them (R257 to R259). -/

namespace Sys2Proof.Machine

/-! ## What stops leave of halves and windows (R70, R119, R204, R259, R373) -/

/-- A job's number, its window and the halves that it publishes: of all that stops a job, the ring duties alone change them. -/
structure JobRings where
  id : Nat
  window : Option Window
  halves : List HalfOut

def Job.rings (x : Job) : JobRings := ⟨x.id, x.window, x.halves⟩

/-- What the ring duties make of a job's window and halves (R259). -/
def JobRings.stopped (r : JobRings) : JobRings :=
  { r with
    window := r.window.map fun w => { w with above := .released, below := .released, waiting := none, waitFrom := none }
    halves := r.halves.map fun h => if h.acked then h else { h with bytes := some [0, 0, 0, 0], written := false } }

/-- The rings of the started jobs of spindle n, and its count of readers' waits. -/
def Engine.halo (e : Engine) (n : Sp) : List JobRings × Word := ((e.sp n).jobs.map Job.rings, (e.sp n).work.haloWait)

theorem Engine.halo_of_still {e e' : Engine} {n : Sp} (h : e'.still n = e.still n) : e'.halo n = e.halo n := by
  have hs (e : Engine) : ((e.still n).jobs.map Job.rings, (e.still n).work.haloWait) = e.halo n := by
    rw [still, Spindle.still, List.map_map]
    rfl
  rw [← hs e', h, hs e]

theorem Engine.halo_of_spindles {e e' : Engine} (h : e'.spindles = e.spindles) (n : Sp) : e'.halo n = e.halo n :=
  halo_of_still (still_of_spindles h n)

theorem Engine.halo_modSp (e : Engine) (n : Sp) (f : Spindle → Spindle) (hjobs : ∀ s, (f s).jobs = s.jobs)
    (hwait : ∀ s, (f s).work.haloWait = s.work.haloWait) : (e.modSp n f).halo n = e.halo n := by
  rw [halo, sp_modSp, hjobs, hwait, ← halo]

theorem Engine.halo_modJob (e : Engine) (n : Sp) (id : Nat) (f : Job → Job) (hf : ∀ x, (f x).rings = x.rings) :
    (e.modJob n id f).halo n = e.halo n := by
  rw [halo, modJob, sp_modSp, List.map_map, halo]
  refine congrArg (Prod.mk · _) (List.map_congr_left fun x _ => ?_)
  dsimp only [Function.comp]
  split
  · exact hf x
  · rfl

theorem Engine.halo_foldl {α : Type} (f : Engine → α → Engine) (n : Sp) (hf : ∀ e a, (f e a).halo n = e.halo n) (as : List α) (e : Engine) :
    (as.foldl f e).halo n = e.halo n :=
  List.foldlRecOn (motive := fun e' => e'.halo n = e.halo n) as f rfl fun e' he a _ => (hf e' a).trans he

theorem Engine.halo_voidSlot (e : Engine) (n : Sp) (x : Job) : (e.voidSlot n x).halo n = e.halo n := by
  have hdue (d : Draft) : (e.modJob n x.id fun y => { y with draft := some d }).halo n = e.halo n := halo_modJob e n x.id _ fun _ => by rfl
  cases hb : x.desc.draft with
  | none => simp [voidSlot, hb]
  | some b =>
    rw [voidSlot_eq e n x b hb]
    split
    · dsimp only
      split
      · exact hdue _
      · exact (halo_of_still (still_putDuty ..)).trans (hdue _)
    · rfl

theorem Engine.halo_zeroMagic (e : Engine) (n : Sp) (en : Ending) (x : Job) : (e.zeroMagic n en x).halo n = e.halo n := by
  refine halo_of_still ?_
  unfold zeroMagic
  dsimp only
  (repeat' split) <;> simp

theorem Engine.halo_loseParts (e : Engine) (n : Sp) (en : Ending) (x : Job) : (e.loseParts n en x).halo n = e.halo n := by
  unfold loseParts
  split
  · exact halo_of_still (still_flushHeld e n x.id n)
  · rfl

theorem Engine.halo_stopSparse (e : Engine) (n : Sp) (id : Nat) : (e.stopSparse n id).halo n = e.halo n := by
  simp only [halo, sp, stopSparse, Fin.getElem_fin, Vector.getElem_mapFinIdx]
  (repeat' split) <;> rfl

theorem Engine.halo_dropTxns (e : Engine) (n : Sp) (id : Nat) : (e.dropTxns n id).halo n = e.halo n :=
  halo_modSp e n _ (fun _ => by rfl) fun _ => by rfl

theorem Engine.halo_dropBack (e : Engine) (n : Sp) (x : Job) : (e.dropBack n x).halo n = e.halo n := by
  unfold dropBack
  split
  · refine halo_foldl _ n (fun e w => ?_) _ e
    exact (halo_modSp _ n _ (fun _ => by rfl) fun _ => by rfl).trans (halo_of_spindles (e.violation_spindles ..) n)
  · rfl

theorem Engine.halo_endSideWait (e : Engine) (n : Sp) (x : Job) : (e.endSideWait n x).halo n = e.halo n := by
  unfold endSideWait
  split
  · exact (halo_modJob _ n x.id _ fun _ => by rfl).trans (halo_modSp e.draw.2 n _ (fun _ => by rfl) fun _ => by rfl)
  · rfl

/-- Ring duties change the rings of the stopped job alone. -/
theorem Engine.halo_ringDuties (e : Engine) (n : Sp) (x : Job) :
    (e.ringDuties n x).halo n = ((e.halo n).1.map fun r => if r.id = x.id then r.stopped else r, (e.halo n).2) := by
  have hrelease (e : Engine) (h : HalfRead) (down : Bool) : (e.releaseHalf n h down).halo n = e.halo n := by
    cases h <;> rfl
  have hjobs (e : Engine) (f : Job → Job) (hf : ∀ x, (f x).rings = x.rings.stopped) :
      (e.modJob n x.id f).halo n = ((e.halo n).1.map fun r => if r.id = x.id then r.stopped else r, (e.halo n).2) := by
    rw [halo, modJob, sp_modSp, halo, List.map_map, List.map_map]
    refine congrArg (Prod.mk · _) (List.map_congr_left fun y _ => ?_)
    dsimp only [Function.comp]
    split
    · rename_i hy
      rw [hf, if_pos (show y.rings.id = x.id from hy)]
    · rename_i hy
      rw [if_neg (show ¬ y.rings.id = x.id from hy)]
  unfold ringDuties
  dsimp only
  rw [hjobs _ _ fun _ => by rfl]
  split
  · rw [hrelease, hrelease]
  · rfl

/-- The clock from which a reader's wait is to be counted. -/
def Job.waitsFrom (x : Job) : Option Nat := x.window.bind fun v => v.waitFrom

/-- A job that stops is put through its ring duties, and its wait for a half, if it has one, is counted (R257, R259). -/
theorem Engine.halo_stopOne (e : Engine) (n : Sp) (en : Ending) (x : Job) :
    (e.stopOne n en x).halo n = e.halo n ∨ ∃ w : Word, (x.waitsFrom = none → w = (e.halo n).2) ∧
      (e.stopOne n en x).halo n = ((e.halo n).1.map fun r => if r.id = x.id then r.stopped else r, w) := by
  have hleave : ((e.badOut x).giveUpIn x).halo n = e.halo n := by
    unfold giveUpIn badOut
    (repeat' split) <;> rfl
  have hwait (e : Engine) : ∃ w : Word, (x.waitsFrom = none → w = (e.halo n).2) ∧
      (e.endHaloWait n x).halo n = ((e.halo n).1, w) := by
    unfold endHaloWait
    split
    · rename_i since hsince
      refine ⟨_, fun hnone => ?_, by rw [halo, sp_modSp]; rfl⟩
      rw [Job.waitsFrom, hsince] at hnone
      exact absurd hnone (by simp)
    · exact ⟨_, fun _ => rfl, rfl⟩
  unfold stopOne
  cases x.ended with
  | some old =>
    dsimp only
    split
    · rw [halo_loseParts, halo_zeroMagic]
      exact .inl ((halo_modJob _ n x.id _ fun _ => by rfl).trans (halo_dropTxns ..))
    · exact .inl rfl
  | none =>
    dsimp only
    rw [halo_loseParts, halo_zeroMagic, halo_stopSparse, halo_ringDuties, halo_voidSlot, halo_dropBack,
      halo_modSp _ n _ (fun _ => by rfl) fun _ => by rfl, halo_modJob _ n x.id _ fun _ => by rfl]
    generalize hready : Engine.endSideWait _ n x = e'
    have hsame : e'.halo n = e.halo n := by
      rw [← hready, halo_endSideWait]
      exact (halo_dropTxns ..).trans hleave
    obtain ⟨w, hw, hhalo⟩ := hwait e'
    rw [hsame] at hw hhalo
    exact .inr ⟨w, hw, by rw [hhalo]⟩

/-! ## A job's window and halves -/

/-- The rings of the job of spindle n with a number meet P. -/
def Engine.RingIs (e : Engine) (n : Sp) (id : Nat) (P : JobRings → Prop) : Prop := ∃ y, e.jobId? n id = some y ∧ P y.rings

section
variable {e e' : Engine} {n : Sp} {id : Nat} {P : JobRings → Prop}

theorem Engine.ringIs_iff : e.RingIs n id P ↔ ∃ r, (e.halo n).1.find? (fun r => r.id == id) = some r ∧ P r := by
  have hfind : (e.halo n).1.find? (fun r => r.id == id) = (e.jobId? n id).map Job.rings := by
    rw [halo, List.find?_map]
    rfl
  rw [hfind, RingIs]
  cases e.jobId? n id <;> simp

theorem Engine.RingIs.of_halo (h : e.RingIs n id P) (hsame : (e'.halo n).1 = (e.halo n).1) : e'.RingIs n id P := by
  rw [ringIs_iff, hsame, ← ringIs_iff]
  exact h

/-- A change of the job carries what its rings meet on. -/
theorem Engine.RingIs.modJob {Q : JobRings → Prop} (h : e.RingIs n id P) (f : Job → Job) (hid : ∀ x, (f x).id = x.id)
    (hf : ∀ x, P x.rings → Q (f x).rings) : (e.modJob n id f).RingIs n id Q := by
  obtain ⟨y, hy, hP⟩ := h
  exact ⟨f y, jobId?_modJob_of hy hid, hf y hP⟩

/-- What the ring duties carry on, a stop carries on (R259). -/
theorem Engine.RingIs.stopOne (h : e.RingIs n id P) (hP : ∀ r, P r → P r.stopped) (en : Ending) (x : Job) : (e.stopOne n en x).RingIs n id P := by
  rcases e.halo_stopOne n en x with hsame | ⟨w, -, hstopped⟩
  · exact h.of_halo (by rw [hsame])
  · obtain ⟨r, hr, hPr⟩ := ringIs_iff.mp h
    have hid : ((fun r : JobRings => r.id == id) ∘ fun r => if r.id = x.id then r.stopped else r) = fun r => r.id == id := by
      funext r
      dsimp only [Function.comp]
      split <;> rfl
    refine ringIs_iff.mpr ⟨if r.id = x.id then r.stopped else r, ?_, ?_⟩
    · rw [hstopped, List.find?_map, hid, hr, Option.map_some]
    · split
      · exact hP r hPr
      · exact hPr

theorem Engine.RingIs.fault (h : e.RingIs n id P) (hP : ∀ r, P r → P r.stopped) (k c d w : Nat) : (e.fault n k c d w).RingIs n id P := by
  unfold Engine.fault stopJob
  split
  · split
    · exact h
    · rename_i x _ _
      have hothers (ys : List Job) (e : Engine) (h : e.RingIs n id P) : (ys.foldl (fun e y => e.stopOne n ⟨2, 0x17, 3, 0⟩ y) e).RingIs n id P :=
        List.foldlRecOn (motive := fun e' : Engine => e'.RingIs n id P) ys _ h fun _ he y _ => he.stopOne hP _ y
      unfold stopSet stopSetOf
      split
      · dsimp only
        split
        · exact hothers _ _ (h.stopOne hP ..)
        · exact (hothers _ _ (h.stopOne hP ..)).of_halo (by rw [halo_modSp _ n _ (fun _ => by rfl) fun _ => by rfl])
      · exact h.stopOne hP ..
  · exact h

theorem Engine.RingIs.accesses (h : e.RingIs n id P) (hP : ∀ r, P r → P r.stopped) {k : Nat} (ha : Accesses n k e e') : e'.RingIs n id P := by
  rcases ha with hsame | ⟨e1, c, d, w, hsame, -, hfault⟩
  · exact h.of_halo (by rw [halo_of_still hsame])
  · exact ((h.of_halo (by rw [halo_of_still hsame])).fault hP k c d w).of_halo (by rw [halo_of_still hfault])

end

/-! ## The count of readers' waits (R257) -/

theorem Job.ended_of_still {x y : Job} (h : y.still = x.still) : y.ended = x.ended := (congrArg Job.ended h :)

theorem Job.window_of_still {x y : Job} (h : y.still = x.still) : y.window = x.window := (congrArg Job.window h :)

/-- A fault of a job that has no wait to count and stands in no step set leaves the count of readers' waits. -/
theorem Engine.haloWait_fault {e : Engine} {n : Sp} {id : Nat} {x : Job} (hx : e.jobId? n id = some x) (hwaits : x.waitsFrom = none)
    (hstep : x.desc.step = false) (c d w : Nat) : ((e.fault n id c d w).sp n).work.haloWait = (e.sp n).work.haloWait := by
  have hone (en : Ending) : ((e.stopOne n en x).halo n).2 = (e.halo n).2 := by
    rcases e.halo_stopOne n en x with hsame | ⟨w, hw, hstopped⟩
    · rw [hsame]
    · rw [hstopped, ← hw hwaits]
  unfold fault stopJob
  rw [hx]
  dsimp only
  split
  · rfl
  · rw [stopSet, stopSetOf, hstep]
    exact hone _

/-- Accesses of a job that has no wait to count leave that count where the job goes on, or stands in no step set. -/
theorem Engine.Accesses.haloWait {n : Sp} {id : Nat} {e e' : Engine} (h : Accesses n id e e') {x y : Job} (hx : e.jobId? n id = some x)
    (hwaits : x.ended = none → x.waitsFrom = none) (hy : e'.jobId? n id = some y) (hend : y.ended = none ∨ x.desc.step = false) :
    (e'.sp n).work.haloWait = (e.sp n).work.haloWait := by
  have hcount {e e' : Engine} (h : e'.still n = e.still n) : (e'.sp n).work.haloWait = (e.sp n).work.haloWait :=
    (congrArg (fun s : Spindle => s.work.haloWait) h :)
  rcases h with hsame | ⟨e1, c, d, w, hsame, hlive, hfault⟩
  · exact hcount hsame
  · obtain ⟨z, hz, hstill⟩ := jobId?_of_still hsame hx
    have hdesc : z.desc = x.desc := (congrArg Job.desc hstill :)
    have hwindow : z.window = x.window := Job.window_of_still hstill
    have hended : x.ended = none := by
      rw [jobLive_of_jobId? hz] at hlive
      exact (Job.ended_of_still hstill).symm.trans (by simpa using hlive)
    rcases hend with hend | hstep
    · have hdead := jobLive_fault e1 n id c d w
      rw [← jobLive_of_still (congrArg Spindle.jobs hfault), jobLive_of_jobId? hy, hend] at hdead
      exact absurd hdead (by decide)
    · rw [hcount hfault, haloWait_fault hz (by rw [Job.waitsFrom, hwindow]; exact hwaits hended) (by rw [hdesc, hstep]), hcount hsame]

end Sys2Proof.Machine
end

section
/-! PROOFS. Window operators (09_window_operators), the readers of halves: a reader that goes on with its tap lines, and one whose half's knot
has reached the round (R248 to R250, R257, R258, R260). -/

namespace Sys2Proof.Machine

/-! ## A reader that has taken a half goes on (R248 to R250, R257) -/

/-- The job of spindle n with a number has taken a half, which stands so or has been released since; the count of readers' waits is `count`
while the job goes on, or when it stands in no step set; and while it goes on, P says of the wait for another half that it may have. -/
def Engine.HalfTaken (e : Engine) (n : Sp) (id : Nat) (above : Bool) (half : HalfRead) (step : Bool) (count : Word) (P : Option Nat → Prop) :
    Prop :=
  ∃ y v, e.jobId? n id = some y ∧ y.window = some v ∧ (v.half above = half ∨ v.half above = .released) ∧ y.desc.step = step ∧
    (y.ended = none ∨ step = false → (e.sp n).work.haloWait = count) ∧ (y.ended = none → P v.waitFrom)

/-- The job waits for no other half. -/
def Unwaiting (since : Option Nat) : Prop := since = none

/-- Nothing is said of the job's waits. -/
def AnyWait (_ : Option Nat) : Prop := True

section
variable {e e' : Engine} {n : Sp} {id : Nat} {above : Bool} {half : HalfRead} {step : Bool} {count : Word} {P Q : Option Nat → Prop}

theorem Window.half_stopped (v : Window) (above : Bool) :
    ({ v with above := .released, below := .released, waiting := none, waitFrom := none } : Window).half above = .released := by
  cases above <;> rfl

theorem Engine.HalfTaken.anyWait (h : e.HalfTaken n id above half step count P) : e.HalfTaken n id above half step count AnyWait := by
  obtain ⟨y, v, hy, hv, hhalf, hstep, hcount, -⟩ := h
  exact ⟨y, v, hy, hv, hhalf, hstep, hcount, fun _ => trivial⟩

/-- A change of the job's window that leaves the half carries the rest on. -/
theorem Engine.HalfTaken.modJob (h : e.HalfTaken n id above half step count P) (f : Job → Job) (g : Window → Window) (hid : ∀ x, (f x).id = x.id)
    (hdesc : ∀ x, (f x).desc = x.desc) (hended : ∀ x, (f x).ended = x.ended) (hwindow : ∀ x, (f x).window = x.window.map g)
    (hhalf : ∀ v, (g v).half above = v.half above ∨ (g v).half above = .released) (hwait : ∀ v, P v.waitFrom → Q (g v).waitFrom) :
    (e.modJob n id f).HalfTaken n id above half step count Q := by
  obtain ⟨y, v, hy, hv, hhalf', hstep, hcount, hP⟩ := h
  refine ⟨f y, g v, jobId?_modJob_of hy hid, by rw [hwindow, hv, Option.map_some], ?_, by rw [hdesc, hstep], ?_, ?_⟩
  · rcases hhalf v with hkept | hreleased
    · rwa [hkept]
    · exact .inr hreleased
  · rw [hended, Engine.modJob, sp_modSp]
    exact hcount
  · rw [hended]
    exact fun hend => hwait v (hP hend)

/-- A change of the job beside its window, its step and its ending carries all of it on. -/
theorem Engine.HalfTaken.modJob_beside (h : e.HalfTaken n id above half step count P) (f : Job → Job) (hid : ∀ x, (f x).id = x.id)
    (hdesc : ∀ x, (f x).desc = x.desc) (hended : ∀ x, (f x).ended = x.ended) (hwindow : ∀ x, (f x).window = x.window) :
    (e.modJob n id f).HalfTaken n id above half step count P :=
  h.modJob f (fun v => v) hid hdesc hended (fun x => by rw [hwindow, Option.map_id']) (fun _ => .inl rfl) fun _ hv => hv

/-- Accesses of a job that waits for no other half fault it, which releases its halves, or leave it. -/
theorem Engine.HalfTaken.accesses (h : e.HalfTaken n id above half step count Unwaiting) (ha : Accesses n id e e') :
    e'.HalfTaken n id above half step count Unwaiting := by
  obtain ⟨y, v, hy, hv, hhalf, hstep, hcount, hwait⟩ := h
  have hrings : e.RingIs n id fun r => ∃ v, r.window = some v ∧ (v.half above = half ∨ v.half above = .released) := ⟨y, hy, v, hv, hhalf⟩
  obtain ⟨z, hz, u, hu, hhalf'⟩ := hrings.accesses (fun r ⟨v, hv, _⟩ => ⟨_, by rw [JobRings.stopped, hv]; rfl, .inr (v.half_stopped above)⟩) ha
  obtain ⟨z', hz', hlasting⟩ := jobId?_of_kept ha.kept hy
  obtain rfl := Option.some.inj (hz.symm.trans hz')
  obtain ⟨z', hz', hended⟩ := ha.still_or_ended hy
  obtain rfl := Option.some.inj (hz.symm.trans hz')
  have hstill (hend : z.ended = none) : z.still = y.still := hended.resolve_right (by simp [hend])
  refine ⟨z, u, hz, hu, hhalf', ((congrArg (fun x : Job => x.desc.step) hlasting :)).trans hstep, fun hend => ?_, fun hend => ?_⟩
  · rw [ha.haloWait hy (fun hend => by rw [Job.waitsFrom, hv]; exact hwait hend) hz (by rwa [hstep])]
    exact hcount (hend.imp_left fun hend => (Job.ended_of_still (hstill hend)).symm.trans hend)
  · have hsame : some u = some v := hu.symm.trans ((Job.window_of_still (hstill hend)).trans hv)
    rw [Option.some.inj hsame]
    exact hwait ((Job.ended_of_still (hstill hend)).symm.trans hend)

/-- A half's release counts at its knot alone. -/
theorem Engine.HalfTaken.releaseHalf (h : e.HalfTaken n id above half step count P) (v : HalfRead) (down : Bool) :
    (e.releaseHalf n v down).HalfTaken n id above half step count P := by
  cases v <;> exact h

theorem Window.half_setHalf_released (v : Window) (above side : Bool) :
    (v.setHalf side .released).half above = v.half above ∨ (v.setHalf side .released).half above = .released := by
  cases above <;> cases side <;> simp [setHalf, half]

theorem Engine.HalfTaken.releaseUnneeded (h : e.HalfTaken n id above half step count P) {x : Job} (hid : x.id = id) (b : WindowBlk)
    (hdr : SkeinHdr) (w : Window) : (e.releaseUnneeded n x b hdr w).HalfTaken n id above half step count P := by
  subst hid
  have hone {e : Engine} (h : e.HalfTaken n x.id above half step count P) (v : HalfRead) (side : Bool) :
      ((e.releaseHalf n v side).modJob n x.id fun x => { x with window := x.window.map fun w => match w.half side with
        | .none => w
        | _ => w.setHalf side .released }).HalfTaken n x.id above half step count P := by
    refine (h.releaseHalf v side).modJob _ _ (fun _ => by rfl) (fun _ => by rfl) (fun _ => by rfl) (fun _ => by rfl) (fun v => ?_) fun v hv => ?_
    · split
      · exact .inl rfl
      · exact v.half_setHalf_released above side
    · split
      · exact hv
      · cases side <;> exact hv
  let R (e : Engine) : Prop := e.HalfTaken n x.id above half step count P
  unfold Engine.releaseUnneeded
  dsimp only
  refine iteInduction (motive := R) (fun _ => ?_) fun _ => hone ?_ _ false
  all_goals exact iteInduction (motive := R) (fun _ => h) fun _ => hone h _ true

theorem Engine.HalfTaken.putTap (h : e.HalfTaken n id above half step count P) (b : WindowBlk) (ws : List FeedWord) :
    (e.putTap n id b ws).HalfTaken n id above half step count P := by
  let next (w : Window) : Window := if w.tap + 1 < b.taps w then { w with tap := w.tap + 1 } else { w with tap := 0, line := w.line + 1 }
  have hnext (w : Window) : (next w).half above = w.half above ∧ (next w).waitFrom = w.waitFrom := by
    dsimp only [next]
    split <;> exact ⟨by cases above <;> rfl, rfl⟩
  refine h.modJob _ next (fun x => ?_) (fun x => ?_) (fun x => ?_) (fun x => ?_) (fun w => .inl (hnext w).1) fun w hw => by rwa [(hnext w).2]
  · split <;> rfl
  · split <;> rfl
  · split <;> rfl
  · split
    · rename_i hx
      rw [hx]
      rfl
    · rename_i hx
      rw [hx]
      rfl

theorem Engine.HalfTaken.tapDone (h : e.HalfTaken n id above half step count P) (b : WindowBlk) (hdr : SkeinHdr) (ws : List FeedWord) :
    (e.tapDone n id b hdr ws).HalfTaken n id above half step count P := by
  unfold Engine.tapDone
  dsimp only
  split
  · rename_i x hx
    split
    · exact (h.putTap b ws).releaseUnneeded (jobId?_id hx) b hdr _
    · exact h.putTap b ws
  · exact h.putTap b ws

theorem Engine.Accesses.strmAsk (n : Sp) (e : Engine) (x : Job) (o : Opnd) (p : Nat × Nat) (off len : Nat) :
    Accesses n x.id e (e.strmAsk n x o p off len) := by
  unfold Engine.strmAsk
  split
  · exact .refl n x.id e
  · split
    · exact .refl n x.id e
    · exact .jobRead n x.id e ..

theorem Engine.Accesses.lineAsk (n : Sp) (e : Engine) (x : Job) (base : Option Addr) (p : Nat × Nat) (off len : Nat) :
    Accesses n x.id e (e.lineAsk n x base p off len) := by
  cases base
  · exact .strmAsk n e x ..
  · exact .jobRead n x.id e ..

theorem Engine.HalfTaken.modStrm (h : e.HalfTaken n id above half step count P) (o : Opnd) (f : Strm → Strm) :
    (e.modStrm n id o f).HalfTaken n id above half step count P :=
  h.modJob_beside _ (fun x => x.id_modStrm o f) (fun x => by cases o <;> rfl) (fun x => x.ended_modStrm o f) fun x => by cases o <;> rfl

theorem Engine.HalfTaken.lineOn (h : e.HalfTaken n id above half step count Unwaiting) (fuel : Nat) :
    (e.lineOn n id fuel).HalfTaken n id above half step count Unwaiting := by
  induction fuel generalizing e with
  | zero => exact h
  | succ fuel ih =>
    have hask {e : Engine} (h : e.HalfTaken n id above half step count Unwaiting) {x : Job} (hid : x.id = id) (base : Option Addr) (p : Nat × Nat)
        (off len : Nat) : (e.lineAsk n x base p off len).HalfTaken n id above half step count Unwaiting :=
      h.accesses (hid ▸ .lineAsk n e x base p off len)
    unfold Engine.lineOn
    split
    · exact h
    · rename_i x hx
      split
      · exact h
      · split
        · exact h
        · split
          · refine ih ?_
            split
            · exact h.modStrm ..
            · exact hask (h.modStrm ..) (jobId?_id hx) ..
          · split
            · split
              · exact hask (h.modStrm ..) (jobId?_id hx) ..
              · exact h
            · exact h

theorem Engine.haloWait_finish (e : Engine) (n : Sp) (id : Nat) : ((e.finish n id).sp n).work.haloWait = (e.sp n).work.haloWait := by
  have hwait (x : Job) : ((e.endSideWait n x).sp n).work.haloWait = (e.sp n).work.haloWait := congrArg Prod.snd (e.halo_endSideWait n x)
  unfold finish
  dsimp only
  rw [modJob, sp_modSp]
  split
  · exact hwait _
  · rfl

/-- A job that ends with its work done keeps its window and its halves. -/
theorem Engine.rings_finish {x : Job} (hx : e.jobId? n id = some x) :
    ∃ y, (e.finish n id).jobId? n id = some y ∧ y.rings = x.rings ∧ y.ended = some ⟨0, 0, 0, 0⟩ := by
  obtain ⟨y, hy, -, hended⟩ := jobId?_finish hx
  have hrings : (e.finish n id).RingIs n id (· = x.rings) := by
    unfold finish
    rw [hx]
    exact (RingIs.of_halo (e := e) (P := (· = x.rings)) ⟨x, hx, rfl⟩ (by rw [halo_endSideWait])).modJob _ (fun _ => by rfl) fun _ h => h
  obtain ⟨z, hz, hzrings⟩ := hrings
  obtain rfl := Option.some.inj (hy.symm.trans hz)
  exact ⟨y, hy, hzrings, hended⟩

theorem Engine.HalfTaken.finish (h : e.HalfTaken n id above half step count P) : (e.finish n id).HalfTaken n id above half step count P := by
  obtain ⟨y, v, hy, hv, hhalf, hstep, hcount, -⟩ := h
  obtain ⟨z, hz, hrings, hended⟩ := rings_finish hy
  obtain ⟨z', hz', hlasting⟩ := jobId?_of_kept (e.kept_finish n id n) hy
  obtain rfl := Option.some.inj (hz.symm.trans hz')
  refine ⟨z, v, hz, (congrArg JobRings.window hrings :).trans hv, hhalf, ((congrArg (fun x : Job => x.desc.step) hlasting :)).trans hstep, ?_, ?_⟩
  · rw [haloWait_finish]
    exact fun hend => hcount (.inr (hend.resolve_left (by simp [hended])))
  · simp [hended]

/-- The tap lines that follow keep the half open or release it; the job may come to wait for its other half (R248 to R250, R257). -/
theorem Engine.HalfTaken.windowNext (h : e.HalfTaken n id above half step count Unwaiting) (fuel : Nat) :
    (e.windowNext n id fuel).HalfTaken n id above half step count AnyWait := by
  induction fuel generalizing e with
  | zero => exact h.anyWait
  | succ fuel ih =>
    unfold Engine.windowNext
    split
    · exact h.anyWait
    · split
      · split
        · exact h.anyWait
        · split
          · split
            · exact h.finish.anyWait
            · exact h.anyWait
          · split
            · exact ih (h.tapDone ..)
            · exact h.modJob _ (fun w => { w with waiting := some _, waitFrom := some e.now }) (fun _ => by rfl) (fun _ => by rfl) (fun _ => by rfl)
                (fun _ => by rfl) (fun v => .inl (by cases above <;> rfl)) fun _ _ => trivial
            · exact (h.lineOn 6).anyWait
      · exact h.anyWait

end

/-! ## A half that a reader waits for is opened (R257, R258, R260) -/

/-- What rests in the stores and in memory is read the same after a change of a spindle beside its store. -/
theorem Engine.readAt_modSp (e : Engine) (n : Sp) (f : Spindle → Spindle) (hf : ∀ s, (f s).store = s.store) (a : Addr) (len : Nat) :
    (e.modSp n f).readAt a len = e.readAt a len := by
  have hloc (c : Addr) : (e.modSp n f).loc c = e.loc c := by cases c <;> rfl
  have hbyte (l : Loc) : (e.modSp n f).byteAt l = e.byteAt l := by
    cases l with
    | store m c =>
      by_cases hm : m = n
      · rw [hm, byteAt, sp_modSp, hf, byteAt]
      · rw [byteAt, sp_modSp_ne e hm, byteAt]
    | bobbin c => rfl
    | mem c => rfl
  simp only [readAt, hloc, hbyte]

/-- The window of a reader that has opened a half (R260, R262). -/
def Window.opens (b : WindowBlk) (o : SkeinHdr) (above : Bool) (r : RingDesc) (addr : Nat) (h : SkeinHdr) (w : Window) : Window :=
  { w.setHalf above (.opened r addr h) with
    waiting := none, waitFrom := none, shortEnd := if !above && h.short then some (b.inFirst + o.dim2 + h.dim2) else w.shortEnd }

section
variable {e : Engine} {n : Sp} {x y : Job} {w v : Window} {st : Strm} {b : WindowBlk} (hw : x.window = some w) (hst : x.strA = some st)
  (hb : x.desc.window = some b) (hy : e.jobId? n x.id = some y) (hv : y.window = some v)

include hy hv in
theorem Engine.halfTaken_opens (o : SkeinHdr) (above : Bool) (r : RingDesc) (addr : Nat) (h : SkeinHdr) :
    (e.modJob n x.id fun x => { x with window := x.window.map (Window.opens b o above r addr h) }).HalfTaken n x.id above (.opened r addr h)
      y.desc.step (e.sp n).work.haloWait Unwaiting := by
  refine ⟨_, v.opens b o above r addr h, jobId?_modJob_of hy fun _ => by rfl, by simp [hv],
    .inl (by cases above <;> rfl), rfl, fun _ => ?_, fun _ => rfl⟩
  rw [modJob, sp_modSp]

include hw hst hb in
/-- The checks of a half in their order, and its opening (R67, R260; log 99). -/
theorem Engine.openHalf_eq (above : Bool) (r : RingDesc) (addr : Nat) (bs : List Byte) (h : SkeinHdr) (hparse : SkeinHdr.parse bs = h) :
    e.openHalf n x above r addr bs =
      if h.magic ≠ magicSkein then e.fault n x.id 0x0F 1 0
      else if !h.ok x.grids then e.fault n x.id 0x02 0 0
      else if !decide (h.codeType = st.hdr.codeType ∧ h.dim0 = st.hdr.dim0 ∧ h.dim1 = st.hdr.dim1 ∧ h.tileChans = st.hdr.tileChans ∧
        h.tileCols = st.hdr.tileCols) then e.fault n x.id 0x0F 2 0
      else if st.blk.scaleSrc = 2 ∧ h.scale ≠ st.hdr.scale then e.fault n x.id 0x0F 3 0
      else (e.modJob n x.id fun x => { x with window := x.window.map (Window.opens b st.hdr above r addr h) }).windowNext n x.id
        (b.outLines * b.kh + 1) := by
  subst hparse
  unfold openHalf
  rw [hw, hst, hb]
  rfl

include hw hst hb hy hv in
/-- A half's opening, or the fault of the check that it fails, leaves the count of readers' waits. -/
theorem Engine.haloWait_openHalf (hwaits : v.waitFrom = none) (above : Bool) (r : RingDesc) (addr : Nat) (bs : List Byte) :
    ∃ z, (e.openHalf n x above r addr bs).jobId? n x.id = some z ∧
      (z.ended = none ∨ y.desc.step = false → ((e.openHalf n x above r addr bs).sp n).work.haloWait = (e.sp n).work.haloWait) := by
  let R (e' : Engine) : Prop := ∃ z, e'.jobId? n x.id = some z ∧
    (z.ended = none ∨ y.desc.step = false → (e'.sp n).work.haloWait = (e.sp n).work.haloWait)
  have hfault (c d : Nat) : R (e.fault n x.id c d 0) := by
    obtain ⟨z, hz, -⟩ := jobId?_of_kept (e.kept_fault n x.id c d 0 n) hy
    exact ⟨z, hz, (Accesses.fault n x.id e c d 0).haloWait hy (fun _ => by rw [Job.waitsFrom, hv]; exact hwaits) hz⟩
  rw [openHalf_eq hw hst hb above r addr bs _ rfl]
  refine iteInduction (motive := R) (fun _ => hfault ..) fun _ => iteInduction (motive := R) (fun _ => hfault ..) fun _ =>
    iteInduction (motive := R) (fun _ => hfault ..) fun _ => iteInduction (motive := R) (fun _ => hfault ..) fun _ => ?_
  obtain ⟨z, -, hz, -, -, -, hcount, -⟩ := (halfTaken_opens (b := b) hy hv st.hdr above r addr (SkeinHdr.parse bs)).windowNext (b.outLines * b.kh + 1)
  exact ⟨z, hz, hcount⟩

include hw hst hb hy hv in
/-- A command that opens a half does what is said of it: the half is open or released since, or the job is at fault (R67, R260; log 99). -/
theorem halfOpened_of_openHalf {s : State} (hended : y.ended = none) {above : Bool} {r : RingDesc} {addr : Nat} {c : Instr}
    (hexec : exec c s = .next (s.onEng fun _ => e.openHalf n x above r addr (s.eng.readAt (Addr.parse addr) 64))) :
    halfOpened s n x st above r addr c := by
  rw [Engine.openHalf_eq hw hst hb above r addr _ _ rfl] at hexec
  have hfault {k d : Nat} (hexec : exec c s = .next (s.onEng fun _ => e.fault n x.id k d 0)) :
      ∃ t y, exec c s = .next t ∧ t.sec = s.sec ∧ t.eng.jobId? n x.id = some y ∧ y.ended = some ⟨1, k, d, 0⟩ := by
    obtain ⟨z, hz, hend⟩ := Engine.ended_fault hy hended k d 0
    exact ⟨_, z, hexec, rfl, hz, hend⟩
  unfold halfOpened
  intro h fits ends
  refine ⟨fun hmagic => ?_, fun hmagic hok => ?_, fun hmagic hok hfits => ?_, fun hmagic hok hfits hsrc hscale => ?_,
    fun hmagic hok hfits hscale => ?_⟩
  · rw [if_pos hmagic] at hexec
    exact hfault hexec
  all_goals rw [if_neg (not_not.mpr hmagic)] at hexec
  · rw [if_pos (by rw [hok]; rfl)] at hexec
    exact hfault hexec
  all_goals rw [if_neg (by rw [hok]; decide)] at hexec
  · rw [if_pos (by rw [decide_eq_false hfits]; rfl)] at hexec
    exact hfault hexec
  all_goals rw [if_neg (by rw [decide_eq_true hfits]; decide)] at hexec
  · rw [if_pos ⟨hsrc, hscale⟩] at hexec
    exact hfault hexec
  · rw [if_neg fun hbad => hbad.2 (hscale hbad.1)] at hexec
    obtain ⟨z, u, hz, hu, hhalf, -⟩ := (Engine.halfTaken_opens (b := b) hy hv st.hdr above r addr h).windowNext (b.outLines * b.kh + 1)
    exact ⟨_, z, u, hexec, rfl, hz, hu, hhalf⟩

end

/-! ## HALO_READY_WAIT_END -/

/-- The wait of a reader that has ended is counted (R257). -/
def Engine.waitEnded (e : Engine) (n : Sp) (id waited : Nat) : Engine :=
  (e.countHaloWait n waited).modJob n id fun x => { x with window := x.window.map fun w => { w with waitFrom := none } }

theorem Engine.haloWait_waitEnded (e : Engine) (n : Sp) (id waited : Nat) :
    ((e.waitEnded n id waited).sp n).work.haloWait = satAdd (e.sp n).work.haloWait waited := by
  rw [waitEnded, modJob, sp_modSp, countHaloWait, sp_modSp]

theorem Engine.readAt_waitEnded (e : Engine) (n : Sp) (id waited : Nat) (a : Addr) (len : Nat) :
    (e.waitEnded n id waited).readAt a len = e.readAt a len :=
  (readAt_modSp _ n _ (fun _ => by rfl) a len).trans (readAt_modSp e n _ (fun _ => by rfl) a len)

theorem Engine.placeFault_waitEnded (e : Engine) (n : Sp) (id waited : Nat) (a : Addr) (len : Nat) :
    (e.waitEnded n id waited).placeFault n false a len = e.placeFault n false a len := placeFault_congr (by rfl) (by rfl) n a len

theorem Engine.jobId?_waitEnded {e : Engine} {n : Sp} {id : Nat} {x : Job} (hx : e.jobId? n id = some x) (waited : Nat) :
    (e.waitEnded n id waited).jobId? n id = some { x with window := x.window.map fun w => { w with waitFrom := none } } := by
  refine jobId?_modJob_of ?_ fun _ => by rfl
  rw [jobId?, countHaloWait, sp_modSp]
  exact hx

/-- The marker of a half stands in the ring: its reader turns to its spill place (R258). -/
def Engine.turnAway (e : Engine) (n : Sp) (id : Nat) (above : Bool) (r : RingDesc) : Engine :=
  e.modJob n id fun x => { x with window := x.window.map fun w => w.setHalf above (.spilled r) }

theorem Engine.haloWait_turnAway (e : Engine) (n : Sp) (id : Nat) (above : Bool) (r : RingDesc) :
    ((e.turnAway n id above r).sp n).work.haloWait = (e.sp n).work.haloWait := by
  rw [turnAway, modJob, sp_modSp]

theorem Engine.placeFault_turnAway (e : Engine) (n : Sp) (id : Nat) (above : Bool) (r : RingDesc) (a : Addr) (len : Nat) :
    (e.turnAway n id above r).placeFault n false a len = e.placeFault n false a len := placeFault_congr (by rfl) (by rfl) n a len

theorem Engine.jobId?_turnAway {e : Engine} {n : Sp} {id : Nat} {x : Job} (hx : e.jobId? n id = some x) (above : Bool) (r : RingDesc) :
    (e.turnAway n id above r).jobId? n id = some { x with window := x.window.map fun w => w.setHalf above (.spilled r) } :=
  jobId?_modJob_of hx fun _ => by rfl

section
variable {n : Sp} {j : Nat} {s : State} {x : Job} {w : Window} {b : WindowBlk} {above : Bool} {r : RingDesc} {st : Strm} (waited : Nat)
  (hx : worksAt s n j x) (hw : x.window = some w) (hb : x.desc.window = some b) (hst : x.strA = some st) (hwaiting : w.waiting = some above)
include hx hw hb hwaiting

/-- The half at an address in the ring, whose knot has reached the round: its spill place is read where the marker stands there, and it is
opened where none does (R257, R258). -/
theorem exec_haloReadyWaitEnd_of_owed (hhalf : w.half above = .owed r) (hready : b.round + 1 ≤ (s.eng.knot (r.ready above)).count.toNat)
    (hplace : s.eng.placeFault n false (Addr.parse (r.halfAddr b.round above)) 64 = none) :
    exec (.haloReadyWaitEnd n j waited) s = .next (s.onEng fun e =>
      if fieldAt (e.readAt (Addr.parse (r.halfAddr b.round above)) 64) 0 4 = magicSpill then
        ((e.waitEnded n x.id waited).turnAway n x.id above r).jobRead n x.id (pHalf (b2n above)) (Addr.parse (r.spillPlace b.round above)) 64
      else (e.waitEnded n x.id waited).openHalf n x above r (r.halfAddr b.round above) (e.readAt (Addr.parse (r.halfAddr b.round above)) 64)) := by
  have hreached : ¬ (s.eng.knot (r.ready above)).count.toNat < b.round + 1 := Nat.not_lt.mpr hready
  have hexec : exec (.haloReadyWaitEnd n j waited) s = .next (s.onEng fun e => (e.waitEnded n x.id waited).readyHalf n x) := by
    change done (s.onEng _) = _
    simp only [done, State.onEng, Engine.withJob_of_worksAt hx, hw, hb, hwaiting, hhalf, if_neg hreached]
    rfl
  have hreached' : ¬ ((s.eng.waitEnded n x.id waited).knot (r.ready above)).count.toNat < b.round + 1 := hreached
  rw [hexec]
  simp only [State.onEng, Engine.readyHalf, hw, hb, hwaiting, hhalf, if_neg hreached', Engine.placeFault_waitEnded, hplace, Engine.readAt_waitEnded,
    Engine.turnAway]

/-- A half whose header has come from its spill place is opened there (R258). -/
theorem exec_haloReadyWaitEnd_of_spilled (hhalf : w.half above = .spilled r)
    (hread : readIsIn s n x (pHalf (b2n above)) (Addr.parse (r.spillPlace b.round above)) 64) :
    exec (.haloReadyWaitEnd n j waited) s = .next (s.onEng fun _ => s.eng.openHalf n x above r (r.spillPlace b.round above)
      (s.eng.readAt (Addr.parse (r.spillPlace b.round above)) 64)) := by
  change done (s.onEng _) = _
  simp only [done, State.onEng, Engine.withJob_of_worksAt hx, hw, hb, hwaiting, hhalf, Engine.readyHalf, Engine.arrive_of_readIsIn hread,
    Engine.onArrive]

include hst

/-- A reader whose half's knot has reached the round counts its waiting and takes the half (R257, R258, R260). -/
theorem exec_haloReadyWaitEnd_takes (hhalf : w.half above = .owed r) (hready : b.round + 1 ≤ (s.eng.knot (r.ready above)).count.toNat)
    (hplace : s.eng.placeFault n false (Addr.parse (r.halfAddr b.round above)) 64 = none) :
    let hb := s.eng.readAt (Addr.parse (r.halfAddr b.round above)) 64
    let c : Instr := .haloReadyWaitEnd n j waited
    (∃ t y, exec c s = .next t ∧ t.sec = s.sec ∧ t.eng.jobId? n x.id = some y ∧
      (y.ended = none ∨ x.desc.step = false → (t.eng.sp n).work.haloWait = satAdd (s.eng.sp n).work.haloWait waited)) ∧
    (fieldAt hb 0 4 = magicSpill → s.eng.placeFault n false (Addr.parse (r.spillPlace b.round above)) 64 = none →
      ∃ t y v, exec c s = .next t ∧ t.eng.jobId? n x.id = some y ∧ y.ended = none ∧ y.window = some v ∧ v.half above = .spilled r) ∧
    (fieldAt hb 0 4 ≠ magicSpill → halfOpened s n x st above r (r.halfAddr b.round above) c) := by
  intro bytes c
  have hexec := exec_haloReadyWaitEnd_of_owed waited hx hw hb hwaiting hhalf hready hplace
  have hended : x.ended = none := Job.ended_of_worksAt hx
  have hy := Engine.jobId?_waitEnded (Engine.jobId?_of_worksAt hx) waited
  have hv : (x.window.map fun w => { w with waitFrom := none }) = some { w with waitFrom := none } := by rw [hw, Option.map_some]
  have hz := Engine.jobId?_turnAway hy above r
  refine ⟨?_, fun hmarker haway => ?_, fun hmarker => ?_⟩
  · by_cases hmarker : fieldAt bytes 0 4 = magicSpill
    · simp only [State.onEng, if_pos hmarker, bytes] at hexec
      have hread := Engine.Accesses.jobRead n x.id ((s.eng.waitEnded n x.id waited).turnAway n x.id above r) (pHalf (b2n above))
        (Addr.parse (r.spillPlace b.round above)) 64
      obtain ⟨y, hy', -⟩ := Engine.jobId?_of_kept hread.kept hz
      refine ⟨_, y, hexec, rfl, hy', fun hend => ?_⟩
      rw [← s.eng.haloWait_waitEnded n x.id waited]
      refine (hread.haloWait hz (fun _ => ?_) hy' hend).trans (Engine.haloWait_turnAway ..)
      rw [Job.waitsFrom, hw]
      cases above <;> rfl
    · simp only [State.onEng, if_neg hmarker, bytes] at hexec
      obtain ⟨y, hy', hcount⟩ := Engine.haloWait_openHalf hw hst hb hy hv rfl above r (r.halfAddr b.round above) bytes
      exact ⟨_, y, hexec, rfl, hy', fun hend => (hcount hend).trans (s.eng.haloWait_waitEnded n x.id waited)⟩
  · simp only [State.onEng, if_pos hmarker, bytes] at hexec
    have haway' : ((s.eng.waitEnded n x.id waited).turnAway n x.id above r).placeFault n false (Addr.parse (r.spillPlace b.round above)) 64 =
        none := by
      rw [Engine.placeFault_turnAway, Engine.placeFault_waitEnded, haway]
    obtain ⟨y, hy', hstill⟩ := Engine.jobId?_of_still (Engine.jobRead_alike haway' x.id (pHalf (b2n above))).still hz
    refine ⟨_, y, ({ w with waitFrom := none } : Window).setHalf above (.spilled r), hexec, hy', (Job.ended_of_still hstill).trans hended,
      (Job.window_of_still hstill).trans ?_, by cases above <;> rfl⟩
    rw [hw]
    rfl
  · simp only [State.onEng, if_neg hmarker, bytes] at hexec
    exact halfOpened_of_openHalf hw hst hb hy hv hended hexec

end

end Sys2Proof.Machine
end

section
/-! PROOFS. Window operators (09_window_operators), box lists and the publishers of halves (R257, R258, R264, R265). -/

namespace Sys2Proof.Machine

/-! ## Box lists (R264, R265) -/

/-- The crop side of the job of spindle n with a number meets P. -/
def Engine.CropIs (e : Engine) (n : Sp) (id : Nat) (P : Crop → Prop) : Prop := ∃ y c, e.jobId? n id = some y ∧ y.crop = some c ∧ P c

section
variable {e e' : Engine} {n : Sp} {id : Nat} {P Q : Crop → Prop}

/-- Accesses, claims and stops leave the crop side of a job. -/
theorem Engine.CropIs.of_kept (h : e.CropIs n id P) (hkept : e'.kept n = e.kept n) : e'.CropIs n id P := by
  obtain ⟨y, c, hy, hc, hP⟩ := h
  obtain ⟨z, hz, hsame⟩ := jobId?_of_kept hkept hy
  exact ⟨z, c, hz, ((congrArg Job.crop hsame :)).trans hc, hP⟩

theorem Engine.CropIs.modJob (h : e.CropIs n id P) (f : Job → Job) (hid : ∀ x, (f x).id = x.id)
    (hf : ∀ x c, e.jobId? n id = some x → x.crop = some c → P c → ∃ c', (f x).crop = some c' ∧ Q c') : (e.modJob n id f).CropIs n id Q := by
  obtain ⟨y, c, hy, hc, hP⟩ := h
  obtain ⟨c', hc', hQ⟩ := hf y c hy hc hP
  exact ⟨f y, c', jobId?_modJob_of hy hid, hc', hQ⟩

/-- The job with its crop side changed. -/
def Job.onCrop (f : Crop → Crop) (x : Job) : Job := { x with crop := x.crop.map f }

theorem Engine.CropIs.onCrop (h : e.CropIs n id P) (f : Crop → Crop) (hf : ∀ c, P c → Q (f c)) : (e.modJob n id (Job.onCrop f)).CropIs n id Q :=
  h.modJob _ (fun _ => by rfl) fun x c _ hc hP => ⟨f c, by rw [Job.onCrop, hc, Option.map_some], hf c hP⟩

theorem Engine.CropIs.modSp (h : e.CropIs n id P) (f : Spindle → Spindle) (hf : ∀ s, (f s).jobs = s.jobs) : (e.modSp n f).CropIs n id P := by
  obtain ⟨y, c, hy, hc, hP⟩ := h
  refine ⟨y, c, ?_, hc, hP⟩
  rw [jobId?, sp_modSp, hf]
  exact hy

theorem Engine.CropIs.modStrm (h : e.CropIs n id P) (o : Opnd) (f : Strm → Strm) : (e.modStrm n id o f).CropIs n id P :=
  h.modJob _ (fun x => x.id_modStrm o f) fun x c _ hc hP => ⟨c, by cases o <;> exact hc, hP⟩

end

/-- Forming elements of a box leaves the list of boxes. -/
theorem cropRun_boxes (h : SkeinHdr) (grid : List (BitVec 16)) (s : Strm) (b : Box) (fuel : Nat) (c : Crop) (sat : Nat) :
    (cropRun h grid s b fuel c sat).1.open_ = c.open_ ∧ (cropRun h grid s b fuel c sat).1.boxes = c.boxes := by
  induction fuel generalizing c sat with
  | zero => exact ⟨rfl, rfl⟩
  | succ fuel ih =>
    unfold cropRun
    dsimp only
    split
    · exact ⟨rfl, rfl⟩
    · exact ih ..

/-- The boxes of a list that has been read. -/
def Crop.Lists (bs : List Box) (c : Crop) : Prop := c.open_ = true ∧ c.boxes = bs

/-- A crop job that goes on with its box keeps its list. -/
theorem Engine.CropIs.cropNext {e : Engine} {n : Sp} {id : Nat} {bs : List Box} (h : e.CropIs n id (Crop.Lists bs)) :
    (e.cropNext n id).CropIs n id (Crop.Lists bs) := by
  have hask {e : Engine} (h : e.CropIs n id (Crop.Lists bs)) (x : Job) (p : Nat × Nat) (off len : Nat) :
      ((e.modStrm n id .a fun s => { s with entries := [] }).strmAsk n x .a p off len).CropIs n id (Crop.Lists bs) :=
    (h.modStrm ..).of_kept (kept_strmAsk ..)
  unfold Engine.cropNext
  split
  · exact h
  · rename_i x hx
    split
    · rename_i c s hc hs
      split
      · exact h
      · split
        · exact h
        · rename_i b hb
          have hlists : c.Lists bs := by
            obtain ⟨y, c', hy, hc', hlists⟩ := h
            obtain rfl := Option.some.inj (hx.symm.trans hy)
            obtain rfl := Option.some.inj (hc.symm.trans hc')
            exact hlists
          obtain ⟨hopen, hboxes⟩ := cropRun_boxes s.hdr (gridOf x.grids s.ct s.slot) s b (b.w * b.h * s.hdr.dim0 - c.elem) c 0
          dsimp only
          generalize cropRun s.hdr (gridOf x.grids s.ct s.slot) s b (b.w * b.h * s.hdr.dim0 - c.elem) c 0 = r at hopen hboxes ⊢
          have hrun : r.1.Lists bs := ⟨hopen.trans hlists.1, hboxes.trans hlists.2⟩
          have hput (f : Job → Job) (hid : ∀ x, (f x).id = x.id) (hf : ∀ x, ∃ c', (f x).crop = some c' ∧ c'.Lists bs) :
              ((e.countSat n r.2).modJob n id f).CropIs n id (Crop.Lists bs) :=
            (h.modSp _ fun _ => by rfl).modJob f hid fun x _ _ _ _ => hf x
          have hmissing : ((e.countSat n r.2).modJob n id fun x => { x with crop := some r.1 }).CropIs n id (Crop.Lists bs) :=
            hput _ (fun _ => by rfl) fun _ => ⟨r.1, rfl, hrun⟩
          split
          · split
            · split
              · split
                · exact hmissing
                · exact hmissing.of_kept (kept_fault ..)
              · exact hask (hmissing.modSp _ fun _ => by rfl) ..
            · exact hask hmissing ..
          · split
            · exact (hput _ (fun _ => by rfl) fun _ => ⟨{ r.1 with box := c.box + 1, elem := 0, part := [] }, rfl, hrun⟩).modSp _ fun _ => by rfl
            · exact hput _ (fun _ => by rfl) fun _ => ⟨{ r.1 with box := c.box + 1, elem := 0, part := [] }, rfl, hrun⟩
    · exact h

/-! ## BOX_LIST_HEADER_ARRIVE -/

/-- Offset of the boxes and their number, as a good box list's header gives them (R264). -/
def boxRun (b : CropBlk) (hb : List Byte) : Nat × Nat :=
  (fieldAt hb 12 4, if b.boxRun = 0 then fieldAt hb 8 4 - b.boxFirst else b.boxRun)

/-- A box list's header, with what the job asks of it, is good (R264, R265). -/
def BoxHeaderOk (b : CropBlk) (hb : List Byte) : Prop :=
  fieldAt hb 0 4 = magicBox ∧ fieldAt hb 4 1 = 1 ∧ 1 ≤ fieldAt hb 8 4 ∧ fieldAt hb 8 4 ≤ 65535 ∧ fieldAt hb 12 4 % 16 = 0 ∧ 64 ≤ fieldAt hb 12 4 ∧
    b.boxFirst < fieldAt hb 8 4 ∧ b.boxFirst + (boxRun b hb).2 ≤ fieldAt hb 8 4

/-- The crop side whose list's header has come (R264). -/
def Crop.listed (b : CropBlk) (hb : List Byte) (c : Crop) : Crop := { c with extrap := w32 (fieldAt hb 16 4), list := some (boxRun b hb) }

/-- The crop side whose boxes have come (R264). -/
def Crop.filled (bs : List Box) (c : Crop) : Crop := { c with open_ := true, boxes := bs }

section
variable {n : Sp} {j : Nat} {s : State} {x : Job} {c : Crop} {b : CropBlk} (hx : worksAt s n j x) (hc : x.crop = some c)
  (hb : x.desc.crop = some b) (hclosed : c.open_ = false)
include hx hc hb hclosed

section
variable (hlist : c.list = none) (hread : readIsIn s n x pBoxes (Addr.parse b.boxAddr) 64)
include hlist hread

/-- A bad header faults the job (R265). -/
theorem exec_boxListHeaderArrive_of_bad (hbad : ¬ BoxHeaderOk b (s.eng.readAt (Addr.parse b.boxAddr) 64)) :
    ∃ t, exec (.boxListHeaderArrive n j) s = .next t ∧ t.sec = s.sec ∧
      ∃ y, t.eng.jobId? n x.id = some y ∧ y.ended = some ⟨1, 0x10, 0, 0⟩ := by
  have hexec : exec (.boxListHeaderArrive n j) s = .next (s.onEng fun e => e.fault n x.id 0x10 0 0) := by
    change done (s.onEng _) = _
    simp only [done, State.onEng, Engine.withJob_of_worksAt hx, hc, hb, hclosed, hlist, Bool.false_eq_true, if_false,
      Engine.arrive_of_readIsIn hread, Engine.onArrive]
    rw [if_pos (by simp only [BoxHeaderOk, boxRun] at hbad; omega)]
  exact ⟨_, hexec, rfl, ended_fault_of_worksAt hx ..⟩

/-- A good header gives the list's run of boxes, which are then read (R264). -/
theorem exec_boxListHeaderArrive_of_good {hdr : List Byte} (hhdr : s.eng.readAt (Addr.parse b.boxAddr) 64 = hdr) (hgood : BoxHeaderOk b hdr) :
    ∃ t y v, exec (.boxListHeaderArrive n j) s = .next t ∧ t.sec = s.sec ∧ t.eng.jobId? n x.id = some y ∧ y.crop = some v ∧
      v.list = some (boxRun b hdr) ∧ v.open_ = false ∧ v.extrap = w32 (fieldAt hdr 16 4) ∧
      (freeToRead s n (Addr.parse b.boxAddr) → y.ended = none) := by
  have hexec : exec (.boxListHeaderArrive n j) s = .next (s.onEng fun e =>
      (e.modJob n x.id (Job.onCrop (Crop.listed b hdr))).jobRead n x.id pBoxes ((Addr.parse b.boxAddr).plus ((boxRun b hdr).1 + 16 * b.boxFirst))
        (16 * (boxRun b hdr).2)) := by
    change done (s.onEng _) = _
    simp only [done, State.onEng, Engine.withJob_of_worksAt hx, hc, hb, hclosed, hlist, Bool.false_eq_true, if_false,
      Engine.arrive_of_readIsIn hread, Engine.onArrive, hhdr]
    rw [if_neg (by simp only [BoxHeaderOk, boxRun] at hgood; omega)]
    rfl
  have hlisted := Engine.CropIs.onCrop (P := (· = c)) (Q := (· = c.listed b hdr)) ⟨x, c, Engine.jobId?_of_worksAt hx, hc, rfl⟩ (Crop.listed b hdr)
    fun _ h => congrArg (Crop.listed b hdr) h
  obtain ⟨y, v, hy, hv, rfl⟩ := hlisted.of_kept (Engine.kept_jobRead _ n x.id pBoxes
    ((Addr.parse b.boxAddr).plus ((boxRun b hdr).1 + 16 * b.boxFirst)) (16 * (boxRun b hdr).2) n)
  refine ⟨_, y, _, hexec, rfl, hy, hv, rfl, hclosed, rfl, fun hfree => ?_⟩
  have hplace := placeFault_of_freeToRead (e := s.eng.modJob n x.id (Job.onCrop (Crop.listed b hdr))) hfree rfl rfl
  have halike := Engine.jobRead_alike (hplace ((boxRun b hdr).1 + 16 * b.boxFirst) (16 * (boxRun b hdr).2)) x.id pBoxes
  have hended : (x.onCrop (Crop.listed b hdr)).ended = none := (Job.ended_of_worksAt hx :)
  exact (halike.ended (Engine.jobId?_modJob_of (Engine.jobId?_of_worksAt hx) fun _ => by rfl) hy).trans hended

end

/-- The boxes of a list come after its header, and open it (R264). -/
theorem exec_boxListHeaderArrive_of_boxes {off run : Nat} (hlist : c.list = some (off, run))
    (hread : readIsIn s n x pBoxes ((Addr.parse b.boxAddr).plus (off + 16 * b.boxFirst)) (16 * run)) :
    ∃ t y v, exec (.boxListHeaderArrive n j) s = .next t ∧ t.sec = s.sec ∧ t.eng.jobId? n x.id = some y ∧ y.crop = some v ∧ v.open_ = true ∧
      v.boxes = (chunks 16 (s.eng.readAt ((Addr.parse b.boxAddr).plus (off + 16 * b.boxFirst)) (16 * run))).map Box.parse := by
  generalize hbs : (chunks 16 (s.eng.readAt ((Addr.parse b.boxAddr).plus (off + 16 * b.boxFirst)) (16 * run))).map Box.parse = bs
  have hexec : exec (.boxListHeaderArrive n j) s = .next (s.onEng fun e => (e.modJob n x.id (Job.onCrop (Crop.filled bs))).cropNext n x.id) := by
    change done (s.onEng _) = _
    simp only [done, State.onEng, Engine.withJob_of_worksAt hx, hc, hb, hclosed, hlist, Bool.false_eq_true, if_false,
      Engine.arrive_of_readIsIn hread, Engine.onArrive, hbs]
    rfl
  obtain ⟨y, v, hy, hv, hopen, hboxes⟩ := (Engine.CropIs.onCrop (P := (· = c)) (Q := Crop.Lists bs) ⟨x, c, Engine.jobId?_of_worksAt hx, hc, rfl⟩
    (Crop.filled bs) fun _ _ => ⟨rfl, rfl⟩).cropNext
  exact ⟨_, y, v, hexec, rfl, hy, hv, hopen, hboxes⟩

end

/-! ## HALF_PUBLISH_ACK (R257) -/

theorem Engine.finish_knots (e : Engine) (n : Sp) (id : Nat) : (e.finish n id).knots = e.knots := by
  unfold finish
  dsimp only
  rw [modJob_knots]
  split
  · unfold endSideWait
    split <;> rfl
  · rfl

/-- The end of a drafting job whose last half is acknowledged leaves its halves, the knots and the Creel. -/
theorem Engine.draftDone_leaves {e : Engine} {n : Sp} {id : Nat} {x : Job} (hx : e.jobId? n id = some x) :
    (e.draftDone n id).creel = e.creel ∧ (e.draftDone n id).knots = e.knots ∧ ∃ y, (e.draftDone n id).jobId? n id = some y ∧ y.halves = x.halves := by
  unfold draftDone
  rw [hx]
  dsimp only
  split
  · split
    · obtain ⟨y, hy, hrings, -⟩ := rings_finish hx
      exact ⟨finish_creel .., finish_knots .., y, hy, (congrArg JobRings.halves hrings :)⟩
    · exact ⟨rfl, rfl, x, hx, rfl⟩
  · exact ⟨rfl, rfl, x, hx, rfl⟩

/-- A half whose writes are acknowledged adds 1 to its READY knot (R257). -/
theorem exec_halfPublishAck_of_written {n : Sp} {j : Nat} {s : State} {x : Job} {i : Nat} {h : HalfOut} (hjob : s.eng.job? n j = some x)
    (hid : s.eng.jobId? n x.id = some x)
    (hfind : ((List.range x.halves.length).find? fun i => match x.halves[i]? with
      | some h => h.written && !h.acked && !(s.eng.sp n).waitsFor x.id (wHalf i) && !(x.held.any fun w => w.purpose == wHalf i)
      | none => false) = some i) (hh : x.halves[i]? = some h) :
    ∃ t y, exec (.halfPublishAck n j) s = .next t ∧ t.sec = s.sec ∧ t.eng.creel = s.eng.creel ∧ t.eng.jobId? n x.id = some y ∧
      y.halves = setAt x.halves i { h with acked := true } ∧
      t.eng.knots.banks[knotBank (h.ring.ready h.down)] = s.eng.knots.banks[knotBank (h.ring.ready h.down)] ++
        [⟨t.eng.knots.clock, .spindle n.val, h.ring.ready h.down % 65536, .add, 1⟩] := by
  have hexec : exec (.halfPublishAck n j) s = .next (s.onEng fun e =>
      ((e.modJob n x.id fun x => { x with halves := setAt x.halves i { h with acked := true } }).knotIssue (.spindle n.val)
        (h.ring.ready h.down) .add 1).draftDone n x.id) := by
    change done (s.onEng _) = _
    simp only [done, State.onEng, hjob]
    split
    · rename_i i' hi
      obtain rfl := Option.some.inj (hi.symm.trans hfind)
      rw [hh]
    · rename_i hnone
      exact absurd (hnone.symm.trans hfind) (by simp)
  have hacked : ((s.eng.modJob n x.id fun x => { x with halves := setAt x.halves i { h with acked := true } }).knotIssue (.spindle n.val)
      (h.ring.ready h.down) .add 1).jobId? n x.id = some { x with halves := setAt x.halves i { h with acked := true } } :=
    Engine.jobId?_modJob_of hid fun _ => by rfl
  obtain ⟨hcreel, hknots, y, hy, hhalves⟩ := Engine.draftDone_leaves hacked
  refine ⟨_, y, hexec, rfl, hcreel, hy, hhalves, ?_⟩
  simp only [State.onEng_eng, hknots]
  exact Engine.knotIssue_bank ..

/-! ## A half is written (R257, R258) -/

/-- The half at place i is marked as written. -/
def Job.marked (i : Nat) (h : HalfOut) (x : Job) : Job := { x with halves := setAt x.halves i { h with written := true } }

/-- A half of `bs` has room in its ring or at its spill place, and its writes have a place (R258, R271, R272, R283). -/
def Engine.HalfFits (e : Engine) (n : Sp) (round : Nat) (h : HalfOut) (bs : List Byte) : Prop :=
  bs.length ≤ max h.ring.halfSize h.ring.spillSize ∧ ∀ len ≤ max 64 bs.length,
    e.writeFault n (Addr.parse (h.ring.halfAddr round h.down)) len = none ∧ e.writeFault n (Addr.parse (h.ring.spillPlace round h.down)) len = none

theorem Engine.halfFits_congr {e e' : Engine} (h : e'.placing = e.placing) (n : Sp) (round : Nat) (k : HalfOut) (bs : List Byte) :
    e'.HalfFits n round k bs ↔ e.HalfFits n round k bs := by
  simp only [HalfFits, writeFault_congr h]

/-- What a half's turn comes to: the half is left, it counts as written, or its job is at fault for it. -/
inductive Engine.HalfTurn (e : Engine) (n : Sp) (y : Job) (round i : Nat) (free : RingDesc → Bool) (e' : Engine) : Prop
  | left (hsame : e' = e) (hleft : ∀ h bs, y.halves[i]? = some h → h.bytes = some bs → free h.ring = true →
      bs.length ≤ max h.ring.halfSize h.ring.spillSize → h.written = true)
  | marked (h : HalfOut) (hh : y.halves[i]? = some h) (hstill : e'.still n = (e.modJob n y.id (Job.marked i h)).still n)
      (hplacing : e'.placing = e.placing)
  | fault (h : HalfOut) (bs : List Byte) (c d : Nat) (hh : y.halves[i]? = some h) (hbytes : h.bytes = some bs) (hended : y.ended = none)
      (hfits : ¬ e.HalfFits n round h bs) (hfault : e' = e.fault n y.id c d 0)

@[simp] theorem Engine.placing_spill (e : Engine) (n : Sp) (t r a b c : Nat) (tag : Word) : (e.spill n t r a b c tag).placing = e.placing :=
  placing_of_fields (by simp [spill]) (by simp [spill]) (by simp [spill])

/-- A half that is due is written, counts as written where its job has ended and it has no place, or is at fault. -/
theorem Engine.writeHalf_turn {e : Engine} {n : Sp} {y : Job} {i : Nat} {h : HalfOut} {bs : List Byte} (hy : e.jobId? n y.id = some y)
    (hh : y.halves[i]? = some h) (hbytes : h.bytes = some bs) (round : Nat) (free : RingDesc → Bool) :
    HalfTurn e n y round i free (e.writeHalf n y i h round bs) := by
  have hturn {c d : Nat} (hfits : ¬ e.HalfFits n round h bs) (hlong : y.ended.isSome = true → max h.ring.halfSize h.ring.spillSize < bs.length) :
      HalfTurn e n y round i free (e.fault n y.id c d 0) := by
    cases hended : y.ended with
    | none => exact .fault h bs c d hh hbytes hended hfits rfl
    | some en =>
      refine .left (fault_of_not_jobLive (by rw [jobLive_of_jobId? hy, hended]; rfl) c d 0) fun h' bs' hh' hbytes' _ hroom => ?_
      obtain rfl := Option.some.inj (hh.symm.trans hh')
      obtain rfl := Option.some.inj (hbytes.symm.trans hbytes')
      exact absurd (hlong (by rw [hended]; rfl)) (Nat.not_lt.mpr hroom)
  unfold writeHalf
  dsimp only
  split
  · rename_i hlong
    simp only [Bool.and_eq_true, decide_eq_true_eq] at hlong
    exact hturn (fun hfits => by have := hfits.1; omega) fun _ => by omega
  · rename_i hroom
    simp only [Bool.and_eq_true, decide_eq_true_eq, not_and, not_lt] at hroom
    split
    · rename_i f d hplace
      have hfits : ¬ e.HalfFits n round h bs := fun hfits => by
        obtain ⟨ha, haway⟩ := hfits.2 bs.length (le_max_right ..)
        obtain ⟨hmark, -⟩ := hfits.2 64 (le_max_left ..)
        rw [ha, haway, hmark] at hplace
        split at hplace <;> exact absurd hplace (by simp)
      split
      · exact .marked h hh rfl rfl
      · rename_i hrun
        exact hturn hfits fun hended => absurd hended hrun
    · split
      · refine .marked h hh ?_ (by simp)
        refine (still_modJob _ n n y.id _ fun _ => by rfl).trans ?_
        rw [still_spill, still_putDuty, still_putDuty]
        rfl
      · exact .marked h hh (still_putDuty ..) (placing_putDuty ..)

/-! ## HALO_SLOT_WAIT_END (R257, R258) -/

/-- The turn of half i of a publisher whose slots are free as `free` says. -/
def Engine.turnHalf (e : Engine) (n : Sp) (id round : Nat) (free : RingDesc → Bool) (i : Nat) : Engine :=
  match (e.jobId? n id).bind fun y => (y.halves[i]?).map fun h => (y, h) with
  | some (y, h) =>
    match h.bytes with
    | some bs => if h.bytes.isSome && !h.written && free h.ring then e.writeHalf n y i h round bs else e
    | none => e
  | none => e

theorem Engine.turnHalf_turn {e : Engine} {n : Sp} {id : Nat} {y : Job} (hy : e.jobId? n id = some y) (round : Nat) (free : RingDesc → Bool)
    (i : Nat) : HalfTurn e n y round i free (e.turnHalf n id round free i) := by
  obtain rfl := jobId?_id hy
  unfold turnHalf
  rw [hy]
  dsimp only [Option.bind_some]
  cases hh : y.halves[i]? with
  | none => exact .left rfl fun h bs hh' => by simp [hh] at hh'
  | some h =>
    dsimp only [Option.map_some]
    cases hbytes : h.bytes with
    | none =>
      refine .left rfl fun h' bs hh' hbytes' => ?_
      obtain rfl := Option.some.inj (hh.symm.trans hh')
      simp [hbytes] at hbytes'
    | some bs =>
      dsimp only
      split
      · exact writeHalf_turn hy hh hbytes round free
      · rename_i hdue
        refine .left rfl fun h' bs' hh' _ hfree _ => ?_
        obtain rfl := Option.some.inj (hh.symm.trans hh')
        simpa [hfree] using hdue

/-- `waited` clocks of a publisher's wait are counted (R258). -/
def Engine.countSlotWait (e : Engine) (n : Sp) (waited : Nat) : Engine :=
  e.modSp n fun s => { s with work := { s.work with slotWait := satAdd s.work.slotWait waited } }

theorem Engine.slotWait_countSlotWait (e : Engine) (n : Sp) (waited : Nat) :
    ((e.countSlotWait n waited).sp n).work.slotWait = satAdd (e.sp n).work.slotWait waited := by
  rw [countSlotWait, sp_modSp]

theorem Engine.jobId?_countSlotWait (e : Engine) (n : Sp) (waited id : Nat) : (e.countSlotWait n waited).jobId? n id = e.jobId? n id := by
  rw [jobId?, countSlotWait, sp_modSp, jobId?]

theorem exec_haloSlotWaitEnd_of_due {n : Sp} {j : Nat} {s : State} {x : Job} (waited : Nat) (hlive : s.eng.live = true)
    (hjob : s.eng.job? n j = some x) (hdue : (x.halves.any fun h => h.bytes.isSome && !h.written && s.eng.slotFree h.ring x.round) = true) :
    exec (.haloSlotWaitEnd n j waited) s = .next (s.onEng fun e =>
      (List.range x.halves.length).foldl (fun e i => e.turnHalf n x.id x.round (fun r => s.eng.slotFree r x.round) i)
        (e.countSlotWait n waited)) := by
  change done (s.onEng _) = _
  simp only [done, State.onEng, hjob, hlive, hdue, Bool.and_self, if_true]
  rfl

theorem Engine.HalfTurn.kept {e e' : Engine} {n : Sp} {y : Job} {round i : Nat} {free : RingDesc → Bool} (h : HalfTurn e n y round i free e') :
    e'.kept n = e.kept n := by
  cases h with
  | left hsame => rw [hsame]
  | marked k _ hstill => exact (kept_of_still hstill).trans (kept_modJob e n n y.id _ fun _ => by rfl)
  | fault k bs c d _ _ _ _ hfault => rw [hfault, kept_fault]

/-- The halves of job x before place k have had their turns and stand so in y: those whose slots are free and that have room are written,
and nothing else is changed of any half. -/
def WrittenTo (free : RingDesc → Bool) (x : Job) (k : Nat) (y : Job) : Prop :=
  ∀ i h, x.halves[i]? = some h → ∃ h', y.halves[i]? = some h' ∧ h' = { h with written := h'.written } ∧
    (i < k → free h.ring = true → (∃ bs, h.bytes = some bs ∧ bs.length ≤ max h.ring.halfSize h.ring.spillSize) → h'.written = true)

/-- Every half of the job that is formed has room and a place. -/
def Engine.AllFit (e : Engine) (n : Sp) (x : Job) : Prop := ∀ h ∈ x.halves, ∀ bs, h.bytes = some bs → e.HalfFits n x.round h bs

/-- How job x stands after the turns of the halves before place k, from engine e0 on: it is as it was, with those halves written, or one of
them has faulted it. -/
def Engine.Turned (e0 : Engine) (n : Sp) (x : Job) (k : Nat) (e : Engine) : Prop :=
  ∃ y, e.jobId? n x.id = some y ∧ y.halves.length = x.halves.length ∧
    (y.ended = x.ended ∧ e.placing = e0.placing ∧ WrittenTo (fun r => e0.slotFree r x.round) x k y ∨
      x.ended = none ∧ y.ended.isSome = true ∧ ¬ e0.AllFit n x)

theorem WrittenTo.left {free : RingDesc → Bool} {x y : Job} {k : Nat} (h : WrittenTo free x k y)
    (hleft : ∀ h bs, y.halves[k]? = some h → h.bytes = some bs → free h.ring = true → bs.length ≤ max h.ring.halfSize h.ring.spillSize →
      h.written = true) : WrittenTo free x (k + 1) y := by
  intro i hf hi
  obtain ⟨h', hi', hsame, hwritten⟩ := h i hf hi
  refine ⟨h', hi', hsame, fun hik hfree ⟨bs, hbytes, hroom⟩ => ?_⟩
  rcases Nat.lt_succ_iff_lt_or_eq.mp hik with hlt | rfl
  · exact hwritten hlt hfree ⟨bs, hbytes, hroom⟩
  · exact hleft h' bs hi' (by rw [hsame]; exact hbytes) (by rw [hsame]; exact hfree) (by rw [hsame]; exact hroom)

theorem WrittenTo.marked {free : RingDesc → Bool} {x y z : Job} {k : Nat} {h0 : HalfOut} (h : WrittenTo free x k y) (h0y : y.halves[k]? = some h0)
    (hz : z.halves = setAt y.halves k { h0 with written := true }) : WrittenTo free x (k + 1) z := by
  intro i hf hi
  obtain ⟨h', hi', hsame, hwritten⟩ := h i hf hi
  by_cases hik : i = k
  · subst hik
    obtain rfl := Option.some.inj (h0y.symm.trans hi')
    obtain ⟨hlt, -⟩ := List.getElem?_eq_some_iff.mp hi'
    refine ⟨{ h0 with written := true }, ?_, ?_, fun _ _ _ => rfl⟩
    · rw [hz, setAt, List.getElem?_set_self hlt]
    · rw [hsame]
  · refine ⟨h', ?_, hsame, fun hlt => hwritten (by omega)⟩
    rw [hz, setAt, List.getElem?_set_ne (fun heq => hik heq.symm), hi']

theorem Engine.Turned.turnHalf {e0 e : Engine} {n : Sp} {x : Job} {k : Nat} (h : e0.Turned n x k e) :
    e0.Turned n x (k + 1) (e.turnHalf n x.id x.round (fun r => e0.slotFree r x.round) k) := by
  obtain ⟨y, hy, hlen, hcase⟩ := h
  have hid : y.id = x.id := jobId?_id hy
  have hturn := turnHalf_turn hy x.round (fun r => e0.slotFree r x.round) k
  generalize e.turnHalf n x.id x.round (fun r => e0.slotFree r x.round) k = e' at hturn ⊢
  cases hturn with
  | left hsame hleft =>
    subst hsame
    exact ⟨y, hy, hlen, hcase.imp_left fun ⟨hended, hplacing, hwritten⟩ => ⟨hended, hplacing, hwritten.left hleft⟩⟩
  | marked h0 h0y hstill hplacing' =>
    rw [hid] at hstill
    obtain ⟨z, hz, hzstill⟩ := jobId?_of_still hstill (jobId?_modJob_of hy fun _ => by rfl)
    have hended' : z.ended = y.ended := (Job.ended_of_still hzstill :)
    have hhalves : z.halves = setAt y.halves k { h0 with written := true } := (congrArg Job.halves hzstill :)
    refine ⟨z, hz, by rw [hhalves, setAt, List.length_set, hlen], ?_⟩
    rw [hended', hplacing']
    exact hcase.imp_left fun ⟨hended, hplacing, hwritten⟩ => ⟨hended, hplacing, hwritten.marked h0y hhalves⟩
  | fault h0 bs c d h0y hbytes hrun hfits hfault =>
    rcases hcase with ⟨hended, hplacing, hwritten⟩ | ⟨-, hgone, -⟩
    · have hlength : e.RingIs n x.id (·.halves.length = x.halves.length) := ⟨y, hy, hlen⟩
      obtain ⟨z, hz, hzlen⟩ := hlength.fault (fun r hr => (List.length_map ..).trans hr) x.id c d 0
      obtain ⟨z', hz', hzend⟩ := ended_fault hy hrun c d 0
      obtain rfl := Option.some.inj (hz.symm.trans hz')
      rw [hfault, hid]
      refine ⟨z, hz, hzlen, .inr ⟨hended.symm.trans hrun, by rw [hzend]; rfl, fun hall => hfits ?_⟩⟩
      obtain ⟨hk, -⟩ := List.getElem?_eq_some_iff.mp h0y
      rw [hlen] at hk
      obtain ⟨h', hk', hsame, -⟩ := hwritten k _ (List.getElem?_eq_getElem hk)
      obtain rfl := Option.some.inj (h0y.symm.trans hk')
      rw [hsame] at hbytes ⊢
      exact (halfFits_congr hplacing ..).mpr (hall _ (List.getElem_mem hk) bs hbytes)
    · rw [hrun] at hgone
      exact absurd hgone (by decide)

/-- The turns of a publisher's halves, one after the other (R258). -/
theorem Engine.turned_foldl {e0 e : Engine} {n : Sp} {x : Job} (h : e0.Turned n x 0 e) (k : Nat) :
    e0.Turned n x k ((List.range k).foldl (fun e i => e.turnHalf n x.id x.round (fun r => e0.slotFree r x.round) i) e) := by
  induction k with
  | zero => exact h
  | succ k ih =>
    rw [List.range_succ, List.foldl_append]
    exact ih.turnHalf

theorem Engine.kept_turnHalf (e : Engine) (n : Sp) (id round : Nat) (free : RingDesc → Bool) (i : Nat) :
    (e.turnHalf n id round free i).kept n = e.kept n := by
  cases hy : e.jobId? n id with
  | none => rw [turnHalf, hy, Option.bind_none]
  | some y => exact (turnHalf_turn hy round free i).kept

/-- A publisher writes the halves whose slots are free and counts its waiting (R258). -/
theorem exec_haloSlotWaitEnd_writes {n : Sp} {j : Nat} {s : State} {x : Job} (waited : Nat) (hlive : s.eng.live = true)
    (hjob : s.eng.job? n j = some x) (hid : s.eng.jobId? n x.id = some x)
    (hdue : (x.halves.any fun h => h.bytes.isSome && !h.written && s.eng.slotFree h.ring x.round) = true) :
    ∃ t y, exec (.haloSlotWaitEnd n j waited) s = .next t ∧ t.sec = s.sec ∧
      (t.eng.sp n).work.slotWait = satAdd (s.eng.sp n).work.slotWait waited ∧ t.eng.jobId? n x.id = some y ∧ y.halves.length = x.halves.length ∧
      (s.eng.AllFit n x → y.ended = x.ended) ∧ (y.ended = x.ended → WrittenTo (fun r => s.eng.slotFree r x.round) x x.halves.length y) := by
  have hstart : s.eng.Turned n x 0 (s.eng.countSlotWait n waited) := ⟨x, (s.eng.jobId?_countSlotWait n waited x.id).trans hid, rfl,
    .inl ⟨rfl, rfl, fun i h hi => ⟨h, hi, rfl, fun hlt => absurd hlt (Nat.not_lt_zero i)⟩⟩⟩
  obtain ⟨y, hy, hlen, hcase⟩ := Engine.turned_foldl hstart x.halves.length
  refine ⟨_, y, exec_haloSlotWaitEnd_of_due waited hlive hjob hdue, rfl, ?_, hy, hlen, fun hall => ?_, fun hended => ?_⟩
  · have hkept := Engine.kept_foldl (fun e i => e.turnHalf n x.id x.round (fun r => s.eng.slotFree r x.round) i) n
      (fun e i => e.kept_turnHalf n x.id x.round _ i) (List.range x.halves.length) (s.eng.countSlotWait n waited)
    exact ((congrArg (fun s : Spindle => s.work.slotWait) hkept :)).trans (s.eng.slotWait_countSlotWait n waited)
  · exact (hcase.resolve_right fun ⟨_, _, hnot⟩ => hnot hall).1
  · obtain ⟨-, -, hwritten⟩ := hcase.resolve_right fun ⟨hrun, hgone, _⟩ => by simp [hended, hrun] at hgone
    exact hwritten

/-- Settles O59: a publisher's halves and their acknowledgements, a reader's half in its ring or at its spill place, and a box list. -/
theorem halvesArePublishedReadAndBoxesListed : Obligations.HalvesArePublishedReadAndBoxesListed := by
  unfold Obligations.HalvesArePublishedReadAndBoxesListed
  intro n j s x hlive hjob hid sp ends
  refine ⟨fun waited hdue => ?_, fun i h hfind hh => exec_halfPublishAck_of_written hjob hid hfind hh,
    fun hacts w b above r st hw hb hst hwaiting => ⟨fun waited hhalf hready hplace => ?_, fun waited hhalf hread => ?_⟩,
    fun hacts c b hc hb hclosed => ⟨fun hlist hread => ⟨fun hgood => ?_, fun hbad => ?_⟩, fun off run hlist hread => ?_⟩⟩
  · obtain ⟨t, y, ht, hsec, hwait, hy, hlen, hfit, hwritten⟩ := exec_haloSlotWaitEnd_writes waited hlive hjob hid hdue
    refine ⟨t, y, ht, hsec, hwait, hy, hlen, hfit, fun hended i h hi hfree hroom => ?_⟩
    obtain ⟨h', hi', -, hdone⟩ := hwritten hended i h hi
    rw [hi', Option.map_some, hdone (List.getElem?_eq_some_iff.mp hi).1 hfree hroom]
  · exact exec_haloReadyWaitEnd_takes waited ⟨hlive, hjob, hid, hacts⟩ hw hb hst hwaiting hhalf hready hplace
  · exact halfOpened_of_openHalf hw hst hb hid hw (Job.ended_of_acts hacts)
      (exec_haloReadyWaitEnd_of_spilled waited ⟨hlive, hjob, hid, hacts⟩ hw hb hwaiting hhalf hread)
  · exact exec_boxListHeaderArrive_of_good ⟨hlive, hjob, hid, hacts⟩ hc hb hclosed hlist hread rfl hgood
  · exact exec_boxListHeaderArrive_of_bad ⟨hlive, hjob, hid, hacts⟩ hc hb hclosed hlist hread hbad
  · exact exec_boxListHeaderArrive_of_boxes ⟨hlive, hjob, hid, hacts⟩ hc hb hclosed hlist hread

end Sys2Proof.Machine
end

section
/-! PROOFS. What accesses, stops and the first work of jobs leave of a spindle's started jobs: their numbers, descriptors and LEVELs, what they
have claimed until they end, and the count of starts (R288, R357, R358). -/

namespace Sys2Proof.Machine

/-! ## What a job keeps of its claims -/

/-- A job that goes on from x to y: it stays the same job, its fixed claim waits or is given up, and until it ends it keeps its working banks. -/
structure Job.Keeps (x y : Job) : Prop where
  id : y.id = x.id
  desc : y.desc = x.desc
  level : y.level = x.level
  claim : y.claim = x.claim ∨ y.claim = none
  banks : y.ended = none → x.ended = none ∧ y.banks = x.banks

theorem Job.Keeps.refl (x : Job) : x.Keeps x := ⟨rfl, rfl, rfl, .inl rfl, fun h => ⟨h, rfl⟩⟩

theorem Job.Keeps.trans {x y z : Job} (h : x.Keeps y) (h' : y.Keeps z) : x.Keeps z where
  id := h'.id.trans h.id
  desc := h'.desc.trans h.desc
  level := h'.level.trans h.level
  claim := h'.claim.elim (fun hz => hz ▸ h.claim) .inr
  banks hz := by
    obtain ⟨hy, hbanks'⟩ := h'.banks hz
    obtain ⟨hx, hbanks⟩ := h.banks hy
    exact ⟨hx, hbanks'.trans hbanks⟩

/-- What `Job.Keeps` speaks of. -/
def Job.stake (x : Job) : Nat × Desc × Nat × Option Ending × Option Nat × List Nat := (x.id, x.desc, x.level, x.ended, x.claim, x.banks)

theorem Job.Keeps.of_stake {x y : Job} (h : y.stake = x.stake) : x.Keeps y := by
  obtain ⟨hid, hdesc, hlevel, hended, hclaim, hbanks⟩ : y.id = x.id ∧ y.desc = x.desc ∧ y.level = x.level ∧ y.ended = x.ended ∧
    y.claim = x.claim ∧ y.banks = x.banks := by simpa only [stake, Prod.mk.injEq] using h
  exact ⟨hid, hdesc, hlevel, .inl hclaim, fun h => ⟨hended.symm.trans h, hbanks⟩⟩

/-- A job that ends, with its claims given up or not. -/
theorem Job.Keeps.of_ended {x y : Job} (hid : y.id = x.id) (hdesc : y.desc = x.desc) (hlevel : y.level = x.level)
    (hclaim : y.claim = x.claim ∨ y.claim = none) (hended : y.ended ≠ none) : x.Keeps y :=
  ⟨hid, hdesc, hlevel, hclaim, fun h => absurd h hended⟩

/-! ## What a spindle keeps of its jobs -/

/-- The spindle's jobs go on in their places, and none starts. -/
structure Spindle.Keeps (s t : Spindle) : Prop where
  jobs : ∃ f : Job → Job, (∀ x : Job, x.Keeps (f x)) ∧ t.jobs = s.jobs.map f
  next : t.jobNext = s.jobNext
  started : t.cnt.jobs = s.cnt.jobs

theorem Spindle.Keeps.trans {s t u : Spindle} (h : s.Keeps t) (h' : t.Keeps u) : s.Keeps u := by
  obtain ⟨⟨f, hf, hjobs⟩, hnext, hstarted⟩ := h
  obtain ⟨⟨g, hg, hjobs'⟩, hnext', hstarted'⟩ := h'
  exact ⟨⟨g ∘ f, fun x => (hf x).trans (hg _), by rw [hjobs', hjobs, List.map_map]⟩, hnext'.trans hnext, hstarted'.trans hstarted⟩

/-- What `Spindle.Keeps` speaks of. -/
def Spindle.roster (s : Spindle) : List Job × Nat × Word := (s.jobs, s.jobNext, s.cnt.jobs)

theorem Spindle.Keeps.of_roster {s t : Spindle} (h : t.roster = s.roster) : s.Keeps t := by
  obtain ⟨hjobs, hnext, hstarted⟩ : t.jobs = s.jobs ∧ t.jobNext = s.jobNext ∧ t.cnt.jobs = s.cnt.jobs := by
    simpa only [roster, Prod.mk.injEq] using h
  exact ⟨⟨id, .refl, by rw [hjobs, List.map_id]⟩, hnext, hstarted⟩

/-- The jobs of every spindle go on in their places, and none starts. -/
structure Engine.Keeps (e e' : Engine) : Prop where
  spindle : ∀ m, (e.sp m).Keeps (e'.sp m)

section
variable {e e' e'' : Engine}

theorem Engine.Keeps.of_spindles (h : e'.spindles = e.spindles) : e.Keeps e' :=
  ⟨fun m => .of_roster (by rw [sp, h, ← sp])⟩

@[simp] theorem Engine.Keeps.refl (e : Engine) : e.Keeps e := .of_spindles rfl

theorem Engine.Keeps.trans (h : e.Keeps e') (h' : e'.Keeps e'') : e.Keeps e'' :=
  ⟨fun m => (h.spindle m).trans (h'.spindle m)⟩

theorem Engine.Keeps.onSp (n : Sp) {f : Spindle → Spindle} (hf : ∀ s : Spindle, s.Keeps (f s)) : e.Keeps (e.modSp n f) := by
  refine ⟨fun m => ?_⟩
  by_cases hm : m = n
  · rw [hm, sp_modSp]
    exact hf _
  · rw [sp_modSp_ne e hm]
    exact .of_roster rfl

theorem Engine.Keeps.modSp (n : Sp) {f : Spindle → Spindle} (hf : ∀ s, (f s).roster = s.roster) : e.Keeps (e.modSp n f) :=
  .onSp n fun s => .of_roster (hf s)

theorem Engine.Keeps.modJob (n : Sp) (id : Nat) {f : Job → Job} (hf : ∀ x : Job, x.Keeps (f x)) : e.Keeps (e.modJob n id f) :=
  .onSp n fun s => by
    refine ⟨⟨fun x => if x.id = id then f x else x, fun x => ?_, rfl⟩, rfl, rfl⟩
    dsimp only
    split
    · exact hf x
    · exact .refl x

theorem Engine.Keeps.modJob_of_stake (n : Sp) (id : Nat) {f : Job → Job} (hf : ∀ x, (f x).stake = x.stake) : e.Keeps (e.modJob n id f) :=
  .modJob n id fun x => .of_stake (hf x)

theorem Engine.Keeps.ite {c : Prop} [Decidable c] (h : e.Keeps e') (h' : e.Keeps e'') : e.Keeps (if c then e' else e'') :=
  iteInduction (motive := e.Keeps) (fun _ => h) fun _ => h'

theorem Engine.Keeps.foldl {α : Type} {f : Engine → α → Engine} (hf : ∀ (e : Engine) (a : α), e.Keeps (f e a)) (as : List α) (e : Engine) :
    e.Keeps (as.foldl f e) :=
  List.foldlRecOn (motive := fun e' => e.Keeps e') as f (.refl e) fun e' he a _ => he.trans (hf e' a)

end

/-! ## Accesses and placement -/

theorem Engine.keeps_raise (e : Engine) (ev : Event) : e.Keeps (e.raise ev) := .of_spindles rfl

theorem Engine.keeps_spill (e : Engine) (n : Sp) (t r a b c : Nat) (tag : Word) : e.Keeps (e.spill n t r a b c tag) := by
  unfold spill
  exact (Keeps.trans (.of_spindles (e.telEntry_spindles ..)) (.modSp n fun _ => by rfl)).trans (keeps_raise ..)

@[simp] theorem Engine.keeps_modTensor (e : Engine) (t : Nat) (f : Tensor → Tensor) : e.Keeps (e.modTensor t f) := .of_spindles rfl

theorem Engine.keeps_putByte (e : Engine) (l : Loc) (b : Byte) : e.Keeps (e.putByte l b) := by
  cases l with
  | store n a =>
    unfold putByte
    exact .modSp n fun _ => by rfl
  | bobbin a => exact .of_spindles rfl
  | mem a => exact .of_spindles rfl

theorem Engine.keeps_putAll (a : Addr) (bs : List Byte) (e : Engine) : e.Keeps (e.putAll a bs) := by
  induction bs generalizing e a with
  | nil => exact .refl e
  | cons b bs ih => exact (keeps_putByte ..).trans (ih _ _)

theorem Engine.keeps_writeAt (e : Engine) (a : Addr) (bs : List Byte) : e.Keeps (e.writeAt a bs) := by
  unfold writeAt
  dsimp only
  split
  · exact keeps_putAll a bs e
  · exact (keeps_putAll a bs e).trans (.of_spindles rfl)

theorem Engine.keeps_pump (e : Engine) (n : Sp) : e.Keeps (e.pump n) :=
  .ite (.refl e) <| .modSp n fun _ => by rfl

theorem Engine.keeps_issue (e : Engine) (n : Sp) (id : Nat) (w : Bool) (p : Nat × Nat) (ls : List Nat) : e.Keeps (e.issue n id w p ls) :=
  .ite (.refl e) <| (Keeps.modSp n fun _ => by rfl).trans (keeps_pump ..)

theorem Engine.keeps_lookUp (e : Engine) (n : Sp) (t : Nat) : e.Keeps (e.lookUp n t) :=
  .ite (.refl e) <| .modSp n fun _ => by rfl

theorem Engine.keeps_putBytes (e : Engine) (n : Sp) (a : Addr) (bs : List Byte) : e.Keeps (e.putBytes n a bs) := by
  have hwrite := e.keeps_writeAt a bs
  unfold putBytes
  dsimp only
  split
  · exact (hwrite.trans (keeps_modTensor ..)).trans (.modSp n fun _ => by rfl)
  · exact hwrite.trans (.modSp n fun _ => by rfl)

theorem Engine.keeps_putJob (e : Engine) (n : Sp) (id : Nat) (p : Nat × Nat) (a : Addr) (bs : List Byte) : e.Keeps (e.putJob n id p a bs) :=
  ((keeps_putBytes ..).trans (.modJob_of_stake n id fun _ => by rfl)).trans (keeps_issue ..)

theorem Engine.keeps_pushHeld (n : Sp) (id t fuel : Nat) (e : Engine) : e.Keeps (e.pushHeld n id t fuel) := by
  induction fuel generalizing e with
  | zero => exact .refl e
  | succ fuel ih =>
    simp only [pushHeld]
    split
    · exact .refl e
    · split
      · exact .refl e
      · refine .ite (.refl e) <| .ite ?_ <| .ite (.refl e) <| .of_spindles rfl
        exact ((Keeps.modJob_of_stake n id fun _ => by rfl).trans (keeps_putJob ..)).trans (ih _)

theorem Engine.keeps_putDuty (e : Engine) (n : Sp) (id : Nat) (p : Nat × Nat) (a : Addr) (bs : List Byte) : e.Keeps (e.putDuty n id p a bs) := by
  have hrelease (e : Engine) (t : Nat) : e.Keeps (e.releaseHeld n id t) := by
    unfold releaseHeld
    split
    · exact keeps_pushHeld ..
    · exact .refl e
  unfold putDuty
  split
  · exact Keeps.trans ((keeps_lookUp ..).trans (.modJob_of_stake n id fun _ => by rfl)) (hrelease ..)
  · exact keeps_putJob ..

theorem Engine.keeps_placeTensor (e : Engine) (n : Sp) (tag : Word) (i : Option Nat) (t : Nat) : e.Keeps (e.placeTensor n tag i t).1 := by
  unfold placeTensor
  dsimp only
  split
  · dsimp only
    exact keeps_modTensor ..
  · exact Keeps.trans (keeps_modTensor ..) (keeps_spill ..)

theorem Engine.keeps_growOnce (e : Engine) (n : Sp) (tag : Word) (t : Nat) : e.Keeps (e.growOnce n tag t).1 := by
  have hspilled (f : Tensor → Tensor) (r a b c : Nat) : e.Keeps ((e.modTensor t f).spill n t r a b c tag) :=
    Keeps.trans (keeps_modTensor ..) (keeps_spill ..)
  unfold growOnce
  dsimp only
  (repeat' split) <;> simp [hspilled]

theorem Engine.keeps_grow (n : Sp) (tag : Word) (t u fuel : Nat) (e : Engine) (sp : Bool) : e.Keeps (e.grow n tag t u fuel sp).1 := by
  induction fuel generalizing e sp with
  | zero => exact .refl e
  | succ fuel ih =>
    unfold grow
    split
    · exact .refl e
    · exact (keeps_growOnce ..).trans (ih ..)

theorem Engine.keeps_makeRoom (e : Engine) (n : Sp) (tag : Word) (i : Option Nat) (t u : Nat) : e.Keeps (e.makeRoom n tag i t u).1 := by
  unfold makeRoom
  dsimp only
  split
  · exact keeps_grow ..
  · exact (keeps_placeTensor e n tag i t).trans (keeps_grow ..)

theorem Engine.keeps_flushHeld (e : Engine) (n : Sp) (id : Nat) : e.Keeps (e.flushHeld n id) := by
  unfold flushHeld
  split
  · exact .refl e
  · have hempty : e.Keeps (e.modJob n id fun x => { x with held := [] }) := .modJob_of_stake n id fun _ => by rfl
    refine Keeps.trans ?_ (.foldl (fun e h => Keeps.trans ?_ (keeps_putJob ..)) _ _)
    · exact hempty.trans (.of_spindles rfl)
    · split
      · exact (keeps_makeRoom ..).trans (.modJob_of_stake n id fun _ => by rfl)
      · exact keeps_makeRoom ..

/-! ## Stops (R70, R119, R204, R259, R373) -/

theorem Engine.keeps_dropTxns (e : Engine) (n : Sp) (id : Nat) : e.Keeps (e.dropTxns n id) := .modSp n fun _ => by rfl

theorem Engine.keeps_leave (e : Engine) (x : Job) : e.Keeps ((e.badOut x).giveUpIn x) := by
  refine .of_spindles ?_
  unfold giveUpIn badOut
  (repeat' split) <;> rfl

theorem Engine.keeps_waits (e : Engine) (n : Sp) (x : Job) : e.Keeps ((e.endSideWait n x).endHaloWait n x) := by
  have hdraw (e : Engine) : e.Keeps e.draw.2 := .of_spindles rfl
  have hside : e.Keeps (e.endSideWait n x) := by
    unfold endSideWait
    split
    · exact ((hdraw e).trans (.modSp n fun _ => by rfl)).trans (.modJob_of_stake n x.id fun _ => by rfl)
    · exact .refl e
  refine hside.trans ?_
  unfold endHaloWait
  split
  · exact (hdraw _).trans (.modSp n fun _ => by rfl)
  · exact .refl _

theorem Engine.keeps_violation (e : Engine) (c q i : Nat) : e.Keeps (e.violation c q i) := .of_spindles (e.violation_spindles ..)

theorem Engine.keeps_dropBack (e : Engine) (n : Sp) (x : Job) : e.Keeps (e.dropBack n x) := by
  unfold dropBack
  split
  · exact .foldl (fun e w => (keeps_violation ..).trans (.modSp n fun _ => by rfl)) _ e
  · exact .refl e

theorem Engine.keeps_voidSlot (e : Engine) (n : Sp) (x : Job) : e.Keeps (e.voidSlot n x) := by
  unfold voidSlot
  split
  · have hdue (d : Draft) : e.Keeps (e.modJob n x.id fun y => { y with draft := some d }) := .modJob_of_stake n x.id fun _ => by rfl
    refine .ite ?_ (.refl e)
    exact .ite (hdue _) <| (hdue _).trans (keeps_putDuty ..)
  · exact .refl e

theorem Engine.keeps_ringDuties (e : Engine) (n : Sp) (x : Job) : e.Keeps (e.ringDuties n x) := by
  have hrelease (e : Engine) (h : HalfRead) (down : Bool) : e.Keeps (e.releaseHalf n h down) := by
    cases h <;> exact .of_spindles rfl
  refine Keeps.trans ?_ (.modJob_of_stake n x.id fun _ => by rfl)
  split
  · exact (hrelease ..).trans (hrelease ..)
  · exact .refl e

theorem Engine.keeps_stopSparse (e : Engine) (n : Sp) (id : Nat) : e.Keeps (e.stopSparse n id) := by
  refine ⟨fun m => .of_roster ?_⟩
  simp only [sp, stopSparse, Fin.getElem_fin, Vector.getElem_mapFinIdx]
  (repeat' split) <;> rfl

theorem Engine.keeps_zeroMagic (e : Engine) (n : Sp) (en : Ending) (x : Job) : e.Keeps (e.zeroMagic n en x) := by
  unfold zeroMagic
  extract_lets put
  have hput (p : Nat × Nat) (a : Addr) : e.Keeps (put e p a) := .ite (.refl e) <| keeps_putDuty ..
  split
  · exact .ite (hput ..) <| .ite (hput ..) (.refl e)
  · split
    · exact .ite (hput ..) <| .ite (hput ..) (.refl e)
    · exact .refl e
  · exact .refl e

theorem Engine.keeps_loseParts (e : Engine) (n : Sp) (en : Ending) (x : Job) : e.Keeps (e.loseParts n en x) :=
  .ite ((keeps_flushHeld ..).trans (.of_spindles rfl)) (.refl e)

theorem Engine.keeps_stopOne (e : Engine) (n : Sp) (en : Ending) (x : Job) : e.Keeps (e.stopOne n en x) := by
  unfold stopOne
  cases x.ended with
  | some old =>
    dsimp only
    refine .ite ?_ (.refl e)
    have hended : e.Keeps ((e.dropTxns n x.id).modJob n x.id fun x => { x with ended := some en, setDone := false }) :=
      (keeps_dropTxns ..).trans (.modJob n x.id fun _ => .of_ended rfl rfl rfl (.inl rfl) nofun)
    exact (hended.trans (keeps_zeroMagic ..)).trans (keeps_loseParts ..)
  | none =>
    dsimp only
    refine Keeps.trans ?_ (keeps_loseParts ..)
    refine Keeps.trans ?_ (keeps_zeroMagic ..)
    refine Keeps.trans ?_ (keeps_stopSparse ..)
    refine Keeps.trans ?_ (keeps_ringDuties ..)
    refine Keeps.trans ?_ (keeps_voidSlot ..)
    refine Keeps.trans ?_ (keeps_dropBack ..)
    refine Keeps.trans ?_ (.modSp n fun _ => by rfl)
    refine Keeps.trans ?_ (.modJob n x.id fun _ => .of_ended rfl rfl rfl (.inr rfl) nofun)
    refine Keeps.trans ?_ (keeps_waits ..)
    exact ((keeps_leave e x).trans (keeps_dropTxns ..)).trans (.of_spindles rfl)

theorem Engine.keeps_stopSetOf (e : Engine) (n : Sp) (d : Desc) (id : Option Nat) : e.Keeps (e.stopSetOf n d id) := by
  unfold stopSetOf
  split
  · have hothers (ys : List Job) : e.Keeps (ys.foldl (fun e y => e.stopOne n ⟨2, 0x17, 3, 0⟩ y) e) :=
      .foldl (fun e y => keeps_stopOne e n _ y) ys e
    exact .ite (hothers _) <| (hothers _).trans (.modSp n fun _ => by rfl)
  · exact .refl e

theorem Engine.keeps_fault (e : Engine) (n : Sp) (id c d w : Nat) : e.Keeps (e.fault n id c d w) := by
  unfold fault stopJob
  split
  · exact .ite (.refl e) <| (keeps_stopOne ..).trans (keeps_stopSetOf ..)
  · exact .refl e

theorem Engine.keeps_faultSet (e : Engine) (ms : List (Sp × Job)) (c d : Nat) : e.Keeps (e.faultSet ms c d) := by
  refine (Keeps.foldl (fun e p => ?_) ms e).trans (.foldl (fun e p => keeps_stopSetOf e p.1 _ _) ms _)
  split
  · exact .ite (.refl e) <| keeps_stopOne ..
  · exact .refl e

/-! ## Checked accesses and the first work of a job (R138, R226, R264, R293) -/

theorem Engine.keeps_jobRead (e : Engine) (n : Sp) (id : Nat) (p : Nat × Nat) (a : Addr) (len : Nat) : e.Keeps (e.jobRead n id p a len) := by
  unfold jobRead
  split
  · exact .refl e
  · refine .ite (.refl e) ?_
    split
    · exact keeps_fault ..
    · split
      · exact .ite ((keeps_lookUp ..).trans (.of_spindles rfl)) <| (keeps_lookUp ..).trans (keeps_issue ..)
      · exact keeps_issue ..

theorem Engine.keeps_jobWrite (e : Engine) (n : Sp) (id : Nat) (p : Nat × Nat) (a : Addr) (bs : List Byte) : e.Keeps (e.jobWrite n id p a bs) := by
  unfold jobWrite
  split
  · exact .refl e
  · refine .ite (.refl e) ?_
    split
    · exact keeps_fault ..
    · exact keeps_putDuty ..

theorem Engine.keeps_draftZero (e : Engine) (n : Sp) (x : Job) : e.Keeps (e.draftZero n x) :=
  Keeps.trans (.ite (keeps_fault ..) <| keeps_jobWrite ..) (.modJob_of_stake n x.id fun _ => by rfl)

theorem Engine.keeps_askSource (e : Engine) (n : Sp) (id k : Nat) : e.Keeps (e.askSource n id k) := by
  unfold askSource
  split
  · exact .refl e
  · split
    · refine .ite (.refl e) <| .ite (keeps_jobRead ..) ?_
      split
      · exact keeps_issue ..
      · exact .refl e
    · exact .refl e

theorem Job.stake_modStrm (x : Job) (o : Opnd) (f : Strm → Strm) : (x.modStrm o f).stake = x.stake := by cases o <;> rfl

theorem Engine.keeps_openNext (e : Engine) (n : Sp) (id : Nat) : e.Keeps (e.openNext n id) := by
  unfold openNext
  split
  · exact .refl e
  · dsimp only
    split
    · split
      · have hopens (o : Opnd) (p : Nat × Nat) (a : Addr) (len : Nat) :
            e.Keeps ((e.modStrm n id o fun s => { s with phase := .header }).jobRead n id p a len) :=
          (Keeps.modJob_of_stake n id fun x => x.stake_modStrm o _).trans (keeps_jobRead ..)
        refine .ite (.refl e) <| .ite (keeps_fault ..) ?_
        exact .ite ((hopens ..).trans (keeps_jobRead ..)) (hopens ..)
      · exact .refl e
    · exact .refl e

theorem Engine.keeps_hankBegin (e : Engine) (n : Sp) (id : Nat) : e.Keeps (e.hankBegin n id) := by
  have hask (e : Engine) (b : HankBlk) (k : Nat) : e.Keeps (e.askBlock n id b k) :=
    .ite (keeps_jobRead ..) (.refl e)
  have hwrite (e : Engine) (x : Job) (b : HankBlk) (p : Nat × Nat) (off : Nat) (bs : List Byte) : e.Keeps (e.hankWrite n x b p off bs) :=
    .ite (keeps_fault ..) <| keeps_jobWrite ..
  unfold hankBegin
  split
  · split
    · have hbegun : e.Keeps (e.modJob n id fun x => { x with begun := true }) := .modJob_of_stake n id fun _ => by rfl
      refine .ite (.refl e) <| .ite ?_ ?_
      · exact ((hbegun.trans (hask ..)).trans (hask ..)).trans (hwrite ..)
      · exact hbegun.trans (keeps_jobRead ..)
    · exact .refl e
  · exact .refl e

theorem Engine.keeps_beginWork (e : Engine) (n : Sp) (id : Nat) : e.Keeps (e.beginWork n id) := by
  unfold beginWork
  split
  · exact .refl e
  · rename_i x _
    refine .ite (.refl e) <| .ite (keeps_hankBegin ..) ?_
    have hbegun : e.Keeps (e.modJob n id fun x => { x with begun := true }) := .modJob_of_stake n id fun _ => by rfl
    have hzero (e' : Engine) : e'.Keeps (if x.desc.srcKind = 3 then e' else e'.draftZero n x) :=
      .ite (.refl e') <| keeps_draftZero ..
    extract_lets e1 e2
    have hcrop : e.Keeps e2 := by
      dsimp only [e2]
      split
      · exact (hbegun.trans (.modJob_of_stake n id fun _ => by rfl)).trans (keeps_jobRead ..)
      · exact hbegun
    split
    · refine Keeps.trans (Keeps.trans (Keeps.trans (hcrop.trans ?_) (keeps_askSource ..)) (keeps_openNext ..)) (hzero _)
      exact .ite (.refl e2) <| .modJob_of_stake n id fun _ => by rfl
    · exact hcrop.trans (keeps_openNext ..)

end Sys2Proof.Machine
end

section
/-! PROOFS. What the lanes, back words, lockstep sets and classes, the claims of a start, and a decoder that goes on leave of the started jobs
(R200, R203, R229, R236, R288, R289, R347). -/

namespace Sys2Proof.Machine

/-! ## Lanes, back words and lockstep sets -/

theorem Engine.keeps_openGroups (n : Sp) (id : Nat) (c : MergeCtx) (fuel : Nat) (e : Engine) : e.Keeps (e.openGroups n id c fuel) := by
  have hlanes (os : List Nat) (s : Spindle) : (os.foldl (fun s o => s.modLane (o % 64) fun l =>
      ({ l with unstarted := l.unstarted ++ outputSegs c o }).takeUp c) s).roster = s.roster :=
    List.foldlRecOn (motive := fun s' : Spindle => s'.roster = s.roster) os _ rfl fun _ h _ _ => h
  induction fuel generalizing e with
  | zero => exact .refl e
  | succ fuel ih =>
    unfold openGroups
    split
    · exact .refl e
    · split
      · exact .refl e
      · refine .ite (.refl e) <| Keeps.trans (Keeps.trans ?_ (.modSp n fun s => hlanes _ s)) (ih _)
        exact .modJob_of_stake n id fun _ => by rfl

theorem Engine.keeps_kickSparse (e : Engine) (n : Sp) : e.Keeps (e.kickSparse n) := by
  unfold kickSparse
  split
  · exact .refl e
  · split
    · unfold regainLanes
      split
      · exact Keeps.trans (.modSp n fun _ => by rfl) (.modJob_of_stake n _ fun _ => by rfl)
      · exact .refl e
    · unfold takeLanes
      split
      · exact .refl e
      · split
        · exact Keeps.trans (.modSp n fun _ => by rfl) (keeps_openGroups ..)
        · exact .refl e

theorem Engine.keeps_packBack (e : Engine) (n : Sp) (x : Job) (tag : Nat) (bs : List Byte) : e.Keeps (e.packBack n x tag bs) := by
  unfold packBack
  split
  · extract_lets need all e1
    have hpacked : e.Keeps e1 := Keeps.trans (.modJob_of_stake n x.id fun _ => by rfl) (.modSp n fun _ => by rfl)
    exact .ite (hpacked.trans (keeps_violation ..)) hpacked
  · exact .refl e

theorem Engine.keeps_drainBack (e : Engine) (n : Sp) : e.Keeps (e.drainBack n) := by
  refine .foldl (fun e w => ?_) _ e
  split
  · exact (keeps_violation ..).trans (.modSp n fun _ => by rfl)
  · exact .ite ((keeps_packBack ..).trans (.modSp n fun _ => by rfl)) (.refl e)

theorem Engine.keeps_lockStart (e : Engine) (n : Sp) (x : Job) : e.Keeps (e.lockStart n x) := by
  unfold lockStart
  refine .ite (keeps_beginWork ..) <| .ite ?_ ?_
  · exact .ite (.refl e) <| keeps_faultSet ..
  · exact Keeps.trans (.foldl (fun _ y => .modJob_of_stake n (Job.id y) fun _ => by rfl) _ e)
      (.foldl (fun e y => keeps_beginWork e n (Job.id y)) _ _)

theorem Engine.keeps_serveClass (e : Engine) (n : Sp) (inst : Option Nat) : e.Keeps (e.serveClass n inst) := by
  unfold serveClass
  split
  · exact .refl e
  · extract_lets cls win waitingPkts losers e1 e2
    have hticks : e.Keeps e1 := by
      refine .foldl (fun e u => ?_) _ e
      exact .ite (.of_spindles rfl) (.refl e)
    have hjobs : e1.Keeps e2 := .onSp n fun s => by
      refine ⟨⟨fun x => if x.run != .running then { x with ahead := betterWinner x.ahead win, aheadAt := e1.now } else x, fun x => ?_, rfl⟩,
        rfl, rfl⟩
      dsimp only
      split <;> exact .of_stake rfl
    exact (hticks.trans hjobs).trans (.of_spindles rfl)

/-! ## The jobs that have started, whatever they claim -/

/-- What a job is from its start on. -/
def Job.head (x : Job) : Nat × Desc × Nat := (x.id, x.desc, x.level)

/-- The started jobs of spindle n in their places, the number of the next, and the count of starts. -/
def Engine.rollCall (e : Engine) (n : Sp) : List (Nat × Desc × Nat) × Nat × Word :=
  ((e.sp n).jobs.map Job.head, (e.sp n).jobNext, (e.sp n).cnt.jobs)

theorem Engine.Keeps.rollCall {e e' : Engine} (h : e.Keeps e') (n : Sp) : e'.rollCall n = e.rollCall n := by
  obtain ⟨⟨f, hf, hjobs⟩, hnext, hstarted⟩ := h.spindle n
  have hheads : (e'.sp n).jobs.map Job.head = (e.sp n).jobs.map Job.head := by
    rw [hjobs, List.map_map]
    exact List.map_congr_left fun x _ => by simp only [Function.comp, Job.head, (hf x).id, (hf x).desc, (hf x).level]
  rw [Engine.rollCall, hheads, hnext, hstarted, Engine.rollCall]

theorem Engine.rollCall_modJob (e : Engine) (n : Sp) (id : Nat) (f : Job → Job) (hf : ∀ x, (f x).head = x.head) :
    (e.modJob n id f).rollCall n = e.rollCall n := by
  have hheads : ((e.modJob n id f).sp n).jobs.map Job.head = (e.sp n).jobs.map Job.head := by
    rw [modJob, sp_modSp, List.map_map]
    refine List.map_congr_left fun x _ => ?_
    dsimp only [Function.comp]
    split
    · exact hf x
    · rfl
  rw [rollCall, hheads, modJob, sp_modSp, rollCall]

section
variable {e e' : Engine} {n : Sp} (h : e'.rollCall n = e.rollCall n)
include h

theorem Engine.heads_of_rollCall : (e'.sp n).jobs.map Job.head = (e.sp n).jobs.map Job.head := congrArg Prod.fst h

theorem Engine.jobId?_of_rollCall {id : Nat} {x : Job} (hx : e.jobId? n id = some x) : ∃ y, e'.jobId? n id = some y ∧ y.desc = x.desc := by
  have hfind (e : Engine) : ((e.sp n).jobs.map Job.head).find? (fun v => v.1 == id) = (e.jobId? n id).map Job.head := by
    rw [List.find?_map]
    rfl
  have hy := hfind e'
  rw [heads_of_rollCall h, hfind, hx, Option.map_some] at hy
  obtain ⟨y, hy, hhead⟩ := Option.map_eq_some_iff.mp hy.symm
  exact ⟨y, hy, congrArg (fun v : Nat × Desc × Nat => v.2.1) hhead⟩

end

/-! ## Claims (R236, R288, R289) -/

theorem Engine.rollCall_takeBanks (e : Engine) (n : Sp) (id k : Nat) : (e.takeBanks n id k).rollCall n = e.rollCall n :=
  rollCall_modJob e n id _ fun _ => by rfl

theorem Engine.rollCall_claimFixed (e : Engine) (n : Sp) (id k : Nat) : (e.claimFixed n id k).rollCall n = e.rollCall n := by
  let P (e' : Engine) : Prop := e'.rollCall n = e.rollCall n
  refine iteInduction (motive := P) (fun _ => rfl) fun _ => iteInduction (motive := P) (fun _ => (keeps_fault ..).rollCall n) fun _ => ?_
  exact iteInduction (motive := P) (fun _ => rollCall_modJob e n id _ fun _ => by rfl) fun _ => rollCall_takeBanks ..

theorem Engine.keeps_takeSpot (e : Engine) (n : Sp) (id kind bytes p : Nat) : e.Keeps (e.takeSpot n id kind bytes p) :=
  Keeps.trans (.modJob_of_stake n id fun _ => by rfl) (keeps_spill ..)

theorem Engine.keeps_claimScratch (e : Engine) (n : Sp) (id kind bytes : Nat) : e.Keeps (e.claimScratch n id kind bytes) := by
  refine .ite (keeps_takeSpot ..) ?_
  unfold claimSlice
  split
  · exact .ite (.refl e) <| keeps_fault ..
  · refine .ite (keeps_fault ..) ?_
    split
    · exact keeps_takeSpot ..
    · exact keeps_fault ..

theorem Engine.rollCall_claimFlexible (e : Engine) (n : Sp) (id kind bytes : Nat) : (e.claimFlexible n id kind bytes).rollCall n = e.rollCall n := by
  let P (e' : Engine) : Prop := e'.rollCall n = e.rollCall n
  refine iteInduction (motive := P) (fun _ => rfl) fun _ => iteInduction (motive := P) (fun _ => ?_) fun _ => (keeps_claimScratch ..).rollCall n
  refine (rollCall_modJob _ n id _ fun x => ?_).trans (rollCall_takeBanks ..)
  split <;> rfl

theorem Engine.rollCall_startClaims (e : Engine) (n : Sp) (x : Job) : (e.startClaims n x).rollCall n = e.rollCall n := by
  unfold startClaims
  extract_lets e1
  have hfixed : e1.rollCall n = e.rollCall n := by
    dsimp only [e1]
    split
    · exact iteInduction (motive := fun e' : Engine => e'.rollCall n = e.rollCall n) (fun _ => rollCall_claimFixed ..) fun _ => rfl
    · rfl
  refine iteInduction (motive := fun e' : Engine => e'.rollCall n = e.rollCall n) (fun _ => hfixed) fun _ => ?_
  exact ((rollCall_claimFlexible ..).trans (rollCall_claimFlexible ..)).trans hfixed

theorem Engine.keeps_trySide (e : Engine) (n : Sp) (id : Nat) : e.Keeps (e.trySide n id) := by
  unfold trySide
  split
  · refine .ite (.refl e) ?_
    exact .ite (.modJob_of_stake n id fun _ => by rfl) <| .modJob_of_stake n id fun _ => by rfl
  · exact .refl e

/-! ## A decoder that goes on (R229, R232, R236) -/

theorem Engine.keeps_readSram (e : Engine) (a : Addr) (len : Nat) (found : Ecc) : e.Keeps (e.readSram a len found).1 := by
  have hrows (rows : List RowAt) : e.Keeps (e.readRows rows found false).1 := by
    unfold readRows
    split
    · refine .of_spindles ?_
      unfold eccEntry raiseIf
      split <;> simp
    · exact .foldl (fun _ _ => .of_spindles (by rfl)) _ e
  unfold readSram
  split
  · exact .refl e
  · exact hrows _

theorem Engine.keeps_arrive (e : Engine) (n : Sp) (x : Job) (p : Nat × Nat) (a : Addr) (len : Nat) (row : Ecc) :
    e.Keeps (e.arrive n x p a len row).1 := by
  unfold arrive
  split
  · exact .refl e
  · split
    · exact .refl e
    · dsimp only
      split <;> exact keeps_readSram ..

/-- What arrives for a job leaves the started jobs, where what its bytes do leaves them. -/
theorem Engine.rollCall_onArrive {e : Engine} {n : Sp} {x : Job} {p : Nat × Nat} {a : Addr} {len w : Nat} {f : Engine → List Byte → Engine}
    (hf : ∀ e bs, (f e bs).rollCall n = e.rollCall n) :
    (onArrive (e.arrive n x p a len .ok) n x w f).rollCall n = e.rollCall n := by
  have harrive := (e.keeps_arrive n x p a len .ok).rollCall n
  unfold onArrive
  split
  · exact harrive
  · exact ((keeps_fault ..).rollCall n).trans harrive
  · exact (hf _ _).trans harrive

theorem Engine.keeps_hankFail (e : Engine) (n : Sp) (x : Job) (c d w : Nat) : e.Keeps (e.hankFail n x c d w) :=
  Keeps.trans (.modSp n fun _ => by rfl) (keeps_fault ..)

theorem Engine.rollCall_hankHeader (e : Engine) (n : Sp) (x : Job) (b : HankBlk) : (e.hankHeader n x b).rollCall n = e.rollCall n := by
  refine rollCall_onArrive fun e bs => ?_
  let P (e' : Engine) : Prop := e'.rollCall n = e.rollCall n
  dsimp only
  split
  · exact (keeps_hankFail ..).rollCall n
  · refine iteInduction (motive := P) (fun _ => (keeps_hankFail ..).rollCall n) fun _ =>
      iteInduction (motive := P) (fun _ => (keeps_fault ..).rollCall n) fun _ => ?_
    exact (rollCall_claimFixed ..).trans (rollCall_modJob e n x.id _ fun _ => by rfl)

theorem Engine.rollCall_hankEntry (e : Engine) (n : Sp) (x : Job) (b : HankBlk) (k : Hank) (h : HankHdr) :
    (e.hankEntry n x b k h).rollCall n = e.rollCall n := by
  refine iteInduction (motive := fun e' : Engine => e'.rollCall n = e.rollCall n) (fun _ => rfl) fun _ => rollCall_onArrive fun e bs => ?_
  extract_lets en e1
  have hentry : e.Keeps e1 := .modJob_of_stake n x.id fun _ => by rfl
  exact Keeps.rollCall (.ite (hentry.trans (keeps_jobRead ..)) hentry) n

theorem Engine.keeps_hankAskEntry (e : Engine) (n : Sp) (id : Nat) (b : HankBlk) : e.Keeps (e.hankAskEntry n id b) := by
  unfold hankAskEntry
  split
  · split
    · split
      · exact .ite (Keeps.trans (.modJob_of_stake n id fun _ => by rfl) (keeps_jobRead ..)) (.refl e)
      · exact .refl e
    · exact .refl e
  · exact .refl e

theorem Engine.rollCall_hankAdvance (e : Engine) (n : Sp) (id : Nat) : (e.hankAdvance n id).rollCall n = e.rollCall n := by
  unfold hankAdvance
  split
  · split
    · refine iteInduction (motive := fun e' : Engine => e'.rollCall n = e.rollCall n) (fun _ => rfl) fun _ => ?_
      refine ((keeps_hankAskEntry ..).rollCall n).trans ?_
      split
      · exact rollCall_hankHeader ..
      · exact rollCall_hankEntry ..
    · rfl
  · rfl

/-- A job that is no Hank job has no decoder to go on with. -/
theorem Engine.hankAdvance_of_no_block {e : Engine} {n : Sp} {id : Nat} {x : Job} (hx : e.jobId? n id = some x) (hblock : x.desc.hank = none) :
    e.hankAdvance n id = e := by
  unfold hankAdvance
  simp only [hx, hblock]
  split <;> simp_all

end Sys2Proof.Machine
end

section
/-! PROOFS. Jobs and completion (13_jobs_and_completion): the grant of a waiting claim, the post of a record, and the start of a head (R204, R288,
R347, R356, R357, R364 to R367). -/

namespace Sys2Proof.Machine

/-! ## WORK_CLAIM_GRANT (R288) -/

theorem Engine.Keeps.jobId? {e e' : Engine} (h : e.Keeps e') {n : Sp} {id : Nat} {x : Job} (hx : e.jobId? n id = some x) :
    ∃ y, e'.jobId? n id = some y ∧ x.Keeps y := by
  obtain ⟨⟨f, hf, hjobs⟩, -, -⟩ := h.spindle n
  have hnumber : ((fun x : Job => x.id == id) ∘ f) = fun x => x.id == id := funext fun x => by simp only [Function.comp, (hf x).id]
  refine ⟨f x, ?_, hf x⟩
  rw [Engine.jobId?, hjobs, List.find?_map, hnumber, ← Engine.jobId?, hx, Option.map_some]

/-- The engine in which a waiting claim of the job with a number is granted, before the job goes on. -/
def Engine.granted (e : Engine) (n : Sp) (id k : Nat) : Engine := (e.takeBanks n id k).modJob n id fun x => { x with claim := none }

theorem Engine.rollCall_granted (e : Engine) (n : Sp) (id k : Nat) : (e.granted n id k).rollCall n = e.rollCall n :=
  (rollCall_modJob _ n id _ fun _ => by rfl).trans (rollCall_takeBanks ..)

theorem Engine.jobId?_granted {e : Engine} {n : Sp} {id : Nat} {x : Job} (hx : e.jobId? n id = some x) (k : Nat) :
    (e.granted n id k).jobId? n id = some { x with banks := x.banks ++ (e.freeBanks n).take k, claim := none } := by
  unfold granted takeBanks
  exact jobId?_modJob_of (jobId?_modJob_of hx fun _ => by rfl) fun _ => by rfl

/-- What a granted job goes on with: its first work, its decoder, and the lanes and back words that are there. -/
def Engine.goesOn (e : Engine) (n : Sp) (id : Nat) : Engine := (((e.beginWork n id).hankAdvance n id).kickSparse n).drainBack n

theorem Engine.rollCall_goesOn (e : Engine) (n : Sp) (id : Nat) : (e.goesOn n id).rollCall n = e.rollCall n :=
  ((keeps_kickSparse ..).trans (keeps_drainBack ..)).rollCall n |>.trans ((rollCall_hankAdvance ..).trans ((keeps_beginWork ..).rollCall n))

theorem Engine.keeps_goesOn {e : Engine} {n : Sp} {id : Nat} {x : Job} (hx : e.jobId? n id = some x) (hblock : x.desc.hank = none) :
    e.Keeps (e.goesOn n id) := by
  have hbegun := e.keeps_beginWork n id
  obtain ⟨y, hy, hkeeps⟩ := hbegun.jobId? hx
  have hsame : (e.beginWork n id).hankAdvance n id = e.beginWork n id := hankAdvance_of_no_block hy (hkeeps.desc ▸ hblock)
  unfold goesOn
  rw [hsame]
  exact (hbegun.trans (keeps_kickSparse ..)).trans (keeps_drainBack ..)

theorem exec_workClaimGrant {n : Sp} {s : State} {x : Job} {k : Nat}
    (hfirst : ((s.eng.sp n).jobs.find? fun x => x.claim.isSome && x.ended.isNone) = some x) (hclaim : x.claim = some k) (hlive : s.eng.live = true)
    (hfree : k ≤ (s.eng.freeBanks n).length) (hturn : s.eng.claimBehind n x.id = false) :
    exec (.workClaimGrant n) s = .next { s with eng := (s.eng.granted n x.id k).goesOn n x.id } := by
  have hgo : (s.eng.live && decide (k ≤ (s.eng.freeBanks n).length) && !s.eng.claimBehind n x.id) = true := by simp [hlive, hfree, hturn]
  change Host.Outcome.next (s.onEng _) = _
  simp only [State.onEng, hfirst, hclaim, Option.getD_some, hgo, if_true]
  rfl

theorem exec_workClaimGrant_grants {n : Sp} {s : State} {x : Job} {k : Nat}
    (hfirst : ((s.eng.sp n).jobs.find? fun x => x.claim.isSome && x.ended.isNone) = some x) (hx : s.eng.jobId? n x.id = some x)
    (hclaim : x.claim = some k) (hlive : s.eng.live = true) (hfree : k ≤ (s.eng.freeBanks n).length) (hturn : s.eng.claimBehind n x.id = false) :
    ∃ t y, exec (.workClaimGrant n) s = .next t ∧ t.sec = s.sec ∧ t.eng.jobId? n x.id = some y ∧ y.desc = x.desc ∧
      (x.desc.hank = none → y.claim = none ∧ (y.ended = none → y.banks = x.banks ++ (s.eng.freeBanks n).take k)) := by
  have hgranted := Engine.jobId?_granted hx k
  obtain ⟨y, hy, hdesc⟩ := Engine.jobId?_of_rollCall ((Engine.rollCall_goesOn _ n x.id).trans (s.eng.rollCall_granted n x.id k)) hx
  refine ⟨_, y, exec_workClaimGrant hfirst hclaim hlive hfree hturn, rfl, hy, hdesc, fun hblock => ?_⟩
  obtain ⟨z, hz, hkeeps⟩ := (Engine.keeps_goesOn hgranted hblock).jobId? hgranted
  obtain rfl := Option.some.inj (hz.symm.trans hy)
  exact ⟨hkeeps.claim.elim id id, fun hended => (hkeeps.banks hended).2⟩

/-! ## COMPLETION_POST (R347, R364, R366, R367) -/

/-- A Hank job that has ended has nothing more to write. -/
theorem Engine.hankEnd_of_ended {e : Engine} {n : Sp} {id : Nat} {x : Job} (hx : e.jobId? n id = some x) (hended : x.ended.isSome = true) :
    e.hankEnd n id = e := by
  unfold hankEnd
  simp only [hx, hended, Bool.or_true, Bool.true_or, if_true]
  split <;> rfl

theorem Engine.doffer_latencyYield (e : Engine) (n : Sp) (x : Job) : (e.latencyYield n x).doffer = e.doffer := by
  let P (e' : Engine) : Prop := e'.doffer = e.doffer
  have hyield (y : Yield) : (e.yield_ y).doffer = e.doffer := by
    unfold yield_
    extract_lets key ticks e1 e2
    have hentry : e2.doffer = e.doffer := e1.telEntry_doffer _ _
    exact iteInduction (motive := P) (fun _ => hentry) fun _ => hentry
  unfold latencyYield
  extract_lets cl lat
  split
  · exact iteInduction (motive := P) (fun _ => hyield _) fun _ => rfl
  · rfl

theorem Engine.doffer_kickSparse (e : Engine) (n : Sp) : (e.kickSparse n).doffer = e.doffer := by
  obtain ⟨s, hs, -⟩ := e.kickSparse_changes n
  rw [hs, modSp_doffer]

/-- The Doffer's side of a post where the pending buffer has room (R367). -/
def Doffer.posted (d : Doffer) (n : Sp) (r : CompRec) (stalled : Nat) : Doffer :=
  { d with fullStall := satAdd d.fullStall stalled, buffers := d.buffers.set n (d.buffers[n] ++ [r]) }

theorem Engine.doffer_postJob {e : Engine} {n : Sp} (x : Job) (en : Ending) (clocks stalled : Nat) (hroom : e.doffer.buffers[n].length < 16) :
    (e.postJob n x en clocks stalled).doffer = e.doffer.posted n (x.record n en clocks) stalled := by
  unfold postJob
  extract_lets e1 d e2 e3 e4 e5
  have hstall : e2.doffer = { e.doffer with fullStall := satAdd e.doffer.fullStall stalled } := by
    have hevent : e1.doffer = e.doffer := by
      dsimp only [e1, raiseIf]
      split <;> rfl
    dsimp only [e2, d]
    rw [hevent]
  have hmark : e3.doffer = e2.doffer := by
    refine iteInduction (motive := fun e' : Engine => e'.doffer = e2.doffer) (fun _ => ?_) fun _ => rfl
    exact iteInduction (motive := fun e' : Engine => e'.doffer = e2.doffer) (fun _ => rfl) fun _ => rfl
  have hpost : e4.doffer = e.doffer.posted n (x.record n en clocks) stalled := by
    dsimp only [e4, post, modSp_doffer]
    rw [doffer_latencyYield, hmark, hstall, if_pos hroom, Doffer.posted]
  rw [doffer_kickSparse]
  exact iteInduction (motive := fun e' : Engine => e'.doffer = _) (fun _ => hpost) fun _ => hpost

/-- The posted job has left its place, with every job of its number. -/
theorem Engine.id_ne_of_postJob {e : Engine} {n : Sp} {x : Job} {en : Ending} {clocks stalled : Nat} :
    ∀ y ∈ ((e.postJob n x en clocks stalled).sp n).jobs, y.id ≠ x.id := by
  unfold postJob
  extract_lets e1 d e2 e3 e4 e5
  have hleft : ∀ y ∈ (e5.sp n).jobs, y.id ≠ x.id := by
    dsimp only [e5]
    rw [sp_modSp]
    exact fun y hy => by simpa using (List.mem_filter.mp hy).2
  have hheads : ∀ v ∈ (e5.sp n).jobs.map Job.head, v.1 ≠ x.id := by
    intro v hv
    obtain ⟨y, hy, rfl⟩ := List.mem_map.mp hv
    exact hleft y hy
  generalize hlost : (if !(e5.sp n).enable && (e5.sp n).jobs.isEmpty then e5.loseWhere (e5.restsOn n) else e5) = e6
  have hsame : e6.rollCall n = e5.rollCall n := by
    rw [← hlost]
    split <;> rfl
  intro y hy
  refine hheads y.head ?_
  rw [← heads_of_rollCall (((keeps_kickSparse e6 n).rollCall n).trans hsame)]
  exact List.mem_map_of_mem hy

theorem exec_completionPost {n : Sp} {j : Nat} {s : State} {x : Job} {en : Ending} (clocks stalled : Nat) (hjob : s.eng.job? n j = some x)
    (hx : s.eng.jobId? n x.id = some x) (hended : x.ended = some en) (hlive : s.eng.live = true) (hduties : s.eng.dutiesMet n x en = true)
    (hroom : s.eng.doffer.buffers[n].length < 16) :
    exec (.completionPost n j clocks stalled) s = .next { s with eng := s.eng.postJob n x en clocks stalled } := by
  have hgo : (s.eng.live && s.eng.dutiesMet n x en && decide (s.eng.doffer.buffers[n].length < 16)) = true := by
    rw [hlive, hduties, decide_eq_true hroom]
    rfl
  have hsame : s.eng.hankEnd n x.id = s.eng := Engine.hankEnd_of_ended hx (by rw [hended]; rfl)
  change Host.Outcome.next (s.onEng _) = _
  simp only [State.onEng, hjob, hsame, hx, hended, hgo, if_true]

theorem exec_completionPost_posts {n : Sp} {j : Nat} {s : State} {x : Job} {en : Ending} (clocks stalled : Nat) (hjob : s.eng.job? n j = some x)
    (hx : s.eng.jobId? n x.id = some x) (hended : x.ended = some en) (hlive : s.eng.live = true) (hduties : s.eng.dutiesMet n x en = true)
    (hroom : s.eng.doffer.buffers[n].length < 16) :
    ∃ t, exec (.completionPost n j clocks stalled) s = .next t ∧ t.sec = s.sec ∧
      t.eng.doffer.buffers[n] = s.eng.doffer.buffers[n] ++ [x.record n en clocks] ∧
      t.eng.doffer.fullStall = satAdd s.eng.doffer.fullStall stalled ∧ (∀ y ∈ (t.eng.sp n).jobs, y.id ≠ x.id) := by
  have hdoffer := Engine.doffer_postJob x en clocks stalled hroom
  refine ⟨_, exec_completionPost clocks stalled hjob hx hended hlive hduties hroom, rfl, ?_, ?_, Engine.id_ne_of_postJob⟩
  · dsimp only
    rw [hdoffer, Doffer.posted]
    simp
  · dsimp only
    rw [hdoffer, Doffer.posted]

/-! ## JOB_START (R204, R288, R356, R357) -/

/-- From e to e', job x has taken the next place of spindle n and the next number, and `count` jobs have started there. -/
def Engine.Started (e : Engine) (n : Sp) (x : Job) (count : Word) (e' : Engine) : Prop :=
  e'.rollCall n = ((e.sp n).jobs.map Job.head ++ [x.head], (e.sp n).jobNext + 1, count)

theorem Engine.Started.job? {e e' : Engine} {n : Sp} {x : Job} {count : Word} (h : e.Started n x count e') :
    (e'.sp n).jobs.length = (e.sp n).jobs.length + 1 ∧ (e'.sp n).jobNext = (e.sp n).jobNext + 1 ∧ (e'.sp n).cnt.jobs = count ∧
      ∃ y, e'.job? n (e.sp n).jobs.length = some y ∧ y.id = x.id ∧ y.desc = x.desc ∧ y.level = x.level := by
  obtain ⟨hheads, hnext, hcount⟩ : (e'.sp n).jobs.map Job.head = (e.sp n).jobs.map Job.head ++ [x.head] ∧
      (e'.sp n).jobNext = (e.sp n).jobNext + 1 ∧ (e'.sp n).cnt.jobs = count := by simpa only [Started, rollCall, Prod.mk.injEq] using h
  have hplace : ((e'.sp n).jobs.map Job.head)[(e.sp n).jobs.length]? = some x.head := by
    rw [hheads, List.getElem?_append_right (by simp)]
    simp
  rw [List.getElem?_map] at hplace
  obtain ⟨y, hy, hhead⟩ := Option.map_eq_some_iff.mp hplace
  obtain ⟨hid, hdesc, hlevel⟩ : y.id = x.id ∧ y.desc = x.desc ∧ y.level = x.level := by simpa only [Job.head, Prod.mk.injEq] using hhead
  exact ⟨by simpa using congrArg List.length hheads, hnext, hcount, y, hy, hid, hdesc, hlevel⟩

/-- When a step set stops with one of its jobs, that job keeps its view in its place (R204). -/
theorem Engine.views_getElem?_stopSetOf (e : Engine) (n : Sp) (d : Desc) {k : Nat} {v : JobView} (hv : (e.views n)[k]? = some v) :
    ((e.stopSetOf n d (some v.id)).views n)[k]? = some v := by
  obtain ⟨ys, hys, hviews⟩ := e.views_stopSetOf n d (some v.id)
  rw [hviews]
  clear hviews
  induction ys generalizing e with
  | nil => exact hv
  | cons y ys ih =>
    have hother : v.id ≠ y.id := fun h => hys y List.mem_cons_self (by rw [h])
    refine ih _ ?_ fun z hz => hys z (List.mem_cons_of_mem _ hz)
    rw [views_stopOne, setView, List.getElem?_map, hv, Option.map_some, if_neg hother]

theorem Engine.keeps_stopBadMember (e : Engine) (n : Sp) (x : Job) : e.Keeps (e.stopBadMember n x) := by
  unfold stopBadMember
  split
  · exact .modSp n fun _ => by rfl
  · exact keeps_stopSetOf ..

theorem Engine.views_getElem?_stopBadMember (e : Engine) (n : Sp) (x : Job) {k : Nat} {v : JobView} (hv : (e.views n)[k]? = some v)
    (hid : v.id = x.id) : ((e.stopBadMember n x).views n)[k]? = some v := by
  unfold stopBadMember
  split
  · exact (congrArg (fun vs : List JobView => vs[k]?) (views_modSp e n n _ fun _ => by rfl)).trans hv
  · rw [← hid]
    exact e.views_getElem?_stopSetOf n x.desc hv

/-- A job that starts with DESC_BAD: it has ended, and nothing of its work is set up (R356). -/
def Job.refused (x : Job) (d : Nat) : Job :=
  { x with ended := some ⟨1, 0x01, d, 0⟩, lockWait := false, halves := [], draft := none, hank := none, sparse := none, window := none
           strA := none, strB := none }

/-- A spindle on which job x has its place, before its checks and claims, with a count of starts. -/
def Spindle.joined (s : Spindle) (x : Job) (count : Word) : Spindle :=
  { s with jobNext := s.jobNext + 1, jobs := s.jobs ++ [x], cnt := { s.cnt with jobs := count } }

theorem Engine.started_joined {e e' : Engine} {n : Sp} {x : Job} {count : Word} (h : e'.sp n = (e.sp n).joined x count) : e.Started n x count e' := by
  rw [Started, rollCall, h, Spindle.joined, List.map_append, List.map_singleton]

/-- A head with DESC_BAD starts as a job that has ended, and its step set stops (R204, R356). -/
theorem Engine.startHead_of_bad {e : Engine} {n : Sp} {h : Head} {d : Nat} (hbad : e.descFault n h.pkt.bytes = some d) :
    ∃ e1 : Engine, e1.sp n = (e.sp n).joined ((e.newJob n h).refused d) (e.sp n).cnt.jobs ∧
      e.startHead n h = e1.stopBadMember n (e.newJob n h) := by
  unfold startHead
  simp only [hbad]
  refine ⟨_, ?_, rfl⟩
  rw [sp_modSp, sp_modSp]
  rfl

theorem Engine.startHead_ended {e : Engine} {n : Sp} {h : Head} {d : Nat} (hbad : e.descFault n h.pkt.bytes = some d) :
    e.Started n (e.newJob n h) (e.sp n).cnt.jobs (e.startHead n h) ∧
      ∀ y, (e.startHead n h).job? n (e.sp n).jobs.length = some y → y.ended = some ⟨1, 1, d, 0⟩ := by
  obtain ⟨e1, hjoined, hstart⟩ := startHead_of_bad hbad
  have hstarted : e.Started n ((e.newJob n h).refused d) (e.sp n).cnt.jobs e1 := started_joined hjoined
  rw [hstart]
  refine ⟨((e1.keeps_stopBadMember n _).rollCall n).trans hstarted, fun y hy => ?_⟩
  have hplace : (e1.views n)[(e.sp n).jobs.length]? = some ((e.newJob n h).refused d).view := by
    rw [views, hjoined, Spindle.joined, List.getElem?_map, List.getElem?_concat_length]
    rfl
  have hview := e1.views_getElem?_stopBadMember n (e.newJob n h) hplace rfl
  rw [views, List.getElem?_map, ← job?, hy, Option.map_some] at hview
  exact congrArg JobView.ended (Option.some.inj hview)

/-- A head without DESC_BAD starts, whatever its set, its checks and its claims then make of it (R204, R288, R357). -/
theorem Engine.startHead_counted {e : Engine} {n : Sp} {h : Head} (hgood : e.descFault n h.pkt.bytes = none) :
    e.Started n (e.newJob n h) (satInc (e.sp n).cnt.jobs) (e.startHead n h) := by
  unfold startHead
  extract_lets x bad e1 e2 e3
  have hstart : e.Started n x (satInc (e.sp n).cnt.jobs) e3 := by
    refine ((keeps_serveClass ..).rollCall n).trans (started_joined ?_)
    rw [sp_modSp, sp_modSp]
    rfl
  rw [show bad = none from hgood]
  refine Eq.trans ?_ hstart
  dsimp only
  split
  · exact (Keeps.trans (.modSp n fun _ => by rfl) (keeps_stopOne ..)).rollCall n
  · split
    · exact (keeps_fault ..).rollCall n
    · exact ((keeps_trySide ..).trans (keeps_lockStart ..)).rollCall n |>.trans (rollCall_startClaims ..)

theorem exec_jobStart {n : Sp} {s : State} {h : Head} (hfirst : s.eng.firstReady n = some h) (hway : s.eng.mustGiveWay n h = []) :
    exec (.jobStart n) s = .next { s with eng := s.eng.relatch.startHead n h } := by
  change Host.Outcome.next (s.onEng _) = _
  simp only [State.onEng, hfirst, hway, List.isEmpty_nil, if_true]

theorem exec_jobStart_starts {n : Sp} {s : State} {h : Head} (hfirst : s.eng.firstReady n = some h) (hway : s.eng.mustGiveWay n h = []) :
    ∃ t y, exec (.jobStart n) s = .next t ∧ t.sec = s.sec ∧ (t.eng.sp n).jobs.length = (s.eng.sp n).jobs.length + 1 ∧
      (t.eng.sp n).jobNext = (s.eng.sp n).jobNext + 1 ∧ t.eng.job? n (s.eng.sp n).jobs.length = some y ∧ y.id = (s.eng.sp n).jobNext ∧
      y.desc = Desc.parse h.pkt.bytes ∧ y.level = h.level ∧
      (∀ d : Nat, s.eng.descFault n h.pkt.bytes = some d → y.ended = some ⟨1, 1, d, 0⟩ ∧ (t.eng.sp n).cnt.jobs = (s.eng.sp n).cnt.jobs) ∧
      (s.eng.descFault n h.pkt.bytes = none → (t.eng.sp n).cnt.jobs = satInc (s.eng.sp n).cnt.jobs) := by
  have hexec := exec_jobStart hfirst hway
  have hlatched : s.eng.relatch.descFault n h.pkt.bytes = s.eng.descFault n h.pkt.bytes := rfl
  cases hfault : s.eng.descFault n h.pkt.bytes with
  | some d =>
    obtain ⟨hstart, hended⟩ := Engine.startHead_ended (hlatched.trans hfault)
    obtain ⟨hlen, hnext, hcount, y, hy, hid, hdesc, hlevel⟩ := hstart.job?
    refine ⟨_, y, hexec, rfl, hlen, hnext, hy, hid, hdesc, hlevel, fun d' hd => ?_, nofun⟩
    obtain rfl := Option.some.inj hd
    exact ⟨hended y hy, hcount⟩
  | none =>
    obtain ⟨hlen, hnext, hcount, y, hy, hid, hdesc, hlevel⟩ := (Engine.startHead_counted (hlatched.trans hfault)).job?
    exact ⟨_, y, hexec, rfl, hlen, hnext, hy, hid, hdesc, hlevel, nofun, fun _ => hcount⟩

/-- Settles O46: the start of a ready head, the post of an ended job, and the grant of a waiting claim. -/
theorem jobsStartAndPostTheirRecords : Obligations.JobsStartAndPostTheirRecords := by
  unfold Obligations.JobsStartAndPostTheirRecords
  exact fun n s => ⟨fun h hfirst hway => exec_jobStart_starts hfirst hway,
    fun j clocks stalled x en hjob hx hended hlive hduties hroom => exec_completionPost_posts clocks stalled hjob hx hended hlive hduties hroom,
    fun x k hfirst hx hclaim hlive hfree hturn => exec_workClaimGrant_grants hfirst hx hclaim hlive hfree hturn⟩

end Sys2Proof.Machine
end

section
/-! PROOFS. Placement (10_placement_and_spill): the end of a staged copy on a spindle that drains, where the frame that the copy brings is bad
and the decoder's step set takes the copied tensor with it. -/

namespace Sys2Proof.Machine

/-! ## A staged copy ends and its first reader faults (R204, R229, R280, R287, R373) -/

namespace StagedFrameAtFault

/-- Address of the first byte of placed tensor 7. -/
def tensorAddr : Nat := 3 * 2 ^ 62 + 7 * 2 ^ 48

/-- Job 0, of step set 3: it decodes the Hank frame in tensor 7, and has its side and has asked for the frame's header. -/
def decodeJob : Job :=
  { id := 0, level := 7, inst := none, begun := true, hank := some { held := true }
    desc := { step := true, setId := 3, stepSize := 2
              hank := some { op := 1, blockSize := 0, chainDepth := 0, srcLen := 0, srcAddr := tensorAddr, dstAddr := 0x4000, dstSpace := 0x1000,
                             blockFirst := 0, blockRun := 0 } } }

/-- Job 1: a feed job of the same step set that holds tensor 7 open too. -/
def feedJob : Job :=
  { id := 1, level := 7, inst := none, begun := true
    desc := { step := true, setId := 3, stepSize := 2
              expA := some { streamAddr := tensorAddr, foldAddr := 0, tileFirst := 0, tileRun := 0, scaleSrc := 0, deliv := 0, dest := 0 } } }

/-- Tensor 7, of 64 bytes at home, placed whole in granule 0 of the spindle's pool for a read of job 0. -/
def staged : Tensor := { placed := true, sPart := some (0, 1), staging := true, stager := (0, 0) }

/-- Spindle 0 with both jobs, its ENABLE cleared and its drain under way. -/
def state : State :=
  State.reset.onEng fun e =>
    { e.modSp 0 (fun p => { p with pwr := .on, enable := false, drainFrom := some 0, jobs := [decodeJob, feedJob], jobNext := 2 }) with
      power := { e.power with phase := .running, regPort := true, wakes := [], bobbin := .on }
      cfg := some { placement := [(7, { homeAddr := 0x100000, sizeMax := 64, owner := 0, stage := true })] }
      tensors := [(7, staged)] }

/-- The copy of tensor 7 has no read that is still to be answered. -/
theorem copy_is_answered :
    Tab.wf {} state.eng.tensors = true ∧ (state.eng.tensor 7).staging = true ∧
      (state.eng.sp (spOf (state.eng.tensor 7).stager.1)).waitsFor (state.eng.tensor 7).stager.2 (pStage 7) = false := by decide

/-- The copied bytes are no Hank frame, so that job 0 faults with HANK_BAD_CODE as the copy ends; job 1 is aborted with its set, and as its
spindle is disabled, the part of the tensor that it holds open becomes LOST. -/
theorem copy_end_loses_part :
    ∃ t, exec (.stagedCopyDone 7) state = .next t ∧ ((t.eng.jobId? 0 decodeJob.id).bind fun y => y.ended) = some ⟨1, 0x0A, 1, 0⟩ ∧
      ((t.eng.jobId? 0 feedJob.id).bind fun y => y.ended) = some ⟨2, 0x17, 3, 0⟩ ∧
      (t.eng.tensor 7).lost = true ∧ (t.eng.tensor 7).sPart = none := by
  refine ⟨_, rfl, ?_⟩
  decide +kernel

end StagedFrameAtFault

/-- Refutes O49: its second clause keeps the parts of the copied tensor without a premise that no job faults as the copy ends.  On a spindle
whose ENABLE is cleared, a decoder that finds no Hank frame in the copy faults, its step set is aborted with it, and the tensor's part is LOST. -/
theorem not_tensorsArePlacedAndFreed : ¬ Obligations.TensorsArePlacedAndFreed := by
  intro h
  obtain ⟨hwf, hstaging, hanswered⟩ := StagedFrameAtFault.copy_is_answered
  obtain ⟨-, hcopy, -, -⟩ := h StagedFrameAtFault.state hwf
  obtain ⟨t, ht, -, -, hpart, -⟩ := hcopy 7 hstaging hanswered
  obtain ⟨t', ht', -, -, -, hgone⟩ := StagedFrameAtFault.copy_end_loses_part
  obtain rfl := Host.Outcome.next.inj (ht.symm.trans ht')
  rw [hgone] at hpart
  exact absurd hpart (by decide)

end Sys2Proof.Machine
end

section
/-! PROOFS. The soundness of the stores, the queues and the jobs (R18, R19, R318, R357): what it says of each part of the engine, and which
updates of the engine keep it. -/

namespace Sys2Proof.Machine

/-! ## What soundness reads of a spindle -/

/-- An addressed store is in canonical form. -/
def StoreSound (t : Tab Byte) : Prop := Tab.wf 0 t = true

/-- What soundness reads of a spindle: its store, the numbers of its jobs, and the next number. -/
abbrev Spindle.kept (s : Spindle) : Tab Byte × List Nat × Nat := (s.store, s.jobs.map Job.id, s.jobNext)

/-- A spindle is sound: its store is canonical, and its jobs have rising numbers below the next one. -/
structure Spindle.Sound (s : Spindle) : Prop where
  store : StoreSound s.store
  rising : (s.jobs.map Job.id).Pairwise (· < ·)
  below : ∀ i ∈ s.jobs.map Job.id, i < s.jobNext

/-- The spindles are sound. -/
structure SpindlesSound (v : Vector Spindle 32) : Prop where
  all : ∀ n : Sp, (v[n]).Sound

theorem Spindle.Sound.of_kept {s t : Spindle} (h : s.Sound) (hkept : t.kept = s.kept) : t.Sound := by
  obtain ⟨hstore, hids, hnext⟩ : t.store = s.store ∧ t.jobs.map Job.id = s.jobs.map Job.id ∧ t.jobNext = s.jobNext := by simpa using hkept
  exact ⟨hstore ▸ h.store, hids ▸ h.rising, by rw [hids, hnext]; exact h.below⟩

/-- Jobs that leave their places leave rising numbers. -/
theorem Spindle.Sound.of_sublist {s t : Spindle} (h : s.Sound) (hstore : t.store = s.store) (hnext : t.jobNext = s.jobNext)
    (hjobs : t.jobs.Sublist s.jobs) : t.Sound :=
  ⟨hstore ▸ h.store, h.rising.sublist (hjobs.map _), hnext ▸ fun i hi => h.below i ((hjobs.map _).subset hi)⟩

theorem SpindlesSound.set {v : Vector Spindle 32} (h : SpindlesSound v) (n : Sp) {s : Spindle} (hs : s.Sound) : SpindlesSound (v.set n s) := by
  refine ⟨fun m => ?_⟩
  rw [Fin.getElem_fin, Vector.getElem_set]
  split
  · exact hs
  · exact h.all m

theorem SpindlesSound.map {v : Vector Spindle 32} (h : SpindlesSound v) {f : Spindle → Spindle} (hf : ∀ s, (f s).kept = s.kept) :
    SpindlesSound (v.map f) where
  all m := by
    rw [Fin.getElem_fin, Vector.getElem_map]
    exact (h.all m).of_kept (hf _)

theorem SpindlesSound.mapFinIdx {v : Vector Spindle 32} (h : SpindlesSound v) {f : (i : Nat) → Spindle → i < 32 → Spindle}
    (hf : ∀ i s hi, s.Sound → (f i s hi).Sound) : SpindlesSound (v.mapFinIdx f) where
  all m := by
    rw [Fin.getElem_fin, Vector.getElem_mapFinIdx]
    exact hf _ _ _ (h.all m)

/-! ## The soundness of the engine -/

/-- No STREAM queue holds a whole cell back (R318). -/
structure QueuesSound (t : Tab Queue) : Prop where
  short : ∀ q ∈ t, q.2.tail.length < 64

/-- The stores, queues and jobs of the engine are sound. -/
structure Engine.Sound (e : Engine) : Prop where
  mem : StoreSound e.mem
  bobbin : StoreSound e.bobbin
  spindles : SpindlesSound e.spindles
  fw : trimmed e.distaff.fw = true
  imgA : trimmed e.distaff.imgA = true
  imgB : trimmed e.distaff.imgB = true
  sram : trimmed e.flyer.sram = true
  queues : QueuesSound e.creel.queues

theorem storesSound_iff (s : State) : Safety.storesSound s ↔ s.eng.Sound := by
  have hsp : (∀ x ∈ s.eng.spindles.toList, x.Sound) ↔ SpindlesSound s.eng.spindles := by
    constructor
    · exact fun h => ⟨fun n => h _ (by simp)⟩
    · intro h x hx
      obtain ⟨i, hi, rfl⟩ := Vector.getElem_of_mem (Vector.mem_toList_iff.1 hx)
      exact h.all ⟨i, hi⟩
  have hone (x : Spindle) : x.Sound ↔
      Tab.wf 0 x.store = true ∧ (x.jobs.map fun j => j.id).Pairwise (· < ·) ∧ ∀ j ∈ x.jobs, j.id < x.jobNext :=
    ⟨fun h => ⟨h.store, h.rising, fun j hj => h.below _ (List.mem_map_of_mem hj)⟩,
     fun ⟨hs, hr, hb⟩ => ⟨hs, hr, fun i hi => by obtain ⟨j, hj, rfl⟩ := List.mem_map.1 hi; exact hb j hj⟩⟩
  unfold Safety.storesSound Memory.wf
  simp only [Bool.and_eq_true, List.all_eq_true]
  constructor
  · rintro ⟨⟨⟨⟨⟨⟨⟨hm, hb⟩, hst⟩, hf⟩, ha⟩, hi⟩, hsr⟩, hq, hj⟩
    exact ⟨hm, hb, hsp.1 fun x hx => (hone x).2 ⟨hst x hx, hj x hx⟩, hf, ha, hi, hsr, ⟨hq⟩⟩
  · intro h
    have hx := fun x hx => (hone x).1 (hsp.2 h.spindles x hx)
    exact ⟨⟨⟨⟨⟨⟨⟨h.mem, h.bobbin⟩, fun x hm => (hx x hm).1⟩, h.fw⟩, h.imgA⟩, h.imgB⟩, h.sram⟩, h.queues.short,
      fun x hm => (hx x hm).2⟩

end Sys2Proof.Machine
end

section

namespace Sys2Proof.Machine

variable {e : Engine}

/-- What soundness reads of the engine. -/
abbrev Engine.parts (e : Engine) : Tab Byte × Tab Byte × Vector Spindle 32 × (List Byte × List Byte × List Byte) × List Byte × Tab Queue :=
  (e.mem, e.bobbin, e.spindles, (e.distaff.fw, e.distaff.imgA, e.distaff.imgB), e.flyer.sram, e.creel.queues)

/-- An update of anything else keeps the engine sound. -/
theorem Engine.Sound.same {e' : Engine} (h : e.Sound) (hparts : e'.parts = e.parts) : e'.Sound := by
  simp only [parts, Prod.mk.injEq] at hparts
  obtain ⟨hm, hb, hs, ⟨hf, ha, hi⟩, hr, hq⟩ := hparts
  exact ⟨hm ▸ h.mem, hb ▸ h.bobbin, hs ▸ h.spindles, hf ▸ h.fw, ha ▸ h.imgA, hi ▸ h.imgB, hr ▸ h.sram, hq ▸ h.queues⟩

theorem Engine.Sound.onSp (h : e.Sound) {n : Sp} {f : Spindle → Spindle} (hf : ∀ s : Spindle, s.Sound → (f s).Sound) : (e.modSp n f).Sound :=
  { h with spindles := h.spindles.set n (hf _ (h.spindles.all n)) }

theorem Engine.Sound.modSp (h : e.Sound) {n : Sp} {f : Spindle → Spindle} (hf : ∀ s, (f s).kept = s.kept) : (e.modSp n f).Sound :=
  h.onSp fun s hs => hs.of_kept (hf s)

/-- Jobs that keep their numbers keep what soundness reads. -/
theorem Spindle.kept_mapJobs (s : Spindle) {f : Job → Job} (hf : ∀ x, (f x).id = x.id) :
    ({ s with jobs := s.jobs.map f } : Spindle).kept = s.kept := by
  simp [hf, Function.comp_def]

theorem Engine.Sound.modJob (h : e.Sound) {n : Sp} {id : Nat} {f : Job → Job} (hf : ∀ x, (f x).id = x.id) : (e.modJob n id f).Sound :=
  h.modSp fun s => s.kept_mapJobs fun x => by split <;> simp [hf]

theorem Engine.Sound.ite {c : Prop} [Decidable c] {e' : Engine} (h : e.Sound) (h' : e'.Sound) : (if c then e else e').Sound :=
  iteInduction (motive := Engine.Sound) (fun _ => h) fun _ => h'

theorem Engine.Sound.foldl {α : Type} {f : Engine → α → Engine} (h : e.Sound) (hf : ∀ (e : Engine) (a : α), e.Sound → (f e a).Sound)
    {as : List α} :
    (as.foldl f e).Sound :=
  List.foldlRecOn (motive := Engine.Sound) as f h fun e' he a _ => hf e' a he

end Sys2Proof.Machine
end

section
/-! PROOFS. What keeps the queues, the Distaff's regions and the parts of the engine sound: the operations of the Creel and of the Distaff,
and the combinators of the engine. -/

namespace Sys2Proof.Machine

variable {c : Creel} {t : Tab Queue}

/-! ## Stores -/

theorem StoreSound.nil : StoreSound [] := rfl
theorem StoreSound.put {m : Tab Byte} (h : StoreSound m) {a : Nat} {b : Byte} : StoreSound (Tab.put m 0 a b) := Tab.wf_put a b h
theorem StoreSound.writeBytes {m : Tab Byte} (h : StoreSound m) {a : Nat} {bs : List Byte} : StoreSound (writeBytes m a bs) :=
  wf_writeBytes bs m a h

/-! ## Tables of queues -/

/-- What a key of a table reads is listed, or the default. -/
theorem Tab.getD_mem {α : Type} (t : Tab α) (k : Nat) (d : α) : (k, Tab.getD t k d) ∈ t ∨ Tab.getD t k d = d := by
  unfold Tab.getD
  induction t with
  | nil => exact .inr rfl
  | cons p t ih =>
    obtain ⟨k', v⟩ := p
    by_cases hk : k' = k
    · simp [Tab.get?, hk]
    · rw [show Tab.get? ((k', v) :: t) k = Tab.get? t k by simp [Tab.get?, hk]]
      exact ih.imp_left (List.mem_cons_of_mem _)

theorem Tab.mem_ins {α : Type} {t : Tab α} {k : Nat} {v : α} {p : Nat × α} (h : p ∈ Tab.ins t k v) : p = (k, v) ∨ p ∈ t := by
  induction t with
  | nil => simpa [Tab.ins] using h
  | cons q t ih =>
    simp only [Tab.ins] at h
    split at h
    · simpa using h
    · split at h
      · exact (List.mem_cons.1 h).imp_right (List.mem_cons_of_mem _)
      · rcases List.mem_cons.1 h with rfl | h
        · exact .inr List.mem_cons_self
        · exact (ih h).imp_right (List.mem_cons_of_mem _)

theorem Tab.mem_del {α : Type} {t : Tab α} {k : Nat} {p : Nat × α} (h : p ∈ Tab.del t k) : p ∈ t := by
  induction t with
  | nil => exact h
  | cons q t ih =>
    simp only [Tab.del] at h
    split at h
    · exact h
    · split at h
      · exact List.mem_cons_of_mem _ h
      · rcases List.mem_cons.1 h with rfl | h
        · exact List.mem_cons_self
        · exact List.mem_cons_of_mem _ (ih h)

theorem QueuesSound.put (h : QueuesSound t) {n : Nat} {q : Queue} (hq : q.tail.length < 64) : QueuesSound (Tab.put t {} n q) := by
  refine ⟨fun p hp => ?_⟩
  unfold Tab.put at hp
  split at hp
  · exact h.short p (Tab.mem_del hp)
  · rcases Tab.mem_ins hp with rfl | hp
    · exact hq
    · exact h.short p hp

theorem QueuesSound.map (h : QueuesSound t) {f : Nat × Queue → Nat × Queue} (hf : ∀ q, (f q).2.tail.length ≤ q.2.tail.length) :
    QueuesSound (t.map f) := by
  refine ⟨fun p hp => ?_⟩
  obtain ⟨q, hq, rfl⟩ := List.mem_map.1 hp
  exact (hf q).trans_lt (h.short q hq)

theorem QueuesSound.tail_q (h : QueuesSound c.queues) (n : Nat) : (c.q n).tail.length < 64 := by
  rcases Tab.getD_mem c.queues n {} with hm | hd
  · exact h.short _ hm
  · rw [Creel.q, hd]; decide

/-! ## The Creel's operations -/

theorem QueuesSound.creelPut (h : QueuesSound c.queues) {now n : Nat} {q : Queue} (hq : q.tail.length < 64) : QueuesSound (c.put now n q).queues :=
  h.put hq

@[simp] theorem Creel.giveBacks_queues (ks : List Nat) (c : Creel) : (ks.foldl Creel.giveBack c).queues = c.queues := by
  induction ks generalizing c with
  | nil => rfl
  | cons k ks ih => exact ih _

theorem QueuesSound.onQueue (h : QueuesSound c.queues) {now n : Nat} {f : Queue → Queue} (hf : (f (c.q n)).tail.length < 64) :
    QueuesSound (c.upd now n f).queues :=
  creelPut (by simpa using h) hf

@[simp] theorem QueuesSound.upd (h : QueuesSound c.queues) {now n : Nat} {f : Queue → Queue} (hf : ∀ q, (f q).tail.length ≤ q.tail.length) :
    QueuesSound (c.upd now n f).queues :=
  h.onQueue ((hf _).trans_lt (h.tail_q n))

@[simp] theorem QueuesSound.beginWait (h : QueuesSound c.queues) {now n : Nat} {w : CellWait} : QueuesSound (c.beginWait now n w).queues := by
  simp [Creel.beginWait, h]

@[simp] theorem QueuesSound.stopWait (h : QueuesSound c.queues) {now n : Nat} : QueuesSound (c.stopWait now n).queues := by
  simp [Creel.stopWait, h]

@[simp] theorem QueuesSound.keepWait (h : QueuesSound c.queues) {now n : Nat} {rest : List Byte} : QueuesSound (c.keepWait now n rest).queues :=
  h.upd fun q => by split <;> simp

@[simp] theorem QueuesSound.show_ (h : QueuesSound c.queues) {now n : Nat} : QueuesSound (c.show_ now n).queues := by
  unfold Creel.show_
  split
  · split <;> simp [h, Queue.setLast]
  · exact h

@[simp] theorem QueuesSound.cutThrough (h : QueuesSound c.queues) {cfg : Cfg} {now n : Nat} : QueuesSound (c.cutThrough cfg now n).queues := by
  unfold Creel.cutThrough
  dsimp only
  split
  · split <;> simp [h]
  · exact h

@[simp] theorem Creel.handOut_queues (c : Creel) : c.handOut.2.queues = c.queues := by
  unfold Creel.handOut
  split
  · rfl
  · dsimp only
    split <;> rfl

theorem QueuesSound.appendPkt (h : QueuesSound c.queues) {cfg : Cfg} {now n : Nat} {held : Bool} {inst : Option Nat} {fuel : Nat} {bs : List Byte} :
    QueuesSound (Creel.appendPkt cfg now n held inst fuel c bs).1.queues := by
  induction fuel generalizing c bs with
  | zero => exact h
  | succ fuel ih =>
    cases bs with
    | nil => exact h
    | cons b bs =>
      unfold Creel.appendPkt
      dsimp only
      split
      · split
        · exact h
        · exact ih (by simp [h])
      · split
        · exact ih (by simp [h, Queue.setLast])
        · split
          · exact h
          · split
            · exact h
            · exact ih (by simp [h, Queue.setLast])

/-- A tail that reaches 64 bytes becomes a visible cell, so that none is kept (R318). -/
theorem QueuesSound.appendStream (h : QueuesSound c.queues) {cfg : Cfg} {now n fuel : Nat} {bs : List Byte} :
    QueuesSound (Creel.appendStream cfg now n fuel c bs).1.queues := by
  induction fuel generalizing c bs with
  | zero => exact h
  | succ fuel ih =>
    cases bs with
    | nil => exact h
    | cons b bs =>
      have hcell (k : Creel) (hk : k.queues = c.queues) (t : List Byte) (i : Nat) : QueuesSound (k.upd now n fun q =>
          if t.length < 64 then { q with tail := t, tailNum := i }
          else { q with tail := [], tailNum := 0, cells := q.cells ++ [{ data := t, num := i }] }).queues :=
        QueuesSound.onQueue (hk ▸ h) (by split <;> simp [*])
      unfold Creel.appendStream
      dsimp only
      split
      · exact h
      · refine ih (hcell _ ?_ _ _)
        split <;> simp

@[simp] theorem QueuesSound.append (h : QueuesSound c.queues) {cfg : Cfg} {now n : Nat} {held : Bool} {bs : List Byte} :
    QueuesSound (c.append cfg now n held bs).1.queues := by
  unfold Creel.append
  split
  · exact h
  · exact h
  · split
    · exact h.appendStream
    · exact h.appendPkt.cutThrough

@[simp] theorem QueuesSound.close (h : QueuesSound c.queues) {now n : Nat} {poison trunc : Bool} :
    QueuesSound (c.close now n poison trunc).queues := by
  unfold Creel.close
  split <;> simp [h, Queue.setLast]

@[simp] theorem QueuesSound.dropLast (h : QueuesSound c.queues) {now n : Nat} : QueuesSound (c.dropLast now n).queues := by
  simp [Creel.dropLast, h]

@[simp] theorem QueuesSound.flush (h : QueuesSound c.queues) {now n : Nat} : QueuesSound (c.flush now n).queues :=
  h.upd fun q => by split <;> simp

@[simp] theorem QueuesSound.setDrop (h : QueuesSound c.queues) {now n : Nat} {d : DropMode} : QueuesSound (c.setDrop now n d).queues := by
  simp [Creel.setDrop, h]

@[simp] theorem QueuesSound.bad (h : QueuesSound c.queues) {cfg : Cfg} {now n : Nat} : QueuesSound (c.bad cfg now n).queues := by
  unfold Creel.bad
  split
  · split <;> simp [h]
  · split
    · split <;> simp [h]
    · exact h

@[simp] theorem QueuesSound.take (h : QueuesSound c.queues) {now n : Nat} : QueuesSound (c.take now n).queues :=
  h.upd fun q => by
    dsimp only
    split
    · exact le_rfl
    · split
      · split <;> exact le_rfl
      · exact le_rfl

@[simp] theorem QueuesSound.takePkt (h : QueuesSound c.queues) {now n : Nat} : QueuesSound (c.takePkt now n).queues := by
  simp [Creel.takePkt, h]

@[simp] theorem QueuesSound.giveUp (h : QueuesSound c.queues) {now n : Nat} : QueuesSound (c.giveUp now n).queues := by
  unfold Creel.giveUp
  split <;> simp [h]

@[simp] theorem QueuesSound.cut (h : QueuesSound c.queues) {now n : Nat} : QueuesSound (c.cut now n).queues :=
  h.creelPut (by simp)

@[simp] theorem QueuesSound.dropClosed (h : QueuesSound c.queues) {cfg : Cfg} {now q len : Nat} :
    QueuesSound (c.dropClosed cfg now q len).queues := by
  unfold Creel.dropClosed
  (repeat' split) <;> simp [h]

@[simp] theorem QueuesSound.rewritten (h : QueuesSound c.queues) {k : Nat} : QueuesSound (c.rewritten k).queues := h

@[simp] theorem QueuesSound.handOut (h : QueuesSound c.queues) : QueuesSound c.handOut.2.queues := by simpa using h

/-! ## The Distaff -/

section
variable (d : Distaff)

/-- Every operation of the Distaff that does not write a region leaves the regions. -/
def Distaff.regions (d : Distaff) : List Byte × List Byte × List Byte := (d.fw, d.imgA, d.imgB)

@[simp] theorem Distaff.regions_moveTo (l s : Nat) : (d.moveTo l s).regions = d.regions := rfl

@[simp] theorem Distaff.regions_level : d.level.regions = d.regions := by
  unfold Distaff.level
  dsimp only
  split
  · split <;> rfl
  · rfl

@[simp] theorem Distaff.regions_writeBlock (l : Nat) : (d.writeBlock l).regions = d.regions := by
  have hcounted (d : Distaff) (k : Nat) : ({ d with sinceLevel := k } : Distaff).regions = d.regions := rfl
  unfold Distaff.writeBlock
  split
  · rfl
  · dsimp only
    split
    · simp only [hcounted, regions_level, regions_moveTo]
    · simp only [hcounted, regions_moveTo]

@[simp] theorem Distaff.regions_writeNow (l : Nat) : (d.writeNow l).regions = d.regions := by
  unfold Distaff.writeNow
  dsimp only
  split
  · exact d.regions_writeBlock l
  · exact d.regions_writeBlock l

end

/-- The regions of the Distaff are in canonical form. -/
structure Distaff.Sound (d : Distaff) : Prop where
  fw : trimmed d.fw = true
  imgA : trimmed d.imgA = true
  imgB : trimmed d.imgB = true

section
variable {d : Distaff}

theorem Distaff.Sound.of_regions {d' : Distaff} (h : d.Sound) (hr : d'.regions = d.regions) : d'.Sound := by
  obtain ⟨hf, ha, hb⟩ : d'.fw = d.fw ∧ d'.imgA = d.imgA ∧ d'.imgB = d.imgB := by simpa [Distaff.regions] using hr
  exact ⟨hf ▸ h.fw, ha ▸ h.imgA, hb ▸ h.imgB⟩

theorem Distaff.Sound.writeNow (h : d.Sound) {l : Nat} : (d.writeNow l).Sound := h.of_regions (d.regions_writeNow l)

theorem Distaff.Sound.setRegion (h : d.Sound) {r : Nat} {bs : List Byte} : (d.setRegion r bs).Sound := by
  unfold Distaff.setRegion
  dsimp only
  split
  · exact { h with fw := trimmed_trimZeros bs }
  · split
    · exact { h with imgA := trimmed_trimZeros bs }
    · exact { h with imgB := trimmed_trimZeros bs }

theorem Distaff.Sound.ite {p : Prop} [Decidable p] {d' : Distaff} (h : d.Sound) (h' : d'.Sound) : (if p then d else d').Sound :=
  iteInduction (motive := Distaff.Sound) (fun _ => h) fun _ => h'

theorem Distaff.Sound.storeNow (h : d.Sound) {r b : Nat} {bs : List Byte} : (d.storeNow r b bs).Sound :=
  .ite h.writeNow.setRegion h

theorem Distaff.Sound.writeRegion (h : d.Sound) {w : DistaffWrite} : (d.writeRegion w).Sound :=
  .ite (Distaff.Sound.of_regions h (d.regions_writeBlock _)).setRegion h

end

/-! ## Updates of the engine -/

variable {e : Engine}

theorem Engine.Sound.onCreel (h : e.Sound) {f : Creel → Creel} (hf : QueuesSound (f e.creel).queues) : (e.onCreel f).Sound :=
  { h with queues := hf }

/-! ## Combinators -/

theorem Engine.Sound.ite_fst {c : Prop} [Decidable c] {α : Type} {r r' : Engine × α} (h : r.1.Sound) (h' : r'.1.Sound) :
    (if c then r else r').1.Sound :=
  iteInduction (motive := fun r : Engine × α => r.1.Sound) (fun _ => h) fun _ => h'

theorem Engine.Sound.regions {e : Engine} (h : e.Sound) : e.distaff.Sound := ⟨h.fw, h.imgA, h.imgB⟩

theorem Engine.Sound.withDistaff {e : Engine} (h : e.Sound) {d : Distaff} (hd : d.Sound) : ({ e with distaff := d } : Engine).Sound :=
  { h with fw := hd.fw, imgA := hd.imgA, imgB := hd.imgB }

theorem Engine.Sound.spindled {e : Engine} (h : e.Sound) {v : Vector Spindle 32} (hv : SpindlesSound v) : ({ e with spindles := v } : Engine).Sound :=
  { h with spindles := hv }

@[simp] theorem Job.lostTo_id (x : Job) (r : Nat × Nat) (t : Nat) : (x.lostTo r t).id = x.id := by
  unfold Job.lostTo
  split <;> rfl

@[simp] theorem Job.modStrm_id (x : Job) (o : Opnd) (f : Strm → Strm) : (x.modStrm o f).id = x.id := by cases o <;> rfl

end Sys2Proof.Machine
end

section
/-! PROOFS. The functions of the engine keep it sound: the shared operations, the knots and the placement of tensors. -/

namespace Sys2Proof.Machine

variable {e : Engine}

/-! ## Machine/Flags -/

theorem Engine.Sound.raise (h : e.Sound) {ev : Event} : (e.raise ev).Sound :=
  h.same (by rfl)

theorem Engine.Sound.raiseIf (h : e.Sound) {c : Bool} {ev : Event} : (e.raiseIf c ev).Sound :=
  .ite h.raise h

theorem Engine.Sound.countJobFault (h : e.Sound) : e.countJobFault.Sound :=
  h.same (by rfl)

/-! ## Machine/Ops -/

theorem Engine.Sound.modTick (h : e.Sound) {t : Inp} {f : Tick → Tick} : (e.modTick t f).Sound :=
  h.same (by rfl)

theorem Engine.Sound.modPort (h : e.Sound) {p : Port} {f : LeafPort → LeafPort} : (e.modPort p f).Sound :=
  h.same (by rfl)

theorem Engine.Sound.draw (h : e.Sound) : e.draw.2.Sound :=
  h.same (by rfl)

theorem Engine.Sound.violation (h : e.Sound) {code source info : Nat} : (e.violation code source info).Sound := by
  unfold Engine.violation
  extract_lets fresh
  have hfresh : ∀ e, e.Sound → (fresh e).Sound := fun e h => (h.same (by rfl)).raise
  split
  · exact .ite (h.same (by rfl)) (hfresh _ h)
  · exact hfresh _ h

theorem Engine.Sound.unitBusError (h : e.Sound) {unit : SharedUnit} : (e.unitBusError unit).Sound :=
  (h.same (by rfl)).raise

theorem Engine.Sound.latchUnits (h : e.Sound) : e.latchUnits.Sound :=
  .ite h h.modPort

theorem Engine.Sound.chargePort (h : e.Sound) {p : Port} {c : PortCharge} : (e.chargePort p c).Sound :=
  .ite h h.modPort

theorem Engine.Sound.unitFree (h : e.Sound) {t : UnitTxn} : (e.unitFree t).Sound := by
  unfold Engine.unitFree
  extract_lets e1 e2
  have he1 : e1.Sound := h.chargePort.latchUnits
  have he2 : e2.Sound := he1.same (by rfl)
  split
  · exact he2
  · split
    · exact he2.same (by rfl)
    · exact he2

theorem Engine.Sound.unitIssue (h : e.Sound) {unit : SharedUnit} {write fold : Bool} {a len : Nat} :
    (e.unitIssue unit write fold a len).Sound :=
  .ite h (h.same (by rfl)).latchUnits

theorem Engine.Sound.unitWrite (h : e.Sound) {unit : SharedUnit} {a : Nat} {bs : List Byte} : (e.unitWrite unit a bs).Sound :=
  .ite h (.unitIssue (by exact { h with mem := h.mem.writeBytes }))

theorem Engine.Sound.telPlace (h : e.Sound) {ty : Nat} {body : List Byte} {size : Nat} : (e.telPlace ty body size).Sound :=
  .ite (h.same (by rfl)) (h.unitWrite.same (by rfl))

theorem Engine.Sound.telEntry (h : e.Sound) {ty : Nat} {body : List Byte} : (e.telEntry ty body).Sound := by
  unfold Engine.telEntry
  split
  · exact h.same (by rfl)
  · exact .ite (.ite h.telPlace.telPlace (h.same (by rfl))) h.telPlace

theorem Engine.Sound.eccEntry (h : e.Sound) {code unit row : Nat} {ue : Bool} : (e.eccEntry code unit row ue).Sound :=
  h.telEntry.raiseIf

theorem Engine.Sound.eccCorrected (h : e.Sound) : e.eccCorrected.Sound :=
  h.same (by rfl)

theorem Engine.Sound.whorlFilled (h : e.Sound) {n : Sp} {half halves : Nat} : (e.whorlFilled n half halves).Sound :=
  h.same (by rfl)

theorem Engine.Sound.readRows (h : e.Sound) {rows : List RowAt} {found : Ecc} {ue : Bool} : (e.readRows rows found ue).1.Sound := by
  unfold Engine.readRows
  split
  · exact (h.same (by rfl)).eccEntry
  · exact h.foldl fun _ _ h => (h.same (by rfl)).eccCorrected

/-! ## Machine/Knots -/

theorem Engine.Sound.setKnot (h : e.Sound) {k : Nat} {v : Knot} : (e.setKnot k v).Sound :=
  h.same (by rfl)

theorem Engine.Sound.knotIssue (h : e.Sound) {who : Issuer} {k : Nat} {verb : KnotVerb} {v : Word} : (e.knotIssue who k verb v).Sound :=
  h.same (by rfl)

theorem Engine.Sound.applyKnot (h : e.Sound) {k : Nat} {verb : KnotVerb} {v : Word} : (e.applyKnot k verb v).Sound := by
  unfold Engine.applyKnot
  extract_lets r e1
  have he1 : e1.Sound := h.setKnot
  exact .ite (.raise (he1.same (by rfl))) he1

theorem Engine.Sound.repairKnot (h : e.Sound) {k : Nat} : (e.repairKnot k).Sound :=
  h.setKnot.eccEntry

theorem Engine.Sound.relatch (h : e.Sound) : e.relatch.Sound where
  __ := h
  queues := h.queues.map fun q => by
    split
    · split
      · split <;> rfl
      · rfl
    · rfl

/-! ## Machine/Place -/

theorem Engine.Sound.putByte (h : e.Sound) {l : Loc} {b : Byte} : (e.putByte l b).Sound := by
  unfold Engine.putByte
  split
  · exact h.onSp fun _ h => { h with store := h.store.put }
  · exact { h with bobbin := h.bobbin.put }
  · exact { h with mem := h.mem.put }

theorem Engine.Sound.modTensor (h : e.Sound) {t : Nat} {f : Tensor → Tensor} : (e.modTensor t f).Sound :=
  h.same (by rfl)

theorem Engine.Sound.putAll (h : e.Sound) {a : Addr} {bs : List Byte} : (e.putAll a bs).Sound := by
  induction bs generalizing e a with
  | nil => exact h
  | cons b bs ih => exact ih h.putByte

theorem Engine.Sound.writeAt (h : e.Sound) {a : Addr} {bs : List Byte} : (e.writeAt a bs).Sound := by
  unfold Engine.writeAt
  exact .ite h.putAll (h.putAll.same (by rfl))

theorem Engine.Sound.readSram (h : e.Sound) {a : Addr} {n : Nat} {found : Ecc} : (e.readSram a n found).1.Sound := by
  unfold Engine.readSram
  split
  · exact h
  · exact h.readRows

theorem Engine.Sound.spill (h : e.Sound) {n : Sp} {tensor reason from_ to_ at_ : Nat} {tag : Word} :
    (e.spill n tensor reason from_ to_ at_ tag).Sound :=
  (h.telEntry.modSp fun _ => by rfl).raise

theorem Engine.Sound.placeTensor (h : e.Sound) {n : Sp} {tag : Word} {inst : Option Nat} {t : Nat} : (e.placeTensor n tag inst t).1.Sound := by
  unfold Engine.placeTensor
  extract_lets p x need
  split
  · extract_lets e1
    have he1 : e1.Sound := h.modTensor
    split
    · exact he1
    · exact he1.spill

theorem Engine.Sound.growOnce (h : e.Sound) {n : Sp} {tag : Word} {t : Nat} : (e.growOnce n tag t).1.Sound := by
  unfold Engine.growOnce
  extract_lets p x g lv part
  clear_value lv part
  split
  · exact h
  · dsimp only
    split
    · dsimp only
      exact h.modTensor
    · rename_i run _ _ _ _ _
      clear_value run
      dsimp only
      split
      · exact h.modTensor.spill
      · exact h.modTensor.spill

theorem Engine.Sound.grow (h : e.Sound) {n : Sp} {tag : Word} {t upTo fuel : Nat} {sp : Bool} :
    (e.grow n tag t upTo fuel sp).1.Sound := by
  induction fuel generalizing e sp with
  | zero => exact h
  | succ fuel ih =>
    unfold Engine.grow
    split
    · exact h
    · exact ih h.growOnce

theorem Engine.Sound.freeNow (h : e.Sound) {t : Nat} : (e.freeNow t).Sound :=
  h.modTensor

theorem Engine.Sound.loseWhere (h : e.Sound) {p : Nat → Tensor → Bool} : (e.loseWhere p).Sound :=
  h.same (by rfl)

end Sys2Proof.Machine
end

section
/-! PROOFS. The functions of the engine keep it sound: the jobs. -/

namespace Sys2Proof.Machine

variable {e : Engine}

/-! ## Machine/Jobs -/

theorem Engine.Sound.withJob (h : e.Sound) {n : Sp} {j : Nat} {f : Job → Engine} (hf : ∀ x, (f x).Sound) : (e.withJob n j f).Sound := by
  unfold Engine.withJob
  split
  · exact .ite (hf _) h
  · exact h

theorem Engine.Sound.endLife (h : e.Sound) {t : Nat} : (e.endLife t).Sound :=
  .ite h (.ite h.modTensor h.freeNow)

theorem Engine.Sound.pump (h : e.Sound) {n : Sp} : (e.pump n).Sound :=
  .ite h (h.modSp fun _ => by rfl)

theorem Engine.Sound.issue (h : e.Sound) {n : Sp} {id : Nat} {write : Bool} {purpose : Nat × Nat} {lines : List Nat} :
    (e.issue n id write purpose lines).Sound :=
  .ite h ((h.modSp fun _ => by rfl).pump)

theorem Engine.Sound.putBytes (h : e.Sound) {n : Sp} {a : Addr} {data : List Byte} : (e.putBytes n a data).Sound := by
  unfold Engine.putBytes
  extract_lets below e1 e2
  have he1 : e1.Sound := h.writeAt
  have he2 : e2.Sound := by
    dsimp only [e2]
    split
    · exact he1.modTensor
    · exact he1
  exact he2.modSp fun _ => by rfl

theorem Engine.Sound.putJob (h : e.Sound) {n : Sp} {id : Nat} {purpose : Nat × Nat} {a : Addr} {data : List Byte} :
    (e.putJob n id purpose a data).Sound :=
  (h.putBytes.modJob fun _ => by rfl).issue

theorem Engine.Sound.makeRoom (h : e.Sound) {n : Sp} {tag : Word} {inst : Option Nat} {t upTo : Nat} :
    (e.makeRoom n tag inst t upTo).1.Sound := by
  unfold Engine.makeRoom
  refine .grow ?_
  split
  · exact h
  · exact h.placeTensor

theorem Engine.Sound.lookUp (h : e.Sound) {n : Sp} {t : Nat} : (e.lookUp n t).Sound :=
  .ite h (h.modSp fun _ => by rfl)

theorem Engine.Sound.pushHeld (h : e.Sound) {n : Sp} {id t fuel : Nat} : (e.pushHeld n id t fuel).Sound := by
  induction fuel generalizing e with
  | zero => exact h
  | succ fuel ih =>
    unfold Engine.pushHeld
    split
    · exact h
    · split
      · exact h
      · exact .ite h (.ite (ih ((h.modJob fun _ => by rfl).putJob)) (.ite h (h.same (by rfl))))

theorem Engine.Sound.releaseHeld (h : e.Sound) {n : Sp} {id t : Nat} : (e.releaseHeld n id t).Sound := by
  unfold Engine.releaseHeld
  split
  · exact h.pushHeld
  · exact h

theorem Engine.Sound.lookAt (h : e.Sound) {n : Sp} {a : Addr} : (e.lookAt n a).Sound := by
  unfold Engine.lookAt
  split
  · exact h.lookUp
  · exact h

theorem Engine.Sound.putDuty (h : e.Sound) {n : Sp} {id : Nat} {purpose : Nat × Nat} {a : Addr} {data : List Byte} :
    (e.putDuty n id purpose a data).Sound := by
  unfold Engine.putDuty
  split
  · exact (h.lookUp.modJob fun _ => by rfl).releaseHeld
  · exact h.putJob

theorem Engine.Sound.flushHeld (h : e.Sound) {n : Sp} {id : Nat} : (e.flushHeld n id).Sound := by
  unfold Engine.flushHeld
  split
  · exact h
  · refine .foldl ?_ fun e _ h => ?_
    · have hm := h.modJob (n := n) (id := id) (f := fun x => { x with held := [] }) fun _ => rfl
      exact hm.same (by rfl)
    · exact .putJob (.ite (h.makeRoom.modJob fun _ => by rfl) h.makeRoom)

theorem Engine.Sound.badOut (h : e.Sound) {x : Job} : (e.badOut x).Sound :=
  .ite (by exact { h with queues := h.queues.stopWait.bad.setDrop }) h

theorem Engine.Sound.giveUpIn (h : e.Sound) {x : Job} : (e.giveUpIn x).Sound :=
  .ite (by exact { h with queues := h.queues.giveUp }) h

theorem Engine.Sound.dropTxns (h : e.Sound) {n : Sp} {id : Nat} : (e.dropTxns n id).Sound :=
  h.modSp fun _ => by rfl

theorem Engine.Sound.voidSlot (h : e.Sound) {n : Sp} {x : Job} : (e.voidSlot n x).Sound := by
  unfold Engine.voidSlot
  split
  · exact .ite (.ite (h.modJob fun _ => by rfl) ((h.modJob fun _ => by rfl).putDuty)) h
  · exact h

theorem Engine.Sound.releaseHalf (h : e.Sound) {n : Sp} {on : HalfRead} {down : Bool} : (e.releaseHalf n on down).Sound := by
  unfold Engine.releaseHalf
  split
  · exact h.knotIssue
  · exact h.knotIssue
  · exact h.knotIssue
  · exact h

theorem Engine.Sound.ringDuties (h : e.Sound) {n : Sp} {x : Job} : (e.ringDuties n x).Sound := by
  unfold Engine.ringDuties
  extract_lets e1
  have he1 : e1.Sound := by
    dsimp only [e1]
    split
    · exact h.releaseHalf.releaseHalf
    · exact h
  exact he1.modJob fun _ => by rfl

theorem Engine.Sound.stopSparse (h : e.Sound) {n : Sp} {id : Nat} : (e.stopSparse n id).Sound := by
  unfold Engine.stopSparse
  extract_lets mine tell
  have htell (m : Nat) (s : Spindle) : (tell m s).kept = s.kept := by
    dsimp -zeta only [tell]
    extract_lets held coming
    clear_value held coming
    split
    · split <;> rfl
    · split <;> rfl
  exact h.spindled (.mapFinIdx h.spindles fun _ _ _ hs => hs.of_kept (htell _ _))

theorem Engine.Sound.zeroMagic (h : e.Sound) {n : Sp} {en : Ending} {x : Job} : (e.zeroMagic n en x).Sound := by
  unfold Engine.zeroMagic
  extract_lets put
  have hput : ∀ e p a, e.Sound → (put e p a).Sound := fun e p a h => .ite h h.putDuty
  split
  · exact .ite (hput _ _ _ h) (.ite (hput _ _ _ h) h)
  · split
    · exact .ite (hput _ _ _ h) (.ite (hput _ _ _ h) h)
    · exact h
  · exact h

theorem Engine.Sound.endSideWait (h : e.Sound) {n : Sp} {x : Job} : (e.endSideWait n x).Sound := by
  unfold Engine.endSideWait
  split
  · exact (h.draw.modSp fun _ => by rfl).modJob fun _ => by rfl
  · exact h

theorem Engine.Sound.endHaloWait (h : e.Sound) {n : Sp} {x : Job} : (e.endHaloWait n x).Sound := by
  unfold Engine.endHaloWait
  split
  · exact h.draw.modSp fun _ => by rfl
  · exact h

theorem Engine.Sound.loseParts (h : e.Sound) {n : Sp} {en : Ending} {x : Job} : (e.loseParts n en x).Sound :=
  .ite h.flushHeld.loseWhere h

theorem Engine.Sound.dropBack (h : e.Sound) {n : Sp} {x : Job} : (e.dropBack n x).Sound :=
  .ite (h.foldl fun _ _ h => h.violation.modSp fun _ => by rfl) h

theorem Engine.Sound.stopOne (h : e.Sound) {n : Sp} {en : Ending} {x : Job} : (e.stopOne n en x).Sound := by
  unfold Engine.stopOne
  split
  · exact .ite (((h.dropTxns.modJob fun _ => by rfl).zeroMagic).loseParts) h
  · extract_lets e1 e2 e3 e4 e5
    have he1 : e1.Sound := h.badOut.giveUpIn
    have he2 : e2.Sound := he1.dropTxns
    have he3 : e3.Sound := (he2.same (by rfl)).endSideWait.endHaloWait
    have he4 : e4.Sound := he3.modJob fun _ => by rfl
    have he5 : e5.Sound := (he4.modSp fun _ => by rfl).dropBack
    exact he5.voidSlot.ringDuties.stopSparse.zeroMagic.loseParts

theorem Engine.Sound.memberGone (h : e.Sound) {n : Sp} {d : Desc} : (e.memberGone n d).Sound :=
  .ite h (h.modSp fun s => by split <;> rfl)

theorem Engine.Sound.stopSetOf (h : e.Sound) {n : Sp} {d : Desc} {id : Option Nat} : (e.stopSetOf n d id).Sound :=
  .ite (.ite (h.foldl fun _ _ h => h.stopOne) ((h.foldl fun _ _ h => h.stopOne).modSp fun _ => by rfl)) h

theorem Engine.Sound.stopSet (h : e.Sound) {n : Sp} {x : Job} : (e.stopSet n x).Sound :=
  h.stopSetOf

theorem Engine.Sound.stopJob (h : e.Sound) {n : Sp} {id : Nat} {en : Ending} : (e.stopJob n id en).Sound := by
  unfold Engine.stopJob
  split
  · exact .ite h h.stopOne.stopSet
  · exact h

theorem Engine.Sound.fault (h : e.Sound) {n : Sp} {id code detail where_ : Nat} : (e.fault n id code detail where_).Sound :=
  h.stopJob

theorem Engine.Sound.faultSet (h : e.Sound) {ms : List (Sp × Job)} {code detail : Nat} : (e.faultSet ms code detail).Sound := by
  unfold Engine.faultSet
  extract_lets e1
  have he1 : e1.Sound := by
    dsimp only [e1]
    refine h.foldl fun e a h => ?_
    split
    · exact .ite h h.stopOne
    · exact h
  exact he1.foldl fun _ _ h => h.stopSetOf

theorem Engine.Sound.abort (h : e.Sound) {n : Sp} {id detail : Nat} : (e.abort n id detail).Sound := by
  unfold Engine.abort
  split
  · exact .ite h.stopOne.stopSet h
  · exact h

theorem Engine.Sound.finish (h : e.Sound) {n : Sp} {id : Nat} : (e.finish n id).Sound := by
  unfold Engine.finish
  extract_lets e0
  have he0 : e0.Sound := by
    dsimp only [e0]
    split
    · exact h.endSideWait
    · exact h
  exact he0.modJob fun _ => by rfl

theorem Engine.Sound.skipStarted (h : e.Sound) {n : Sp} {id : Nat} : (e.skipStarted n id).Sound :=
  h.stopJob

theorem Engine.Sound.abortWhere (h : e.Sound) {n : Sp} {detail : Nat} {p : Job → Bool} : (e.abortWhere n detail p).Sound :=
  h.foldl fun _ _ h => h.abort

theorem Engine.Sound.takeBanks (h : e.Sound) {n : Sp} {id k : Nat} : (e.takeBanks n id k).Sound :=
  h.modJob fun _ => by rfl

theorem Engine.Sound.claimFixed (h : e.Sound) {n : Sp} {id k : Nat} : (e.claimFixed n id k).Sound :=
  .ite h (.ite h.fault (.ite (h.modJob fun _ => by rfl) h.takeBanks))

theorem Engine.Sound.takeSpot (h : e.Sound) {n : Sp} {id kind bytes p : Nat} : (e.takeSpot n id kind bytes p).Sound :=
  (h.modJob fun _ => by rfl).spill

theorem Engine.Sound.claimSlice (h : e.Sound) {n : Sp} {id kind bytes : Nat} : (e.claimSlice n id kind bytes).Sound := by
  unfold Engine.claimSlice
  split
  · exact .ite h h.fault
  · split
    · exact h.fault
    · split
      · exact h.takeSpot
      · exact h.fault

theorem Engine.Sound.claimScratch (h : e.Sound) {n : Sp} {id kind bytes : Nat} : (e.claimScratch n id kind bytes).Sound :=
  .ite h.takeSpot h.claimSlice

theorem Engine.Sound.putScratch (h : e.Sound) {n : Sp} {id kind off : Nat} {bs : List Byte} :
    (e.putScratch n id kind off bs).Sound := by
  unfold Engine.putScratch
  split
  · exact h.writeAt.issue
  · exact h

theorem Engine.Sound.claimFlexible (h : e.Sound) {n : Sp} {id kind bytes : Nat} : (e.claimFlexible n id kind bytes).Sound :=
  .ite h (.ite (h.takeBanks.modJob fun _ => by split <;> rfl) h.claimScratch)

theorem Engine.Sound.jobWrite (h : e.Sound) {n : Sp} {id : Nat} {purpose : Nat × Nat} {a : Addr} {data : List Byte} :
    (e.jobWrite n id purpose a data).Sound := by
  unfold Engine.jobWrite
  split
  · exact h
  · split
    · exact h
    · split
      · exact h.fault
      · exact h.putDuty

theorem Engine.Sound.jobRead (h : e.Sound) {n : Sp} {id : Nat} {purpose : Nat × Nat} {a : Addr} {len : Nat} :
    (e.jobRead n id purpose a len).Sound := by
  unfold Engine.jobRead
  split
  · exact h
  · split
    · exact h
    · split
      · exact h.fault
      · split
        · exact .ite (h.lookUp.same (by rfl)) h.lookUp.issue
        · exact h.issue

theorem Engine.Sound.arrive (h : e.Sound) {n : Sp} {x : Job} {purpose : Nat × Nat} {a : Addr} {len : Nat} {row : Ecc} :
    (e.arrive n x purpose a len row).1.Sound := by
  unfold Engine.arrive
  split
  · exact h
  · split
    · exact h
    · extract_lets r
      have hr : r.1.Sound := h.readSram
      split
      · exact hr
      · exact hr

theorem Engine.Sound.onArrive {r : Engine × Arrival} (hr : r.1.Sound) {n : Sp} {x : Job} {at_ : Nat} {f : Engine → List Byte → Engine}
    (hf : ∀ e bs, e.Sound → (f e bs).Sound) : (Engine.onArrive r n x at_ f).Sound := by
  unfold Engine.onArrive
  split
  · exact hr
  · exact hr.fault
  · exact hf _ _ hr

theorem Engine.Sound.beginStage (h : e.Sound) {n : Sp} {id t : Nat} {tag : Word} : (e.beginStage n id t tag).Sound :=
  .ite h (.ite (h.modTensor.issue.modJob fun _ => by rfl) h.modTensor.issue)

theorem Engine.Sound.readStaged (h : e.Sound) {r : PlaceReq} : (e.readStaged r).Sound := by
  unfold Engine.readStaged
  split
  · exact h.issue
  · exact h

theorem Engine.Sound.pushRecords (h : e.Sound) {n : Sp} {t fuel : Nat} : (e.pushRecords n t fuel).Sound := by
  induction fuel generalizing e with
  | zero => exact h
  | succ fuel ih =>
    unfold Engine.pushRecords
    split
    · exact .ite h (.ite (ih (h.modSp fun _ => by rfl).putJob) (.ite h (h.same (by rfl))))
    · exact h

theorem Engine.Sound.releaseRecords (h : e.Sound) {n : Sp} {t : Nat} : (e.releaseRecords n t).Sound :=
  h.pushRecords

theorem Engine.Sound.roomForRecord (h : e.Sound) {r : RingRec} {t upTo : Nat} : (e.roomForRecord r t upTo).Sound := by
  unfold Engine.roomForRecord
  extract_lets o
  split
  · exact .ite (h.makeRoom.modJob fun _ => by rfl) h.makeRoom
  · exact h.makeRoom

theorem Engine.Sound.flushRecords (h : e.Sound) {n : Sp} {p : RingRec → Bool} : (e.flushRecords n p).Sound := by
  unfold Engine.flushRecords
  refine h.foldl fun e a h => ?_
  split
  · exact .ite ((h.roomForRecord.modSp fun _ => by rfl).putJob) h
  · exact h

theorem Engine.Sound.answerRecord (h : e.Sound) {r : PlaceReq} : (e.answerRecord r).Sound := by
  unfold Engine.answerRecord
  extract_lets n
  split
  · exact h.roomForRecord.releaseRecords
  · exact h

theorem Engine.Sound.answerPlace (h : e.Sound) {r : PlaceReq} : (e.answerPlace r).Sound := by
  unfold Engine.answerPlace
  extract_lets n
  split
  · exact h.answerRecord
  · split
    · exact h
    · extract_lets p p2 e3
      have hp2 : p2.1.Sound := by
        dsimp only [p2]
        split
        · exact h.makeRoom
        · split
          · exact h
          · exact h.placeTensor.beginStage
      have he3 : e3.Sound := .ite (hp2.modJob fun _ => by rfl) hp2
      exact he3.releaseHeld.readStaged

end Sys2Proof.Machine
end

section
/-! PROOFS. The functions of the engine keep it sound: the operators of a job. -/

namespace Sys2Proof.Machine

variable {e : Engine}

/-! ## Machine/Expand -/

theorem Engine.Sound.modStrm (h : e.Sound) {n : Sp} {id : Nat} {o : Opnd} {f : Strm → Strm} : (e.modStrm n id o f).Sound :=
  h.modJob fun x => x.modStrm_id o f

theorem Engine.Sound.hankErr (h : e.Sound) {n : Sp} {code detail b : Nat} : (e.hankErr n code detail b).1.Sound := by
  unfold Engine.hankErr
  dsimp only
  exact h.modSp fun _ => by rfl

theorem Engine.Sound.fetchBlock (h : e.Sound) {n : Sp} {x : Job} {o : Opnd} {s : Strm} {hd : HankHdr} {purpose : Nat × Nat} {b : Nat} {row : Ecc} :
    (e.fetchBlock n x o s hd purpose b row).1.Sound := by
  unfold Engine.fetchBlock
  dsimp only
  split
  · exact h.modStrm.jobRead
  · split
    · exact h
    · split
      · split
        · exact h.arrive.modStrm.jobRead
        · exact h.arrive.hankErr
      · exact h.arrive
  · split
    · exact h
    · split
      · split
        · dsimp only
          exact h.arrive.modStrm.modSp fun _ => by rfl
        · exact h.arrive.hankErr
      · exact h.arrive

theorem Engine.Sound.wrappedRead (h : e.Sound) {n : Sp} {x : Job} {o : Opnd} {s : Strm} {hd : HankHdr} {purpose : Nat × Nat}
    {off len beyond : Nat} {row : Ecc} :
    (e.wrappedRead n x o s hd purpose off len beyond row).1.Sound := by
  unfold Engine.wrappedRead
  refine .ite_fst h (.ite_fst h ?_)
  dsimp only
  split
  · exact h.modStrm.fetchBlock
  · exact h.modStrm.modStrm

theorem Engine.Sound.strmRead (h : e.Sound) {n : Sp} {x : Job} {o : Opnd} {purpose : Nat × Nat} {off len beyond : Nat} {row : Ecc} :
    (e.strmRead n x o purpose off len beyond row).1.Sound := by
  unfold Engine.strmRead
  split
  · exact h
  · split
    · exact h.wrappedRead
    · exact h.arrive

theorem Engine.Sound.strmAsk (h : e.Sound) {n : Sp} {x : Job} {o : Opnd} {purpose : Nat × Nat} {off len : Nat} :
    (e.strmAsk n x o purpose off len).Sound := by
  unfold Engine.strmAsk
  split
  · exact h
  · exact .ite h h.jobRead

theorem Engine.Sound.openNext (h : e.Sound) {n : Sp} {id : Nat} : (e.openNext n id).Sound := by
  unfold Engine.openNext
  split
  · exact h
  · extract_lets here ph
    split
    · split
      · exact .ite h (.ite h.fault (.ite h.modStrm.jobRead.jobRead h.modStrm.jobRead))
      · exact h
    · exact h

theorem Engine.Sound.askPayload (h : e.Sound) {n : Sp} {id : Nat} {o : Opnd} : (e.askPayload n id o).Sound := by
  unfold Engine.askPayload
  split
  · exact h
  · split
    · exact h
    · split
      · exact .ite h.modStrm h.modStrm.strmAsk
      · exact h

theorem Engine.Sound.askEntry (h : e.Sound) {n : Sp} {id : Nat} {o : Opnd} : (e.askEntry n id o).Sound := by
  unfold Engine.askEntry
  split
  · exact h
  · split
    · exact h
    · split
      · exact h
      · split
        · split
          · exact h.modStrm.strmAsk
          · exact h
        · exact h

theorem Engine.Sound.readOn (h : e.Sound) {n : Sp} {id : Nat} {o : Opnd} : (e.readOn n id o).Sound := by
  unfold Engine.readOn
  split
  · exact h
  · exact .ite h (.ite h.askEntry ((h.foldl fun _ _ h => h.askPayload).askEntry))

theorem Engine.Sound.countCodes (h : e.Sound) {n : Sp} {c : Nat × Nat} : (e.countCodes n c).Sound :=
  h.modSp fun _ => by rfl

theorem Engine.Sound.countSat (h : e.Sound) {n : Sp} {k : Nat} : (e.countSat n k).Sound :=
  h.modSp fun _ => by rfl

theorem Engine.Sound.feedTile (h : e.Sound) {n : Sp} {x : Job} {s : Strm} {cs : List (Option Nat)} : (e.feedTile n x s cs).Sound :=
  (h.modJob fun _ => by rfl).countSat

theorem Engine.Sound.countSource (h : e.Sound) {n : Sp} {len waited : Nat} : (e.countSource n len waited).Sound :=
  h.modSp fun _ => by rfl

/-! ## Machine/Window -/

theorem Engine.Sound.releaseUnneeded (h : e.Sound) {n : Sp} {x : Job} {b : WindowBlk} {on : SkeinHdr} {w : Window} :
    (e.releaseUnneeded n x b on w).Sound := by
  unfold Engine.releaseUnneeded
  extract_lets ks needs one
  have hone : ∀ e above, e.Sound → (one e above).Sound := fun e above h => .ite h (h.releaseHalf.modJob fun _ => by rfl)
  exact hone _ _ (hone _ _ h)

theorem Engine.Sound.putTap (h : e.Sound) {n : Sp} {id : Nat} {b : WindowBlk} {ws : List FeedWord} : (e.putTap n id b ws).Sound :=
  h.modJob fun _ => by split <;> rfl

theorem Engine.Sound.tapDone (h : e.Sound) {n : Sp} {id : Nat} {b : WindowBlk} {on : SkeinHdr} {ws : List FeedWord} :
    (e.tapDone n id b on ws).Sound := by
  unfold Engine.tapDone
  extract_lets e1
  have he1 : e1.Sound := h.putTap
  split
  · split
    · exact he1.releaseUnneeded
    · exact he1
  · exact he1

theorem Engine.Sound.lineRead (h : e.Sound) {n : Sp} {x : Job} {base : Option Addr} {purpose : Nat × Nat} {off len : Nat} {row : Ecc} :
    (e.lineRead n x base purpose off len row).1.Sound := by
  unfold Engine.lineRead
  split
  · exact h.arrive
  · exact h.strmRead

theorem Engine.Sound.lineAsk (h : e.Sound) {n : Sp} {x : Job} {base : Option Addr} {purpose : Nat × Nat} {off len : Nat} :
    (e.lineAsk n x base purpose off len).Sound := by
  unfold Engine.lineAsk
  split
  · exact h.jobRead
  · exact h.strmAsk

theorem Engine.Sound.lineOn (h : e.Sound) {n : Sp} {id fuel : Nat} : (e.lineOn n id fuel).Sound := by
  induction fuel generalizing e with
  | zero => exact h
  | succ fuel ih =>
    unfold Engine.lineOn
    split
    · exact h
    · split
      · exact h
      · split
        · exact h
        · split
          · exact ih (.ite h.modStrm h.modStrm.lineAsk)
          · split
            · split
              · exact h.modStrm.lineAsk
              · exact h
            · exact h

theorem Engine.Sound.dropReads (h : e.Sound) {n : Sp} {id : Nat} {purpose : Nat × Nat} : (e.dropReads n id purpose).Sound :=
  h.modSp fun _ => by rfl

theorem Engine.Sound.windowNext (h : e.Sound) {n : Sp} {id fuel : Nat} : (e.windowNext n id fuel).Sound := by
  induction fuel generalizing e with
  | zero => exact h
  | succ fuel ih =>
    unfold Engine.windowNext
    split
    · exact h
    · split
      · split
        · exact h
        · split
          · exact .ite h.finish h
          · split
            · exact ih h.tapDone
            · exact h.modJob fun _ => by rfl
            · exact h.lineOn
      · exact h

theorem Engine.Sound.windowFirst (h : e.Sound) {n : Sp} {id : Nat} {b : WindowBlk} : (e.windowFirst n id b).Sound := by
  unfold Engine.windowFirst
  split
  · exact h
  · split
    · exact h
    · extract_lets go
      have hgo : ∀ e, e.Sound → (go e).Sound := fun e h => h.windowNext
      split
      · exact .ite (.ite (hgo _ h) h.fault) (hgo _ h.dropReads.modStrm)
      · exact hgo _ h.dropReads.modStrm

theorem Engine.Sound.windowEntries (h : e.Sound) {n : Sp} {x : Job} {row : Ecc} : (e.windowEntries n x row).Sound := by
  unfold Engine.windowEntries
  split
  · extract_lets i
    split
    · exact h
    · split
      · exact h.lineRead.onArrive fun _ _ h => .ite h.modStrm.lineOn h.fault
      · exact h
  · exact h

theorem Engine.Sound.windowPayload (h : e.Sound) {n : Sp} {x : Job} {row : Ecc} {waited : Nat} : (e.windowPayload n x row waited).Sound := by
  unfold Engine.windowPayload
  split
  · split
    · split
      · exact h
      · extract_lets r
        have hr : r.1.Sound := by
          dsimp only [r]
          split
          · exact h
          · exact h.lineRead
        refine hr.onArrive fun e bs h => ?_
        split
        · exact h.fault
        · exact .ite h.countSource.countCodes.modStrm.lineOn h.countSource.countCodes.modStrm.countSat.tapDone.windowNext
    · exact h
  · exact h

theorem Engine.Sound.windowOpen (h : e.Sound) {n : Sp} {x : Job} {b : WindowBlk} {on : SkeinHdr} : (e.windowOpen n x b on).Sound :=
  .ite ((h.modJob fun _ => by rfl).fault) ((h.modJob fun _ => by rfl).releaseUnneeded)

theorem Engine.Sound.openHalf (h : e.Sound) {n : Sp} {x : Job} {above : Bool} {r : RingDesc} {addr : Nat} {hb : List Byte} :
    (e.openHalf n x above r addr hb).Sound := by
  unfold Engine.openHalf
  split
  · exact .ite h.fault (.ite h.fault (.ite h.fault (.ite h.fault ((h.modJob fun _ => by rfl).windowNext))))
  · exact h

theorem Engine.Sound.readyHalf (h : e.Sound) {n : Sp} {x : Job} : (e.readyHalf n x).Sound := by
  unfold Engine.readyHalf
  split
  · split
    · exact h
    · dsimp only
      split
      · split
        · exact h
        · split
          · exact h.fault
          · exact .ite ((h.modJob fun _ => by rfl).jobRead) h.openHalf
      · exact h.arrive.onArrive fun _ _ h => h.openHalf
      · exact h
  · exact h

theorem Engine.Sound.countHaloWait (h : e.Sound) {n : Sp} {waited : Nat} : (e.countHaloWait n waited).Sound :=
  h.modSp fun _ => by rfl

/-! ## Machine/Draft -/

theorem Engine.Sound.draftWrite (h : e.Sound) {n : Sp} {x : Job} {purpose : Nat × Nat} {off : Nat} {bs : List Byte} :
    (e.draftWrite n x purpose off bs).Sound :=
  .ite h.fault h.jobWrite

theorem Engine.Sound.writeHeader (h : e.Sound) {n : Sp} {x : Job} {b : DraftBlk} {dr : Draft} : (e.writeHeader n x b dr).Sound :=
  (h.modJob fun _ => by rfl).draftWrite

theorem Engine.Sound.draftHead (h : e.Sound) {n : Sp} {id : Nat} : (e.draftHead n id).Sound := by
  unfold Engine.draftHead
  split
  · split
    · exact .ite h.writeHeader h
    · exact h
  · exact h

theorem Engine.Sound.emitTiles (h : e.Sound) {n : Sp} {x : Job} {b : DraftBlk} {fuel : Nat} {dr : Draft} : (e.emitTiles n x b fuel dr).Sound := by
  induction fuel generalizing e dr with
  | zero => exact h
  | succ fuel ih =>
    unfold Engine.emitTiles
    dsimp only
    split
    · exact h
    · split
      · exact ih (h.modJob fun _ => by rfl)
      · have hw {d off bs} : ((e.modJob n x.id fun x => { x with draft := some d }).draftWrite n x wStream off bs).Sound :=
          (h.modJob fun _ => by rfl).draftWrite
        split
        · exact .ite hw (ih hw)
        · exact hw

theorem Engine.Sound.writeHalf (h : e.Sound) {n : Sp} {x : Job} {i : Nat} {on : HalfOut} {round : Nat} {bs : List Byte} :
    (e.writeHalf n x i on round bs).Sound := by
  unfold Engine.writeHalf
  extract_lets a away mark long
  have hmark : ∀ e, e.Sound → (mark e).Sound := fun e h => h.modJob fun _ => by rfl
  split
  · exact h.fault
  · split
    · exact .ite (hmark _ h) h.fault
    · exact .ite (((((hmark _ h).putDuty).putDuty).spill).modJob fun _ => by rfl) ((hmark _ h).putDuty)

theorem Engine.Sound.stageHalves (h : e.Sound) {n : Sp} {id round : Nat} {hs : List HalfOut} : (e.stageHalves n id round hs).Sound := by
  refine List.foldlRecOn (motive := fun a : Engine × Nat => a.1.Sound) hs _ h fun a ha _ _ => ?_
  dsimp only
  split
  · exact ha
  · exact ha.putScratch

theorem Engine.Sound.draftEnd (h : e.Sound) {n : Sp} {id : Nat} : (e.draftEnd n id).Sound := by
  unfold Engine.draftEnd
  split
  · exact h
  · split
    · extract_lets hd
      exact .ite h (.draftHead (.ite ((((h.modSp fun _ => by rfl).modJob fun _ => by rfl).stageHalves).draftWrite)
        (((((h.modSp fun _ => by rfl).modJob fun _ => by rfl).stageHalves).draftWrite).jobWrite)))
    · exact h

theorem Engine.Sound.askSource (h : e.Sound) {n : Sp} {id k : Nat} : (e.askSource n id k).Sound := by
  unfold Engine.askSource
  split
  · exact h
  · split
    · extract_lets len
      split
      · exact h
      · split
        · exact h.jobRead
        · split
          · exact h.issue
          · exact h
    · exact h

theorem Engine.Sound.sourceChunk (h : e.Sound) {n : Sp} {x : Job} {b : DraftBlk} {dr : Draft} {k : Nat} {stored : Bool} {row : Ecc} :
    (e.sourceChunk n x b dr k stored row).1.Sound := by
  unfold Engine.sourceChunk
  extract_lets w len spot bytes r code
  clear_value spot
  have hr : r.1.Sound := by
    dsimp only [r]
    split
    · exact h
    · split
      · exact h.readSram
      · exact h.readRows
  clear_value r
  split
  · exact h.arrive
  · split
    · exact h
    · split
      · exact hr
      · exact hr

theorem Engine.Sound.carded (h : e.Sound) {n : Sp} {id : Nat} : (e.carded n id).Sound := by
  unfold Engine.carded
  split
  · exact h
  · split
    · exact .ite ((h.modJob fun _ => by rfl).jobWrite) h
    · exact h

theorem Engine.Sound.beginDrafting (h : e.Sound) {n : Sp} {id : Nat} {scale : Word} : (e.beginDrafting n id scale).Sound :=
  (h.modJob fun _ => by rfl).askSource

theorem Engine.Sound.countRun (h : e.Sound) {n : Sp} {x : Job} {b : DraftBlk} {dr : Draft} {r : Narrowing} : (e.countRun n x b dr r).Sound := by
  unfold Engine.countRun
  extract_lets e1 e2
  have he1 : e1.Sound := h.modSp fun _ => by rfl
  have he2 : e2.Sound := .ite ((he1.modJob fun _ => by rfl).raise) he1
  exact .ite (((he2.modJob fun _ => by rfl).modSp fun _ => by rfl).raise) he2

theorem Engine.Sound.draftDone (h : e.Sound) {n : Sp} {id : Nat} : (e.draftDone n id).Sound := by
  unfold Engine.draftDone
  split
  · split
    · exact .ite h.finish h
    · exact h
  · exact h

/-! ## Machine/Crop -/

theorem Engine.Sound.cropNext (h : e.Sound) {n : Sp} {id : Nat} : (e.cropNext n id).Sound := by
  unfold Engine.cropNext
  split
  · exact h
  · split
    · split
      · exact h
      · split
        · exact h
        · dsimp only
          split
          · split
            · exact .ite (.ite (h.countSat.modJob fun _ => by rfl) (h.countSat.modJob fun _ => by rfl).fault)
                ((h.countSat.modJob fun _ => by rfl).dropReads).modStrm.strmAsk
            · exact (h.countSat.modJob fun _ => by rfl).modStrm.strmAsk
          · exact .ite ((h.countSat.modJob fun _ => by rfl).modSp fun _ => by rfl) (h.countSat.modJob fun _ => by rfl)
    · exact h

theorem Engine.Sound.cropEntry (h : e.Sound) {n : Sp} {x : Job} {row : Ecc} : (e.cropEntry n x row).Sound := by
  unfold Engine.cropEntry
  split
  · split
    · exact h
    · exact .ite h (h.strmRead.onArrive fun _ _ h => .ite h.fault (.ite h.modStrm h.modStrm.strmAsk))
  · exact h

theorem Engine.Sound.cropPayload (h : e.Sound) {n : Sp} {x : Job} {row : Ecc} {waited : Nat} : (e.cropPayload n x row waited).Sound := by
  unfold Engine.cropPayload
  split
  · split
    · extract_lets r
      have hr : r.1.Sound := by
        dsimp only [r]
        split
        · exact h
        · exact h.strmRead
      refine hr.onArrive fun e bs h => ?_
      split
      · exact h.fault
      · exact (((h.countSource.countCodes.modSp fun _ => by rfl).modJob fun _ => by rfl).modStrm).cropNext
    · exact h
  · exact h

/-! ## Machine/Hank -/

theorem Engine.Sound.trySide (h : e.Sound) {n : Sp} {id : Nat} : (e.trySide n id).Sound := by
  unfold Engine.trySide
  split
  · exact .ite h (.ite (h.modJob fun _ => by rfl) (h.modJob fun _ => by rfl))
  · exact h

theorem Engine.Sound.hankWrite (h : e.Sound) {n : Sp} {x : Job} {b : HankBlk} {purpose : Nat × Nat} {off : Nat} {bs : List Byte} :
    (e.hankWrite n x b purpose off bs).Sound :=
  .ite h.fault h.jobWrite

theorem Engine.Sound.hankEnd (h : e.Sound) {n : Sp} {id : Nat} : (e.hankEnd n id).Sound := by
  unfold Engine.hankEnd
  split
  · split
    · split
      · exact h
      · split
        · exact h.finish
        · extract_lets _ e1
          have he1 : e1.Sound := (h.modJob fun _ => by rfl).hankWrite
          split
          · exact .ite he1 he1.finish
          · exact he1
    · exact h
  · exact h

theorem Engine.Sound.hankFail (h : e.Sound) {n : Sp} {x : Job} {code detail block : Nat} : (e.hankFail n x code detail block).Sound :=
  (h.modSp fun _ => by rfl).fault

theorem Engine.Sound.askBlock (h : e.Sound) {n : Sp} {id : Nat} {b : HankBlk} {k : Nat} : (e.askBlock n id b k).Sound :=
  .ite h.jobRead h

theorem Engine.Sound.hankHeader (h : e.Sound) {n : Sp} {x : Job} {b : HankBlk} : (e.hankHeader n x b).Sound := by
  unfold Engine.hankHeader
  refine h.arrive.onArrive fun e bs h => ?_
  extract_lets hd
  split
  · exact h.hankFail
  · exact .ite h.hankFail (.ite h.fault ((h.modJob fun _ => by rfl).claimFixed))

theorem Engine.Sound.hankEntry (h : e.Sound) {n : Sp} {x : Job} {b : HankBlk} {k : Hank} {on : HankHdr} : (e.hankEntry n x b k on).Sound :=
  .ite h (h.arrive.onArrive fun _ _ h => .ite ((h.modJob fun _ => by rfl).jobRead) (h.modJob fun _ => by rfl))

theorem Engine.Sound.hankAskEntry (h : e.Sound) {n : Sp} {id : Nat} {b : HankBlk} : (e.hankAskEntry n id b).Sound := by
  unfold Engine.hankAskEntry
  split
  · split
    · split
      · exact .ite ((h.modJob fun _ => by rfl).jobRead) h
      · exact h
    · exact h
  · exact h

theorem Engine.Sound.hankAdvance (h : e.Sound) {n : Sp} {id : Nat} : (e.hankAdvance n id).Sound := by
  unfold Engine.hankAdvance
  split
  · split
    · split
      · exact h
      · extract_lets e1
        have he1 : e1.Sound := by
          dsimp only [e1]
          split
          · exact h.hankHeader
          · exact h.hankEntry
        exact he1.hankAskEntry
    · exact h
  · exact h

theorem Engine.Sound.hankBegin (h : e.Sound) {n : Sp} {id : Nat} : (e.hankBegin n id).Sound := by
  unfold Engine.hankBegin
  split
  · split
    · exact .ite h (.ite ((((h.modJob fun _ => by rfl).askBlock).askBlock).hankWrite) ((h.modJob fun _ => by rfl).jobRead))
    · exact h
  · exact h

theorem Engine.Sound.hankClose (h : e.Sound) {n : Sp} {id : Nat} {b : HankBlk} : (e.hankClose n id b).Sound := by
  unfold Engine.hankClose
  split
  · split
    · split
      · exact h
      · extract_lets t table e1
        have he1 : e1.Sound := h.hankWrite
        split
        · exact .ite he1 ((he1.modJob fun _ => by rfl).hankEnd)
        · exact he1
    · exact h
  · exact h

/-! ## Machine/PlyArr -/

theorem Job.plyPlan_id (x : Job) : x.plyPlan.id = x.id := by
  unfold Job.plyPlan
  split
  · split <;> rfl
  · rfl

theorem Engine.Sound.plyOn (h : e.Sound) {n : Sp} {id : Nat} : (e.plyOn n id).Sound :=
  (h.modJob Job.plyPlan_id).readOn.readOn

theorem Engine.Sound.fillBank (h : e.Sound) {n : Sp} {x : Job} {p : Ply} {a w : Strm} : (e.fillBank n x p a w).Sound :=
  .ite h ((h.whorlFilled.modJob fun _ => by rfl).plyOn)

theorem Engine.Sound.readBank (h : e.Sound) {n : Sp} {x : Job} {p : Ply} {a w : Strm} : (e.readBank n x p a w).Sound := by
  unfold Engine.readBank
  split
  · exact h
  · split
    · exact h
    · exact (h.modJob fun _ => by rfl).plyOn

end Sys2Proof.Machine
end

section
/-! PROOFS. The functions of the engine keep it sound: the sparse merge and the streams. -/

namespace Sys2Proof.Machine

variable {e : Engine}

/-! ## Machine/Sparse -/

theorem Spindle.kept_foldl {α : Type} {f : Spindle → α → Spindle} (hf : ∀ s a, (f s a).kept = s.kept) (as : List α) (s : Spindle) :
    (as.foldl f s).kept = s.kept :=
  List.foldlRecOn (motive := fun t => t.kept = s.kept) as f rfl fun t ht a _ => (hf t a).trans ht

theorem Engine.Sound.openGroups (h : e.Sound) {n : Sp} {id : Nat} {c : MergeCtx} {fuel : Nat} : (e.openGroups n id c fuel).Sound := by
  induction fuel generalizing e with
  | zero => exact h
  | succ fuel ih =>
    unfold Engine.openGroups
    split
    · exact h
    · split
      · exact h
      · exact .ite h (ih ((h.modJob fun _ => by rfl).modSp (Spindle.kept_foldl (fun _ _ => by rfl) _)))

theorem Engine.Sound.regainLanes (h : e.Sound) {n : Sp} {x : Job} : (e.regainLanes n x).Sound := by
  unfold Engine.regainLanes
  split
  · exact (h.modSp fun _ => by rfl).modJob fun _ => by rfl
  · exact h

theorem Engine.Sound.takeLanes (h : e.Sound) {n : Sp} : (e.takeLanes n).Sound := by
  unfold Engine.takeLanes
  split
  · exact h
  · split
    · exact (h.modSp fun _ => by rfl).openGroups
    · exact h

theorem Engine.Sound.kickSparse (h : e.Sound) {n : Sp} : (e.kickSparse n).Sound := by
  unfold Engine.kickSparse
  split
  · exact h
  · split
    · exact h.regainLanes
    · exact h.takeLanes

-- NOENG Sys2Proof.Machine.Engine.onArrive

theorem Engine.Sound.checkNep (h : e.Sound) {n : Sp} {id : Nat} : (e.checkNep n id).Sound := by
  unfold Engine.checkNep
  split
  · exact .ite ((h.modJob fun _ => by rfl).raise) h
  · exact h

theorem Engine.Sound.writeRecord (h : e.Sound) {n : Sp} {c : MergeCtx} {k : Nat} {bs : List Byte} : (e.writeRecord n c k bs).Sound := by
  unfold Engine.writeRecord
  extract_lets a o add
  have hadd : ∀ held, (add held).Sound := fun held => h.modSp fun _ => by rfl
  split
  · exact (hadd _).fault
  · exact ((hadd _).lookUp).releaseRecords
  · exact (hadd _).putJob

theorem Engine.Sound.thiefIdle (h : e.Sound) {n : Sp} : (e.thiefIdle n).Sound := by
  unfold Engine.thiefIdle
  split
  · exact .ite ((h.modSp fun _ => by rfl).kickSparse) h
  · exact h

theorem Engine.Sound.voidRecords (h : e.Sound) {n : Sp} {c : MergeCtx} {segs : List (Nat × Seg)} : (e.voidRecords n c segs).Sound :=
  h.foldl fun _ _ h => h.writeRecord

theorem Engine.Sound.dropThief (h : e.Sound) {n : Sp} : (e.dropThief n).Sound :=
  h.modSp fun _ => by rfl

theorem Engine.Sound.stopRing (h : e.Sound) {n : Sp} {p : MergeCtx → Bool} : (e.stopRing n p).Sound := by
  unfold Engine.stopRing
  extract_lets e1 e2
  have he1 : e1.Sound := by
    dsimp only [e1]
    split
    · exact .ite (h.dropThief.voidRecords.modSp fun _ => by rfl) h
    · exact h
  have he2 : e2.Sound := by
    dsimp only [e2]
    split
    · exact .ite (he1.voidRecords.modSp fun _ => by rfl) he1
    · exact he1
  exact he2.kickSparse

theorem Engine.Sound.thiefAsk (h : e.Sound) {n : Sp} {l : Nat} {op : Strm} {pieces : List (Nat × Nat)} : (e.thiefAsk n l op pieces).Sound :=
  .ite (h.modSp fun _ => by rfl) (h.foldl fun _ _ h => h.lookAt.issue)

theorem Engine.Sound.thiefStep (h : e.Sound) {n : Sp} {c : MergeCtx} {l : Nat} {g : Seg} : (e.thiefStep n c l g).Sound := by
  unfold Engine.thiefStep
  extract_lets r put fail isA op row have_ setRow t0 tiles ranges ask next p len es get one
  have hput (e : Engine) (f : SegRead → SegRead) (h : e.Sound) : (put e f).Sound := h.modSp fun _ => by rfl
  clear_value put es
  have hask (e : Engine) (op : Strm) (row stage : Nat) (h : e.Sound) : (ask e op row stage).Sound := (hput _ _ h).thiefAsk
  clear_value ask
  have hnext (e : Engine) (h : e.Sound) : (next e).Sound := .ite (hask _ _ _ _ h) (hput _ _ h)
  clear_value next
  split
  · exact hput _ _ h
  · split
    · exact hask _ _ _ _ h
    · split
      · extract_lets w askIdx allKnown
        have haskIdx (e : Engine) (p0 len : Nat) (known : List (Nat × Nat)) (h : e.Sound) : (askIdx e p0 len known).Sound := by
          dsimp only [askIdx]
          split
          · exact h.thiefAsk
          · exact h
        have hallKnown (e : Engine) (known : List (Nat × Nat)) (h : e.Sound) : (allKnown e known).Sound := (hput _ _ h).thiefAsk
        clear_value askIdx allKnown
        split
        · exact .ite (hput _ _ h) (haskIdx _ _ _ _ (hput _ _ h))
        · split
          · split
            · exact hallKnown _ _ h
            · exact .ite (haskIdx _ _ _ _ (hput _ _ h).countSource) (hallKnown _ _ (hput _ _ h).countSource)
          · exact hnext _ (hput _ _ h).countSource
      · split
        · exact .ite (hput _ _ h) (hput _ _ h).thiefAsk
        · split
          · exact hput _ _ h
          · exact hnext _ (hput _ _ h).countSource

theorem Engine.Sound.thiefLane (h : e.Sound) {n : Sp} {l fuel : Nat} : (e.thiefLane n l fuel).Sound := by
  induction fuel generalizing e with
  | zero => exact h
  | succ fuel ih =>
    unfold Engine.thiefLane
    split
    · exact .ite h (ih h.thiefStep)
    · exact h

theorem Engine.Sound.thiefAdvance (h : e.Sound) {n : Sp} : (e.thiefAdvance n).Sound :=
  h.foldl fun _ _ h => h.thiefLane

theorem Engine.Sound.countSlice (h : e.Sound) {n : Sp} {c : MergeCtx} {r : SliceRun} : (e.countSlice n c r).Sound :=
  h.countCodes.countCodes

theorem Engine.Sound.mergeDone (h : e.Sound) {n : Sp} {l : Nat} : (e.mergeDone n l).Sound := by
  unfold Engine.mergeDone
  split
  · dsimp only
    have hrun {g : Spindle → Spindle} (hg : ∀ s, (g s).kept = s.kept) {c run} : ((e.modSp n g).countSlice n c run).Sound :=
      (h.modSp hg).countSlice
    split
    · split
      · exact (((hrun fun _ => by rfl).modSp fun _ => by rfl).modJob fun _ => by rfl).checkNep.fault
      · exact (((hrun fun _ => by rfl).modSp fun _ => by rfl).modJob fun _ => by rfl).checkNep.fault
      · exact (((hrun fun _ => by rfl).modSp fun _ => by rfl).modJob fun _ => by rfl).checkNep
    · exact ((hrun fun _ => by rfl).modSp fun _ => by rfl).writeRecord.thiefAdvance.thiefIdle
  · exact h

theorem Engine.Sound.fillRow (h : e.Sound) {n : Sp} : (e.fillRow n).Sound := by
  unfold Engine.fillRow
  split
  · split
    · exact .ite ((h.whorlFilled.modSp fun _ => by rfl).countCodes) h
    · exact h
  · exact h

theorem Engine.Sound.askRow (h : e.Sound) {n : Sp} {id : Nat} {o : Opnd} : (e.askRow n id o).Sound := by
  unfold Engine.askRow
  split
  · exact h
  · split
    · split
      · split
        · exact h
        · extract_lets r
          split
          · split
            · split
              · exact h.strmAsk
              · exact h
            · split
              · split
                · exact h.strmAsk
              · exact h
      · exact h
    · exact h

theorem Engine.Sound.sparseOn (h : e.Sound) {n : Sp} {id : Nat} : (e.sparseOn n id).Sound := by
  unfold Engine.sparseOn
  split
  · exact h
  · split
    · exact .kickSparse (.ite h (.ite h.modStrm.askRow h.modStrm.readOn))
    · exact h

theorem Engine.Sound.placeRuns (h : e.Sound) {n : Sp} {id : Nat} {row : List (Nat × Nat)} : (e.placeRuns n id row).Sound := by
  unfold Engine.placeRuns
  refine h.foldl fun e a h => ?_
  dsimp only
  split
  · exact h
  · split
    · exact h.claimSlice
    · split
      · exact h.claimSlice.putScratch.issue
      · exact h.claimSlice.putScratch

theorem Engine.Sound.ringDecide (h : e.Sound) {n m : Sp} : (e.ringDecide n m).Sound := by
  unfold Engine.ringDecide
  extract_lets v refuse
  have hrefuse : refuse.Sound := h.modSp fun _ => by rfl
  split
  · exact hrefuse
  · split
    · extract_lets granted own k
      exact .ite hrefuse (.thiefIdle (.modSp (.ite ((h.modSp fun _ => by rfl).modJob fun _ => by rfl) (h.modSp fun _ => by rfl)) fun _ => by rfl))

theorem Engine.Sound.reduceOutput (h : e.Sound) {n : Sp} {x : Job} {sp : Sparse} {c : MergeCtx} {o : Nat} : (e.reduceOutput n x sp c o).Sound := by
  unfold Engine.reduceOutput
  extract_lets recs flag nep e1
  have he1 : e1.Sound := (h.modJob fun _ => by rfl).checkNep
  split
  · exact he1.fault
  · exact (he1.modSp fun _ => by rfl).modJob fun _ => by rfl

theorem Engine.Sound.reduceOn (h : e.Sound) {n : Sp} {id o : Nat} : (e.reduceOn n id o).Sound := by
  unfold Engine.reduceOn
  split
  · split
    · dsimp only
      split
      · exact h
      · split
        · exact h.reduceOutput
        · split
          · exact h
          · split
            · exact h.fault
            · exact .ite (.foldl (h.modJob fun _ => by rfl) fun _ _ h => h.lookAt.issue)
                (.reduceOutput (.foldl (h.modJob fun _ => by rfl) fun _ _ h => h.lookAt.issue))
    · exact h
  · exact h

/-! ## Machine/Streams -/

theorem Engine.Sound.enterStream (h : e.Sound) {n : Sp} {id : Nat} {o : Opnd} : (e.enterStream n id o).Sound := by
  unfold Engine.enterStream
  split
  · exact h
  · split
    · exact h
    · extract_lets e1
      have he1 : e1.Sound := h.modStrm
      split
      · split
        · exact he1.strmAsk
        · exact he1.askEntry
      · exact he1

theorem Engine.Sound.formChecks (h : e.Sound) {n : Sp} {x : Job} {s : Strm} : (e.formChecks n x s).Sound := by
  unfold Engine.formChecks
  split
  · split
    · exact h.windowOpen
    · exact h
  · exact .ite h.fault h.claimFixed
  · exact h

theorem Engine.Sound.headerPassed (h : e.Sound) {n : Sp} {x : Job} {o : Opnd} {s : Strm} : (e.headerPassed n x o s).Sound :=
  .ite h.modStrm.fault (.ite h.modStrm.faultSet (.ite h.modStrm.fault h.modStrm.formChecks.enterStream))

theorem Engine.Sound.header (h : e.Sound) {n : Sp} {x : Job} {o : Opnd} {s : Strm} {hb : List Byte} : (e.header n x o s hb).Sound :=
  .ite (.ite h.fault h.headerPassed) (.ite h.fault h.headerPassed)

theorem Engine.Sound.openWrapped (h : e.Sound) {n : Sp} {x : Job} {o : Opnd} {hb : List Byte} : (e.openWrapped n x o hb).Sound := by
  unfold Engine.openWrapped
  split
  · exact h.hankFail
  · exact .ite h.abort (((h.modStrm.modJob fun _ => by rfl).trySide).claimFixed)

theorem Engine.Sound.listPtrs (h : e.Sound) {n : Sp} {x : Job} {o : Opnd} {l : ListHdr} {row : Ecc} : (e.listPtrs n x o l row).Sound :=
  h.strmRead.onArrive fun _ _ h => .ite h.fault h.modStrm.claimFixed.askRow

theorem Engine.Sound.nextEntry (h : e.Sound) {n : Sp} {x : Job} {o : Opnd} {s : Strm} {row : Ecc} : (e.nextEntry n x o s row).Sound := by
  unfold Engine.nextEntry
  extract_lets i
  split
  · exact h
  · exact .ite h (h.strmRead.onArrive fun _ _ h => .ite h.fault h.modStrm.readOn)

theorem Engine.Sound.firstEntry (h : e.Sound) {n : Sp} {x : Job} {o : Opnd} {s : Strm} {row : Ecc} : (e.firstEntry n x o s row).Sound :=
  h.strmRead.onArrive fun _ _ h => .ite h.modStrm h.modStrm.strmAsk

theorem Engine.Sound.flexClaims (h : e.Sound) {n : Sp} {x : Job} : (e.flexClaims n x).Sound :=
  h.claimFlexible.claimFlexible

theorem Engine.Sound.draftZero (h : e.Sound) {n : Sp} {x : Job} : (e.draftZero n x).Sound :=
  h.draftWrite.modJob fun _ => by rfl

theorem Engine.Sound.bothOpen (h : e.Sound) {n : Sp} {id : Nat} : (e.bothOpen n id).Sound := by
  unfold Engine.bothOpen
  split
  · exact h
  · split
    · split
      · exact h
      · split
        · exact h.fault
        · extract_lets e1 e2 e3
          have he1 : e1.Sound := h.modJob fun _ => by rfl
          have he2 : e2.Sound := he1.flexClaims
          have he3 : e3.Sound := .ite he2.draftZero he2
          exact .ite he3.plyOn he3.sparseOn
    · exact h

theorem Engine.Sound.tileDecoded (h : e.Sound) {n : Sp} {x : Job} {o : Opnd} {s : Strm} {t : Nat} {cs : List (Option Nat)} :
    (e.tileDecoded n x o s t cs).Sound := by
  unfold Engine.tileDecoded
  extract_lets next
  split
  · exact h.feedTile.modStrm.readOn
  · exact h.modStrm.readOn.sparseOn
  · exact h.modStrm.plyOn

theorem Engine.Sound.nextTile (h : e.Sound) {n : Sp} {x : Job} {o : Opnd} {s : Strm} {row : Ecc} {waited : Nat} :
    (e.nextTile n x o s row waited).Sound := by
  unfold Engine.nextTile
  split
  · split
    · exact h
    · extract_lets r
      have hr : r.1.Sound := by
        dsimp only [r]
        split
        · exact h
        · exact h.strmRead
      refine hr.onArrive fun e bs h => ?_
      split
      · exact h.fault
      · exact .tileDecoded (.ite h.countSource h.countSource.countCodes)
  · exact h

theorem Engine.Sound.nextRow (h : e.Sound) {n : Sp} {x : Job} {o : Opnd} {s : Strm} {l : ListHdr} {row : Ecc} {waited : Nat} :
    (e.nextRow n x o s l row waited).Sound := by
  unfold Engine.nextRow
  split
  · exact h
  · dsimp only
    split
    · split
      · exact h.modStrm.askRow.sparseOn
      · refine h.strmRead.onArrive fun e bs h => .ite h.countSource.modStrm.askRow ?_
        split
        · exact h.countSource.modStrm.modStrm.askRow.sparseOn
        · exact h.countSource.modStrm.modStrm.askRow
    · split
      · exact h.modStrm.askRow.sparseOn
      · exact h.strmRead.onArrive fun e bs h => .ite h.countSource.modStrm.askRow h.countSource.modStrm.askRow.sparseOn

theorem Engine.Sound.drainWords (h : e.Sound) {n : Sp} {id : Nat} {ws : List Word} {last : Bool} : (e.drainWords n id ws last).Sound :=
  h.modJob fun _ => by rfl

theorem Engine.Sound.drainPly (h : e.Sound) {n : Sp} {x : Job} {p : Ply} {a w : Strm} : (e.drainPly n x p a w).Sound := by
  unfold Engine.drainPly
  split
  · exact .ite (.ite (((h.modJob fun _ => by rfl).drainWords).kickSparse) ((h.modJob fun _ => by rfl).drainWords)) h
  · exact h

theorem Engine.Sound.drainSparse (h : e.Sound) {n : Sp} {x : Job} {sp : Sparse} {c : MergeCtx} : (e.drainSparse n x sp c).Sound := by
  unfold Engine.drainSparse
  extract_lets outs os val
  exact .ite h (.ite ((((h.modJob fun _ => by rfl).drainWords).modSp fun _ => by rfl).kickSparse)
    (((h.modJob fun _ => by rfl).drainWords).openGroups))

/-! ## Machine/Records -/

theorem Engine.Sound.yield_ (h : e.Sound) {y : Yield} : (e.yield_ y).Sound := by
  unfold Engine.yield_
  extract_lets key _ e1 e2
  have he2 : e2.Sound := .telEntry (h.same (by rfl))
  exact .ite he2 (.raise (he2.same (by rfl)))

theorem Engine.Sound.post (h : e.Sound) {n : Sp} {r : CompRec} : (e.post n r).Sound := by
  unfold Engine.post
  exact Engine.Sound.modSp (h.same (by rfl)) fun _ => by rfl

/-! ## Machine/Frames -/

theorem Engine.Sound.closeIngest (h : e.Sound) {n : Sp} {x : Job} {lines : Nat} : (e.closeIngest n x lines).Sound := by
  unfold Engine.closeIngest
  split
  · exact h.skipStarted
  · extract_lets e1
    have he1 : e1.Sound := h.modJob fun _ => by rfl
    split
    · split
      · exact .ite he1 he1.emitTiles.carded.draftEnd
      · exact he1
    · exact he1

theorem Engine.Sound.descsGone (h : e.Sound) {q : Nat} {ps : List Pkt} : (e.descsGone q ps).Sound :=
  .ite h (h.foldl fun _ _ h => .ite h.memberGone h)

theorem Engine.Sound.skipWaiting (h : e.Sound) {t : Inp} {empty : Nat → Bool} : (e.skipWaiting t empty).Sound := by
  unfold Engine.skipWaiting
  extract_lets cfg
  exact h.foldl fun _ _ h => .ite h (.ite h (.descsGone (.foldl (by exact { h with queues := h.queues.upd fun _ => by simp }) fun _ _ h => h.post)))

theorem Engine.Sound.giveUpLine (h : e.Sound) {q : Nat} : (e.giveUpLine q).Sound := by
  unfold Engine.giveUpLine
  split
  · exact h
  · split
    · exact h
    · extract_lets alone e1
      have he1 : e1.Sound := { h with queues := h.queues.upd fun _ => le_rfl }
      split
      · exact { he1 with spindles := he1.spindles.map fun s => s.kept_mapJobs fun x => by split <;> rfl }
      · exact he1

theorem Engine.Sound.closeFrame (h : e.Sound) {t : Inp} : (e.closeFrame t).Sound := by
  unfold Engine.closeFrame
  extract_lets f
  exact .ite h (.ite (((h.modTick.raiseIf.foldl fun _ _ h => h.giveUpLine).foldl fun _ _ h => h.foldl fun _ _ h => h.closeIngest).skipWaiting)
    ((h.modTick.raiseIf.foldl fun _ _ h => h.giveUpLine).foldl fun _ _ h => h.foldl fun _ _ h => h.closeIngest))

theorem Engine.Sound.dropLine (h : e.Sound) {t : Inp} {q : Nat} : (e.dropLine t q).Sound :=
  .raiseIf (.modTick (by exact { h with queues := h.queues.dropLast }))

theorem Engine.Sound.countLine (h : e.Sound) {t : Inp} {k : Nat} : (e.countLine t k).Sound :=
  .ite h.modTick.closeFrame h.modTick

theorem Engine.Sound.commitPkt (h : e.Sound) {q : Nat} {poison trunc : Bool} : (e.commitPkt q poison trunc).Sound := by
  unfold Engine.commitPkt
  split
  · exact h
  · extract_lets shut
    have hshut : ∀ e, e.Sound → (shut e).Sound := fun e h => { h with queues := h.queues.close }
    split
    · exact hshut _ h
    · exact .ite ((hshut _ h).countLine) (.ite h.dropLine (hshut _ h))

end Sys2Proof.Machine
end

section
/-! PROOFS. The functions of the engine keep it sound: the queues, the Feed links, and the start and switch of jobs. -/

namespace Sys2Proof.Machine

variable {e : Engine}

/-! ## Machine/Queues -/

theorem Engine.Sound.cellLost (h : e.Sound) {cell : Nat} {link ue : Bool} : (e.cellLost cell link ue).Sound :=
  (h.onCreel h.queues).eccEntry

theorem Engine.Sound.cellFixed (h : e.Sound) {cell : Nat} : (e.cellFixed cell).Sound :=
  (h.onCreel h.queues).eccCorrected

theorem Engine.Sound.qAppend (h : e.Sound) {q : Nat} {bs : List Byte} : (e.qAppend q bs).1.Sound := by
  unfold Engine.qAppend
  split
  · dsimp only
    exact h.onCreel h.queues.dropClosed
  · exact { h with queues := h.queues.append }

theorem Engine.Sound.qBad (h : e.Sound) {q : Nat} : (e.qBad q).Sound := by
  unfold Engine.qBad
  split
  · exact .ite (h.onCreel h.queues.bad) (h.commitPkt.onCreel h.commitPkt.queues)
  · exact h.onCreel h.queues.bad

theorem Engine.Sound.qEnd (h : e.Sound) {q : Nat} : (e.qEnd q).Sound :=
  .ite (h.qBad.onCreel h.qBad.queues.setDrop) (.ite (h.onCreel h.queues.setDrop) (.ite (h.onCreel h.queues.flush) h.commitPkt))

theorem Engine.Sound.qDropRest (h : e.Sound) {q : Nat} {ends : Bool} : (e.qDropRest q ends).Sound :=
  h.onCreel h.queues.setDrop

theorem Engine.Sound.qAbort (h : e.Sound) {q : Nat} : (e.qAbort q).Sound :=
  .ite (h.qBad.onCreel h.qBad.queues.setDrop) (.ite (h.onCreel h.queues.setDrop) h.qBad)

theorem Engine.Sound.qOver (h : e.Sound) {q : Nat} {ends : Bool} : (e.qOver q ends).Sound :=
  (h.commitPkt.onCreel h.commitPkt.queues).qDropRest

theorem Engine.Sound.qWait (h : e.Sound) {q : Nat} {w : CellWait} : (e.qWait q w).Sound :=
  h.onCreel h.queues.beginWait

theorem Engine.Sound.qResume (h : e.Sound) {q : Nat} : (e.qResume q).Sound :=
  h.onCreel h.queues.stopWait

theorem Engine.Sound.qFull (h : e.Sound) {q : Nat} {ends : Bool} : (e.qFull q ends).Sound :=
  (h.qBad.qDropRest.onCreel h.qBad.qDropRest.queues).raise

theorem Engine.Sound.portResp (h : e.Sound) {p : Port} {r : Option AxiResp} : (e.portResp p r).Sound :=
  h.modPort

theorem Engine.Sound.portViolation (h : e.Sound) {p : Port} {code q : Nat} : (e.portViolation p code q).Sound :=
  h.violation.portResp

theorem Engine.Sound.portPut (h : e.Sound) {p : Port} {q : Nat} {bs : List Byte} {beats : Nat} {ends : Bool} :
    (e.portPut p q bs beats ends).Sound := by
  unfold Engine.portPut
  split
  · exact h.qWait.portResp
  · extract_lets r
    have hr : r.1.Sound := h.qAppend
    split
    · exact .portResp (.ite hr.qEnd hr)
    · exact hr.qOver.violation.portResp
    · exact .ite hr.qFull.portResp hr.qWait.portResp

theorem Engine.Sound.portServe (h : e.Sound) {w : PortWrite} : (e.portServe w).Sound :=
  .ite h.portViolation (.ite h.portViolation (.ite h.portViolation (.ite h.qAbort.portResp h.portPut)))

theorem Engine.Sound.portDo (h : e.Sound) {w : PortWrite} : (e.portDo w).Sound :=
  h.modPort.portServe

theorem Engine.Sound.portWrite (h : e.Sound) {w : PortWrite} {region : Nat} : (e.portWrite w region).Sound :=
  .ite h (.ite h.modPort h.portDo)

theorem Engine.Sound.portNext (h : e.Sound) {p : Port} {fuel : Nat} : (e.portNext p fuel).Sound := by
  induction fuel generalizing e with
  | zero => exact h
  | succ fuel ih =>
    unfold Engine.portNext
    split
    · exact h
    · exact .ite h (ih h.modPort.portDo)

theorem Engine.Sound.portOn (h : e.Sound) {p : Port} : (e.portOn p).Sound :=
  h.portNext

theorem Engine.Sound.readCell (h : e.Sound) {q : Nat} {cell : CellEcc} : (e.readCell q cell).1.Sound := by
  unfold Engine.readCell
  split
  · exact h
  · split <;> dsimp only
    · exact h.onCreel h.queues.take
    · exact h.cellFixed.onCreel h.cellFixed.queues.take
    · exact h.cellLost.onCreel h.cellLost.queues.take
    · exact h.cellLost.onCreel h.cellLost.queues.cut

theorem Engine.Sound.portReadServe (h : e.Sound) {r : PortRead} {cell : CellEcc} : (e.portReadServe r cell).Sound :=
  .ite h.portViolation (.ite h.portViolation (.ite h.portViolation (.ite h.portViolation h.readCell.modPort)))

theorem Engine.Sound.flyerPut (h : e.Sound) {q : Nat} {bs : List Byte} {ends : Bool} : (e.flyerPut q bs ends).Sound := by
  unfold Engine.flyerPut
  extract_lets r
  have hr : r.1.Sound := h.qAppend
  split
  · exact .ite hr.qEnd hr
  · exact hr.qOver
  · exact .ite hr.qFull hr.qWait

theorem Engine.Sound.resumeReads (h : e.Sound) {n : Sp} {id : Nat} : (e.resumeReads n id).Sound := by
  unfold Engine.resumeReads
  split
  · split
    · exact h.readOn
    · exact h.lineOn
    · exact h.cropNext
    · exact h
  · exact h

theorem Engine.Sound.afterWord (h : e.Sound) {n : Sp} {id : Nat} : (e.afterWord n id).Sound := by
  unfold Engine.afterWord
  split
  · exact h
  · split
    · exact h
    · extract_lets e1
      have he1 : e1.Sound := .ite (.ite h h.finish) h.resumeReads
      split
      · exact .ite he1 he1.resumeReads
      · exact he1

theorem Engine.Sound.popWord (h : e.Sound) {n : Sp} {id bytes : Nat} : (e.popWord n id bytes).Sound :=
  (h.modJob fun _ => by rfl).modSp fun _ => by rfl

theorem Engine.Sound.jobPut (h : e.Sound) {n : Sp} {id q : Nat} {bs : List Byte} {ends : Bool} : (e.jobPut n id q bs ends).Sound := by
  unfold Engine.jobPut
  extract_lets r
  have hr : r.1.Sound := h.qAppend
  split
  · exact .afterWord (.ite hr.qEnd hr)
  · exact hr.qBad.fault
  · exact hr.qWait

theorem Engine.Sound.regPut (h : e.Sound) {q : Nat} {bs : List Byte} {ends : Bool} : (e.regPut q bs ends).1.Sound := by
  unfold Engine.regPut
  extract_lets r
  have hr : r.1.Sound := h.qAppend
  split
  · exact .ite hr.qEnd hr
  · exact hr.qOver
  · exact h

theorem Engine.Sound.endWait (h : e.Sound) {q : Nat} {w : CellWait} {long : Bool} : (e.endWait q w long).Sound := by
  unfold Engine.endWait
  extract_lets e1 p put
  have he1 : e1.Sound := h.qResume
  have hput : ∀ e, e.Sound → (put e).Sound := fun e h => .ite h.qOver (.ite h.qEnd h)
  split
  · exact .portOn (.portResp (.ite ((hput _ he1).violation) (hput _ he1)))
  · split
    · split
      · exact .ite h.fault ((hput _ he1).afterWord)
      · exact he1
    · exact .ite ((hput _ he1).same (by rfl)) (hput _ he1)

theorem Engine.Sound.continueWait (h : e.Sound) {q fuel : Nat} : (e.continueWait q fuel).Sound := by
  induction fuel generalizing e with
  | zero => exact h
  | succ fuel ih =>
    unfold Engine.continueWait
    split
    · exact h
    · extract_lets r
      have hr : r.1.Sound := h.qAppend
      split
      · exact .ite h (hr.onCreel hr.queues.keepWait)
      · exact ih hr.endWait
      · exact ih hr.endWait

/-! ## Machine/Feed -/

theorem Engine.Sound.modLink (h : e.Sound) {n : Sp} {f : Link → Link} : (e.modLink n f).Sound :=
  h.modSp fun _ => by rfl

theorem Engine.Sound.resync (h : e.Sound) {n : Sp} : (e.resync n).Sound := by
  unfold Engine.resync
  exact .modLink (.foldl h.modLink fun _ _ h => h.fault)

theorem Engine.Sound.packBack (h : e.Sound) {n : Sp} {x : Job} {tag : Nat} {bs : List Byte} : (e.packBack n x tag bs).Sound := by
  unfold Engine.packBack
  split
  · extract_lets need all e1
    have he1 : e1.Sound := (h.modJob fun _ => by rfl).modSp fun _ => by rfl
    exact .ite he1.violation he1
  · exact h

theorem Engine.Sound.drainBack (h : e.Sound) {n : Sp} : (e.drainBack n).Sound := by
  unfold Engine.drainBack
  refine h.foldl fun e a h => ?_
  split
  · exact h.violation.modLink
  · exact .ite h.packBack.modLink h

/-! ## Machine/Start -/

theorem Engine.Sound.beginWork (h : e.Sound) {n : Sp} {id : Nat} : (e.beginWork n id).Sound := by
  unfold Engine.beginWork
  split
  · exact h
  · split
    · exact h
    · split
      · exact h.hankBegin
      · extract_lets e1 e2
        have he1 : e1.Sound := h.modJob fun _ => by rfl
        have he2 : e2.Sound := by
          dsimp only [e2]
          split
          · exact (he1.modJob fun _ => by rfl).jobRead
          · exact he1
        split
        · extract_lets g e3 e4
          have he3 : e3.Sound := .ite he2 (he2.modJob fun _ => by rfl)
          have he4 : e4.Sound := he3.askSource.openNext
          exact .ite he4 he4.draftZero
        · exact he2.openNext

theorem Engine.Sound.startClaims (h : e.Sound) {n : Sp} {x : Job} : (e.startClaims n x).Sound := by
  unfold Engine.startClaims
  extract_lets e1
  have he1 : e1.Sound := by
    dsimp only [e1]
    split
    · exact .ite h.claimFixed h
    · exact h
  exact .ite he1 he1.flexClaims

theorem Engine.Sound.lockStart (h : e.Sound) {n : Sp} {x : Job} : (e.lockStart n x).Sound :=
  .ite h.beginWork (.ite (.ite h h.faultSet) ((h.foldl fun _ _ h => h.modJob fun _ => by rfl).foldl fun _ _ h => h.beginWork))

theorem Engine.Sound.serveClass (h : e.Sound) {n : Sp} {inst : Option Nat} : (e.serveClass n inst).Sound := by
  unfold Engine.serveClass
  split
  · exact h
  · extract_lets cls win waitingPkts losers e1 e2
    have he1 : e1.Sound := h.foldl fun _ _ h => .ite h.modTick h
    have he2 : e2.Sound := he1.modSp fun s => s.kept_mapJobs fun _ => by split <;> rfl
    exact { he2 with queues := he2.queues.map fun q => by split <;> rfl }

theorem Engine.Sound.stopBadMember (h : e.Sound) {n : Sp} {x : Job} : (e.stopBadMember n x).Sound := by
  unfold Engine.stopBadMember
  split
  · exact h.modSp fun _ => by rfl
  · exact h.stopSetOf

theorem Engine.Sound.addJob (h : e.Sound) {n : Sp} {x : Job} {f : Spindle → Spindle} (hid : x.id = (e.sp n).jobNext)
    (hf : ∀ s, (f s).kept = (s.store, s.jobs.map Job.id ++ [x.id], s.jobNext)) :
    ((e.modSp n fun s => { s with jobNext := s.jobNext + 1 }).modSp n f).Sound := by
  have hjoin : (e.modSp n fun s => { s with jobNext := s.jobNext + 1 }).modSp n f = e.modSp n fun s => f { s with jobNext := s.jobNext + 1 } := by
    simp [Engine.modSp]
  have hs := h.spindles.all n
  obtain ⟨hstore, hids, hnext⟩ : _ ∧ _ ∧ _ := by simpa only [Prod.mk.injEq] using hf { e.sp n with jobNext := (e.sp n).jobNext + 1 }
  rw [hjoin]
  refine { h with spindles := h.spindles.set n ?_ }
  change (f { e.sp n with jobNext := (e.sp n).jobNext + 1 }).Sound
  constructor
  · exact hstore ▸ hs.store
  · rw [hids, hid]
    exact List.pairwise_append.2 ⟨hs.rising, List.pairwise_singleton .., fun i hi j hj => List.mem_singleton.1 hj ▸ hs.below i hi⟩
  · rw [hids, hnext, hid]
    intro i hi
    rcases List.mem_append.1 hi with hi | hi
    · exact Nat.lt_succ_of_lt (hs.below i hi)
    · exact List.mem_singleton.1 hi ▸ Nat.lt_succ_self _

theorem Engine.Sound.startHead (h : e.Sound) {n : Sp} {hd : Head} : (e.startHead n hd).Sound := by
  unfold Engine.startHead
  extract_lets x bad e1 e2 e3
  clear_value bad
  have he1 : e1.Sound := { h with queues := h.queues.takePkt }
  split
  · exact .stopBadMember (he1.addJob (x := x) rfl fun s => by simp [Spindle.kept])
  · have he3 : e3.Sound := .serveClass (he1.addJob (x := x) rfl fun s => by simp [Spindle.kept])
    split
    · exact (he3.modSp fun _ => by rfl).stopOne
    · split
      · exact he3.fault
      · exact he3.startClaims.trySide.lockStart

theorem Engine.Sound.markSet (h : e.Sound) {n : Sp} {x : Job} : (e.markSet n x).Sound :=
  .ite (h.modSp fun s => s.kept_mapJobs fun _ => by split <;> rfl) h

theorem Engine.Sound.latencyYield (h : e.Sound) {n : Sp} {x : Job} : (e.latencyYield n x).Sound := by
  unfold Engine.latencyYield
  extract_lets cl lat
  split
  · exact .ite h.yield_ h
  · exact h

theorem Engine.Sound.postJob (h : e.Sound) {n : Sp} {x : Job} {en : Ending} {clocks stalled : Nat} :
    (e.postJob n x en clocks stalled).Sound := by
  unfold Engine.postJob
  extract_lets e1 _ e2 e3 e4 e5
  have he1 : e1.Sound := h.raiseIf
  have he2 : e2.Sound := he1.same (by rfl)
  have he3 : e3.Sound := .ite he2.markSet he2
  have he4 : e4.Sound := he3.latencyYield.post
  have he5 : e5.Sound := he4.onSp fun s hs => hs.of_sublist rfl rfl List.filter_sublist
  exact .kickSparse (.ite he5.loseWhere he5)

theorem Engine.Sound.stageCopy (h : e.Sound) {t : Nat} : (e.stageCopy t).Sound := by
  unfold Engine.stageCopy
  exact h.writeAt.modSp fun _ => by rfl

/-! ## Machine/Switch -/

theorem Engine.Sound.setRun (h : e.Sound) {n : Sp} {p : Job → Bool} {r : JobRun} : (e.setRun n p r).Sound :=
  h.modSp fun s => s.kept_mapJobs fun _ => by split <;> rfl

theorem Engine.Sound.switchTime (h : e.Sound) {n : Sp} {ns : Nat} : (e.switchTime n ns).Sound :=
  h.modSp fun _ => by rfl

theorem Engine.Sound.saveSlot (h : e.Sound) {n : Sp} {level : Nat} : (e.saveSlot n level).Sound :=
  h.draw.writeAt

theorem Engine.Sound.drainAbort (h : e.Sound) {n : Sp} {p : Job → Bool} : (e.drainAbort n p).Sound :=
  h.abortWhere

theorem Engine.Sound.setEnable (h : e.Sound) {n : Sp} {on : Bool} : (e.setEnable n on).Sound := by
  unfold Engine.setEnable
  extract_lets e1
  have he1 : e1.Sound := h.modSp fun _ => by rfl
  exact .ite he1 (.ite he1.stopRing.loseWhere he1.stopRing)

theorem Engine.Sound.setHankEn (h : e.Sound) {n : Sp} {on : Bool} : (e.setHankEn n on).Sound :=
  h.modSp fun _ => by rfl

theorem Engine.Sound.setPlyEn (h : e.Sound) {n : Sp} {on : Bool} : (e.setPlyEn n on).Sound :=
  h.modSp fun _ => by rfl

theorem Engine.Sound.setRingEn (h : e.Sound) {n : Sp} {on : Bool} : (e.setRingEn n on).Sound :=
  h.modSp fun _ => by rfl

theorem Engine.Sound.abortTag (h : e.Sound) {n : Sp} {tag : Word} : (e.abortTag n tag).Sound :=
  h.abortWhere

end Sys2Proof.Machine
end

section
/-! PROOFS. The functions of the engine keep it sound: the Doffer, the releases, the power domains and the rebind. -/

namespace Sys2Proof.Machine

variable {e : Engine}

/-! ## Machine/Doffer -/

theorem Engine.Sound.freeTick (h : e.Sound) {t : Nat} : (e.freeTick t).Sound :=
  h.foldl fun _ _ h => h.endLife

theorem Engine.Sound.detach (h : e.Sound) {t : Nat} : (e.detach t).Sound :=
  { h with spindles := h.spindles.map fun s => s.kept_mapJobs fun x => by split <;> rfl }

theorem Engine.Sound.completeInst (h : e.Sound) {t : Inp} {i : Instance} {at_ : Nat} : (e.completeInst t i at_).Sound :=
  h.modTick.freeTick

theorem Engine.Sound.countRecord (h : e.Sound) {r : CompRec} : (e.countRecord r).Sound := by
  unfold Engine.countRecord
  split
  · exact h
  · extract_lets t
    split
    · exact h
    · exact .ite h.completeInst h.modTick

theorem Engine.Sound.ringWrite (h : e.Sound) {r : CompRec} : (e.ringWrite r).Sound := by
  unfold Engine.ringWrite
  split
  · exact h
  · extract_lets d
    split
    · exact h
    · exact .ite (h.same (by rfl)).raiseIf (h.unitWrite.same (by rfl))

theorem Engine.Sound.recordEnd (h : e.Sound) {r : CompRec} : (e.recordEnd r).Sound :=
  (((h.same (by rfl)).foldl fun _ _ h => h.knotIssue).countRecord).ringWrite

theorem Engine.Sound.foldWrite (h : e.Sound) {f : FoldRec} {v : Word} : (e.foldWrite f v).Sound :=
  .unitIssue (by exact { h with mem := h.mem.writeBytes })

theorem Engine.Sound.runFolds (h : e.Sound) {r : CompRec} {fs : List FoldRec} : (e.runFolds r fs).Sound := by
  induction fs generalizing e with
  | nil => exact .ite (h.same (by rfl)) h.relatch.recordEnd
  | cons f fs ih =>
    unfold Engine.runFolds
    split
    · exact .ite (.unitIssue (h.same (by rfl))) (ih h.foldWrite)
    · exact ih h.foldWrite

theorem Engine.Sound.foldHeader (h : e.Sound) {r : CompRec} {f : FoldRec} {fs : List FoldRec} {failed : Bool} : (e.foldHeader r f fs failed).Sound :=
  .ite h.foldWrite.runFolds h.foldWrite.runFolds

theorem Engine.Sound.foldOn (h : e.Sound) {failed : Bool} : (e.foldOn failed).Sound := by
  unfold Engine.foldOn
  split
  · exact .ite (h.same (by rfl)) h.foldHeader
  · exact .ite h h.relatch.recordEnd
  · exact h

theorem Engine.Sound.foldAnswered (h : e.Sound) {write : Bool} : (e.foldAnswered write).Sound :=
  h.foldl fun _ _ h => h.unitFree

theorem Engine.Sound.foldFails (h : e.Sound) {write : Bool} : (e.foldFails write).Sound :=
  h.foldl fun _ _ h => h.unitBusError

theorem Engine.Sound.releaseByKnot (h : e.Sound) {k before : Nat} : (e.releaseByKnot k before).Sound :=
  h.foldl fun _ _ h => h.endLife

theorem Engine.Sound.bankApply (h : e.Sound) {o : KnotOp} : (e.bankApply o).Sound := by
  unfold Engine.bankApply
  extract_lets _ e0 before e1 e2 _ e3
  have he0 : e0.Sound := h.relatch.same (by rfl)
  have he2 : e2.Sound := .ite he0.applyKnot.releaseByKnot he0.applyKnot
  have he3 : e3.Sound := by
    dsimp only [e3]
    split
    · exact .ite (he2.same (by rfl)) he2
    · exact he2
  exact he3.relatch

theorem Engine.Sound.drainTick (h : e.Sound) {b : Fin 16} {fuel : Nat} : (Engine.drainTick b fuel e).Sound := by
  induction fuel generalizing e with
  | zero => exact h
  | succ fuel ih =>
    unfold Engine.drainTick
    split
    · exact h
    · split
      · exact ih (.bankApply (h.same (by rfl)))
      · exact h

theorem Engine.Sound.repairRow (h : e.Sound) {k : Nat} : (e.repairRow k).Sound :=
  h.relatch.repairKnot.relatch

/-! ## Machine/Release -/

theorem Engine.Sound.dropDescs (h : e.Sound) {t : Nat} : (e.dropDescs t).Sound :=
  h.foldl fun _ _ h => .ite ((h.onCreel (h.queues.upd fun _ => by simp)).descsGone) h

theorem Engine.Sound.endInst (h : e.Sound) {t : Inp} : (e.endInst t).Sound := by
  unfold Engine.endInst
  exact .modTick (.detach (.freeTick (.foldl h.dropDescs fun _ _ h => h.abortWhere)))

theorem Engine.Sound.reportMiss (h : e.Sound) {t : Inp} {i : Instance} : (e.reportMiss t i).Sound := by
  unfold Engine.reportMiss
  split
  · exact h.raise
  · exact h.yield_
  · exact h.raise

theorem Engine.Sound.deadline (h : e.Sound) {t : Inp} : (e.deadline t).Sound := by
  unfold Engine.deadline
  split
  · exact h
  · exact .ite h.completeInst.detach h.endInst.modTick.reportMiss

@[simp] theorem Creel.number_queues (c : Creel) (cs : List Cell) : (c.number cs).2.queues = c.queues :=
  List.foldlRecOn (motive := fun a : List Cell × Creel => a.2.queues = c.queues) cs _ rfl fun a ha _ _ => by simpa using ha

theorem QueuesSound.number {c : Creel} (h : QueuesSound c.queues) {cs : List Cell} : QueuesSound (c.number cs).2.queues := by
  simpa using h

theorem Engine.Sound.placeDesc (h : e.Sound) {t q : Nat} {bs : List Byte} : (e.placeDesc t q bs).1.Sound := by
  unfold Engine.placeDesc
  extract_lets cs
  split
  · dsimp only
    exact h.onCreel h.queues
  · split
    · exact .raise (h.onCreel h.queues)
    · dsimp only
      refine h.onCreel ?_
      dsimp only
      refine QueuesSound.upd (c := (e.creel.number cs).2) h.queues.number fun q => ?_
      split <;> rfl

theorem Engine.Sound.resetKnots (h : e.Sound) {rs : List KnotReset} : (e.resetKnots rs).Sound :=
  h.foldl fun _ _ h => h.knotIssue.knotIssue.drainTick

theorem Engine.Sound.release (h : e.Sound) {t : Inp} {at_ : Nat} : (e.release t at_).Sound := by
  unfold Engine.release
  split
  · exact h.deadline
  · extract_lets e1 r i
    have he1 : e1.Sound := h.deadline.relatch.resetKnots
    have hr : r.1.Sound := List.foldlRecOn (motive := fun a : Engine × Nat => a.1.Sound) _ _ he1.relatch fun a ha _ _ => ha.placeDesc
    exact .ite hr.completeInst hr.modTick

theorem Engine.Sound.openFrame (h : e.Sound) {t : Inp} : (e.openFrame t).Sound := by
  unfold Engine.openFrame
  exact h.modTick

theorem Engine.Sound.takeTick (h : e.Sound) {t : Inp} : (e.takeTick t).Sound := by
  unfold Engine.takeTick
  exact .modTick (.ite h.closeFrame.openFrame h)

/-! ## Machine/Domains -/

theorem Engine.Sound.setPwr (h : e.Sound) {d : WakeDomain} {p : PwrSt} : (e.setPwr d p).Sound := by
  unfold Engine.setPwr
  split
  · exact h.same (by rfl)
  · exact h.same (by rfl)
  · exact h.modSp fun _ => by rfl

theorem Engine.Sound.requestOne (h : e.Sound) {d : WakeDomain} : (e.requestOne d).Sound :=
  .ite (h.setPwr.same (by rfl)) h

theorem Engine.Sound.requestWake (h : e.Sound) {d : WakeDomain} : (e.requestWake d).Sound := by
  unfold Engine.requestWake
  split
  · exact h.requestOne.requestOne
  · exact h.requestOne

theorem Engine.Sound.touchDistaff (h : e.Sound) : e.touchDistaff.Sound :=
  h.requestWake.same (by rfl)

theorem Engine.Sound.bobbinRule (h : e.Sound) : e.bobbinRule.Sound :=
  .ite h.requestOne (by exact { h with bobbin := .nil })

theorem Engine.Sound.cutSpindle (h : e.Sound) {n : Sp} : (e.cutSpindle n).Sound := by
  unfold Engine.cutSpindle
  extract_lets e1
  have he1 : e1.Sound := h.onSp fun _ h => { h with store := .nil }
  exact he1.same (by rfl)

theorem Engine.Sound.freshSpindle (h : e.Sound) {n : Sp} : (e.freshSpindle n).Sound :=
  h.onSp fun _ h => { h with store := .nil }

theorem Engine.Sound.domainUp (h : e.Sound) {d : WakeDomain} : (e.domainUp d).Sound := by
  unfold Engine.domainUp
  split
  · exact h.freshSpindle
  · exact { h with bobbin := .nil }
  · exact h.same (by rfl)

/-! ## Machine/Rebind -/

theorem Engine.Sound.replaceEntry (h : e.Sound) {t : Nat} : (e.replaceEntry t).Sound :=
  .ite h.modTensor h.freeNow

theorem Engine.Sound.stepFour (h : e.Sound) {full : Bool} {a : Affected} {new : Cfg} : (e.stepFour full a new).Sound := by
  unfold Engine.stepFour
  extract_lets old moved inBank e1
  have he1 : e1.Sound := h.loseWhere
  exact .ite (he1.foldl fun _ _ h => h.freeNow) ((he1.foldl fun _ _ h => h.endLife).foldl fun _ _ h => h.replaceEntry)

theorem Engine.Sound.stepFive (h : e.Sound) {new : Cfg} : (e.stepFive new).Sound :=
  (h.same (by rfl)).foldl fun _ _ h => .ite (h.onCreel (h.queues.upd fun _ => by simp)) h

theorem Engine.Sound.stepSix (h : e.Sound) {old : Cfg} {n : Sp} : (e.stepSix old n).Sound := by
  unfold Engine.stepSix
  extract_lets bound powered e1 e2
  have he1 : e1.Sound := h.modSp fun _ => by rfl
  have he2 : e2.Sound := .ite he1.cutSpindle he1
  exact .ite he2.requestWake he2

theorem Engine.Sound.freshInput (h : e.Sound) {t : Inp} {changed : Bool} : (e.freshInput t changed).Sound :=
  .ite h h.modTick

theorem Engine.Sound.skipEmpty (h : e.Sound) {t : Inp} : (e.skipEmpty t).Sound :=
  .ite h.skipWaiting h

theorem Engine.Sound.stepSeven (h : e.Sound) : e.stepSeven.Sound :=
  h.foldl fun _ _ h => .ite h.modTick ((h.modTick.foldl fun _ _ h => h.release).skipEmpty)

theorem Engine.Sound.applyCfg (h : e.Sound) {full : Bool} {a : Affected} {new : Cfg} : (e.applyCfg full a new).Sound :=
  ((h.stepFour.stepFive.foldl fun _ _ h => h.stepSix).foldl fun _ _ h => h.freshInput).bobbinRule

theorem Engine.Sound.beginRebind (h : e.Sound) {a : Activation} : (e.beginRebind a).Sound := by
  unfold Engine.beginRebind
  extract_lets f _ e1 e2 e3
  have he1 : e1.Sound := h.same (by rfl)
  have he2 : e2.Sound := he1.foldl fun _ _ h => (h.modSp fun _ => by rfl).stopRing
  have he3 : e3.Sound := he2.foldl fun _ _ h => h.endInst
  exact he3.foldl fun _ _ h => .ite h.continueWait h

theorem Engine.Sound.emptyQueue (h : e.Sound) {q : Nat} : (e.emptyQueue q).Sound := by
  unfold Engine.emptyQueue
  extract_lets open_ e1
  have he1 : e1.Sound := h.qBad.descsGone
  exact he1.onCreel (he1.queues.upd fun _ => by simp)

theorem Engine.Sound.stepThree (h : e.Sound) {a : Affected} : (e.stepThree a).Sound := by
  unfold Engine.stepThree
  extract_lets e1 e2
  have he1 : e1.Sound := h.foldl fun _ _ h => h.abortWhere
  have he2 : e2.Sound := he1.foldl fun _ _ h => (h.foldl fun _ _ h => h.flushHeld).flushRecords
  exact he2.foldl fun _ _ h => .ite h.emptyQueue h

theorem Engine.Sound.finishRebind (h : e.Sound) {a : Activation} {since : Nat} : (e.finishRebind a since).Sound :=
  (h.stepThree.applyCfg.same (by rfl)).stepSeven

theorem Engine.Sound.makePending (h : e.Sound) {a : Activation} : (e.makePending a).Sound :=
  .ite h.beginRebind (h.same (by rfl))

end Sys2Proof.Machine
end

section
/-! PROOFS. The functions of the engine keep it sound: the Distaff, the images, the resets, the ports and the registers. -/

namespace Sys2Proof.Machine

variable {e : Engine}

/-! ## Machine/DistaffOps -/

theorem Engine.Sound.keysWritten (h : e.Sound) : e.keysWritten.Sound :=
  h.touchDistaff.withDistaff h.touchDistaff.regions.writeNow

theorem Engine.Sound.retire (h : e.Sound) : e.retire.Sound := by
  unfold Engine.retire
  split
  · exact h
  · exact (h.same (by rfl)).raiseIf

theorem Engine.Sound.retireWritten (h : e.Sound) {w : Nat × Nat} : (e.retireWritten w).Sound := by
  unfold Engine.retireWritten
  refine .raiseIf (h.withDistaff (h.regions.of_regions ?_))
  split
  · split <;> rfl
  · rfl

/-! ## Machine/Security -/

theorem Engine.Sound.recheck (h : e.Sound) {old : List (List Byte)} {new : List Byte} {r : Nat} : (Engine.recheck old new r e).Sound :=
  .ite (h.touchDistaff.withDistaff h.touchDistaff.regions.storeNow) h

theorem Engine.Sound.recheckAll (h : e.Sound) {old : List (List Byte)} {new : List Byte} : (e.recheckAll old new).Sound :=
  h.recheck.recheck

/-! ## Machine/Image -/

theorem Engine.Sound.imageRead (h : e.Sound) {len : Nat} : (e.imageRead len).Sound := by
  unfold Engine.imageRead
  exact h.modPort

/-! ## Machine/Resets -/

/-- A spindle at reset is sound. -/
theorem Spindle.Sound.reset : ({} : Spindle).Sound := ⟨.nil, .nil, by simp⟩

theorem SpindlesSound.reset : SpindlesSound (Vector.replicate 32 {}) where
  all n := by
    rw [Fin.getElem_fin, Vector.getElem_replicate]
    exact .reset

theorem Engine.Sound.powerOn (h : e.Sound) : e.powerOn.Sound where
  mem := h.mem
  bobbin := .nil
  spindles := .reset
  fw := h.fw
  imgA := h.imgA
  imgB := h.imgB
  sram := rfl
  queues := ⟨by simp [Engine.powerOn]⟩

theorem Engine.Sound.warmed (h : e.Sound) : e.warmed.Sound :=
  h.powerOn.same (by rfl)

theorem Engine.Sound.quiescePorts (h : e.Sound) : e.quiescePorts.Sound := by
  unfold Engine.quiescePorts
  extract_lets ps e1
  have he1 : e1.Sound := h.foldl fun _ _ h => h.modPort.portResp
  exact { he1 with queues := he1.queues.map fun _ => by simp }

theorem Engine.Sound.beginWarm (h : e.Sound) : e.beginWarm.Sound :=
  h.quiescePorts.same (by rfl)

theorem Engine.Sound.raiseLinks (h : e.Sound) : e.raiseLinks.Sound :=
  { h with spindles := h.spindles.map fun _ => by simp }

/-! ## Machine/Boot -/

theorem Engine.Sound.loadBytes (h : e.Sound) {bs : List Byte} : (e.loadBytes bs).Sound := by
  have hd := h.touchDistaff.regions
  unfold Engine.loadBytes
  extract_lets f got size e1 d0 now from_ d1
  have hd0 : d0.Sound := .ite hd.storeNow hd
  have hd1 : d1.Sound := List.foldlRecOn (motive := Distaff.Sound) _ _ hd0 fun d hd _ _ => hd.writeNow
  have hload {d : Distaff} {f : Flyer} (hd : d.Sound) (hf : f.sram = e.flyer.sram) : ({ e1 with distaff := d, flyer := f } : Engine).Sound :=
    { h.touchDistaff.withDistaff hd with sram := hf ▸ h.sram }
  exact .ite h (.ite (hload hd0 rfl) (hload (.ite hd1.setRegion hd1) rfl))

@[simp] theorem Flyer.loadEnd_sram (f : Flyer) : f.loadEnd.sram = f.sram := by
  unfold Flyer.loadEnd
  split <;> rfl

theorem Engine.Sound.loadMarks (h : e.Sound) : e.loadMarks.Sound := by
  unfold Engine.loadMarks
  extract_lets here
  exact .foldl (h.same (by rfl)) fun e _ h => by exact { h with sram := by simpa using h.sram }

theorem Engine.Sound.loadCell (h : e.Sound) {x : Cell} : (e.loadCell x).Sound := by
  unfold Engine.loadCell
  extract_lets e1 e2
  have he1 : e1.Sound := h.loadBytes
  have he2 : e2.Sound := .ite (by exact { he1 with sram := by simpa using he1.sram }) he1
  exact .loadMarks (he2.same (by rfl))

theorem Engine.Sound.recoveryEnd (h : e.Sound) {hadTail : Bool} : (e.recoveryEnd hadTail).Sound :=
  .ite h (h.same (by rfl)).loadMarks

/-! ## Machine/Ports -/

theorem Engine.Sound.chargeTxn (h : e.Sound) {n : Sp} {t : Txn} : (e.chargeTxn n t).Sound :=
  .ite h.chargePort h

theorem Engine.Sound.markWaits (h : e.Sound) {p : Port} : (e.markWaits p).Sound :=
  h.modPort

theorem SpindlesSound.ofFn {f : Sp → Spindle} (hf : ∀ m, (f m).Sound) : SpindlesSound (Vector.ofFn f) where
  all m := by
    rw [Fin.getElem_fin, Vector.getElem_ofFn]
    exact hf m

theorem Engine.Sound.noteServed (h : e.Sound) {n : Sp} {t : Txn} : (e.noteServed n t).Sound := by
  unfold Engine.noteServed
  split
  · exact h
  · refine Engine.Sound.spindled h (.ofFn fun m => (h.spindles.all m).of_kept ?_)
    dsimp only
    split
    · exact (e.sp m).kept_mapJobs fun x => by split <;> simp
    · rfl

theorem Engine.Sound.noteBehind (h : e.Sound) {n : Sp} {u : Txn} : (e.noteBehind n u).Sound := by
  unfold Engine.noteBehind
  refine h.foldl fun e m h => .ite (h.foldl fun e t h => ?_) h
  split
  · exact h
  · split
    · exact h.modJob fun x => x.lostTo_id _ _
    · exact h

theorem Engine.Sound.leaveSlot (h : e.Sound) {n : Sp} {t : Txn} : (e.leaveSlot n t).Sound :=
  h.chargeTxn.noteServed.noteBehind.modSp fun _ => by rfl

theorem Engine.Sound.portGoes (h : e.Sound) {n : Sp} : (e.portGoes n).Sound :=
  h.pump.markWaits

theorem Engine.Sound.busFault (h : e.Sound) {n : Sp} {t : Txn} {detail : Nat} : (e.busFault n t detail).Sound := by
  unfold Engine.busFault
  split
  · split
    · split
      · exact h.fault
      · exact h
    · split
      · exact .ite h h.fault
      · exact h
  · exact h.fault

theorem Engine.Sound.afterAnswer (h : e.Sound) {n : Sp} {t : Txn} : (e.afterAnswer n t).Sound :=
  .ite h.hankEnd.draftHead (.ite h.thiefAdvance (.ite h.reduceOn h.hankAdvance))

theorem Engine.Sound.portBad (h : e.Sound) {p : Port} {code : Nat} {id : BitVec 10} : (e.portBad p code id).Sound :=
  h.violation

theorem Engine.Sound.unitResponse (h : e.Sound) {p : Port} {id : BitVec 10} {t : UnitTxn} {bad malformed : Bool} {data : List Byte} :
    (e.unitResponse p id t bad malformed data).Sound := by
  unfold Engine.unitResponse
  extract_lets e1 go
  have he1 : e1.Sound := h.unitFree
  have hgo : ∀ e failed, e.Sound → (go e failed).Sound := fun e failed h => .ite h.foldOn h
  exact .ite he1.portBad (.ite (hgo _ _ he1.portBad.unitBusError) (.ite (hgo _ _ he1.unitBusError)
    (.ite (hgo _ _ he1) (hgo _ _ ({ he1 with mem := he1.mem.writeBytes })))))

theorem Engine.Sound.answered (h : e.Sound) {p : Port} {id : BitVec 10} {n : Sp} {t : Txn} {detail : Option Nat} {malformed : Bool}
    {good : Engine → Engine} (hgood : ∀ e, e.Sound → (good e).Sound) : (e.answered p id n t detail malformed good).Sound := by
  unfold Engine.answered
  refine .portGoes ?_
  split
  · exact h.leaveSlot.portBad
  · split
    · exact .ite h.leaveSlot.portBad h.leaveSlot.portBad.busFault
    · split
      · exact h.leaveSlot
      · split
        · exact h.leaveSlot.busFault
        · exact hgood _ h.leaveSlot

theorem Engine.Sound.judgePort (h : e.Sound) {p : Port} : (e.judgePort p).Sound := by
  unfold Engine.judgePort
  split
  · exact h.foldl fun _ _ h => .ite h.yield_ h
  · exact h

theorem Engine.Sound.newWindow (h : e.Sound) {p : Port} : (e.newWindow p).Sound :=
  h.modPort

theorem Engine.Sound.chargeOpen (h : e.Sound) : e.chargeOpen.Sound :=
  (h.foldl fun _ _ h => h.foldl fun _ _ h => .ite h.chargeTxn h).foldl fun _ _ h => .ite h.chargePort h

/-! ## Machine/Ticks -/

theorem Engine.Sound.tickIn (h : e.Sound) {t : Inp} : (e.tickIn t).Sound :=
  .ite h.modTick.raise h.takeTick

theorem Engine.Sound.settleClose (h : e.Sound) {t : Inp} : (e.settleClose t).Sound :=
  .ite (.ite h.closeFrame.modTick.openFrame h.closeFrame.modTick) h

theorem Engine.Sound.settleLost (h : e.Sound) {t : Inp} : (e.settleLost t).Sound :=
  .ite h.deadline.modTick h

theorem Engine.Sound.settleTick (h : e.Sound) {t : Inp} : (e.settleTick t).Sound := by
  unfold Engine.settleTick
  split
  · extract_lets e1 hold
    have he1 : e1.Sound := h.deadline.modTick
    have hhold : ∀ e, e.Sound → (hold e).Sound := fun e h => h.modTick
    split
    · split
      · exact .ite ((hhold _ he1).beginRebind) he1.release
      · exact .ite (hhold _ he1) he1.release
      · exact he1.release
    · exact he1.release
  · exact h

theorem Engine.Sound.settleBudget (h : e.Sound) {t : Inp} : (e.settleBudget t).Sound := by
  unfold Engine.settleBudget
  split
  · extract_lets e1
    have he1 : e1.Sound := h.modTick
    split
    · exact .ite he1.modTick.raise he1
    · exact he1
  · exact h

theorem Engine.Sound.settle (h : e.Sound) : e.settle.Sound :=
  .ite ((((h.foldl fun _ _ h => h.settleClose).foldl fun _ _ h => h.settleLost).foldl fun _ _ h => h.settleTick).foldl fun _ _ h => h.settleBudget) h

/-! ## Machine/RegWrite -/

theorem Engine.Sound.answer (h : e.Sound) {path : RegPath} {bad : Bool} : (e.answer path bad).Sound := by
  unfold Engine.answer
  split
  · exact h.same (by rfl)
  · exact h.same (by rfl)

theorem Engine.Sound.hold (h : e.Sound) {path : RegPath} {addr : Nat} {k : StallKind} : (e.hold path addr k).Sound :=
  h.same (by rfl)

theorem Engine.Sound.knotWrite (h : e.Sound) {path : RegPath} {addr : Nat} {verb : KnotVerb} {v : Word} : (e.knotWrite path addr verb v).Sound :=
  h.knotIssue.hold

theorem Engine.Sound.setPol (h : e.Sound) {v : BitVec 16} : (e.setPol v).Sound :=
  (h.draw.same (by rfl)).foldl fun _ _ h => h.tickIn

theorem Engine.Sound.narrowPush (h : e.Sound) {path : RegPath} {count : Nat} {ends : Bool} : (e.narrowPush path count ends).Sound :=
  .ite h (.ite (.ite h.regPut.recoveryEnd h.regPut) h.qWait.hold)

theorem Engine.Sound.narrowEnd (h : e.Sound) : e.narrowEnd.Sound :=
  .ite h (.ite h.qEnd.recoveryEnd h.qEnd)

theorem Engine.Sound.narrowAbort (h : e.Sound) : e.narrowAbort.Sound :=
  .ite h h.qAbort

theorem Engine.Sound.narrowPop (h : e.Sound) {cell : CellEcc} : (e.narrowPop cell).Sound := by
  unfold Engine.narrowPop
  extract_lets q r
  have hr : r.1.Sound := by
    dsimp only [r]
    split
    · exact h.readCell
    · exact h
  split
  · exact hr.onCreel hr.queues
  · exact hr.onCreel hr.queues

theorem Engine.Sound.crlNctl (h : e.Sound) {path : RegPath} {v : Nat} : (e.crlNctl path v).Sound :=
  .ite h.narrowAbort (.ite h.narrowPush (.ite h.narrowEnd h))

theorem Engine.Sound.writeCrl (h : e.Sound) {path : RegPath} {off v : Nat} : (e.writeCrl path off v).Sound := by
  unfold Engine.writeCrl
  split
  · exact h.onCreel h.queues
  · exact h.onCreel h.queues
  · exact h.onCreel h.queues
  · exact h.crlNctl
  · exact h.onCreel h.queues
  · exact .ite h.narrowPop h
  · exact h.onCreel h.queues
  · exact h

theorem Engine.Sound.writeKnt (h : e.Sound) {path : RegPath} {off v : Nat} : (e.writeKnt path off v).Sound := by
  unfold Engine.writeKnt
  split
  · exact h.same (by rfl)
  · exact h.knotWrite
  · exact h.knotWrite
  · exact h.knotWrite
  · exact h

theorem Engine.Sound.writeTck (h : e.Sound) {off v : Nat} : (e.writeTck off v).Sound := by
  unfold Engine.writeTck
  split
  · exact h.same (by rfl)
  · exact h.setPol
  · exact h

theorem Engine.Sound.writeSpn (h : e.Sound) {n : Sp} {off v : Nat} : (e.writeSpn n off v).Sound := by
  unfold Engine.writeSpn
  split
  · exact h.setEnable.setHankEn.setPlyEn.setRingEn
  · exact h.modSp fun _ => by rfl
  · exact h.abortTag
  · exact h

theorem Engine.Sound.withdraw (h : e.Sound) {k : StallKind} : (e.withdraw k).Sound := by
  unfold Engine.withdraw
  split
  · exact h.same (by rfl)
  · exact h.qResume
  · exact h.same (by rfl)

theorem Engine.Sound.limitReached (h : e.Sound) {path : RegPath} {write applied : Bool} {addr : Nat} :
    (e.limitReached path write applied addr).Sound := by
  unfold Engine.limitReached
  extract_lets g e1 e2
  have he1 : e1.Sound := h.same (by rfl)
  have he2 : e2.Sound := he1.violation.answer
  exact .ite he2 (he2.same (by rfl))

/-! ## Machine/TestAccess -/

theorem Engine.Sound.wsSelect (h : e.Sound) {i : TapInstr} : (e.wsSelect i).Sound :=
  h.same (by rfl)

theorem Engine.Sound.tapSelect (h : e.Sound) {i : TapInstr} {capture : Word} : (e.tapSelect i capture).Sound :=
  h.same (by rfl)

theorem Engine.Sound.tapBypass (h : e.Sound) : e.tapBypass.Sound :=
  h.tapSelect

theorem Engine.Sound.setHalted (h : e.Sound) {on : Bool} : (e.setHalted on).Sound :=
  h.same (by rfl)

theorem storeSound_lost (ctr n : Nat) : StoreSound (writeBytes [] 0 (lostBytes ctr n)) := StoreSound.nil.writeBytes

theorem Spindle.Sound.lose {s : Spindle} (h : s.Sound) {ctr : Nat} : (s.lose ctr).Sound := by
  unfold Spindle.lose
  split
  · exact h
  · have hids : (s.jobs.mapIdx fun k x => { x with ply := x.ply.map fun p =>
        { p with banks := p.banks.mapIdx fun i b => b.lose (ctr + 1048576 + 65536 * (8 * k + i)) } }).map Job.id = s.jobs.map Job.id := by
      simp [List.ext_getElem_iff]
    constructor
    · dsimp only
      exact storeSound_lost _ _
    · exact hids ▸ h.rising
    · exact hids ▸ h.below

theorem Engine.Sound.loseSrams (h : e.Sound) : e.loseSrams.Sound := by
  unfold Engine.loseSrams
  constructor <;> dsimp only
  case mem => exact h.mem
  case bobbin =>
    split
    · exact storeSound_lost _ _
    · exact h.bobbin
  case spindles => exact h.spindles.mapFinIdx fun _ _ _ hs => hs.lose
  case fw => exact h.fw
  case imgA => exact h.imgA
  case imgB => exact h.imgB
  case sram => exact trimmed_trimZeros _
  case queues => exact h.queues.map fun q => by simp [Queue.lose, lostBytes]

/-! ## Machine/Background -/

theorem Engine.Sound.patrolCorrected (h : e.Sound) {r : SramRow} : (e.patrolCorrected r).Sound :=
  (h.same (by rfl)).eccCorrected.raiseIf

theorem Engine.Sound.rowLost (h : e.Sound) {p : RowAt} : (e.rowLost p).Sound :=
  (h.same (by rfl)).eccEntry

theorem Engine.Sound.patrolLost (h : e.Sound) {r : SramRow} : (e.patrolLost r).Sound := by
  unfold Engine.patrolLost
  extract_lets p
  split
  · exact h.rowLost
  · exact h.rowLost
  · exact h.cellLost
  · exact h.cellLost
  · exact h.rowLost
  · exact h.eccEntry.modSp fun _ => by rfl
  · exact h.repairRow
  · exact h.eccEntry.setHalted.beginWarm

theorem Engine.Sound.patrolEnd (h : e.Sound) {r : SramRow} : (e.patrolEnd r).Sound :=
  h.same (by rfl)

theorem Engine.Sound.rowFixed (h : e.Sound) {r : SramRow} : (e.rowFixed r).Sound := by
  unfold Engine.rowFixed
  split
  · exact h.onCreel h.queues.rewritten
  · exact h.onCreel h.queues.rewritten
  · exact h.same (by rfl)

theorem Engine.Sound.patrolNext (h : e.Sound) {r : SramRow} {ends : Bool} : (e.patrolNext r ends).Sound :=
  .same (.ite h.patrolEnd h) (by rfl)

theorem Engine.Sound.calFold (h : e.Sound) {c : CalSample} : (e.calFold c).Sound :=
  h.same (by rfl)

theorem Engine.Sound.sampleMarks (h : e.Sound) : e.sampleMarks.Sound :=
  { h with spindles := h.spindles.map fun _ => by simp }

/-! ## Machine/Power -/

theorem Engine.Sound.freshCounts (h : e.Sound) {d : WakeDomain} : (e.freshCounts d).Sound := by
  unfold Engine.freshCounts
  split
  · exact h.same (by rfl)
  · exact h.same (by rfl)
  · exact h

theorem Engine.Sound.moveTier (h : e.Sound) {t : Nat} {f : Nat → Nat} : (e.moveTier t f).Sound :=
  { h with spindles := h.spindles.map fun s => by split <;> rfl }

theorem Engine.Sound.govEvents (h : e.Sound) {above : Bool} {temp : BitVec 16} : (e.govEvents above temp).Sound :=
  (h.same (by rfl)).raiseIf.raiseIf

theorem Engine.Sound.markBusy (h : e.Sound) : e.markBusy.Sound :=
  h.spindled (.mapFinIdx h.spindles fun _ _ _ hs => hs.of_kept (by rfl))

end Sys2Proof.Machine
end

section
/-! PROOFS. The operations of the whole state keep it sound. -/

namespace Sys2Proof.Machine

/-! ## The soundness of the state -/

/-- A state is sound when the stores, queues and jobs of its engine are. -/
structure State.Sound (s : State) : Prop where
  eng : s.eng.Sound

/-- A command that answers a next state answers a sound one. -/
def KeepsSound (o : Host.Outcome State Fault Refusal) : Prop := ∀ t, o = .next t → t.Sound

variable {s : State}

theorem KeepsSound.done (h : s.Sound) : KeepsSound (done s) := by
  intro t ht
  cases ht
  exact h

theorem State.Sound.onEng (h : s.Sound) {f : Engine → Engine} (hf : ∀ e : Engine, e.Sound → (f e).Sound) : (s.onEng f).Sound :=
  ⟨hf _ h.eng⟩

theorem State.Sound.onSec (h : s.Sound) {f : Security → Security} : (s.onSec f).Sound := ⟨h.eng⟩

theorem State.Sound.ite {c : Prop} [Decidable c] {s' : State} (h : s.Sound) (h' : s'.Sound) : (if c then s else s').Sound :=
  iteInduction (motive := State.Sound) (fun _ => h) fun _ => h'

theorem State.Sound.storeKeys (h : s.Sound) {f : Keys → Keys} : (s.storeKeys f).Sound :=
  .onEng (.ite h.onSec h) fun _ h => h.keysWritten

theorem State.Sound.completeRoll (h : s.Sound) : s.completeRoll.Sound := by
  unfold State.completeRoll
  extract_lets k s1
  have hs1 : s1.Sound := by
    dsimp only [s1]
    split
    · exact h.storeKeys
    · exact h
  split
  · exact (hs1.onEng fun _ h => h.recheckAll).storeKeys
  · exact hs1

theorem State.Sound.openRecovery (h : s.Sound) {fwBad : Bool} {detail : Nat} : (s.openRecovery fwBad detail).Sound := ⟨h.eng.same (by rfl)⟩

theorem State.Sound.keepAccess (h : s.Sound) {path : RegPath} {c : Instr} : (s.keepAccess path c).Sound := h.onEng fun _ h => h.same (by rfl)

theorem State.Sound.access (h : s.Sound) {path : RegPath} {c : Instr} {act : State → State} (hact : ∀ s, s.Sound → (act s).Sound) :
    (s.access path c act).Sound :=
  .ite (hact _ (h.onEng fun _ h => h.answer)) (.ite h.keepAccess h)

theorem State.Sound.modSnap (h : s.Sound) {page : SnapPage} {f : Snap → Snap} : (s.modSnap page f).Sound := by
  unfold State.modSnap
  split
  · exact h.onEng fun _ h => h.same (by rfl)
  · exact h.onSec
  · exact h.onEng fun _ h => h.same (by rfl)

theorem State.Sound.snapWrite (h : s.Sound) {path : RegPath} {page : SnapPage} {v : Word} : (s.snapWrite path page v).Sound :=
  h.modSnap.onEng fun _ h => .hold (h.same (by rfl))

theorem State.Sound.capture (h : s.Sound) {page : SnapPage} : (s.capture page).Sound := by
  unfold State.capture
  split
  · exact h.modSnap
  · exact h

theorem State.Sound.aliasBit (h : s.Sound) {off b : Nat} {d : Bool} : (s.aliasBit off b d).Sound := by
  unfold State.aliasBit
  extract_lets g set_
  have hset (g : Glb) : (set_ g).Sound := h.onEng fun _ h => h.same (by rfl)
  split
  · exact .ite (hset _) h
  · exact .ite (hset _) h
  · exact .ite (hset _) h
  · exact hset _

theorem State.Sound.badAccess (h : s.Sound) {path : RegPath} {addr : Nat} : (s.badAccess path addr).Sound :=
  h.onEng fun _ h => h.violation.answer

theorem State.Sound.writeReg (h : s.Sound) {path : RegPath} {a v : Nat} : (s.writeReg path a v).Sound := by
  unfold State.writeReg
  split
  · exact .ite h.snapWrite (h.onEng fun _ h => h.same (by rfl))
  · exact h.onSec
  · exact h.onEng fun _ h => h.writeCrl
  · exact h.onEng fun _ h => h.same (by rfl)
  · exact h.onEng fun _ h => h.writeKnt
  · exact h.onEng fun _ h => h.writeTck
  · exact .ite h.snapWrite h.onSec
  · exact .ite h.snapWrite (h.onEng fun _ h => h.same (by rfl))
  · exact h.onEng fun _ h => h.writeSpn
  · exact h.aliasBit
  · exact h

theorem State.Sound.post (h : s.Sound) {result detail : Nat} : (s.post result detail).Sound := h.onSec

theorem State.Sound.countFailure (h : s.Sound) {result : Nat} : (s.countFailure result).Sound :=
  .post (h.onSec.onEng fun _ h => h.raise.raiseIf)

theorem State.Sound.frameAccepted (h : s.Sound) : s.frameAccepted.Sound := h.onSec.storeKeys

theorem State.Sound.postNoSpare (h : s.Sound) : s.postNoSpare.Sound := h.post

theorem State.Sound.keyed (h : s.Sound) {c : Instr} {op : Nat} {act : State → State} (hact : ∀ s, s.Sound → (act s).Sound) :
    (s.keyed c op act).Sound := by
  unfold State.keyed
  split
  · exact h
  · split
    · exact h.keepAccess
    · split
      · exact hact _ h
      · split
        · exact h.post
        · exact h.countFailure
        · exact .ite (hact _ h.frameAccepted) h.onSec.postNoSpare

theorem State.Sound.forFlyer (h : s.Sound) {act : State → State} (hact : ∀ s, s.Sound → (act s).Sound) : (s.forFlyer act).Sound :=
  .ite (hact _ h) h

theorem State.Sound.rejectImage (h : s.Sound) {d : Nat} : (s.rejectImage d).Sound :=
  .post (h.onEng fun _ h => .raise (h.same (by rfl)))

theorem State.Sound.acceptCopy (h : s.Sound) {b : List Byte} {c : Cfg} : (s.acceptCopy b c).Sound := by
  unfold State.acceptCopy
  extract_lets hd e key full base e1 r copy e2 _ e3
  have he1 : e1.Sound := h.eng.same (by rfl)
  have he3 : e3.Sound := he1.touchDistaff.same (by rfl)
  exact .ite (.ite h.rejectImage ⟨he3⟩) (.post (h.onEng fun _ _ => he1.makePending))

theorem State.Sound.scoped (h : s.Sound) {bit : Nat} {bypass : Engine → Engine} {act : State → State} 
    (hbypass : ∀ e, e.Sound → (bypass e).Sound) (hact : ∀ s, s.Sound → (act s).Sound) : (s.scoped bit bypass act).Sound :=
  .ite h (.ite (hact _ h) (h.onEng hbypass).onSec)

theorem State.Sound.debugWrite (h : s.Sound) {addr v : Nat} : (s.debugWrite addr v).Sound := .ite h.badAccess h.writeReg

theorem State.Sound.readOn (h : s.Sound) {path : RegPath} {addr : Nat} : (s.readOn path addr).1.Sound := by
  unfold State.readOn
  split
  · exact h.badAccess
  · exact h

theorem State.Sound.debugRead (h : s.Sound) {addr : Nat} : (s.debugRead addr).Sound := by
  unfold State.debugRead
  exact h.readOn.onEng fun _ h => h.same (by rfl)

theorem State.Sound.settleRoll (h : s.Sound) : s.settleRoll.Sound :=
  .ite (.ite h.completeRoll.postNoSpare h.completeRoll.post) h

theorem State.Sound.setWaiting (h : s.Sound) {w : List HeldAccess} : (s.setWaiting w).Sound := h.onEng fun _ h => h.same (by rfl)

end Sys2Proof.Machine
end

section
/-! PROOFS. Every command keeps the state sound. -/

namespace Sys2Proof.Machine

variable {s : State}

/-! ## Machine/Window -/

theorem execHaloReadyWaitEnd_keepsSound (h : s.Sound) {n : Sp} {j waited : Nat} : KeepsSound (execHaloReadyWaitEnd n j waited s) := by
  unfold execHaloReadyWaitEnd
  refine .done (h.onEng fun e h => ?_)
  refine h.withJob fun x => ?_
  split
  · split
    · split
      · exact .ite h ((h.countHaloWait.modJob fun _ => by rfl).readyHalf)
      · exact h.readyHalf
    · exact h
  · exact h

/-! ## Machine/Draft -/

theorem execCarderSourceRead_keepsSound (h : s.Sound) {n : Sp} {j : Nat} {row : Ecc} : KeepsSound (execCarderSourceRead n j row s) := by
  unfold execCarderSourceRead
  refine .done (h.onEng fun e h => ?_)
  refine h.withJob fun x => ?_
  split
  · exact .ite h (h.sourceChunk.onArrive fun _ _ h => .carded (.askSource
      (.ite (((h.modJob fun _ => by rfl).modSp fun _ => by rfl).putScratch) ((h.modJob fun _ => by rfl).modSp fun _ => by rfl))))
  · exact h

theorem execScaleChosen_keepsSound (h : s.Sound) {n : Sp} {j : Nat} : KeepsSound (execScaleChosen n j s) := by
  unfold execScaleChosen
  refine .done (h.onEng fun e h => ?_)
  refine h.withJob fun x => ?_
  split
  · exact .ite h.beginDrafting h
  · exact h

theorem execGroupSlotWriteAck_keepsSound (h : s.Sound) {n : Sp} {j : Nat} : KeepsSound (execGroupSlotWriteAck n j s) := by
  unfold execGroupSlotWriteAck
  refine .done (h.onEng fun e h => ?_)
  split
  · split
    · exact .ite ((h.modJob fun _ => by rfl).knotIssue) h
    · exact h
  · exact h

theorem execGroupWaitEnd_keepsSound (h : s.Sound) {n : Sp} {j : Nat} : KeepsSound (execGroupWaitEnd n j s) := by
  unfold execGroupWaitEnd
  refine .done (h.onEng fun e h => ?_)
  refine h.withJob fun x => ?_
  split
  · split
    · extract_lets len e1
      have he1 : e1.Sound := .ite h ((h.modJob fun _ => by rfl).jobRead)
      split
      · split
        · exact he1
        · refine he1.arrive.onArrive fun e bs h => ?_
          split
          · exact h.fault
          · exact (h.modJob fun _ => by rfl).beginDrafting
      · exact he1
    · exact h
  · exact h

theorem execDrafterSourceRead_keepsSound (h : s.Sound) {n : Sp} {j : Nat} {row : Ecc} : KeepsSound (execDrafterSourceRead n j row s) := by
  unfold execDrafterSourceRead
  refine .done (h.onEng fun e h => ?_)
  refine h.withJob fun x => ?_
  split
  · exact .ite h (h.sourceChunk.onArrive fun _ _ h => .ite h.countRun.fault
      (.draftEnd (.emitTiles (.ite ((h.countRun.modJob fun _ => by rfl).askSource) (h.countRun.modJob fun _ => by rfl)))))
  · exact h

theorem execStreamHeaderWriteAck_keepsSound (h : s.Sound) {n : Sp} {j : Nat} : KeepsSound (execStreamHeaderWriteAck n j s) := by
  unfold execStreamHeaderWriteAck
  refine .done (h.onEng fun e h => ?_)
  refine h.withJob fun x => ?_
  split
  · exact .ite ((h.modJob fun _ => by rfl).draftDone) h
  · exact h

theorem execStepSetCommit_keepsSound (h : s.Sound) {n : Sp} {setId : Nat} : KeepsSound (execStepSetCommit n setId s) := by
  unfold execStepSetCommit
  refine .done (h.onEng fun e h => ?_)
  extract_lets members drafts size
  split
  · refine h.foldl fun e a h => ?_
    split
    · exact h.writeHeader
    · exact h
  · exact h

theorem execHaloSlotWaitEnd_keepsSound (h : s.Sound) {n : Sp} {j waited : Nat} : KeepsSound (execHaloSlotWaitEnd n j waited s) := by
  unfold execHaloSlotWaitEnd
  refine .done (h.onEng fun e h => ?_)
  dsimp only
  split
  · refine .ite (.foldl (h.modSp fun _ => by rfl) fun e i h => ?_) h
    split
    · split
      · exact .ite h.writeHalf h
      · exact h
    · exact h
  · exact h

theorem execHalfPublishAck_keepsSound (h : s.Sound) {n : Sp} {j : Nat} : KeepsSound (execHalfPublishAck n j s) := by
  unfold execHalfPublishAck
  refine .done (h.onEng fun e h => ?_)
  split
  · split
    · split
      · exact ((h.modJob fun _ => by rfl).knotIssue).draftDone
      · exact h
    · exact h
  · exact h

/-! ## Machine/Crop -/

theorem execBoxListHeaderArrive_keepsSound (h : s.Sound) {n : Sp} {j : Nat} : KeepsSound (execBoxListHeaderArrive n j s) := by
  unfold execBoxListHeaderArrive
  refine .done (h.onEng fun e h => ?_)
  refine h.withJob fun x => ?_
  split
  · extract_lets base
    split
    · exact h
    · split
      · exact h.arrive.onArrive fun _ _ h => .ite h.fault ((h.modJob fun _ => by rfl).jobRead)
      · exact h.arrive.onArrive fun _ _ h => (h.modJob fun _ => by rfl).cropNext
  · exact h

/-! ## Machine/Hank -/

theorem execHankSideGrant_keepsSound (h : s.Sound) {n : Sp} {side : HankSide} {waited : Nat} : KeepsSound (execHankSideGrant n side waited s) := by
  unfold execHankSideGrant
  refine .done (h.onEng fun e h => ?_)
  split
  · exact .ite (((h.modSp fun _ => by rfl).trySide).hankBegin) h
  · exact h

theorem execHankMatchDone_keepsSound (h : s.Sound) {n : Sp} {j : BlockMatch} : KeepsSound (execHankMatchDone n j s) := by
  unfold execHankMatchDone
  refine .done (h.onEng fun e h => ?_)
  refine h.withJob fun x => ?_
  split
  · exact .ite h (h.arrive.onArrive fun _ _ h => ((h.modSp fun _ => by rfl).modJob fun _ => by rfl).askBlock)
  · exact h

theorem execHankBuildDone_keepsSound (h : s.Sound) {n : Sp} {j : Nat} : KeepsSound (execHankBuildDone n j s) := by
  unfold execHankBuildDone
  refine .done (h.onEng fun e h => ?_)
  refine h.withJob fun x => ?_
  split
  · split
    · exact h.modJob fun _ => by rfl
    · exact h
  · exact h

theorem execHankEmitDone_keepsSound (h : s.Sound) {n : Sp} {j : Nat} : KeepsSound (execHankEmitDone n j s) := by
  unfold execHankEmitDone
  refine .done (h.onEng fun e h => ?_)
  refine h.withJob fun x => ?_
  split
  · split
    · extract_lets off e1
      have he1 : e1.Sound := (h.modJob fun _ => by rfl).hankWrite
      exact .ite he1 (.ite ((he1.modSp fun _ => by rfl).hankClose) (he1.modSp fun _ => by rfl))
    · exact h
  · exact h

theorem execHankDecodeSetupDone_keepsSound (h : s.Sound) {n : Sp} {j : Nat} : KeepsSound (execHankDecodeSetupDone n j s) := by
  unfold execHankDecodeSetupDone
  refine .done (h.onEng fun e h => ?_)
  refine h.withJob fun x => ?_
  extract_lets e1
  have he1 : e1.Sound := h.hankAdvance.hankAdvance
  split
  · split
    · split
      · exact .ite he1 (.ite (.ite he1.hankFail he1) (he1.arrive.onArrive fun _ _ h => h.modJob fun _ => by rfl))
      · exact he1
    · exact he1
  · exact he1

theorem execHankBlockDecoded_keepsSound (h : s.Sound) {n : Sp} {j : Nat} : KeepsSound (execHankBlockDecoded n j s) := by
  unfold execHankBlockDecoded
  refine .done (h.onEng fun e h => h.withJob fun x => ?_)
  split
  · split
    · split
      · exact h
      · dsimp only
        split
        · exact h.hankFail
        · exact .ite ((h.modSp fun _ => by rfl).modJob fun _ => by rfl).jobWrite.hankEnd
            ((h.modSp fun _ => by rfl).modJob fun _ => by rfl).jobWrite.hankAskEntry
    · exact h
  · exact h

/-! ## Machine/PlyArr -/

theorem execPlyBankReadDone_keepsSound (h : s.Sound) {n : Sp} {j : Nat} {row : Ecc} {whorlWait drainWait : Nat} :
    KeepsSound (execPlyBankReadDone n j row whorlWait drainWait s) := by
  unfold execPlyBankReadDone
  refine .done (h.onEng fun e h => ?_)
  refine h.withJob fun x => ?_
  split
  · exact .ite h (.ite (((h.modSp fun _ => by rfl).readRows).fault) (((h.modSp fun _ => by rfl).readRows).readBank))
  · exact h

/-! ## Machine/Sparse -/

theorem execSearchDone_keepsSound (h : s.Sound) {n : Sp} {lane : Fin 64} : KeepsSound (execSearchDone n lane s) :=
  .done (h.onEng fun _ h => h.modSp fun sp => by split <;> rfl)

theorem execMergeSegmentDone_keepsSound (h : s.Sound) {n : Sp} {lane : SegmentEnd} : KeepsSound (execMergeSegmentDone n lane s) := by
  unfold execMergeSegmentDone
  refine .done (h.onEng fun e h => ?_)
  split
  · exact .ite (.ite (((h.modSp fun _ => by rfl).readRows).fault) (((h.modSp fun _ => by rfl).readRows).mergeDone)) h
  · exact h

theorem execSortPassDone_keepsSound (h : s.Sound) {n : Sp} {j : Nat} {o : Opnd} : KeepsSound (execSortPassDone n j o s) := by
  unfold execSortPassDone
  refine .done (h.onEng fun e h => ?_)
  refine h.withJob fun x => ?_
  split
  · extract_lets unsorted
    exact .ite h (.ite (.ite h.placeRuns h) (.ite (.modStrm (.ite h.placeRuns h))
      (.ite (.fault (.ite h.placeRuns h)) (.sparseOn (.modStrm (.ite h.placeRuns h))))))
  · exact h

theorem execLaneStealRequest_keepsSound (h : s.Sound) {n : Sp} {lane : Fin 64} : KeepsSound (execLaneStealRequest n lane s) :=
  .done (h.onEng fun _ h => h.modSp fun sp => by split <;> rfl)

theorem execLaneStealDecide_keepsSound (h : s.Sound) {n : Sp} {victim : Fin 64} : KeepsSound (execLaneStealDecide n victim s) :=
  .done (h.onEng fun _ h => h.modSp fun sp => by
    dsimp only
    split <;> rfl)

theorem execLaneStealAnswer_keepsSound (h : s.Sound) {n : Sp} {lane : Fin 64} : KeepsSound (execLaneStealAnswer n lane s) := by
  unfold execLaneStealAnswer
  refine .done (h.onEng fun _ h => .thiefAdvance (h.modSp fun sp => ?_))
  dsimp only
  split
  · rfl
  · split
    · split <;> rfl
    · rfl
  · rfl

theorem execLaneStealRetry_keepsSound (h : s.Sound) {n : Sp} {lane : Fin 64} : KeepsSound (execLaneStealRetry n lane s) :=
  .done (h.onEng fun _ h => h.modSp fun sp => by
    split
    · split <;> rfl
    · rfl)

theorem execRingStealRequest_keepsSound (h : s.Sound) {n : Sp} : KeepsSound (execRingStealRequest n s) :=
  .done (h.onEng fun _ h => .ite ((h.modSp fun _ => by rfl).ringDecide) h)

theorem execRingStealAnswer_keepsSound (h : s.Sound) {n : Sp} : KeepsSound (execRingStealAnswer n s) := by
  unfold execRingStealAnswer
  refine .done (h.onEng fun e h => ?_)
  split
  · exact h
  · exact (h.modSp fun _ => by rfl).thiefAdvance
  · extract_lets e1
    have he1 : e1.Sound := h.modSp fun _ => by rfl
    exact .ite (.ite ((he1.modSp fun _ => by rfl).ringDecide) (he1.modSp fun _ => by rfl)) (he1.modSp fun _ => by rfl)

theorem execRingStealRetry_keepsSound (h : s.Sound) {n : Sp} : KeepsSound (execRingStealRetry n s) :=
  .done (h.onEng fun _ h => .ite (.ite ((h.modSp fun _ => by rfl).ringDecide) (h.modSp fun _ => by rfl)) h)

theorem execRingRecordWriteAck_keepsSound (h : s.Sound) {n : Sp} : KeepsSound (execRingRecordWriteAck n s) := by
  unfold execRingRecordWriteAck
  refine .done (h.onEng fun e h => ?_)
  split
  · exact h
  · exact (h.modSp fun _ => by rfl).knotIssue

theorem execAbandonNotice_keepsSound (h : s.Sound) {n : Sp} : KeepsSound (execAbandonNotice n s) := by
  unfold execAbandonNotice
  refine .done (h.onEng fun e h => ?_)
  split
  · exact h
  · exact (h.modSp fun _ => by rfl).stopRing

theorem execPartialReduce_keepsSound (h : s.Sound) {n : Sp} {j output : Nat} : KeepsSound (execPartialReduce n j output s) := by
  unfold execPartialReduce
  refine .done (h.onEng fun e h => ?_)
  refine h.withJob fun x => ?_
  split
  · exact .ite h.reduceOn h
  · exact h

/-! ## Machine/Streams -/

theorem execStreamHeaderArrive_keepsSound (h : s.Sound) {n : Sp} {j : Nat} {o : Opnd} {row : Ecc} :
    KeepsSound (execStreamHeaderArrive n j o row s) := by
  unfold execStreamHeaderArrive
  refine .done (h.onEng fun e h => ?_)
  refine h.withJob fun x => ?_
  split
  · split
    · exact h
    · split
      · refine h.strmRead.onArrive fun e bs h => ?_
        split
        · split
          · exact h.header
          · exact h
        · exact h
      · exact h.arrive.onArrive fun _ _ h => .ite h.openWrapped h.header
  · exact h

theorem execTileEntryArrive_keepsSound (h : s.Sound) {n : Sp} {j : Nat} {o : Opnd} {row : Ecc} : KeepsSound (execTileEntryArrive n j o row s) := by
  unfold execTileEntryArrive
  refine .done (h.onEng fun e h => ?_)
  refine h.withJob fun x => ?_
  split
  · exact h
  · split
    · exact .ite h.listPtrs h
    · extract_lets read
      split
      · exact .ite h.firstEntry h.nextEntry
      · exact .ite h h.nextEntry
      · split
        · exact h.windowEntries
        · exact h.cropEntry
        · exact h.nextEntry
      · exact h

theorem execStreamSetupDone_keepsSound (h : s.Sound) {n : Sp} {j : Nat} {o : Opnd} : KeepsSound (execStreamSetupDone n j o s) := by
  unfold execStreamSetupDone
  refine .done (h.onEng fun e h => ?_)
  refine h.withJob fun x => ?_
  split
  · split
    · extract_lets e1
      have he1 : e1.Sound := h.modStrm.openNext
      split
      · split
        · exact he1.windowFirst
        · exact he1
      · exact he1.cropNext
      · exact he1.bothOpen
      · exact he1.bothOpen
      · exact he1
    · exact h
  · exact h

theorem execTilePayloadArrive_keepsSound (h : s.Sound) {n : Sp} {j : Nat} {o : Opnd} {row : Ecc} {waited : Nat} :
    KeepsSound (execTilePayloadArrive n j o row waited s) := by
  unfold execTilePayloadArrive
  refine .done (h.onEng fun e h => ?_)
  refine h.withJob fun x => ?_
  split
  · exact h
  · split
    · exact h
    · split
      · exact h.windowPayload
      · exact h.cropPayload
      · exact .ite h.nextTile h
      · split
        · exact h.nextRow
        · exact h.nextTile

theorem execWhorlBankFilled_keepsSound (h : s.Sound) {n : Sp} {j : Nat} : KeepsSound (execWhorlBankFilled n j s) := by
  unfold execWhorlBankFilled
  refine .done (h.onEng fun e h => ?_)
  split
  · split
    · refine h.withJob fun x => ?_
      split
      · exact h.fillBank
      · exact h
    · exact .ite h.fillRow h
  · exact .ite h.fillRow h

theorem execAccumulatorDrain_keepsSound (h : s.Sound) {n : Sp} {j : Nat} : KeepsSound (execAccumulatorDrain n j s) := by
  unfold execAccumulatorDrain
  refine .done (h.onEng fun e h => ?_)
  refine h.withJob fun x => ?_
  split
  · exact h.drainPly
  · split
    · exact .ite h.drainSparse h
    · exact h

/-! ## Machine/Queues -/

theorem execPortQueueWriteBody_keepsSound (h : s.Sound) {w : PortWrite} : KeepsSound (execPortQueueWriteBody w s) :=
  .done (h.onEng fun _ h => h.portWrite)

theorem execPortQueueWriteEnd_keepsSound (h : s.Sound) {w : PortWrite} : KeepsSound (execPortQueueWriteEnd w s) :=
  .done (h.onEng fun _ h => h.portWrite)

theorem execPortQueueWriteAbort_keepsSound (h : s.Sound) {w : PortWrite} : KeepsSound (execPortQueueWriteAbort w s) :=
  .done (h.onEng fun _ h => h.portWrite)

theorem execPortQueueRead_keepsSound (h : s.Sound) {r : PortRead} {cell : CellEcc} : KeepsSound (execPortQueueRead r cell s) :=
  .done (h.onEng fun _ h => .ite h.modPort.portReadServe h)

theorem execFlyerQueueWrite_keepsSound (h : s.Sound) {q : Nat} {bytes : List Byte} {ends : Bool} : KeepsSound (execFlyerQueueWrite q bytes ends s) :=
  .done (h.onEng fun _ h => .ite h.flyerPut h)

theorem execSpindleQueueWrite_keepsSound (h : s.Sound) {n : Sp} {j : Nat} : KeepsSound (execSpindleQueueWrite n j s) := by
  unfold execSpindleQueueWrite
  refine .done (h.onEng fun e h => ?_)
  refine h.withJob fun x => ?_
  split
  · exact h
  · exact .ite h (.ite h.fault h.popWord.jobPut)

theorem execFeedWordSend_keepsSound (h : s.Sound) {n : Sp} {j waited : Nat} : KeepsSound (execFeedWordSend n j waited s) := by
  unfold execFeedWordSend
  refine .done (h.onEng fun e h => ?_)
  refine h.withJob fun x => ?_
  split
  · exact h
  · exact .ite h (((h.modSp fun _ => by rfl).popWord).afterWord)

theorem execCellGrant_keepsSound (h : s.Sound) : KeepsSound (execCellGrant s) := by
  unfold execCellGrant
  refine .done (h.onEng fun e h => ?_)
  split
  · exact h
  · exact h.continueWait

theorem execCellWaitExpiry_keepsSound (h : s.Sound) {q : Nat} : KeepsSound (execCellWaitExpiry q s) := by
  unfold execCellWaitExpiry
  refine .done (h.onEng fun e h => ?_)
  dsimp only
  split
  · exact h
  · split
    · exact h
    · split
      · split
        · exact h.fault
        · exact h.qResume
      · refine .continueWait ?_
        split
        · exact h.qResume.qFull.portResp.portOn
        · exact h.qResume.qFull

theorem execStaleTimerExpiry_keepsSound (h : s.Sound) {q : Nat} : KeepsSound (execStaleTimerExpiry q s) := by
  unfold execStaleTimerExpiry
  refine .done (h.onEng fun e h => ?_)
  extract_lets x qe e1
  have he1 : e1.Sound := .ite (h.onCreel h.queues.flush) h
  split
  · exact h
  · refine .ite h (.raise (he1.onCreel ?_))
    dsimp only
    exact he1.queues.upd fun _ => le_rfl

theorem execSpindleCellRead_keepsSound (h : s.Sound) {n : Sp} {j : Nat} {cell : CellEcc} : KeepsSound (execSpindleCellRead n j cell s) := by
  unfold execSpindleCellRead
  refine .done (h.onEng fun e h => ?_)
  refine h.withJob fun x => ?_
  split
  · extract_lets q need
    split
    · exact h
    · split
      · exact (h.cellLost.onCreel h.cellLost.queues.cut).modJob fun _ => by rfl
      · exact (h.cellLost.modJob fun _ => by rfl).fault
      · extract_lets e0 e1
        have he0 : e0.Sound := .ite h.cellFixed h
        have he1 : e1.Sound := he0.onCreel he0.queues.take
        exact .ite ((he1.modJob fun _ => by rfl).fault) ((he1.modSp fun _ => by rfl).modJob fun _ => by split <;> rfl)
  · exact h

/-! ## Machine/Feed -/

theorem execFwdCreditGrant_keepsSound (h : s.Sound) {n : Sp} : KeepsSound (execFwdCreditGrant n s) :=
  .done (h.onEng fun _ h => .ite h (.ite h.violation.resync (h.modLink.foldl fun _ _ h => h.resumeReads)))

theorem execFlnkRstEnd_keepsSound (h : s.Sound) {n : Sp} : KeepsSound (execFlnkRstEnd n s) :=
  .done (h.onEng fun _ h => .ite h.modLink h)

theorem execBackWordArrive_keepsSound (h : s.Sound) {n : Sp} {tag : BitVec 2} {count : BitVec 6} {data : List Byte} :
    KeepsSound (execBackWordArrive n tag count data s) :=
  .done (h.onEng fun _ h => .ite h (.ite h.violation.resync (.ite h.violation h.modLink.drainBack)))

/-! ## Machine/Start -/

theorem execJobStart_keepsSound (h : s.Sound) {n : Sp} : KeepsSound (execJobStart n s) := by
  unfold execJobStart
  refine .done (h.onEng fun e h => ?_)
  split
  · exact .ite h.relatch.startHead h.relatch
  · exact h

theorem execWorkClaimGrant_keepsSound (h : s.Sound) {n : Sp} : KeepsSound (execWorkClaimGrant n s) := by
  unfold execWorkClaimGrant
  refine .done (h.onEng fun e h => ?_)
  split
  · exact .ite (((((h.takeBanks.modJob fun _ => by rfl).beginWork).hankAdvance).kickSparse).drainBack) h
  · exact h

theorem execCompletionPost_keepsSound (h : s.Sound) {n : Sp} {j clocks stalled : Nat} :
    KeepsSound (execCompletionPost n j clocks stalled s) := by
  unfold execCompletionPost
  refine .done (h.onEng fun e h => ?_)
  split
  · exact h
  · extract_lets e
    have he : e.Sound := h.hankEnd
    split
    · split
      · exact .ite he.postJob he
      · exact he
    · exact he

theorem execPlacementDecision_keepsSound (h : s.Sound) : KeepsSound (execPlacementDecision s) := by
  unfold execPlacementDecision
  refine .done (h.onEng fun e h => ?_)
  split
  · exact h
  · exact .ite (h.same (by rfl)).answerPlace.hankAdvance.hankEnd.draftHead h

theorem execStagedCopyDone_keepsSound (h : s.Sound) {tensor : Nat} : KeepsSound (execStagedCopyDone tensor s) :=
  .done (h.onEng fun _ h => .ite h (.foldl (.ite h.stageCopy.modTensor.spill h.stageCopy.modTensor) fun _ _ h => h.hankAdvance))

theorem execTensorFree_keepsSound (h : s.Sound) {tensor : Nat} : KeepsSound (execTensorFree tensor s) :=
  .done (h.onEng fun _ h => .ite h.freeNow h)

theorem execTranslationMissFill_keepsSound (h : s.Sound) {n : Sp} {tensor : Nat} : KeepsSound (execTranslationMissFill n tensor s) :=
  .done (h.onEng fun _ h => .ite
    ((((h.modSp fun _ => by rfl).foldl fun _ _ h => h.releaseHeld.hankAdvance.hankEnd.draftHead).releaseRecords).thiefAdvance) h)

/-! ## Machine/Switch -/

theorem execSwitchPointReached_keepsSound (h : s.Sound) {n : Sp} : KeepsSound (execSwitchPointReached n s) := by
  unfold execSwitchPointReached
  refine .done (h.onEng fun e h => ?_)
  split
  · exact h
  · split
    · exact h
    · exact .ite (.ite h (h.modSp fun _ => by rfl)) h.setRun

theorem execContextSaveDone_keepsSound (h : s.Sound) {n : Sp} {ns : Nat} : KeepsSound (execContextSaveDone n ns s) := by
  unfold execContextSaveDone
  refine .done (h.onEng fun e h => ?_)
  split
  · exact h
  · extract_lets merge lanes mine held e1 level e2
    have he1 : e1.Sound := h.modSp fun s => s.kept_mapJobs fun _ => by split <;> rfl
    have he2 : e2.Sound := he1.switchTime.saveSlot
    split
    · exact .ite he2.relatch.startHead he2
    · exact he2.kickSparse

theorem execJobResume_keepsSound (h : s.Sound) {n : Sp} : KeepsSound (execJobResume n s) := by
  unfold execJobResume
  refine .done (h.onEng fun e h => ?_)
  split
  · exact h
  · exact .ite h h.setRun

theorem execContextRestoreDone_keepsSound (h : s.Sound) {n : Sp} {ns : Nat} : KeepsSound (execContextRestoreDone n ns s) := by
  unfold execContextRestoreDone
  refine .done (h.onEng fun e h => ?_)
  extract_lets back
  exact .ite h ((((h.modSp fun s => s.kept_mapJobs fun _ => by split <;> rfl).switchTime).foldl fun _ _ h => h.serveClass.hankAdvance).kickSparse)

theorem execDrainLimitExpiry_keepsSound (h : s.Sound) {n : Sp} : KeepsSound (execDrainLimitExpiry n s) := by
  unfold execDrainLimitExpiry
  refine .done (h.onEng fun e h => ?_)
  extract_lets s e1 e2 e3
  have he1 : e1.Sound := .ite (h.drainAbort.modSp fun _ => by rfl) h
  have he2 : e2.Sound := .ite (he1.drainAbort.modSp fun _ => by rfl) he1
  have he3 : e3.Sound := .ite (he2.drainAbort.modSp fun _ => by rfl) he2
  exact .ite (he3.drainAbort.modSp fun _ => by rfl) he3

/-! ## Machine/Doffer -/

theorem execRecordStepsBegin_keepsSound (h : s.Sound) : KeepsSound (execRecordStepsBegin s) := by
  unfold execRecordStepsBegin
  refine .done (h.onEng fun e h => ?_)
  split
  · exact .ite (.ite (h.relatch.same (by rfl)).recordEnd (h.relatch.same (by rfl)).runFolds) h
  · exact h

theorem execFoldHeaderReadDone_keepsSound (h : s.Sound) {resp : AxiResp} {data : List Byte} : KeepsSound (execFoldHeaderReadDone resp data s) := by
  unfold execFoldHeaderReadDone
  refine .done (h.onEng fun e h => ?_)
  dsimp only
  split
  · have hanswered := (Engine.Sound.ite (c := resp = .okay) h (h.foldFails (write := false))).foldAnswered (write := false)
    exact .ite h (.ite hanswered (.ite (.foldOn (by exact { hanswered with mem := hanswered.mem.writeBytes })) hanswered.foldOn))
  · exact h

theorem execFoldDestAck_keepsSound (h : s.Sound) {resp : AxiResp} : KeepsSound (execFoldDestAck resp s) := by
  unfold execFoldDestAck
  refine .done (h.onEng fun e h => ?_)
  split
  · exact .ite h (.ite (.foldAnswered (.ite h h.foldFails)) (.foldOn (.foldAnswered (.ite h h.foldFails))))
  · exact h

theorem execDofferAccept_keepsSound (h : s.Sound) : KeepsSound (execDofferAccept s) := by
  unfold execDofferAccept
  refine .done (h.onEng fun e h => ?_)
  extract_lets d
  split
  · exact h
  · split
    · exact h
    · exact .ite h (.modSp (.ite (h.same (by rfl)).countJobFault (h.same (by rfl))) fun _ => by rfl)

theorem execKnotBankApply_keepsSound (h : s.Sound) {bank : Fin 16} {row : Ecc} : KeepsSound (execKnotBankApply bank row s) := by
  unfold execKnotBankApply
  refine .done (h.onEng fun e h => ?_)
  dsimp only
  split
  · refine .ite (.bankApply ?_) h
    split
    · exact h.same (by rfl)
    · exact .eccCorrected (h.same (by rfl))
    · exact .repairRow (h.same (by rfl))
  · exact h

/-! ## Machine/Rebind -/

theorem execRebindDrainEnd_keepsSound (h : s.Sound) : KeepsSound (execRebindDrainEnd s) := by
  unfold execRebindDrainEnd
  refine .done (h.onEng fun e h => ?_)
  split
  · split
    · exact .ite h.finishRebind h
    · exact h
  · exact h

/-! ## Machine/DistaffOps -/

theorem execDistaffBlockWriteDone_keepsSound (h : s.Sound) {failed : Bool} : KeepsSound (execDistaffBlockWriteDone failed s) := by
  unfold execDistaffBlockWriteDone
  refine .done (h.onEng fun e h => ?_)
  dsimp only
  split
  · split
    · exact h
    · exact .ite h (.ite h.retireWritten (h.same (by rfl)))
  · exact .ite h (.ite (.ite (h.retire.same (by rfl)) h.retire) (.ite (h.same (by rfl)) (.same (h.withDistaff h.regions.writeRegion) (by rfl))))

/-! ## Machine/Security -/

theorem execUnlistedOpcodeSubmit_keepsSound (h : s.Sound) : KeepsSound (execUnlistedOpcodeSubmit s) := .done (.ite h (h.keyed fun _ h => h))

theorem execKeyRoll_keepsSound (h : s.Sound) : KeepsSound (execKeyRoll s) := by
  unfold execKeyRoll
  refine .done (h.keyed fun s h => .ite h ?_)
  have henter {g : Keys → Keys} : (if s.eng.distaff.canStore then s.storeKeys g else s.postNoSpare).Sound := .ite h.storeKeys h.postNoSpare
  split
  · exact henter
  · exact henter
  · exact h.post

theorem execTestUnlock_keepsSound (h : s.Sound) : KeepsSound (execTestUnlock s) := .done (h.keyed fun _ h => h.onSec.post)

theorem execCounterReseed_keepsSound (h : s.Sound) : KeepsSound (execCounterReseed s) :=
  .done (h.keyed fun _ h => .ite h.post (.ite h.storeKeys.post h.postNoSpare))

theorem execScrubPolicy_keepsSound (h : s.Sound) : KeepsSound (execScrubPolicy s) :=
  .done (h.keyed fun _ h => .ite (.post (h.onEng fun _ h => h.same (by rfl))) h.post)

theorem execSecAttRequest_keepsSound (h : s.Sound) : KeepsSound (execSecAttRequest s) := .done (.ite h (.ite h.onSec h.keepAccess))

theorem execAttestReportReady_keepsSound (h : s.Sound) : KeepsSound (execAttestReportReady s) := .done (.ite h.onSec h)

/-! ## Machine/Image -/

theorem execImageActivate_keepsSound (h : s.Sound) {resp : AxiResp} {copy : List Byte} : KeepsSound (execImageActivate resp copy s) := by
  unfold execImageActivate
  refine .done (h.keyed fun s h => .ite h.post (h.forFlyer fun s h => ?_))
  extract_lets b s1
  have hs1 : s1.Sound := h.onEng fun e h => by
    have hread : (e.imageRead b.length).Sound := h.imageRead
    exact .ite (by exact { hread with mem := hread.mem.writeBytes }) hread.unitBusError
  split
  · exact hs1.rejectImage
  · exact hs1.acceptCopy

theorem execImageStoreDone_keepsSound (h : s.Sound) : KeepsSound (execImageStoreDone s) := by
  unfold execImageStoreDone
  refine .done ?_
  split
  · split
    · exact .ite h (.ite (.post (h.onEng fun _ h => h.makePending)) (.rejectImage (h.onEng fun _ h => h.same (by rfl))))
    · exact h
  · exact h

theorem execRebind_keepsSound (h : s.Sound) : KeepsSound (execRebind s) := by
  unfold execRebind
  refine .done (h.keyed fun s h => .ite h.post (h.forFlyer fun s h => ?_))
  dsimp only
  split
  · exact h.rejectImage
  · exact .post (h.onEng fun _ h => h.makePending)

theorem execImageSelected_keepsSound (h : s.Sound) {distaff : Ecc} : KeepsSound (execImageSelected distaff s) := by
  unfold execImageSelected
  refine .done (.ite h (h.onEng fun e h => ?_))
  dsimp only
  split
  · exact .raiseIf (h.touchDistaff.same (by rfl))
  · exact .raise (h.touchDistaff.same (by rfl))

theorem execStartImageApplied_keepsSound (h : s.Sound) : KeepsSound (execStartImageApplied s) := by
  unfold execStartImageApplied
  refine .done (.ite h (h.onEng fun e h => ?_))
  extract_lets r b _ e1
  have he1 : e1.Sound := h.same (by rfl)
  split
  · exact h.same (by rfl)
  · extract_lets e2
    have he2 : e2.Sound := he1.applyCfg
    clear_value e2
    exact he2.same (by rfl)

/-! ## Machine/Resets -/

theorem execColdReset_keepsSound (h : s.Sound) : KeepsSound (execColdReset s) := .done ⟨h.eng.powerOn⟩

theorem execSupplyRemoved_keepsSound (h : s.Sound) : KeepsSound (execSupplyRemoved s) := .done ⟨.same h.eng.powerOn (by rfl)⟩

theorem execWarmReset_keepsSound (h : s.Sound) {cause : WarmCause} : KeepsSound (execWarmReset cause s) := by
  unfold execWarmReset
  refine .done (h.onEng fun e h => ?_)
  have hcaused {e' : Engine} (h' : e'.Sound) : (if e.power.phase = .quiesce ∨ e.power.phase = .held then e' else e'.beginWarm).Sound :=
    .ite h' h'.beginWarm
  refine .ite h (hcaused ?_)
  split
  · exact h.same (by rfl)
  · exact h.draw.eccEntry.same (by rfl)

theorem execWarmQuiesceEnd_keepsSound (h : s.Sound) : KeepsSound (execWarmQuiesceEnd s) := .done (.ite ⟨h.eng.warmed.raiseLinks⟩ h)

theorem execWarmResetRelease_keepsSound (h : s.Sound) {heldForRecovery : Bool} : KeepsSound (execWarmResetRelease heldForRecovery s) :=
  .done (h.onEng fun _ h => .ite h (.ite (h.same (by rfl)) (h.same (by rfl))))

/-! ## Machine/Boot -/

theorem execStartDistaffWoken_keepsSound (h : s.Sound) : KeepsSound (execStartDistaffWoken s) :=
  .done (h.onEng fun _ h => .ite h (h.same (by rfl)))

theorem Distaff.Sound.rebuild {d : Distaff} (h : d.Sound) : d.rebuild.Sound := by
  unfold Distaff.rebuild
  exact ⟨h.fw, h.imgA, h.imgB⟩

theorem execStartMapRebuilt_keepsSound (h : s.Sound) : KeepsSound (execStartMapRebuilt s) := by
  unfold execStartMapRebuilt
  refine .done (h.onEng fun e h => .ite h ?_)
  have hd := h.regions.rebuild
  generalize e.distaff.rebuild = d at hd ⊢
  exact { h with fw := hd.fw, imgA := hd.imgA, imgB := hd.imgB }

theorem execStartKeysLoaded_keepsSound (h : s.Sound) : KeepsSound (execStartKeysLoaded s) := .done (.ite h ⟨h.completeRoll.eng.same (by rfl)⟩)

theorem execFirmwareMeasured_keepsSound (h : s.Sound) {distaff : Ecc} : KeepsSound (execFirmwareMeasured distaff s) := by
  unfold execFirmwareMeasured
  refine .done (.ite h (.ite h.openRecovery (.ite h.openRecovery ?_)))
  dsimp only
  split
  · exact h.openRecovery
  · exact ⟨{ h.eng.touchDistaff with sram := trimmed_trimZeros _ }⟩

theorem execRecoveryLoadDone_keepsSound (h : s.Sound) : KeepsSound (execRecoveryLoadDone s) := by
  unfold execRecoveryLoadDone
  refine .done (.ite h ?_)
  dsimp only
  split
  · refine h.onEng fun e h => ?_
    have hd {l l' r b bs} : (((e.touchDistaff.distaff.writeNow l).writeNow l').storeNow r b bs).Sound :=
      h.touchDistaff.regions.writeNow.writeNow.storeNow
    exact .beginWarm (by exact { h.touchDistaff with fw := hd.fw, imgA := hd.imgA, imgB := hd.imgB, sram := trimmed_trimZeros _ })
  · exact ⟨{ h.eng with sram := h.eng.sram }⟩

theorem execFlyerCellRead_keepsSound (h : s.Sound) {cell : CellEcc} : KeepsSound (execFlyerCellRead cell s) := by
  unfold execFlyerCellRead
  refine .done (h.onEng fun e h => ?_)
  split
  · split
    · exact h
    · extract_lets r
      have hr : r.1.Sound := h.readCell
      split
      · exact hr.loadCell
      · exact hr
  · split
    · split
      · extract_lets r
        have hr : r.1.Sound := h.readCell
        split
        · exact hr.same (by rfl)
        · exact hr
      · exact h
    · exact h

/-! ## Machine/Ports -/

theorem execLeafReadResponse_keepsSound (h : s.Sound) {p : Port} {id : BitVec 10} {resp : AxiResp} {poisoned rlast : Bool}
    {data : List Byte} : KeepsSound (execLeafReadResponse p id resp poisoned rlast data s) := by
  unfold execLeafReadResponse
  refine .done (h.onEng fun e h => .ite h ?_)
  split
  · split
    · exact h.unitResponse
    · exact h.portBad
  · split
    · exact h.portBad
    · exact .ite h.portBad (h.answered fun _ h => .afterAnswer (by exact { h with mem := h.mem.writeBytes }))

theorem execLeafWriteResponse_keepsSound (h : s.Sound) {p : Port} {id : BitVec 10} {resp : AxiResp} {dataSent : Bool} :
    KeepsSound (execLeafWriteResponse p id resp dataSent s) := by
  unfold execLeafWriteResponse
  refine .done (h.onEng fun e h => .ite h ?_)
  split
  · split
    · exact h.unitResponse
    · exact h.portBad
  · split
    · exact h.portBad
    · exact .ite h.portBad (h.answered fun _ h => h.afterAnswer)

theorem execAxiTimeout_keepsSound (h : s.Sound) {p : Port} {id : BitVec 10} : KeepsSound (execAxiTimeout p id s) := by
  unfold execAxiTimeout
  refine .done (h.onEng fun e h => ?_)
  extract_lets n slot
  split
  · exact h
  · split
    · split
      · exact .ite h (.ite (h.same (by rfl)).unitBusError.foldOn (h.same (by rfl)).unitBusError)
      · exact h
    · split
      · exact .ite h (.ite (h.modSp fun _ => by rfl) ((h.modSp fun _ => by rfl).busFault))
      · exact h

theorem execShareWindowEnd_keepsSound (h : s.Sound) : KeepsSound (execShareWindowEnd s) := by
  unfold execShareWindowEnd
  refine .done (h.onEng fun e h => .ite h ?_)
  extract_lets e1
  have he1 : e1.Sound := h.chargeOpen.foldl fun _ _ h => h.judgePort
  clear_value e1
  exact .foldl (he1.same (by rfl)) fun _ _ h => h.newWindow

/-! ## Machine/Ticks -/

theorem execTickArrive_keepsSound (h : s.Sound) {t : Inp} : KeepsSound (execTickArrive t s) :=
  .done (h.onEng fun _ h => .ite (h.same (by rfl)).tickIn h)

theorem execSyntheticTick_keepsSound (h : s.Sound) {t : Inp} : KeepsSound (execSyntheticTick t s) := by
  unfold execSyntheticTick
  refine .done (h.onEng fun e h => ?_)
  split
  · exact .ite h.modTick.tickIn h
  · exact h

theorem execMaxGapExpiry_keepsSound (h : s.Sound) {t : Inp} : KeepsSound (execMaxGapExpiry t s) :=
  .done (h.onEng fun _ h => .ite h.modTick.raise h)

theorem execCloseExpiry_keepsSound (h : s.Sound) {t : Inp} : KeepsSound (execCloseExpiry t s) := by
  unfold execCloseExpiry
  refine .done (h.onEng fun e h => ?_)
  split
  · exact .ite h.modTick h
  · exact h

theorem execBudgetExpiry_keepsSound (h : s.Sound) {t : Inp} : KeepsSound (execBudgetExpiry t s) :=
  .done (h.onEng fun _ h => .ite h.modTick h)

/-! ## Machine/RegWrite -/

theorem execKntCountWrite_keepsSound (h : s.Sound) {path : RegPath} {v : Word} : KeepsSound (execKntCountWrite path v s) :=
  .done (h.access fun _ h => h.onEng fun _ h => h.knotWrite)

theorem execKntThreshWrite_keepsSound (h : s.Sound) {path : RegPath} {v : Word} : KeepsSound (execKntThreshWrite path v s) :=
  .done (h.access fun _ h => h.onEng fun _ h => h.knotWrite)

theorem execKntAddWrite_keepsSound (h : s.Sound) {path : RegPath} {v : Word} : KeepsSound (execKntAddWrite path v s) :=
  .done (h.access fun _ h => h.onEng fun _ h => h.knotWrite)

theorem execDofRingConfigWrite_keepsSound (h : s.Sound) {reg : RingReg} {v : Word} : KeepsSound (execDofRingConfigWrite reg v s) :=
  .done (h.access fun _ h => h.onEng fun _ h => h.same (by rfl))

theorem execDofRingTailWrite_keepsSound (h : s.Sound) {v : Word} : KeepsSound (execDofRingTailWrite v s) :=
  .done (h.access fun _ h => h.onEng fun _ h => h.same (by rfl))

theorem execTelRingConfigWrite_keepsSound (h : s.Sound) {reg : RingReg} {v : Word} : KeepsSound (execTelRingConfigWrite reg v s) :=
  .done (h.access fun _ h => h.onEng fun _ h => h.same (by rfl))

theorem execTelRingTailWrite_keepsSound (h : s.Sound) {v : Word} : KeepsSound (execTelRingTailWrite v s) :=
  .done (h.access fun _ h => h.onEng fun _ h => h.same (by rfl))

theorem execGlbEvtAckWrite_keepsSound (h : s.Sound) {v : Word} : KeepsSound (execGlbEvtAckWrite v s) :=
  .done (h.access fun _ h => h.onEng fun _ h => h.same (by rfl))

theorem execTckPinPolWrite_keepsSound (h : s.Sound) {v : Word} : KeepsSound (execTckPinPolWrite v s) :=
  .done (h.access fun _ h => h.onEng fun _ h => h.setPol)

theorem execEnableWrite_keepsSound (h : s.Sound) {n : Sp} {on : Bool} : KeepsSound (execEnableWrite n on s) :=
  .done (h.access fun _ h => h.onEng fun _ h => h.setEnable)

theorem execHankEnWrite_keepsSound (h : s.Sound) {n : Sp} {on : Bool} : KeepsSound (execHankEnWrite n on s) :=
  .done (h.access fun _ h => h.onEng fun _ h => h.setHankEn)

theorem execPlyEnWrite_keepsSound (h : s.Sound) {n : Sp} {on : Bool} : KeepsSound (execPlyEnWrite n on s) :=
  .done (h.access fun _ h => h.onEng fun _ h => h.setPlyEn)

theorem execRingEnWrite_keepsSound (h : s.Sound) {n : Sp} {on : Bool} : KeepsSound (execRingEnWrite n on s) :=
  .done (h.access fun _ h => h.onEng fun _ h => h.setRingEn)

theorem execSpnAbortWrite_keepsSound (h : s.Sound) {n : Sp} {tag : Word} : KeepsSound (execSpnAbortWrite n tag s) :=
  .done (h.access fun _ h => h.onEng fun _ h => h.abortTag)

theorem execNarrowPush_keepsSound (h : s.Sound) {path : RegPath} {count : BitVec 4} {ends : Bool} : KeepsSound (execNarrowPush path count ends s) :=
  .done (h.access fun _ h => h.onEng fun _ h => h.narrowPush)

theorem execNarrowEnd_keepsSound (h : s.Sound) : KeepsSound (execNarrowEnd s) :=
  .done (h.access fun _ h => h.onEng fun _ h => h.narrowEnd)

theorem execNarrowAbort_keepsSound (h : s.Sound) : KeepsSound (execNarrowAbort s) :=
  .done (h.access fun _ h => h.onEng fun _ h => h.narrowAbort)

theorem execNarrowPop_keepsSound (h : s.Sound) {cell : CellEcc} : KeepsSound (execNarrowPop cell s) :=
  .done (h.access fun _ h => h.onEng fun _ h => h.narrowPop)

theorem execSnapshotWrite_keepsSound (h : s.Sound) {path : RegPath} {page : SnapPage} {v : Word} : KeepsSound (execSnapshotWrite path page v s) :=
  .done (h.access fun _ h => h.snapWrite)

theorem execSnapshotCaptureDone_keepsSound (h : s.Sound) : KeepsSound (execSnapshotCaptureDone s) := by
  unfold execSnapshotCaptureDone
  refine .done ?_
  split
  · exact .capture (h.onEng fun _ h => h.same (by rfl))
  · split
    · exact .capture (h.onEng fun _ h => h.same (by rfl))
    · exact h
  · exact h

theorem execAliasWrite_keepsSound (h : s.Sound) {addr : BitVec 23} {v : Word} : KeepsSound (execAliasWrite addr v s) := by
  unfold execAliasWrite
  refine .done (h.access fun s h => ?_)
  split
  · exact .ite h.aliasBit h.badAccess
  · exact h

theorem execRegisterWrite_keepsSound (h : s.Sound) {path : RegPath} {addr : BitVec 23} {strb : BitVec 4} {data : Word} :
    KeepsSound (execRegisterWrite path addr strb data s) :=
  .done (h.access fun _ h => .ite h.badAccess h.writeReg)

theorem execRegisterStallLimit_keepsSound (h : s.Sound) : KeepsSound (execRegisterStallLimit s) := by
  unfold execRegisterStallLimit
  refine .done (h.onEng fun e h => ?_)
  split
  · exact .ite h (h.withdraw.same (by rfl)).limitReached
  · exact .ite h (h.same (by rfl)).limitReached
  · exact h

theorem execTvVote_keepsSound (h : s.Sound) : KeepsSound (execTvVote s) :=
  .done (h.onEng fun _ h => .ite h (h.same (by rfl)))

/-! ## Machine/TestAccess -/

theorem execBypass_keepsSound (h : s.Sound) : KeepsSound (execBypass s) :=
  .done (h.onEng fun _ h => .ite h.tapBypass h)

theorem execIdcode_keepsSound (h : s.Sound) : KeepsSound (execIdcode s) :=
  .done (h.onEng fun _ h => .ite h.tapSelect h)

theorem execWsBypass_keepsSound (h : s.Sound) : KeepsSound (execWsBypass s) :=
  .done (h.onEng fun _ h => .ite h.wsSelect h)

theorem execWsExtest_keepsSound (h : s.Sound) : KeepsSound (execWsExtest s) := by
  unfold execWsExtest
  refine .done (h.onEng fun e h => .ite ?_ h)
  extract_lets e1
  have he1 : e1.Sound := h.wsSelect
  exact he1.same (by rfl)

theorem execWsIntest_keepsSound (h : s.Sound) : KeepsSound (execWsIntest s) :=
  .done (h.scoped (fun _ h => h.wsSelect) fun _ h => h.onEng fun _ h => h.wsSelect)

theorem execEngDebug_keepsSound (h : s.Sound) {op : DebugOp} : KeepsSound (execEngDebug op s) := by
  unfold execEngDebug
  refine .done (h.scoped (fun _ h => h.tapBypass) fun s h => ?_)
  cases op with
  | select => exact h.onEng fun _ h => h.tapSelect
  | write a v => exact h.access fun _ h => h.debugWrite
  | read a => exact h.access fun _ h => h.debugRead
  | halt => exact .ite (h.onEng fun _ h => h.setHalted) h
  | step => exact .ite (h.onEng fun _ h => h.setHalted) h
  | run => exact .ite (h.onEng fun _ h => h.setHalted) h

theorem execEngMbist_keepsSound (h : s.Sound) : KeepsSound (execEngMbist s) :=
  .done (h.scoped (fun _ h => h.tapBypass) fun _ h => h.onEng fun _ h => h.tapSelect.loseSrams)

theorem execEngScan_keepsSound (h : s.Sound) : KeepsSound (execEngScan s) :=
  .done (h.scoped (fun _ h => h.tapBypass.wsSelect) fun _ h => h.onEng fun _ h => h.tapSelect.wsSelect)

/-! ## Machine/Background -/

theorem execScrubVisit_keepsSound (h : s.Sound) {row : SramRow} {found : Ecc} {patrolEnds : Bool} :
    KeepsSound (execScrubVisit row found patrolEnds s) := by
  unfold execScrubVisit
  refine .done (h.onEng fun e h => ?_)
  split
  · exact h
  · refine .patrolNext ?_
    split
    · exact h
    · exact h.rowFixed.patrolCorrected
    · exact h.patrolLost

theorem execCalibrationFold_keepsSound (h : s.Sound) : KeepsSound (execCalibrationFold s) := by
  unfold execCalibrationFold
  refine .done (h.onEng fun e h => ?_)
  split
  · exact .ite (h.same (by rfl)).calFold h
  · exact h

theorem execTelemetrySample_keepsSound (h : s.Sound) : KeepsSound (execTelemetrySample s) :=
  .done (h.onEng fun _ h => .ite h h.telEntry.sampleMarks)

/-! ## Machine/Power -/

theorem execSpindleWakeRequest_keepsSound (h : s.Sound) {n : Sp} : KeepsSound (execSpindleWakeRequest n s) :=
  .done (h.onEng fun _ h => .ite h.requestWake h)

theorem execWakeStart_keepsSound (h : s.Sound) : KeepsSound (execWakeStart s) := by
  unfold execWakeStart
  refine .done (h.onEng fun e h => ?_)
  split
  · exact .ite h (h.setPwr.same (by rfl))
  · exact h

theorem execWakeComplete_keepsSound (h : s.Sound) {d : WakeDomain} : KeepsSound (execWakeComplete d s) :=
  .done (h.onEng fun _ h => .ite (h.same (by rfl)).domainUp.freshCounts h)

theorem execSpindlePowerOff_keepsSound (h : s.Sound) {n : Sp} : KeepsSound (execSpindlePowerOff n s) :=
  .done (h.onEng fun _ h => .ite h.loseWhere.cutSpindle.bobbinRule h)

theorem execDistaffPowerOff_keepsSound (h : s.Sound) : KeepsSound (execDistaffPowerOff s) :=
  .done (h.onEng fun _ h => .ite (h.same (by rfl)) h)

theorem execGovernorInterval_keepsSound (h : s.Sound) {estimateMw : Nat} {temp : BitVec 16} {fractionUw : Nat} :
    KeepsSound (execGovernorInterval estimateMw temp fractionUw s) := by
  unfold execGovernorInterval
  refine .done (h.onEng fun e h => .ite h ?_)
  extract_lets uw above e1
  have he1 : e1.Sound := .govEvents (h.same (by rfl))
  split
  · split
    · exact he1.moveTier
    · exact he1
  · split
    · split
      · extract_lets e2
        have he2 : e2.Sound := he1.moveTier
        exact he2.same (by rfl)
      · exact he1
    · exact he1

theorem execSpreadSweepStart_keepsSound (h : s.Sound) : KeepsSound (execSpreadSweepStart s) :=
  .done (h.onEng fun _ h => .ite (h.same (by rfl)) h)

end Sys2Proof.Machine
end

section
/-! PROOFS. A step keeps the stores, the queues and the jobs sound (O60). -/

namespace Sys2Proof.Machine

variable {s : State}

/-! ## The dispatcher -/

theorem exec_keepsSound (h : s.Sound) (i : Instr) : KeepsSound (exec i s) := by
  cases i with
  | coldReset => exact execColdReset_keepsSound h
  | warmReset => exact execWarmReset_keepsSound h
  | warmQuiesceEnd => exact execWarmQuiesceEnd_keepsSound h
  | startDistaffWoken => exact execStartDistaffWoken_keepsSound h
  | startMapRebuilt => exact execStartMapRebuilt_keepsSound h
  | startKeysLoaded => exact execStartKeysLoaded_keepsSound h
  | firmwareMeasured => exact execFirmwareMeasured_keepsSound h
  | recoveryLoadDone => exact execRecoveryLoadDone_keepsSound h
  | imageSelected => exact execImageSelected_keepsSound h
  | startImageApplied => exact execStartImageApplied_keepsSound h
  | spindleWakeRequest => exact execSpindleWakeRequest_keepsSound h
  | wakeStart => exact execWakeStart_keepsSound h
  | wakeComplete => exact execWakeComplete_keepsSound h
  | spindlePowerOff => exact execSpindlePowerOff_keepsSound h
  | distaffPowerOff => exact execDistaffPowerOff_keepsSound h
  | governorInterval => exact execGovernorInterval_keepsSound h
  | spreadSweepStart => exact execSpreadSweepStart_keepsSound h
  | scrubVisit => exact execScrubVisit_keepsSound h
  | calibrationFold => exact execCalibrationFold_keepsSound h
  | distaffBlockWriteDone => exact execDistaffBlockWriteDone_keepsSound h
  | telemetrySample => exact execTelemetrySample_keepsSound h
  | tickArrive => exact execTickArrive_keepsSound h
  | syntheticTick => exact execSyntheticTick_keepsSound h
  | maxGapExpiry => exact execMaxGapExpiry_keepsSound h
  | closeExpiry => exact execCloseExpiry_keepsSound h
  | budgetExpiry => exact execBudgetExpiry_keepsSound h
  | shareWindowEnd => exact execShareWindowEnd_keepsSound h
  | switchPointReached => exact execSwitchPointReached_keepsSound h
  | contextSaveDone => exact execContextSaveDone_keepsSound h
  | jobResume => exact execJobResume_keepsSound h
  | contextRestoreDone => exact execContextRestoreDone_keepsSound h
  | jobStart => exact execJobStart_keepsSound h
  | workClaimGrant => exact execWorkClaimGrant_keepsSound h
  | completionPost => exact execCompletionPost_keepsSound h
  | dofferAccept => exact execDofferAccept_keepsSound h
  | recordStepsBegin => exact execRecordStepsBegin_keepsSound h
  | foldHeaderReadDone => exact execFoldHeaderReadDone_keepsSound h
  | foldDestAck => exact execFoldDestAck_keepsSound h
  | knotBankApply => exact execKnotBankApply_keepsSound h
  | drainLimitExpiry => exact execDrainLimitExpiry_keepsSound h
  | enableWrite => exact execEnableWrite_keepsSound h
  | hankEnWrite => exact execHankEnWrite_keepsSound h
  | plyEnWrite => exact execPlyEnWrite_keepsSound h
  | ringEnWrite => exact execRingEnWrite_keepsSound h
  | spnAbortWrite => exact execSpnAbortWrite_keepsSound h
  | kntCountWrite => exact execKntCountWrite_keepsSound h
  | kntThreshWrite => exact execKntThreshWrite_keepsSound h
  | kntAddWrite => exact execKntAddWrite_keepsSound h
  | dofRingConfigWrite => exact execDofRingConfigWrite_keepsSound h
  | dofRingTailWrite => exact execDofRingTailWrite_keepsSound h
  | glbEvtAckWrite => exact execGlbEvtAckWrite_keepsSound h
  | snapshotWrite => exact execSnapshotWrite_keepsSound h
  | snapshotCaptureDone => exact execSnapshotCaptureDone_keepsSound h
  | aliasWrite => exact execAliasWrite_keepsSound h
  | tckPinPolWrite => exact execTckPinPolWrite_keepsSound h
  | telRingConfigWrite => exact execTelRingConfigWrite_keepsSound h
  | telRingTailWrite => exact execTelRingTailWrite_keepsSound h
  | registerWrite => exact execRegisterWrite_keepsSound h
  | registerStallLimit => exact execRegisterStallLimit_keepsSound h
  | tvVote => exact execTvVote_keepsSound h
  | secAttRequest => exact execSecAttRequest_keepsSound h
  | attestReportReady => exact execAttestReportReady_keepsSound h
  | narrowPush => exact execNarrowPush_keepsSound h
  | narrowEnd => exact execNarrowEnd_keepsSound h
  | narrowAbort => exact execNarrowAbort_keepsSound h
  | narrowPop => exact execNarrowPop_keepsSound h
  | imageActivate => exact execImageActivate_keepsSound h
  | imageStoreDone => exact execImageStoreDone_keepsSound h
  | rebind => exact execRebind_keepsSound h
  | keyRoll => exact execKeyRoll_keepsSound h
  | testUnlock => exact execTestUnlock_keepsSound h
  | counterReseed => exact execCounterReseed_keepsSound h
  | scrubPolicy => exact execScrubPolicy_keepsSound h
  | rebindDrainEnd => exact execRebindDrainEnd_keepsSound h
  | bypass => exact execBypass_keepsSound h
  | idcode => exact execIdcode_keepsSound h
  | wsBypass => exact execWsBypass_keepsSound h
  | wsExtest => exact execWsExtest_keepsSound h
  | wsIntest => exact execWsIntest_keepsSound h
  | engDebug => exact execEngDebug_keepsSound h
  | engMbist => exact execEngMbist_keepsSound h
  | engScan => exact execEngScan_keepsSound h
  | portQueueWriteBody => exact execPortQueueWriteBody_keepsSound h
  | portQueueWriteEnd => exact execPortQueueWriteEnd_keepsSound h
  | portQueueWriteAbort => exact execPortQueueWriteAbort_keepsSound h
  | portQueueRead => exact execPortQueueRead_keepsSound h
  | spindleQueueWrite => exact execSpindleQueueWrite_keepsSound h
  | flyerQueueWrite => exact execFlyerQueueWrite_keepsSound h
  | spindleCellRead => exact execSpindleCellRead_keepsSound h
  | cellGrant => exact execCellGrant_keepsSound h
  | cellWaitExpiry => exact execCellWaitExpiry_keepsSound h
  | staleTimerExpiry => exact execStaleTimerExpiry_keepsSound h
  | leafReadResponse => exact execLeafReadResponse_keepsSound h
  | leafWriteResponse => exact execLeafWriteResponse_keepsSound h
  | axiTimeout => exact execAxiTimeout_keepsSound h
  | fwdCreditGrant => exact execFwdCreditGrant_keepsSound h
  | flnkRstEnd => exact execFlnkRstEnd_keepsSound h
  | feedWordSend => exact execFeedWordSend_keepsSound h
  | backWordArrive => exact execBackWordArrive_keepsSound h
  | streamHeaderArrive => exact execStreamHeaderArrive_keepsSound h
  | tileEntryArrive => exact execTileEntryArrive_keepsSound h
  | streamSetupDone => exact execStreamSetupDone_keepsSound h
  | tilePayloadArrive => exact execTilePayloadArrive_keepsSound h
  | whorlBankFilled => exact execWhorlBankFilled_keepsSound h
  | plyBankReadDone => exact execPlyBankReadDone_keepsSound h
  | accumulatorDrain => exact execAccumulatorDrain_keepsSound h
  | carderSourceRead => exact execCarderSourceRead_keepsSound h
  | scaleChosen => exact execScaleChosen_keepsSound h
  | drafterSourceRead => exact execDrafterSourceRead_keepsSound h
  | streamHeaderWriteAck => exact execStreamHeaderWriteAck_keepsSound h
  | groupSlotWriteAck => exact execGroupSlotWriteAck_keepsSound h
  | groupWaitEnd => exact execGroupWaitEnd_keepsSound h
  | stepSetCommit => exact execStepSetCommit_keepsSound h
  | searchDone => exact execSearchDone_keepsSound h
  | mergeSegmentDone => exact execMergeSegmentDone_keepsSound h
  | sortPassDone => exact execSortPassDone_keepsSound h
  | laneStealRequest => exact execLaneStealRequest_keepsSound h
  | laneStealDecide => exact execLaneStealDecide_keepsSound h
  | laneStealAnswer => exact execLaneStealAnswer_keepsSound h
  | laneStealRetry => exact execLaneStealRetry_keepsSound h
  | ringStealRequest => exact execRingStealRequest_keepsSound h
  | ringStealAnswer => exact execRingStealAnswer_keepsSound h
  | ringStealRetry => exact execRingStealRetry_keepsSound h
  | ringRecordWriteAck => exact execRingRecordWriteAck_keepsSound h
  | abandonNotice => exact execAbandonNotice_keepsSound h
  | partialReduce => exact execPartialReduce_keepsSound h
  | hankSideGrant => exact execHankSideGrant_keepsSound h
  | hankMatchDone => exact execHankMatchDone_keepsSound h
  | hankBuildDone => exact execHankBuildDone_keepsSound h
  | hankEmitDone => exact execHankEmitDone_keepsSound h
  | hankDecodeSetupDone => exact execHankDecodeSetupDone_keepsSound h
  | hankBlockDecoded => exact execHankBlockDecoded_keepsSound h
  | haloSlotWaitEnd => exact execHaloSlotWaitEnd_keepsSound h
  | halfPublishAck => exact execHalfPublishAck_keepsSound h
  | haloReadyWaitEnd => exact execHaloReadyWaitEnd_keepsSound h
  | boxListHeaderArrive => exact execBoxListHeaderArrive_keepsSound h
  | placementDecision => exact execPlacementDecision_keepsSound h
  | stagedCopyDone => exact execStagedCopyDone_keepsSound h
  | tensorFree => exact execTensorFree_keepsSound h
  | translationMissFill => exact execTranslationMissFill_keepsSound h
  | supplyRemoved => exact execSupplyRemoved_keepsSound h
  | warmResetRelease => exact execWarmResetRelease_keepsSound h
  | flyerCellRead => exact execFlyerCellRead_keepsSound h
  | unlistedOpcodeSubmit => exact execUnlistedOpcodeSubmit_keepsSound h


/-! ## A step -/

theorem State.Sound.carryOut (h : s.Sound) {c : Instr} : (State.carryOut c s).Sound := by
  have hnext {o : Host.Outcome State Fault Refusal} (ho : KeepsSound o) : (match o with | .next t => t | _ => s).Sound := by
    cases o with
    | next t => exact ho t rfl
    | fault f => exact h
    | refused f => exact h
  cases c with
  | kntCountWrite => exact hnext (execKntCountWrite_keepsSound h)
  | kntThreshWrite => exact hnext (execKntThreshWrite_keepsSound h)
  | kntAddWrite => exact hnext (execKntAddWrite_keepsSound h)
  | dofRingConfigWrite => exact hnext (execDofRingConfigWrite_keepsSound h)
  | dofRingTailWrite => exact hnext (execDofRingTailWrite_keepsSound h)
  | telRingConfigWrite => exact hnext (execTelRingConfigWrite_keepsSound h)
  | telRingTailWrite => exact hnext (execTelRingTailWrite_keepsSound h)
  | glbEvtAckWrite => exact hnext (execGlbEvtAckWrite_keepsSound h)
  | tckPinPolWrite => exact hnext (execTckPinPolWrite_keepsSound h)
  | enableWrite => exact hnext (execEnableWrite_keepsSound h)
  | hankEnWrite => exact hnext (execHankEnWrite_keepsSound h)
  | plyEnWrite => exact hnext (execPlyEnWrite_keepsSound h)
  | ringEnWrite => exact hnext (execRingEnWrite_keepsSound h)
  | spnAbortWrite => exact hnext (execSpnAbortWrite_keepsSound h)
  | narrowPush => exact hnext (execNarrowPush_keepsSound h)
  | narrowEnd => exact hnext (execNarrowEnd_keepsSound h)
  | narrowAbort => exact hnext (execNarrowAbort_keepsSound h)
  | narrowPop => exact hnext (execNarrowPop_keepsSound h)
  | snapshotWrite => exact hnext (execSnapshotWrite_keepsSound h)
  | aliasWrite => exact hnext (execAliasWrite_keepsSound h)
  | registerWrite => exact hnext (execRegisterWrite_keepsSound h)
  | engDebug => exact hnext (execEngDebug_keepsSound h)
  | secAttRequest => exact hnext (execSecAttRequest_keepsSound h)
  | imageActivate => exact hnext (execImageActivate_keepsSound h)
  | rebind => exact hnext (execRebind_keepsSound h)
  | keyRoll => exact hnext (execKeyRoll_keepsSound h)
  | testUnlock => exact hnext (execTestUnlock_keepsSound h)
  | counterReseed => exact hnext (execCounterReseed_keepsSound h)
  | scrubPolicy => exact hnext (execScrubPolicy_keepsSound h)
  | unlistedOpcodeSubmit => exact hnext (execUnlistedOpcodeSubmit_keepsSound h)
  | _ => exact h

theorem State.Sound.serveHeld (h : s.Sound) {a : HeldAccess} {rest : List HeldAccess} : (s.serveHeld a rest).Sound :=
  .setWaiting (h.setWaiting.carryOut.onEng fun _ h => h.same (by rfl))

theorem State.Sound.serveWaiting (h : s.Sound) {fuel : Nat} : (s.serveWaiting fuel).Sound := by
  induction fuel generalizing s with
  | zero => exact h
  | succ fuel ih =>
    unfold State.serveWaiting
    split
    · exact ih h.serveHeld
    · exact h

theorem State.Sound.clockTick (h : s.Sound) : (clockTick s).Sound := by
  unfold Machine.clockTick
  refine .ite h ?_
  extract_lets s1
  have hs1 : s1.Sound := h.settleRoll.onEng fun _ h => h.settle
  exact hs1.serveWaiting.onEng fun _ h => .same h.markBusy (by rfl)

theorem step_keepsSound (h : s.Sound) : KeepsSound (step s) := by
  unfold step
  split
  · refine exec_keepsSound ?_ _
    exact ⟨h.eng⟩
  · intro t ht
    cases ht
    exact h.clockTick

/-- Settles O60: soundness says of each part of the engine that it is in order, every function of the engine keeps that, and so does every
command and every clock. -/
theorem storesQueuesAndJobsStaySound : Obligations.StoresQueuesAndJobsStaySound := by
  unfold Obligations.StoresQueuesAndJobsStaySound
  intro s t h hstep
  exact (storesSound_iff t).2 (step_keepsSound ⟨(storesSound_iff s).1 h⟩ t hstep).eng

end Sys2Proof.Machine
end

section
/-! PROOFS. What an append leaves in a queue: O30. -/

namespace Sys2Proof.Machine

/-! ## A queue after it was replaced -/

theorem Creel.put_wf {c : Creel} (h : Tab.wf {} c.queues = true) (now n : Nat) (q : Queue) : Tab.wf {} (c.put now n q).queues = true :=
  Tab.wf_put n _ h

theorem Creel.upd_wf {c : Creel} (h : Tab.wf {} c.queues = true) (now n : Nat) (f : Queue → Queue) :
    Tab.wf {} (c.upd now n f).queues = true :=
  Creel.put_wf (by rwa [Creel.giveBacks_queues]) now n _

/-- Only the time from which the stale timer counts may differ from the image that `f` gives. -/
theorem Creel.q_upd {c : Creel} (h : Tab.wf {} c.queues = true) (now n : Nat) (f : Queue → Queue) :
    ∃ since, (c.upd now n f).q n = { f (c.q n) with staleFrom := since } :=
  ⟨_, Tab.getD_put (by rwa [Creel.giveBacks_queues]) n _⟩

theorem Creel.q_upd_ne (c : Creel) (now : Nat) {n m : Nat} (hm : m ≠ n) (f : Queue → Queue) : (c.upd now n f).q m = c.q m := by
  have hput : (c.upd now n f).q m = (((c.q n).nums.filter fun k => !(f (c.q n)).nums.contains k).foldl Creel.giveBack c).q m :=
    Tab.getD_put_ne _ hm _ _
  rw [hput, Creel.q, Creel.giveBacks_queues, Creel.q]

theorem Creel.q_congr {c c' : Creel} (h : c'.queues = c.queues) (n : Nat) : c'.q n = c.q n := by
  rw [Creel.q, h, Creel.q]

@[simp] theorem Creel.handOut_q (c : Creel) (n : Nat) : c.handOut.2.q n = c.q n := Creel.q_congr c.handOut_queues n

@[simp] theorem queueBytes_staleFrom (q : Queue) (t : Option Nat) : queueBytes { q with staleFrom := t } = queueBytes q := rfl

@[simp] theorem Queue.cellCount_staleFrom (q : Queue) (t : Option Nat) : ({ q with staleFrom := t } : Queue).cellCount = q.cellCount := rfl

/-! ## Bytes appended to a queue -/

/-- What R294 and R318 say of a queue's shape by its MODE. -/
structure Queue.Shaped (mode : Nat) (q : Queue) : Prop where
  stream : mode = 3 → q.pkts = [] ∧ q.tail.length < 64
  packets : mode ≠ 3 → q.cells = [] ∧ q.tail = []

/-- Queue n took `bs` behind the bytes that it held, and no other queue changed. -/
structure Creel.Appended (cfg : Cfg) (n : Nat) (bs : List Byte) (c c' : Creel) : Prop where
  wf : Tab.wf {} c'.queues = true
  shaped : (c'.q n).Shaped (cfg.queue n).mode
  bytes : queueBytes (c'.q n) = queueBytes (c.q n) ++ bs
  others : ∀ m, m ≠ n → c'.q m = c.q m
  count : (c'.q n).cellCount ≤ max (c.q n).cellCount (cfg.queue n).limit

section
variable {cfg : Cfg} {n now : Nat} {c c₁ c₂ c₃ : Creel}

theorem Creel.Appended.nil (h : Tab.wf {} c.queues = true) (hs : (c.q n).Shaped (cfg.queue n).mode) : Creel.Appended cfg n [] c c where
  wf := h
  shaped := hs
  bytes := (List.append_nil _).symm
  others _ _ := rfl
  count := le_max_left _ _

theorem Creel.Appended.trans {as bs : List Byte} (h : Creel.Appended cfg n as c₁ c₂) (h' : Creel.Appended cfg n bs c₂ c₃) :
    Creel.Appended cfg n (as ++ bs) c₁ c₃ where
  wf := h'.wf
  shaped := h'.shaped
  bytes := by rw [h'.bytes, h.bytes, List.append_assoc]
  others m hm := (h'.others m hm).trans (h.others m hm)
  count := h'.count.trans (max_le h.count (le_max_right _ _))

/-- One update appends `bs` when its image of the queue does. -/
theorem Creel.Appended.of_upd {bs : List Byte} (hwf : Tab.wf {} c.queues = true) (hq : c₁.queues = c.queues) {f : Queue → Queue}
    (hs : (f (c.q n)).Shaped (cfg.queue n).mode) (hb : queueBytes (f (c.q n)) = queueBytes (c.q n) ++ bs)
    (hc : (f (c.q n)).cellCount ≤ max (c.q n).cellCount (cfg.queue n).limit) : Creel.Appended cfg n bs c (c₁.upd now n f) := by
  have hwf₁ : Tab.wf {} c₁.queues = true := by rwa [hq]
  obtain ⟨since, hsame⟩ := Creel.q_upd hwf₁ now n f
  rw [Creel.q_congr hq] at hsame
  exact
    { wf := Creel.upd_wf hwf₁ now n f
      shaped := by rw [hsame]; exact ⟨hs.stream, hs.packets⟩
      bytes := by rw [hsame, queueBytes_staleFrom, hb]
      others := fun m hm => by rw [Creel.q_upd_ne c₁ now hm, Creel.q_congr hq]
      count := by rw [hsame, Queue.cellCount_staleFrom]; exact hc }

end

/-- A producer that need not wait finds the queue below its LIMIT. -/
theorem Creel.cellCount_lt_limit {cfg : Cfg} {c : Creel} {n : Nat} (h : c.mustWait cfg n = false) : (c.q n).cellCount < (cfg.queue n).limit := by
  simp only [Creel.mustWait, Bool.or_eq_false_iff, decide_eq_false_iff_not, not_le] at h
  exact h.1

/-! ### A stream -/

/-- The tail takes bytes; at 64 it is a cell (R318). -/
def Queue.growTail (q : Queue) (num : Nat) (t : List Byte) : Queue :=
  if t.length < 64 then { q with tail := t, tailNum := num }
  else { q with tail := [], tailNum := 0, cells := q.cells ++ [{ data := t, num := num }] }

theorem Queue.growTail_shaped {q : Queue} (h : q.Shaped 3) (num : Nat) (t : List Byte) : (q.growTail num t).Shaped 3 := by
  refine ⟨fun _ => ?_, fun h3 => absurd rfl h3⟩
  rw [Queue.growTail]
  split
  · next ht => exact ⟨(h.stream rfl).1, ht⟩
  · exact ⟨(h.stream rfl).1, Nat.zero_lt_succ _⟩

theorem queueBytes_growTail (q : Queue) (num : Nat) (bs : List Byte) : queueBytes (q.growTail num (q.tail ++ bs)) = queueBytes q ++ bs := by
  rw [Queue.growTail]
  split <;> simp [queueBytes]

/-- The tail's cell is counted before and after, unless the tail was empty. -/
theorem Queue.cellCount_growTail (q : Queue) (num : Nat) {bs : List Byte} (hb : bs ≠ []) :
    (q.growTail num (q.tail ++ bs)).cellCount = q.cellCount + (if q.tail.isEmpty then 1 else 0) := by
  rw [Queue.growTail]
  by_cases ht : q.tail = []
  · split
    · simp [Queue.cellCount, ht, hb]
    · simp [Queue.cellCount, ht]; omega
  · split
    · simp [Queue.cellCount, ht]
    · simp [Queue.cellCount, ht]; omega

theorem Creel.appendStream_appended {cfg : Cfg} {now n : Nat} (h3 : (cfg.queue n).mode = 3) :
    ∀ (fuel : Nat) (c c' : Creel) (bs : List Byte), bs.length < fuel → Tab.wf {} c.queues = true → (c.q n).Shaped (cfg.queue n).mode →
      Creel.appendStream cfg now n fuel c bs = (c', .all) → Creel.Appended cfg n bs c c'
  | 0, _, _, _, hf, _, _, _ => absurd hf (by omega)
  | _ + 1, c, c', [], _, hwf, hs, h => by
    cases h
    exact .nil hwf hs
  | fuel + 1, c, c', b :: bs, hf, hwf, hs, h => by
    have htail : (c.q n).tail.length < 64 := (hs.stream h3).2
    simp only [Creel.appendStream] at h
    split at h
    · cases h
    · next hwait =>
      set taken := (b :: bs).take (64 - (c.q n).tail.length) with htaken
      have hne : taken ≠ [] := by simp [htaken]; omega
      set k := if (c.q n).tail.isEmpty then c.handOut else ((c.q n).tailNum, c) with hk
      have hkq : k.2.queues = c.queues := by rw [hk]; split <;> simp
      have hroom : (c.q n).tail = [] → (c.q n).cellCount < (cfg.queue n).limit := fun ht =>
        Creel.cellCount_lt_limit (by simpa [ht] using hwait)
      have hone : Creel.Appended cfg n taken c (k.2.upd now n fun q => q.growTail k.1 ((c.q n).tail ++ taken)) := by
        refine .of_upd hwf hkq (h3 ▸ Queue.growTail_shaped (h3 ▸ hs) _ _) (queueBytes_growTail _ _ _) ?_
        rw [Queue.cellCount_growTail _ _ hne]
        split
        · next ht => exact le_max_of_le_right (hroom (by simpa using ht))
        · exact le_max_left _ _
      have hrest : ((b :: bs).drop (64 - (c.q n).tail.length)).length < fuel := by
        simp only [List.length_drop, List.length_cons] at hf ⊢; omega
      have := hone.trans (Creel.appendStream_appended h3 fuel _ c' _ hrest hone.wf hone.shaped h)
      rwa [htaken, List.take_append_drop] at this

/-! ### Packets -/

theorem Queue.openPkt_eq_some {q : Queue} {p : Pkt} (h : q.openPkt = some p) : q.pkts.dropLast ++ [p] = q.pkts ∧ p.committed = false := by
  rw [Queue.openPkt] at h
  cases hl : q.pkts.getLast? with
  | none => simp [hl] at h
  | some x =>
    simp only [hl, Option.ite_none_left_eq_some, Option.some.injEq] at h
    obtain ⟨hc, rfl⟩ := h
    exact ⟨List.dropLast_append_getLast? x hl, by simpa using hc⟩

/-- The bytes and the cells of a queue whose last packet is replaced. -/
theorem queueBytes_setLast {q : Queue} {p p' : Pkt} (hp : q.pkts.dropLast ++ [p] = q.pkts) (hc : q.cells = []) (ht : q.tail = [])
    {bs : List Byte} (h : p'.bytes = p.bytes ++ bs) : queueBytes (q.setLast p') = queueBytes q ++ bs := by
  simp only [queueBytes, Queue.setLast, hc, ht]
  rw [← hp]
  simp [h]

theorem Queue.cellCount_setLast {q : Queue} {p p' : Pkt} (hp : q.pkts.dropLast ++ [p] = q.pkts) :
    (q.setLast p').cellCount + p.cells.length = q.cellCount + p'.cells.length := by
  simp only [Queue.cellCount, Queue.setLast]
  rw [← hp]
  simp
  omega

theorem Queue.cellCount_setLast_eq {q : Queue} {p p' : Pkt} (hp : q.pkts.dropLast ++ [p] = q.pkts) (h : p'.cells.length = p.cells.length) :
    (q.setLast p').cellCount = q.cellCount :=
  Nat.add_right_cancel (h ▸ Queue.cellCount_setLast hp)

theorem Queue.shaped_setLast {q : Queue} {mode : Nat} (h : q.Shaped mode) (h3 : mode ≠ 3) (p : Pkt) : (q.setLast p).Shaped mode :=
  ⟨fun h' => absurd h' h3, h.packets⟩

theorem Pkt.cells_dropLast {p : Pkt} {x : Cell} (h : p.cells.getLast? = some x) : p.cells.dropLast ++ [x] = p.cells :=
  List.dropLast_append_getLast? x h

theorem Pkt.bytes_setLastCell {p : Pkt} {x : Cell} (hx : p.cells.getLast? = some x) {f : Cell → Cell} {bs : List Byte}
    (h : (f x).data = x.data ++ bs) : (p.setLastCell f).bytes = p.bytes ++ bs := by
  simp only [Pkt.setLastCell, hx, Pkt.bytes]
  rw [← Pkt.cells_dropLast hx]
  simp [h]

theorem Pkt.length_setLastCell (p : Pkt) (f : Cell → Cell) : (p.setLastCell f).cells.length = p.cells.length := by
  rw [Pkt.setLastCell]
  cases hx : p.cells.getLast? with
  | none => rfl
  | some x =>
    rw [← Pkt.cells_dropLast hx]
    simp

theorem Creel.appendPkt_appended {cfg : Cfg} {now n : Nat} {held : Bool} {inst : Option Nat} (h3 : (cfg.queue n).mode ≠ 3) :
    ∀ (fuel : Nat) (c c' : Creel) (bs : List Byte), bs.length < fuel → Tab.wf {} c.queues = true → (c.q n).Shaped (cfg.queue n).mode →
      Creel.appendPkt cfg now n held inst fuel c bs = (c', .all) → Creel.Appended cfg n bs c c'
  | 0, _, _, _, hf, _, _, _ => absurd hf (by omega)
  | _ + 1, c, c', [], _, hwf, hs, h => by
    cases h
    exact .nil hwf hs
  | fuel + 1, c, c', b :: bs, hf, hwf, hs, h => by
    obtain ⟨hcells, htail⟩ := hs.packets h3
    have hrest (k : Nat) (hk : 0 < k) : ((b :: bs).drop k).length < fuel := by
      simp only [List.length_drop, List.length_cons] at hf ⊢; omega
    have next (k : Nat) (hk : 0 < k) {c₁ : Creel} (hone : Creel.Appended cfg n ((b :: bs).take k) c c₁)
        (h : Creel.appendPkt cfg now n held inst fuel c₁ ((b :: bs).drop k) = (c', .all)) : Creel.Appended cfg n (b :: bs) c c' := by
      have := hone.trans (Creel.appendPkt_appended h3 fuel _ c' _ (hrest k hk) hone.wf hone.shaped h)
      rwa [List.take_append_drop] at this
    simp only [Creel.appendPkt] at h
    split at h
    · -- no packet is open: a new one
      split at h
      · cases h
      · next hwait =>
        refine next 64 (by decide) (.of_upd hwf c.handOut_queues ⟨fun h' => absurd h' h3, hs.packets⟩ ?_ ?_) h
        · simp [queueBytes, hcells, htail, Pkt.bytes]
        · refine le_max_of_le_right ((Nat.le_of_eq ?_).trans (Creel.cellCount_lt_limit (Bool.eq_false_iff.mpr hwait)))
          simp [Queue.cellCount]; omega
    · next p hopen =>
      have hp := (Queue.openPkt_eq_some hopen).1
      split at h
      · -- the last cell has room
        next hroom =>
        cases hx : p.cells.getLast? with
        | none => simp [hx] at hroom
        | some x =>
          refine next _ (Nat.sub_pos_of_lt hroom) (.of_upd hwf rfl (Queue.shaped_setLast hs h3 _) ?_ (le_max_of_le_left (Nat.le_of_eq ?_))) h
          · exact queueBytes_setLast hp hcells htail (Pkt.bytes_setLastCell hx rfl)
          · exact Queue.cellCount_setLast_eq hp (Pkt.length_setLastCell p _)
      · split at h
        · cases h
        · split at h
          · cases h
          · -- a new cell of the open packet
            next hwait =>
            refine next 64 (by decide) (.of_upd hwf c.handOut_queues (Queue.shaped_setLast hs h3 _) ?_ ?_) h
            · exact queueBytes_setLast hp hcells htail (by simp [Pkt.bytes])
            · have hlt := Creel.cellCount_lt_limit (Bool.eq_false_iff.mpr hwait)
              have hcount := Queue.cellCount_setLast (p' := { p with cells := p.cells ++ [{ data := (b :: bs).take 64, num := c.handOut.1 }] }) hp
              simp only [List.length_append, List.length_singleton] at hcount
              exact le_max_of_le_right (by omega)

/-! ### A packet that becomes visible -/

theorem Creel.appended_show {cfg : Cfg} {c : Creel} {now n : Nat} (h3 : (cfg.queue n).mode ≠ 3) (hwf : Tab.wf {} c.queues = true)
    (hs : (c.q n).Shaped (cfg.queue n).mode) : Creel.Appended cfg n [] c (c.show_ now n) := by
  rw [Creel.show_]
  split
  · next p hp =>
    have hp := List.dropLast_append_getLast? p hp
    obtain ⟨hcells, htail⟩ := hs.packets h3
    split
    · exact .nil hwf hs
    · have hone : Creel.Appended cfg n [] c
          (c.upd now n fun q => q.setLast { p with visible := true, visAt := c.visNext, visTime := now }) :=
        .of_upd hwf rfl (Queue.shaped_setLast hs h3 _) (queueBytes_setLast hp hcells htail (List.append_nil _).symm)
          (le_max_of_le_left (Nat.le_of_eq (Queue.cellCount_setLast_eq hp rfl)))
      exact ⟨hone.wf, hone.shaped, hone.bytes, hone.others, hone.count⟩
  · exact .nil hwf hs

theorem Creel.cutThrough_appended {cfg : Cfg} {c : Creel} {now n : Nat} (h3 : (cfg.queue n).mode ≠ 3) (hwf : Tab.wf {} c.queues = true)
    (hs : (c.q n).Shaped (cfg.queue n).mode) : Creel.Appended cfg n [] c (c.cutThrough cfg now n) := by
  rw [Creel.cutThrough]
  split
  · split
    · exact Creel.appended_show h3 hwf hs
    · exact .nil hwf hs
  · exact .nil hwf hs

theorem Creel.append_appended {cfg : Cfg} {c c' : Creel} {now n : Nat} {held : Bool} {bs : List Byte} (hwf : Tab.wf {} c.queues = true)
    (hdrop : (c.q n).drop = .none) (hs : (c.q n).Shaped (cfg.queue n).mode) (h : c.append cfg now n held bs = (c', .all)) :
    Creel.Appended cfg n bs c c' := by
  simp only [Creel.append, hdrop] at h
  split at h
  · next h3 => exact Creel.appendStream_appended h3 _ c c' bs (Nat.lt_succ_self _) hwf hs h
  · next h3 =>
    obtain ⟨hcut, hall⟩ := Prod.mk.inj h
    have happ := Creel.appendPkt_appended h3 _ c _ bs (Nat.lt_succ_self _) hwf hs (Prod.ext rfl hall)
    have := happ.trans (Creel.cutThrough_appended (now := now) h3 happ.wf happ.shaped)
    rwa [List.append_nil, hcut] at this

/-- Settles O30, by induction on the bytes that are left: each round fills the last cell or takes a new one. -/
theorem appendedBytesFollowInOrder : Obligations.AppendedBytesFollowInOrder := by
  unfold Obligations.AppendedBytesFollowInOrder
  intro cfg c c' now n held bs hwf hdrop hstream hpackets h
  have happ := Creel.append_appended hwf hdrop ⟨hstream, hpackets⟩ h
  exact ⟨happ.bytes, happ.others, happ.count⟩

end Sys2Proof.Machine
end

section
/-! PROOFS. Cells that consumers read: O21. -/

namespace Sys2Proof.Machine

/-! ## A cell whose row holds no error -/

theorem Engine.readCell_none {e : Engine} {q : Nat} (h : (e.creel.q q).next? = none) (row : CellEcc) : e.readCell q row = (e, none) := by
  simp only [Engine.readCell, h]

theorem Engine.readCell_ok {e : Engine} {q : Nat} {row : CellEcc} {x : Cell} (hx : (e.creel.q q).next? = some x)
    (hrow : e.cellFound q row = .ok) : e.readCell q row = (e.onCreel fun c => c.take e.now q, some x) := by
  simp only [Engine.readCell, hx, hrow]

/-- Settles O21: the running Flyer reads the cell of the queue that it chose. -/
theorem flyerTakesTheNextCell : Obligations.FlyerTakesTheNextCell := by
  unfold Obligations.FlyerTakesTheNextCell
  intro s q x row hruns hphase hchosen hnext hrow
  change done (s.onEng _) = _
  simp only [done, State.onEng, hphase, hruns, hchosen, if_false, if_true, Engine.readCell_ok hnext hrow]
  rfl

end Sys2Proof.Machine
end

section
/-! PROOFS. Leaf-port writes that append and end: O31. -/

namespace Sys2Proof.Machine

/-! ## What the operations on a queue leave of the Creel -/

/-- The closed queues and the counters of rewound and poisoned packets are the same. -/
structure Creel.Kept (c c' : Creel) : Prop where
  closed : c'.closed = c.closed
  rewindCnt : c'.rewindCnt = c.rewindCnt
  poisonCnt : c'.poisonCnt = c.poisonCnt

theorem Creel.Kept.trans {a b c : Creel} (h : Creel.Kept a b) (h' : Creel.Kept b c) : Creel.Kept a c :=
  ⟨h'.closed.trans h.closed, h'.rewindCnt.trans h.rewindCnt, h'.poisonCnt.trans h.poisonCnt⟩

theorem Creel.Kept.rfl {c : Creel} : Creel.Kept c c := ⟨Eq.refl _, Eq.refl _, Eq.refl _⟩

theorem Creel.giveBack_kept (c : Creel) (k : Nat) : Creel.Kept c (c.giveBack k) := ⟨rfl, rfl, rfl⟩

theorem Creel.giveBacks_kept (ks : List Nat) (c : Creel) : Creel.Kept c (ks.foldl Creel.giveBack c) := by
  induction ks generalizing c with
  | nil => exact .rfl
  | cons k ks ih => exact (c.giveBack_kept k).trans (ih (c.giveBack k))

theorem Creel.upd_kept (c : Creel) (now n : Nat) (f : Queue → Queue) : Creel.Kept c (c.upd now n f) :=
  (Creel.giveBacks_kept _ c).trans ⟨rfl, rfl, rfl⟩

theorem Creel.handOut_kept (c : Creel) : Creel.Kept c c.handOut.2 := by
  rw [Creel.handOut]
  split
  · exact .rfl
  · dsimp only
    split <;> exact ⟨rfl, rfl, rfl⟩

theorem Creel.show_kept (c : Creel) (now n : Nat) : Creel.Kept c (c.show_ now n) := by
  rw [Creel.show_]
  split
  · split
    · exact .rfl
    · next p _ _ =>
      have hupd := Creel.upd_kept c now n fun q => q.setLast { p with visible := true, visAt := c.visNext, visTime := now }
      exact ⟨hupd.closed, hupd.rewindCnt, hupd.poisonCnt⟩
  · exact .rfl

theorem Creel.cutThrough_kept (cfg : Cfg) (c : Creel) (now n : Nat) : Creel.Kept c (c.cutThrough cfg now n) := by
  rw [Creel.cutThrough]
  split
  · split
    · exact Creel.show_kept c now n
    · exact .rfl
  · exact .rfl

theorem Creel.close_kept (c : Creel) (now n : Nat) (poison trunc : Bool) : Creel.Kept c (c.close now n poison trunc) := by
  rw [Creel.close]
  split
  · exact (Creel.upd_kept c now n _).trans (Creel.show_kept _ now n)
  · exact .rfl

theorem Creel.appendPkt_kept (cfg : Cfg) (now n : Nat) (held : Bool) (inst : Option Nat) (fuel : Nat) (c : Creel) (bs : List Byte) :
    Creel.Kept c (Creel.appendPkt cfg now n held inst fuel c bs).1 := by
  induction fuel generalizing c bs with
  | zero => exact .rfl
  | succ fuel ih =>
    cases bs with
    | nil => exact .rfl
    | cons b bs =>
      simp only [Creel.appendPkt]
      split
      · split
        · exact .rfl
        · exact (c.handOut_kept.trans (Creel.upd_kept _ now n _)).trans (ih _ _)
      · split
        · exact (Creel.upd_kept c now n _).trans (ih _ _)
        · split
          · exact .rfl
          · split
            · exact .rfl
            · exact (c.handOut_kept.trans (Creel.upd_kept _ now n _)).trans (ih _ _)

theorem Creel.appendStream_kept (cfg : Cfg) (now n fuel : Nat) (c : Creel) (bs : List Byte) :
    Creel.Kept c (Creel.appendStream cfg now n fuel c bs).1 := by
  induction fuel generalizing c bs with
  | zero => exact .rfl
  | succ fuel ih =>
    cases bs with
    | nil => exact .rfl
    | cons b bs =>
      simp only [Creel.appendStream]
      split
      · exact .rfl
      · refine .trans (.trans ?_ (Creel.upd_kept _ now n _)) (ih _ _)
        split
        · exact c.handOut_kept
        · exact .rfl

theorem Creel.append_kept (cfg : Cfg) (c : Creel) (now n : Nat) (held : Bool) (bs : List Byte) :
    Creel.Kept c (c.append cfg now n held bs).1 := by
  rw [Creel.append]
  split
  · exact .rfl
  · exact ⟨rfl, rfl, rfl⟩
  · split
    · exact Creel.appendStream_kept cfg now n _ c bs
    · exact (Creel.appendPkt_kept cfg now n held none _ c bs).trans (Creel.cutThrough_kept cfg _ now n)

/-! ## Appends and ends that find room -/

section
variable {e : Engine} {q : Nat}

theorem Engine.qAppend_all {bs : List Byte} {c' : Creel} (hopen : e.qClosed q = false)
    (h : e.creel.append e.conf e.now q (e.lineHeld q) bs = (c', .all)) : e.qAppend q bs = ({ e with creel := c' }, .all) := by
  simp [Engine.qAppend, hopen, h]

theorem Engine.qEnd_stream (hopen : e.qClosed q = false) (hdrop : (e.creel.q q).drop = .none) (hmode : (e.conf.queue q).mode = 3) :
    e.qEnd q = e.onCreel fun c => c.flush e.now q := by
  simp [Engine.qEnd, hopen, hdrop, hmode]

theorem Engine.qEnd_packet (hopen : e.qClosed q = false) (hdrop : (e.creel.q q).drop = .none) (hmode : (e.conf.queue q).mode ≠ 3) :
    e.qEnd q = e.commitPkt q false false := by
  simp [Engine.qEnd, hopen, hdrop, hmode]

theorem Engine.qAbort_of_taken (hopen : e.qClosed q = false) (hdrop : (e.creel.q q).drop = .none) : e.qAbort q = e.qBad q := by
  simp [Engine.qAbort, hopen, hdrop]

/-! ## The end of a packet (R306, R337) -/

theorem Engine.commitPkt_noLine {p : Pkt} (hp : (e.creel.q q).openPkt = some p) (hline : e.conf.lineOf q = none) (poison trunc : Bool) :
    e.commitPkt q poison trunc = { e with creel := e.creel.close e.now q poison trunc } := by
  simp only [Engine.commitPkt, hp, hline]

theorem Engine.commitPkt_counted {p : Pkt} {i : Inp} {k : Nat} (hp : (e.creel.q q).openPkt = some p) (hline : e.conf.lineOf q = some (i, k))
    (hmay : e.mayCount i k = true) (poison trunc : Bool) :
    e.commitPkt q poison trunc = ({ e with creel := e.creel.close e.now q poison trunc } : Engine).countLine i k := by
  simp only [Engine.commitPkt, hp, hline, hmay, if_true]

theorem Engine.commitPkt_dropped {p : Pkt} {i : Inp} {k : Nat} (hp : (e.creel.q q).openPkt = some p) (hline : e.conf.lineOf q = some (i, k))
    (hmay : e.mayCount i k = false) (hunread : p.taken = 0) (poison trunc : Bool) : e.commitPkt q poison trunc = e.dropLine i q := by
  simp [Engine.commitPkt, hp, hline, hmay, hunread]

/-- A counted line after which a stripe still lacks lines leaves the frame open (R337). -/
theorem Engine.countLine_lacking {i : Inp} {k : Nat}
    (hlack : ∃ m < (e.conf.tick i.val).stripes,
      (setAt (e.tick i).frame.counts k ((e.tick i).frame.counts.getD k 0 + 1)).getD m 0 < (e.conf.tick i.val).expected m) :
    e.countLine i k = e.modTick i fun x =>
      { x with frame := { x.frame with counts := setAt (e.tick i).frame.counts k ((e.tick i).frame.counts.getD k 0 + 1) } } := by
  obtain ⟨m, hm, hlt⟩ := hlack
  simp only [Engine.countLine]
  rw [if_neg]
  · rfl
  · simp only [List.all_eq_true, List.mem_range, decide_eq_true_eq, not_forall, not_le]
    exact ⟨m, hm, by simpa [Engine.tick, Engine.modTick] using hlt⟩

end

/-! ## The answer of a write (R421) -/

/-- The port notes the write's ID before it serves the write. -/
def portNoted (s : State) (w : PortWrite) : Engine := s.eng.modPort w.port fun p => { p with bid := w.id }

/-- A write's bytes are in. -/
def portTook (s : State) (w : PortWrite) (c' : Creel) : Engine := { portNoted s w with creel := c' }

/-- Whatever the write did elsewhere, its answer is the response under the ID noted. -/
theorem Engine.portResp_noted {s : State} {w : PortWrite} {e : Engine} (h : e.ports = (portNoted s w).ports) (r : AxiResp) :
    e.portResp w.port (some r) = { e with ports := writeAnswer s w r } := by
  simp [Engine.portResp, Engine.modPort, h, portNoted, writeAnswer]

/-! ## Writes that are served -/

section
variable {s : State} {w : PortWrite} {region : Nat}

/-- A write that passes the checks reaches its queue. -/
theorem Engine.portWrite_served (h : portWriteServed s w region) (h3 : region ≠ 3) :
    s.eng.portWrite w region =
      if region = 2 then ((portNoted s w).qAbort w.queue).portResp w.port (some .okay)
      else (portNoted s w).portPut w.port w.queue w.bytes w.beats (region == 1) := by
  obtain ⟨hup, hfree, -, hburst, hregion, hmode, hproducer, hport, -⟩ := h
  have hconf : (portNoted s w).conf = s.eng.conf := rfl
  have hserve : s.eng.portWrite w region = (portNoted s w).portServe w := by
    simp [Engine.portWrite, hup, hfree, hregion, Engine.portDo, portNoted]
  simp [hserve, Engine.portServe, hconf, hburst, hregion, h3, hmode, hproducer, hport]

theorem Engine.portPut_all {e : Engine} {p : Port} {q beats : Nat} {bs : List Byte} {c' : Creel} (hwaits : (e.creel.q q).waits = [])
    (hopen : e.qClosed q = false) (h : e.creel.append e.conf e.now q (e.lineHeld q) bs = (c', .all)) (ends : Bool) :
    e.portPut p q bs beats ends =
      (if ends then ({ e with creel := c' } : Engine).qEnd q else { e with creel := c' }).portResp p (some .okay) := by
  simp [Engine.portPut, Engine.qWaits, hwaits, Engine.qAppend_all hopen h]

/-- Once its bytes are in, a BODY write answers, and an END write ends the packet first. -/
theorem Engine.portWrite_append {c' : Creel} (ends : Bool) (h : portWriteServed s w (b2n ends))
    (happ : s.eng.creel.append s.eng.conf s.eng.now w.queue (s.eng.lineHeld w.queue) w.bytes = (c', .all)) :
    s.eng.portWrite w (b2n ends) =
      (if ends then (portTook s w c').qEnd w.queue else portTook s w c').portResp w.port (some .okay) := by
  obtain ⟨-, -, hwaits, -, -, -, -, -, hopen⟩ := id h
  have hput := Engine.portPut_all (e := portNoted s w) (p := w.port) (beats := w.beats) hwaits hopen happ ends
  cases ends with
  | false => rw [Engine.portWrite_served h (by decide), if_neg (by decide)]; exact hput
  | true => rw [Engine.portWrite_served h (by decide), if_neg (by decide)]; exact hput

end

theorem exec_portQueueWriteBody (w : PortWrite) (s : State) : exec (.portQueueWriteBody w) s = .next { s with eng := s.eng.portWrite w 0 } := rfl

theorem exec_portQueueWriteEnd (w : PortWrite) (s : State) : exec (.portQueueWriteEnd w) s = .next { s with eng := s.eng.portWrite w 1 } := rfl

theorem exec_portQueueWriteAbort (w : PortWrite) (s : State) : exec (.portQueueWriteAbort w) s = .next { s with eng := s.eng.portWrite w 2 } := rfl

/-! ## BODY and END -/

/-- A dropped line: its packet is gone, it is counted, and an open frame that was not long before is long now (R340). -/
theorem Engine.dropLine_effect (e : Engine) (i : Inp) (q : Nat) :
    let k := e.tick i
    let long := k.frame.open_ && !k.frame.long
    (e.dropLine i q).creel = e.creel.dropLast e.now q ∧ (e.dropLine i q).ports = e.ports ∧ (e.dropLine i q).spindles = e.spindles ∧
      (e.dropLine i q).tick i =
        { k with dropLines := satInc k.dropLines, longCnt := satAdd k.longCnt (b2n long)
                 frame := { k.frame with long := k.frame.long || k.frame.open_ } } ∧
      (e.dropLine i q).events = (if long then .frameLong i.val :: e.events else e.events) := by
  simp only [Engine.dropLine, Engine.raiseIf]
  split <;> simp [Engine.raise, Engine.modTick, Engine.tick]

/-- Settles O31: each write appends and then ends what its queue's MODE and the frame let it end. -/
theorem portWritesAppendAndEnd : Obligations.PortWritesAppendAndEnd := by
  unfold Obligations.PortWritesAppendAndEnd
  intro w s c' happ
  have body (h : portWriteServed s w 0) :
      exec (.portQueueWriteBody w) s = .next { s with eng := { s.eng with creel := c', ports := writeAnswer s w .okay } } := by
    have hput : s.eng.portWrite w 0 = { s.eng with creel := c', ports := writeAnswer s w .okay } :=
      (Engine.portWrite_append false h happ).trans (Engine.portResp_noted (s := s) (e := portTook s w c') rfl .okay)
    rw [exec_portQueueWriteBody, hput]
  have ended {e : Engine} (h : portWriteServed s w 1) (hend : (portTook s w c').qEnd w.queue = e)
      (hports : e.ports = (portNoted s w).ports) :
      exec (.portQueueWriteEnd w) s = .next { s with eng := { e with ports := writeAnswer s w .okay } } := by
    have hput : s.eng.portWrite w 1 = e.portResp w.port (some .okay) := hend ▸ Engine.portWrite_append true h happ
    rw [exec_portQueueWriteEnd, hput, Engine.portResp_noted hports]
  have hopen (h : portWriteServed s w 1) : (portTook s w c').qClosed w.queue = false := by
    obtain ⟨-, -, -, -, -, -, -, -, hopen⟩ := h
    have hkept : c'.closed = s.eng.creel.closed := by
      simpa only [happ] using (Creel.append_kept s.eng.conf s.eng.creel s.eng.now w.queue (s.eng.lineHeld w.queue) w.bytes).closed
    simpa [Engine.qClosed, portTook, hkept] using hopen
  have packet (h : portWriteServed s w 1) (hdrop : (c'.q w.queue).drop = .none) (hmode : (s.eng.conf.queue w.queue).mode ≠ 3) :
      (portTook s w c').qEnd w.queue = (portTook s w c').commitPkt w.queue false false :=
    Engine.qEnd_packet (hopen h) hdrop hmode
  refine ⟨body, fun h hdrop hmode => ?stream, fun h hdrop hmode hline hp => ?packet, fun i k p h hdrop hmode hline hp =>
    ⟨fun hmay hlack => ?counted, fun hmay hunread => ?dropped⟩⟩
  case stream =>
    rw [ended h (Engine.qEnd_stream (hopen h) hdrop hmode) rfl]
    simp only [Engine.onCreel, portTook, portNoted, Engine.modPort]
  case packet =>
    obtain ⟨p, hp⟩ := Option.ne_none_iff_exists'.mp hp
    exact ended h ((packet h hdrop hmode).trans (Engine.commitPkt_noLine (e := portTook s w c') hp hline false false)) rfl
  case counted =>
    have hend := (packet h hdrop hmode).trans (Engine.commitPkt_counted (e := portTook s w c') hp hline hmay false false)
    rw [ended h (hend.trans (Engine.countLine_lacking hlack)) rfl]
    simp only [Engine.tick, Engine.modTick, portTook, portNoted, Engine.modPort]
  case dropped =>
    have hend := (packet h hdrop hmode).trans (Engine.commitPkt_dropped (e := portTook s w c') hp hline hmay hunread false false)
    obtain ⟨hcreel, hports, hspindles, htick, hevents⟩ := Engine.dropLine_effect (portTook s w c') i w.queue
    exact ⟨_, ended h hend hports, rfl, hcreel, rfl, hspindles, htick, hevents⟩

end Sys2Proof.Machine
end

section
/-! PROOFS. Leaf-port aborts, reads and refusals: O32 and O33. -/

namespace Sys2Proof.Machine

/-! ## A packet that ends (R306, R311) -/

theorem Queue.openPkt_of_committed {q : Queue} {p : Pkt} (h : q.pkts.getLast? = some p) (hc : p.committed = true) : q.openPkt = none := by
  simp [Queue.openPkt, h, hc]

theorem Pkt.getLast?_setLastCell {p : Pkt} (h : p.cells ≠ []) (f : Cell → Cell) :
    (p.setLastCell f).cells.getLast? = some (f (p.cells.getLast h)) := by
  simp [Pkt.setLastCell, List.getLast?_eq_some_getLast h]

section
variable {c : Creel} {now n : Nat} {p : Pkt}

theorem Creel.q_visNext (c : Creel) (k n : Nat) : ({ c with visNext := k } : Creel).q n = c.q n := rfl

/-- The last packet of a queue that becomes visible keeps its cells and its end. -/
theorem Creel.getLast?_show (hwf : Tab.wf {} c.queues = true) (hp : (c.q n).pkts.getLast? = some p) :
    ∃ p', ((c.show_ now n).q n).pkts.getLast? = some p' ∧ p'.cells = p.cells ∧ p'.committed = p.committed := by
  simp only [Creel.show_, hp]
  split
  · exact ⟨p, hp, rfl, rfl⟩
  · obtain ⟨since, hq⟩ := Creel.q_upd hwf now n fun q => q.setLast { p with visible := true, visAt := c.visNext, visTime := now }
    refine ⟨{ p with visible := true, visAt := c.visNext, visTime := now }, ?_, rfl, rfl⟩
    rw [Creel.q_visNext, hq]
    exact List.getLast?_concat

/-- The open packet that ends is the last of its queue, committed, and its last cell says so. -/
theorem Creel.getLast?_close (hwf : Tab.wf {} c.queues = true) (hp : (c.q n).openPkt = some p) (poison trunc : Bool) :
    ∃ p', ((c.close now n poison trunc).q n).pkts.getLast? = some p' ∧ p'.committed = true ∧
      (p.cells ≠ [] → (p'.cells.getLast?.map fun x => (x.last, x.poison)) = some (true, poison)) := by
  simp only [Creel.close, hp]
  set shut : Pkt := { p.setLastCell (fun x => { x with last := true, poison := poison, trunc := trunc }) with committed := true, held := false }
    with hshut
  obtain ⟨since, hq⟩ := Creel.q_upd hwf now n fun q => q.setLast shut
  obtain ⟨p', hlast, hcells, hcommitted⟩ := Creel.getLast?_show (now := now) (Creel.upd_wf hwf now n fun q => q.setLast shut)
    ((congrArg (fun q => q.pkts.getLast?) hq).trans (List.getLast?_concat ..))
  refine ⟨p', hlast, hcommitted, fun hne => ?_⟩
  rw [hcells, hshut]
  simp [Pkt.getLast?_setLastCell hne]

end

/-! ## A packet that turns bad (R309, R311, R318) -/

/-- What an abort does to a stream with a partial tail (R318). -/
def Creel.dropTail (c : Creel) (now n : Nat) : Creel :=
  { c.upd now n (fun q => { q with tail := [], tailNum := 0 }) with rewindCnt := satInc c.rewindCnt }

theorem Creel.dropTail_effect {c : Creel} (hwf : Tab.wf {} c.queues = true) (now n : Nat) (htail : (c.q n).tail ≠ []) :
    ((c.dropTail now n).q n).cells = (c.q n).cells ∧ ((c.dropTail now n).q n).tail = [] ∧
      ((c.dropTail now n).q n).cellCount + 1 = (c.q n).cellCount ∧ (c.dropTail now n).rewindCnt = satInc c.rewindCnt ∧
      ∀ m, m ≠ n → (c.dropTail now n).q m = c.q m := by
  obtain ⟨since, hq⟩ := Creel.q_upd hwf now n fun q => { q with tail := [], tailNum := 0 }
  have hqueue (m : Nat) : (c.dropTail now n).q m = (c.upd now n fun q => { q with tail := [], tailNum := 0 }).q m := Creel.q_congr rfl m
  rw [hqueue, hq]
  exact ⟨rfl, rfl, by simp [Queue.cellCount, htail], rfl, fun m hm => (hqueue m).trans (Creel.q_upd_ne c now hm _)⟩

section
variable {e : Engine} {q : Nat} {p : Pkt}

/-- A stream holds no packet, and without a tail there is nothing to lose (R318). -/
theorem Engine.qBad_noTail (hmode : (e.conf.queue q).mode = 3) (hpkts : (e.creel.q q).pkts = []) (htail : (e.creel.q q).tail = []) :
    e.qBad q = e := by
  simp [Engine.qBad, Queue.openPkt, hpkts, Engine.onCreel, Creel.bad, hmode, htail]

/-- A stream loses its partial tail (R318). -/
theorem Engine.qBad_tail (hmode : (e.conf.queue q).mode = 3) (hpkts : (e.creel.q q).pkts = []) (htail : (e.creel.q q).tail ≠ []) :
    e.qBad q = { e with creel := e.creel.dropTail e.now q } := by
  simp [Engine.qBad, Queue.openPkt, hpkts, Engine.onCreel, Creel.bad, hmode, htail, Creel.dropTail]

theorem Engine.qBad_unread (hmode : (e.conf.queue q).mode ≠ 3) (hp : (e.creel.q q).openPkt = some p) (hunread : p.taken = 0) :
    e.qBad q = { e with creel := { e.creel.dropLast e.now q with rewindCnt := satInc e.creel.rewindCnt } } := by
  simp [Engine.qBad, hp, hunread, Engine.onCreel, Creel.bad, hmode]

theorem Engine.qBad_read (hline : e.conf.lineOf q = none) (hp : (e.creel.q q).openPkt = some p) (hread : p.taken ≠ 0) :
    e.qBad q = { e with creel := { e.creel.close e.now q true false with poisonCnt := satInc (e.creel.close e.now q true false).poisonCnt } } := by
  simp [Engine.qBad, hp, hread, Engine.commitPkt_noLine hp hline, Engine.onCreel]

end

/-- An ABORT write makes the open packet bad and answers. -/
theorem exec_portQueueWriteAbort_served {s : State} {w : PortWrite} {c' : Creel} (h : portWriteServed s w 2)
    (hdrop : (s.eng.creel.q w.queue).drop = .none) (hbad : (portNoted s w).qBad w.queue = portTook s w c') :
    exec (.portQueueWriteAbort w) s = .next { s with eng := { s.eng with creel := c', ports := writeAnswer s w .okay } } := by
  obtain ⟨-, -, -, -, -, -, -, -, hopen⟩ := id h
  rw [exec_portQueueWriteAbort, Engine.portWrite_served h (by decide), if_pos rfl, Engine.qAbort_of_taken (e := portNoted s w) hopen hdrop, hbad,
    Engine.portResp_noted (s := s) (e := portTook s w c') rfl]
  simp only [portTook, portNoted, Engine.modPort]

/-! ## Aborts -/

/-- Settles O32: by the queue's MODE, then by whether a cell of the packet was taken. -/
theorem portAbortRewindsOrPoisons : Obligations.PortAbortRewindsOrPoisons := by
  unfold Obligations.PortAbortRewindsOrPoisons
  refine ⟨fun w s h hmode hdrop hwf hpkts => ?_, fun w s p h hmode hdrop hwf hp hline => ?_⟩
  · by_cases htail : (s.eng.creel.q w.queue).tail = []
    · exact ⟨_, exec_portQueueWriteAbort_served h hdrop (Engine.qBad_noTail (e := portNoted s w) hmode hpkts htail), rfl, rfl, rfl, rfl, htail,
        fun _ _ => rfl, fun _ => rfl, absurd htail⟩
    · obtain ⟨hcells, hnone, hcount, hcnt, hothers⟩ := Creel.dropTail_effect hwf s.eng.now w.queue htail
      exact ⟨_, exec_portQueueWriteAbort_served h hdrop (Engine.qBad_tail (e := portNoted s w) hmode hpkts htail), rfl, rfl, rfl, hcells, hnone,
        hothers, (absurd · htail), fun _ => ⟨hcnt, hcount⟩⟩
  · by_cases hread : p.taken = 0
    · have hexec := exec_portQueueWriteAbort_served h hdrop (Engine.qBad_unread (e := portNoted s w) hmode hp hread)
      refine ⟨_, hexec, rfl, ?_, fun _ => ?_, absurd hread⟩
      · simp [writeAnswer]
      · obtain ⟨since, hq⟩ := Creel.q_upd hwf s.eng.now w.queue fun q => { q with pkts := q.pkts.dropLast }
        have hkept := Creel.upd_kept s.eng.creel s.eng.now w.queue fun q => { q with pkts := q.pkts.dropLast }
        exact ⟨congrArg Queue.pkts hq, rfl, hkept.poisonCnt⟩
    · have hexec := exec_portQueueWriteAbort_served h hdrop (Engine.qBad_read (e := portNoted s w) hline hp hread)
      refine ⟨_, hexec, rfl, ?_, (absurd · hread), fun _ => ?_⟩
      · simp [writeAnswer]
      · have hkept := Creel.close_kept s.eng.creel s.eng.now w.queue true false
        obtain ⟨p', hlast, hcommitted, hcell⟩ := Creel.getLast?_close (now := s.eng.now) hwf hp true false
        exact ⟨congrArg satInc hkept.poisonCnt, hkept.rewindCnt, Queue.openPkt_of_committed hlast hcommitted, p', hlast, hcommitted, hcell⟩

/-! ## Accesses that are refused (R434, R435) -/

/-- A violation heads PROTO_LOG, as a new entry or as a repeat of the last. -/
theorem Engine.violation_heads (e : Engine) (code source info : Nat) :
    ∃ p, (e.violation code source info).glb.plog.head? = some p ∧ p.code = code ∧ p.source = source := by
  rw [Engine.violation]
  split
  · split
    · next hsame => exact ⟨_, rfl, hsame.1, hsame.2.1⟩
    · exact ⟨_, rfl, rfl, rfl⟩
  · exact ⟨_, rfl, rfl, rfl⟩

/-- What a refused access at a leaf port leaves of the engine, and what it says (R434). -/
structure Refused (e e' : Engine) (p : Port) (code : Nat) : Prop where
  creel : e'.creel = e.creel
  ports : e'.ports = e.ports.set p { e.ports[p] with resp := some .slverr }
  heads : ∃ l, e'.glb.plog.head? = some l ∧ l.code = code ∧ l.source = 32 + p.val
  knots : e'.knots = e.knots
  spindles : e'.spindles = e.spindles

theorem Engine.portViolation_refused (e : Engine) (p : Port) (code q : Nat) : Refused e (e.portViolation p code q) p code where
  creel := e.violation_creel ..
  ports := by simp [Engine.portViolation, Engine.portResp]
  heads := e.violation_heads code (srcSubordinate p.val) q
  knots := e.violation_knots ..
  spindles := e.violation_spindles ..

/-- A write is refused with the code of the first rule that it breaks. -/
theorem Engine.portWrite_refused {s : State} {w : PortWrite} {region code : Nat} (hup : s.eng.coreUp = true)
    (hfree : s.eng.portWaits w.port = false) (hregion : apRegion w.offset = region ∨ apRegion w.offset = 3) (h3 : region ≠ 3)
    (hbreaks : burstBad w.burst w.offset w.size w.beats w.special = true ∧ code = 1 ∨
      burstBad w.burst w.offset w.size w.beats w.special = false ∧ apRegion w.offset = 3 ∧ code = 2 ∨
      burstBad w.burst w.offset w.size w.beats w.special = false ∧ apRegion w.offset = region ∧
        ((s.eng.conf.queue w.queue).mode = 0 ∨ (s.eng.conf.queue w.queue).producer ≠ 0x20 ∨ s.eng.conf.portOk w.port w.queue = false) ∧
        code = 4) :
    s.eng.portWrite w region = (portNoted s w).portViolation w.port code w.queue := by
  have hconf : (portNoted s w).conf = s.eng.conf := rfl
  have hserve : s.eng.portWrite w region = (portNoted s w).portServe w := by
    rcases hregion with hr | hr <;> simp [Engine.portWrite, hup, hfree, hr, Engine.portDo, portNoted]
  rw [hserve, Engine.portServe, hconf]
  rcases hbreaks with ⟨hburst, rfl⟩ | ⟨hburst, hr, rfl⟩ | ⟨hburst, hr, hnot, rfl⟩
  · simp [hburst]
  · simp [hburst, hr]
  · simp only [hburst, hr, h3, if_false, Bool.false_eq_true]
    exact if_pos (by simpa using hnot)

/-! ## Reads (R315, R427) -/

/-- The port notes the read's ID before it serves the read. -/
def readNoted (s : State) (r : PortRead) : Engine := s.eng.modPort r.port fun p => { p with rid := r.id }

theorem exec_portQueueRead {s : State} (hup : s.eng.coreUp = true) (r : PortRead) (row : CellEcc) :
    exec (.portQueueRead r row) s = .next { s with eng := (readNoted s r).portReadServe r row } := by
  change done (s.onEng _) = _
  simp only [done, State.onEng, hup, if_true]
  rfl

/-- A one-beat read that passes the checks answers with what the queue gave it, or with an empty cell. -/
theorem Engine.portReadServe_ok {e : Engine} {r : PortRead} {row : CellEcc} (hburst : burstBad r.burst r.offset r.size r.beats r.special = false)
    (hregion : apRegion r.offset = 0) (hkind : readKindOk r = true) (hbeats : r.beats = 1) (hmode : (e.conf.queue r.queue).mode ≠ 0)
    (hconsumer : (e.conf.queue r.queue).consumer = 0x20) (hport : e.conf.portOk r.port r.queue = true) :
    e.portReadServe r row = (e.readCell r.queue row).1.modPort r.port fun p =>
      { p with resp := some .okay, rdata := (((e.readCell r.queue row).2).getD {}).bytes, ruser := (((e.readCell r.queue row).2).getD {}).link } := by
  rw [hbeats] at hburst
  simp [Engine.portReadServe, hburst, hregion, hkind, hbeats, hmode, hconsumer, hport]

/-- A read is refused with the code of the first rule that it breaks. -/
theorem Engine.portReadServe_refused {e : Engine} {r : PortRead} {row : CellEcc} {code : Nat}
    (hbreaks : burstBad r.burst r.offset r.size r.beats r.special = true ∧ code = 1 ∨
      burstBad r.burst r.offset r.size r.beats r.special = false ∧ apRegion r.offset ≠ 0 ∧ code = 2 ∨
      burstBad r.burst r.offset r.size r.beats r.special = false ∧ apRegion r.offset = 0 ∧ readKindOk r = false ∧ code = 3 ∨
      burstBad r.burst r.offset r.size r.beats r.special = false ∧ apRegion r.offset = 0 ∧ readKindOk r = true ∧
        ((e.conf.queue r.queue).mode = 0 ∨ (e.conf.queue r.queue).consumer ≠ 0x20 ∨ e.conf.portOk r.port r.queue = false) ∧ code = 4) :
    e.portReadServe r row = e.portViolation r.port code r.queue := by
  rw [Engine.portReadServe]
  rcases hbreaks with ⟨hburst, rfl⟩ | ⟨hburst, hr, rfl⟩ | ⟨hburst, hr, hkind, rfl⟩ | ⟨hburst, hr, hkind, hnot, rfl⟩
  · simp [hburst]
  · simp [hburst, hr]
  · simp [hburst, hr, hkind]
  · simp only [hburst, hr, hkind, ne_eq, not_true_eq_false, if_false, Bool.false_eq_true, Bool.not_true]
    exact if_pos (by simpa using hnot)

/-- Settles O33: what a read returns, and the first rule that a write or a read breaks. -/
theorem portReadsAndBadAccesses : Obligations.PortReadsAndBadAccesses := by
  unfold Obligations.PortReadsAndBadAccesses
  refine ⟨fun r row s hup hburst hregion hkind hbeats hmode hconsumer hport => ?reads,
    fun c region code w s hc hup hfree hregion hbreaks => ?writes, fun r cell code s hup hbreaks => ?badReads⟩
  case reads =>
    have hserve := Engine.portReadServe_ok (e := readNoted s r) (row := row) hburst hregion hkind hbeats hmode hconsumer hport
    rw [exec_portQueueRead hup, hserve]
    refine ⟨fun x hx hrow => ?_, fun hx => ?_⟩
    · rw [Engine.readCell_ok (e := readNoted s r) hx hrow]
      simp [readNoted, Engine.modPort, Engine.onCreel]
    · have hbytes : ({} : Cell).bytes = List.replicate 64 0 := by decide
      have hlink : ({} : Cell).link = 0 := by decide
      rw [Engine.readCell_none (e := readNoted s r) hx, Option.getD_none, hbytes, hlink]
      simp [readNoted, Engine.modPort]
  case writes =>
    have hexec : exec c s = .next { s with eng := s.eng.portWrite w region } ∧ region ≠ 3 := by
      simp only [List.mem_cons, Prod.mk.injEq, List.not_mem_nil, or_false] at hc
      rcases hc with ⟨rfl, rfl⟩ | ⟨rfl, rfl⟩ | ⟨rfl, rfl⟩
      · exact ⟨exec_portQueueWriteBody w s, by decide⟩
      · exact ⟨exec_portQueueWriteEnd w s, by decide⟩
      · exact ⟨exec_portQueueWriteAbort w s, by decide⟩
    obtain ⟨hexec, h3⟩ := hexec
    rw [Engine.portWrite_refused hup hfree hregion h3 hbreaks] at hexec
    have href := (portNoted s w).portViolation_refused w.port code w.queue
    exact ⟨_, hexec, rfl, href.creel, href.ports.trans (by simp [portNoted, writeAnswer]), href.heads, href.knots, href.spindles⟩
  case badReads =>
    have href := (readNoted s r).portViolation_refused r.port code r.queue
    have hexec := exec_portQueueRead hup r cell
    rw [Engine.portReadServe_refused (e := readNoted s r) hbreaks] at hexec
    exact ⟨_, hexec, rfl, href.creel, href.ports.trans (by simp [readNoted]), href.heads, href.knots,
      href.spindles⟩

end Sys2Proof.Machine
end

section
/-! PROOFS. The register port's narrow path: O34. -/

namespace Sys2Proof.Machine

section
variable {e : Engine}

/-! ## What a narrow access does to its queue (R304, R316) -/

/-- A push that finds room leaves its bytes in the queue. -/
theorem Engine.narrowPush_all {k : Nat} {c' : Creel} (hk : 1 ≤ k ∧ k ≤ 8) (hproduces : e.conf.regProduces e.creel.nsel.toNat = true)
    (hopen : e.qClosed e.creel.nsel.toNat = false)
    (h : e.creel.append e.conf e.now e.creel.nsel.toNat (e.lineHeld e.creel.nsel.toNat) (e.creel.narrow.take k) = (c', .all)) (path : RegPath) :
    e.narrowPush path k false = { e with creel := c' } := by
  have hlen : ¬ (k = 0 ∨ 8 < k) := by omega
  simp [Engine.narrowPush, hproduces, hlen, Engine.regPut, Engine.qAppend_all hopen h]

theorem Engine.narrowEnd_eq (hproduces : e.conf.regProduces e.creel.nsel.toNat = true) (hnot0 : e.creel.nsel ≠ 0) :
    e.narrowEnd = e.qEnd e.creel.nsel.toNat := by
  have hn : e.creel.nsel.toNat ≠ 0 := fun h => hnot0 (BitVec.eq_of_toNat_eq h)
  simp [Engine.narrowEnd, hproduces, hn]

theorem Engine.narrowAbort_eq (hproduces : e.conf.regProduces e.creel.nsel.toNat = true) : e.narrowAbort = e.qAbort e.creel.nsel.toNat := by
  simp [Engine.narrowAbort, hproduces]

/-- A pop takes the cell and shows it. -/
theorem Engine.narrowPop_some {x : Cell} {row : CellEcc} (hmode : (e.conf.queue e.creel.rsel.toNat).mode ≠ 0)
    (hconsumer : (e.conf.queue e.creel.rsel.toNat).consumer = 0x22) (hx : (e.creel.q e.creel.rsel.toNat).next? = some x)
    (hrow : e.cellFound e.creel.rsel.toNat row = .ok) :
    e.narrowPop row = { e with creel :=
      { e.creel.take e.now e.creel.rsel.toNat with rtagValid := true, rtagLink := x.link, rdata := x.bytes } } := by
  simp [Engine.narrowPop, hmode, hconsumer, Engine.readCell_ok hx hrow, Engine.onCreel]

/-- A pop of a queue with no readable cell clears VALID. -/
theorem Engine.narrowPop_none (hx : (e.creel.q e.creel.rsel.toNat).next? = none) (row : CellEcc) :
    e.narrowPop row = { e with creel := { e.creel with rtagValid := false } } := by
  simp [Engine.narrowPop, Engine.readCell_none hx, Engine.onCreel]

end

/-! ## The accesses, as the register file serves them -/

section
variable {s : State}

/-- An answer touches the register port's or the test port's note of it. -/
theorem Engine.answer_eq (e : Engine) (path : RegPath) (bad : Bool) :
    ∃ g tap, e.answer path bad = { e with glb := g, tap := tap } ∧ g.stall = e.glb.stall := by
  cases path with
  | apb => exact ⟨_, _, rfl, rfl⟩
  | debug => exact ⟨_, _, rfl, rfl⟩

theorem exec_narrowPush {path : RegPath} (h : s.serves path = true) (k : BitVec 4) (ends : Bool) :
    exec (.narrowPush path k ends) s = .next (s.onEng fun e => (e.answer path false).narrowPush path k.toNat ends) :=
  congrArg Host.Outcome.next (State.access_served s path _ _ h)

theorem exec_narrowEnd (h : s.serves .apb = true) : exec .narrowEnd s = .next (s.onEng fun e => (e.answer .apb false).narrowEnd) :=
  congrArg Host.Outcome.next (State.access_served s .apb _ _ h)

theorem exec_narrowAbort (h : s.serves .apb = true) : exec .narrowAbort s = .next (s.onEng fun e => (e.answer .apb false).narrowAbort) :=
  congrArg Host.Outcome.next (State.access_served s .apb _ _ h)

theorem exec_narrowPop (h : s.serves .apb = true) (row : CellEcc) :
    exec (.narrowPop row) s = .next (s.onEng fun e => (e.answer .apb false).narrowPop row) :=
  congrArg Host.Outcome.next (State.access_served s .apb _ _ h)

end

/-- Settles O34: each access, served, is its operation on the queue that CRL_NSEL or CRL_RSEL names. -/
theorem narrowPathPushesAndPops : Obligations.NarrowPathPushesAndPops := by
  unfold Obligations.NarrowPathPushesAndPops
  intro path s hserves
  refine ⟨fun k c' hk hk' hproduces hopen happ => ?push, fun hpath hproduces hopen hnot0 hdrop => ?ends, fun hpath hmode hconsumer => ?pop⟩
  case push =>
    have hexec := exec_narrowPush hserves k false
    obtain ⟨g, tap, hanswer, hstall⟩ := s.eng.answer_eq path false
    have hpush := Engine.narrowPush_all (e := { s.eng with glb := g, tap := tap }) ⟨hk, hk'⟩ hproduces hopen happ path
    simp only [State.onEng, hanswer, hpush] at hexec
    exact ⟨_, hexec, rfl, rfl, hstall, rfl⟩
  case ends =>
    subst hpath
    have hend := Engine.narrowEnd_eq (e := s.eng.answer .apb false) hproduces hnot0
    refine ⟨fun hmode => ⟨_, exec_narrowEnd hserves, ?_⟩, fun hmode hline hp => ⟨_, exec_narrowEnd hserves, ?_⟩,
      fun p hmode hp hunread => ⟨_, exec_narrowAbort hserves, ?_⟩⟩
    · exact congrArg Engine.creel (hend.trans (Engine.qEnd_stream (e := s.eng.answer .apb false) hopen hdrop hmode))
    · obtain ⟨p, hp⟩ := Option.ne_none_iff_exists'.mp hp
      have hpacket := hend.trans (Engine.qEnd_packet (e := s.eng.answer .apb false) hopen hdrop hmode)
      exact congrArg Engine.creel (hpacket.trans (Engine.commitPkt_noLine (e := s.eng.answer .apb false) hp hline false false))
    · have habort := (Engine.narrowAbort_eq (e := s.eng.answer .apb false) hproduces).trans (Engine.qAbort_of_taken hopen hdrop)
      exact congrArg Engine.creel (habort.trans (Engine.qBad_unread (e := s.eng.answer .apb false) hmode hp hunread))
  case pop =>
    subst hpath
    exact ⟨fun x row hx hrow => ⟨_, exec_narrowPop hserves row, rfl,
        congrArg Engine.creel (Engine.narrowPop_some (e := s.eng.answer .apb false) hmode hconsumer hx hrow)⟩,
      fun hx => ⟨_, exec_narrowPop hserves .ok, rfl, congrArg Engine.creel (Engine.narrowPop_none (e := s.eng.answer .apb false) hx .ok)⟩⟩

end Sys2Proof.Machine
end

section
/-! PROOFS. Waits for cells: O36, where the Creel's table names a queue twice. -/

namespace Sys2Proof.Machine

/-! ## A wait behind an entry that went away (R301) -/

namespace TwiceListed

/-- A leaf port's write and one of no port, each with no byte left. -/
def portWait : CellWait := { since := 0, rest := [], ends := false, port := some 0 }
def hiddenWait : CellWait := { since := 0, rest := [], ends := false, port := none, turn := 1 }

/-- Queue 0 stands in the table twice; lookups find the first entry. -/
def state : State :=
  State.reset.onEng fun e =>
    { e with
      cfg := some { queues := [(0, { limit := 1 })] }
      creel := { e.creel with queues := [(0, { waits := [portWait] }), (0, { waits := [hiddenWait] })] } }

theorem table_not_canonical : Tab.wf {} state.eng.creel.queues = false := by decide

theorem granted : state.eng.creel.granted state.eng.conf = some 0 := by decide

theorem appends_nothing :
    state.eng.creel.append state.eng.conf state.eng.now 0 (state.eng.lineHeld 0) portWait.rest = (state.eng.creel, .all) := rfl

/-- Once the first entry is gone the hidden one comes up, and its wait goes on as well. -/
theorem queues_after_grant : (state.eng.continueWait 0 33).creel.queues = [] := by decide

theorem exec_cellGrant : exec .cellGrant state = .next (state.onEng fun e => e.continueWait 0 33) := rfl

theorem queues_after_stopWait : (state.eng.creel.stopWait state.eng.now 0).queues = [(0, { waits := [hiddenWait] })] := by decide

end TwiceListed

/-- Refutes O36: its first clause has no premise that the table of queues is canonical (its third has it, and `Safety.storesSound` asks for
it).  Where the table lists a queue twice, the grant that ends the one wait uncovers the second entry and ends its wait too. -/
theorem not_cellWaitsAndStaleTimers : ¬ Obligations.CellWaitsAndStaleTimers := by
  unfold Obligations.CellWaitsAndStaleTimers
  intro h
  obtain ⟨hgrant, -, -⟩ := h TwiceListed.state 0 TwiceListed.portWait
  have hexec := hgrant TwiceListed.granted rfl 0 TwiceListed.state.eng.creel rfl rfl rfl rfl TwiceListed.appends_nothing
  rw [TwiceListed.exec_cellGrant] at hexec
  have hqueues : (TwiceListed.state.eng.continueWait 0 33).creel.queues = (TwiceListed.state.eng.creel.stopWait TwiceListed.state.eng.now 0).queues :=
    congrArg (fun s => s.eng.creel.queues) (Host.Outcome.next.inj hexec)
  rw [TwiceListed.queues_after_grant, TwiceListed.queues_after_stopWait] at hqueues
  cases hqueues

end Sys2Proof.Machine
end

section
/-! PROOFS. What further reads of a job leave of the deliveries on its spindle (R142, R201). -/

namespace Sys2Proof.Machine

/-! ## What is the same of a spindle's deliveries when a job only reads -/

/-- Of a job, what its place in a delivery rests on. -/
def Job.tally (x : Job) : Nat × Desc × Nat × Nat × Option Ending := (x.id, x.desc, x.sent, x.bytesOut, x.ended)

theorem Job.tally_modStrm (x : Job) (o : Opnd) (f : Strm → Strm) : (x.modStrm o f).tally = x.tally := by cases o <;> rfl

/-- Queues, knots and the other spindles are the same, and spindle n's jobs stand where they stood in their deliveries. -/
structure Engine.SameDelivery (n : Sp) (e e' : Engine) : Prop where
  creel : e'.creel = e.creel
  knots : e'.knots = e.knots
  others : ∀ m : Sp, m ≠ n → e'.sp m = e.sp m
  tallies : (e'.sp n).jobs.map Job.tally = (e.sp n).jobs.map Job.tally

section
variable {n : Sp} {id : Nat} {e e' e'' : Engine}

theorem Engine.SameDelivery.refl (n : Sp) (e : Engine) : SameDelivery n e e := ⟨rfl, rfl, fun _ _ => rfl, rfl⟩

theorem Engine.SameDelivery.trans (h : SameDelivery n e e') (h' : SameDelivery n e' e'') : SameDelivery n e e'' :=
  ⟨h'.creel.trans h.creel, h'.knots.trans h.knots, fun m hm => (h'.others m hm).trans (h.others m hm), h'.tallies.trans h.tallies⟩

theorem Engine.SameDelivery.modSp {f : Spindle → Spindle} (hf : ∀ s, (f s).jobs = s.jobs) : SameDelivery n e (e.modSp n f) :=
  ⟨rfl, rfl, fun _ hm => sp_modSp_ne e hm _, by rw [sp_modSp, hf]⟩

theorem Engine.SameDelivery.modJob (id : Nat) {f : Job → Job} (hf : ∀ x, (f x).tally = x.tally) : SameDelivery n e (e.modJob n id f) := by
  refine ⟨rfl, rfl, fun _ hm => sp_modSp_ne e hm _, ?_⟩
  rw [Engine.modJob, sp_modSp, List.map_map]
  refine List.map_congr_left fun x _ => ?_
  dsimp only [Function.comp]
  split
  · exact hf x
  · rfl

theorem Engine.SameDelivery.modStrm (id : Nat) (o : Opnd) (f : Strm → Strm) : SameDelivery n e (e.modStrm n id o f) :=
  .modJob id fun x => x.tally_modStrm o f

theorem Engine.SameDelivery.of_reads (h : Reads n e e') : SameDelivery n e e' := by
  obtain ⟨t, rfl, ⟨ls, ts, xs, k, w, ht⟩, -⟩ := h
  exact ⟨rfl, rfl, fun _ hm => sp_modSp_ne e hm _, by rw [sp_modSp, ht]⟩

theorem Engine.SameDelivery.dropReads (id : Nat) (p : Nat × Nat) : SameDelivery n e (e.dropReads n id p) := .modSp fun _ => rfl

theorem Engine.SameDelivery.lookUp (t : Nat) : SameDelivery n e (e.lookUp n t) := by
  unfold Engine.lookUp
  split
  · exact .refl n e
  · exact .modSp fun _ => rfl

/-- A job is found where it was, with its place in its delivery. -/
theorem Engine.SameDelivery.jobId? (h : SameDelivery n e e') {x : Job} (hx : e.jobId? n id = some x) :
    ∃ y, e'.jobId? n id = some y ∧ y.tally = x.tally := by
  have hfind (e : Engine) : (e.jobId? n id).map Job.tally = ((e.sp n).jobs.map Job.tally).find? fun v => v.1 == id := by
    rw [List.find?_map]
    rfl
  have hsome : (e'.jobId? n id).map Job.tally = some x.tally := by rw [hfind, h.tallies, ← hfind, hx, Option.map_some]
  obtain ⟨y, hy, htally⟩ := Option.map_eq_some_iff.mp hsome
  exact ⟨y, hy, htally⟩

theorem Engine.SameDelivery.jobLive (h : SameDelivery n e e') (id : Nat) : e'.jobLive n id = e.jobLive n id := by
  have hlive (e : Engine) : e.jobLive n id = (((e.sp n).jobs.map Job.tally).find? fun v => v.1 == id).any fun v => v.2.2.2.2.isNone := by
    have hid : ((fun v : Nat × Desc × Nat × Nat × Option Ending => v.1 == id) ∘ Job.tally) = fun x : Job => x.id == id := rfl
    rw [List.find?_map, hid, ← Engine.jobId?, Engine.jobLive]
    cases e.jobId? n id <;> rfl
  rw [hlive, h.tallies, ← hlive]

/-! ## A job that reads on -/

/-- What further reads of a job come to: every delivery is as it was, or one of the reads has faulted the job (R70, R375). -/
def Engine.ReadsAhead (n : Sp) (id : Nat) (e e' : Engine) : Prop :=
  SameDelivery n e e' ∨
    ∃ (e1 : Engine) (c d w : Nat), SameDelivery n e e1 ∧ e1.jobLive n id = true ∧ SameDelivery n (e1.fault n id c d w) e'

theorem Engine.ReadsAhead.refl (n : Sp) (id : Nat) (e : Engine) : ReadsAhead n id e e := .inl (.refl n e)

theorem Engine.ReadsAhead.trans (h : ReadsAhead n id e e') (h' : ReadsAhead n id e' e'') : ReadsAhead n id e e'' := by
  rcases h' with hsame' | ⟨e1, c, d, w, hsame', hlive, hafter'⟩
  · rcases h with hsame | ⟨e1, c, d, w, hsame, hlive, hafter⟩
    · exact .inl (hsame.trans hsame')
    · exact .inr ⟨e1, c, d, w, hsame, hlive, hafter.trans hsame'⟩
  · rcases h with hsame | ⟨e0, c', d', w', -, -, hafter⟩
    · exact .inr ⟨e1, c, d, w, hsame.trans hsame', hlive, hafter'⟩
    · rw [hsame'.jobLive, hafter.jobLive, jobLive_fault] at hlive
      exact absurd hlive (by decide)

theorem Engine.ReadsAhead.fault (c d w : Nat) : ReadsAhead n id e (e.fault n id c d w) := by
  cases hlive : e.jobLive n id with
  | true => exact .inr ⟨e, c, d, w, .refl n e, hlive, .refl n _⟩
  | false =>
    rw [fault_of_not_jobLive hlive]
    exact .refl n id e

theorem Engine.ReadsAhead.modStrm (o : Opnd) (f : Strm → Strm) : ReadsAhead n id e (e.modStrm n id o f) := .inl (.modStrm id o f)

theorem Engine.ReadsAhead.foldl {α : Type} (f : Engine → α → Engine) (hf : ∀ e a, ReadsAhead n id e (f e a)) (as : List α) (e : Engine) :
    ReadsAhead n id e (as.foldl f e) :=
  List.foldlRecOn (motive := ReadsAhead n id e) as f (.refl n id e) fun e' he a _ => he.trans (hf e' a)

theorem Engine.ReadsAhead.jobRead (p : Nat × Nat) (a : Addr) (len : Nat) : ReadsAhead n id e (e.jobRead n id p a len) := by
  have hissue (e : Engine) (ls : List Nat) : SameDelivery n e (e.issue n id false p ls) := .of_reads (.issue ..)
  unfold Engine.jobRead
  split
  · exact .refl n id e
  · split
    · exact .refl n id e
    · split
      · exact .fault ..
      · split
        · rename_i t _ _
          refine .inl ((SameDelivery.lookUp t).trans ?_)
          split
          · exact ⟨rfl, rfl, fun _ _ => rfl, rfl⟩
          · exact hissue ..
        · exact .inl (hissue ..)

section
variable {x : Job} (hid : x.id = id) (p : Nat × Nat) (off len : Nat)
include hid

theorem Engine.ReadsAhead.strmAsk (o : Opnd) : ReadsAhead n id e (e.strmAsk n x o p off len) := by
  unfold Engine.strmAsk
  split
  · exact .refl n id e
  · split
    · exact .refl n id e
    · rw [hid]
      exact .jobRead ..

theorem Engine.ReadsAhead.lineAsk (base : Option Addr) : ReadsAhead n id e (e.lineAsk n x base p off len) := by
  unfold Engine.lineAsk
  split
  · rw [hid]
    exact .jobRead ..
  · exact .strmAsk hid ..

end

theorem Engine.ReadsAhead.askPayload (o : Opnd) : ReadsAhead n id e (e.askPayload n id o) := by
  unfold Engine.askPayload
  split
  · exact .refl n id e
  · rename_i hx
    split
    · exact .refl n id e
    · split
      · dsimp only
        split
        · exact .modStrm ..
        · exact .trans (.modStrm ..) (.strmAsk (jobId?_id hx) ..)
      · exact .refl n id e

theorem Engine.ReadsAhead.askEntry (o : Opnd) : ReadsAhead n id e (e.askEntry n id o) := by
  unfold Engine.askEntry
  split
  · exact .refl n id e
  · rename_i hx
    split
    · exact .refl n id e
    · split
      · exact .refl n id e
      · split
        · split
          · exact .trans (.modStrm ..) (.strmAsk (jobId?_id hx) ..)
          · exact .refl n id e
        · exact .refl n id e

theorem Engine.ReadsAhead.readOn (o : Opnd) : ReadsAhead n id e (e.readOn n id o) := by
  unfold Engine.readOn
  split
  · exact .refl n id e
  · refine iteInduction (motive := ReadsAhead n id e) (fun _ => .refl n id e) fun _ =>
      iteInduction (motive := ReadsAhead n id e) (fun _ => .askEntry o) fun _ => ?_
    exact .trans (.foldl _ (fun _ _ => .askPayload o) _ e) (.askEntry o)

theorem Engine.ReadsAhead.lineOn (fuel : Nat) (e : Engine) : ReadsAhead n id e (e.lineOn n id fuel) := by
  induction fuel generalizing e with
  | zero => exact .refl n id e
  | succ fuel ih =>
    unfold Engine.lineOn
    split
    · exact .refl n id e
    · rename_i hx
      split
      · exact .refl n id e
      · split
        · exact .refl n id e
        · split
          · refine .trans ?_ (ih _)
            split
            · exact .modStrm ..
            · exact .trans (.modStrm ..) (.lineAsk (jobId?_id hx) ..)
          · split
            · split
              · exact .trans (.modStrm ..) (.lineAsk (jobId?_id hx) ..)
              · exact .refl n id e
            · exact .refl n id e

theorem Engine.ReadsAhead.cropNext : ReadsAhead n id e (e.cropNext n id) := by
  unfold Engine.cropNext
  split
  · exact .refl n id e
  · rename_i x hx
    split
    · next c s _ _ =>
      split
      · exact .refl n id e
      · split
        · exact .refl n id e
        · next b _ =>
          dsimp only
          generalize cropRun s.hdr (gridOf x.grids s.ct s.slot) s b (b.w * b.h * s.hdr.dim0 - c.elem) c 0 = run
          obtain ⟨c', sat⟩ := run
          dsimp only
          have hcount : SameDelivery n e (e.countSat n sat) := .modSp fun _ => rfl
          have hjob (f : Job → Job) (hf : ∀ x, (f x).tally = x.tally) : SameDelivery n e ((e.countSat n sat).modJob n id f) :=
            hcount.trans (.modJob id hf)
          have hcrop (c : Option Crop) : ReadsAhead n id e ((e.countSat n sat).modJob n id fun x => { x with crop := c }) :=
            .inl (hjob _ fun _ => rfl)
          have hask (e : Engine) (p : Nat × Nat) (off : Nat) :
              ReadsAhead n id e ((e.modStrm n id .a fun s => { s with entries := [] }).strmAsk n x .a p off 8) :=
            .trans (.modStrm ..) (.strmAsk (jobId?_id hx) ..)
          split
          · split
            · split
              · split
                · exact hcrop _
                · exact (hcrop _).trans (.fault ..)
              · exact ((hcrop _).trans (.inl (.dropReads ..))).trans (hask ..)
            · exact (hcrop _).trans (hask ..)
          · split
            · exact .inl ((hjob _ fun _ => by rfl).trans (.modSp fun _ => by rfl))
            · exact .inl (hjob _ fun _ => by rfl)
    · exact .refl n id e

theorem Engine.ReadsAhead.resumeReads : ReadsAhead n id e (e.resumeReads n id) := by
  unfold Engine.resumeReads
  split
  · split
    · exact .readOn .a
    · exact .lineOn 6 e
    · exact .cropNext
    · exact .refl n id e
  · exact .refl n id e

end

end Sys2Proof.Machine
end

section
/-! PROOFS. Ends of packets, and the job whose turn it is at a queue (R201, R306). -/

namespace Sys2Proof.Machine

/-! ## The end of a packet in a queue of no line (R306, R312, R318) -/

/-- What an end makes of the Creel where no line is counted: dropped bytes have their end, a tail is flushed, an open packet commits. -/
def Creel.ended (cfg : Cfg) (c : Creel) (now q : Nat) : Creel :=
  if (c.q q).drop ≠ .none then c.setDrop now q .none
  else if (cfg.queue q).mode = 3 then c.flush now q
  else c.close now q false false

theorem Engine.commitPkt_of_noLine {e : Engine} {q : Nat} (hline : e.conf.lineOf q = none) (poison trunc : Bool) :
    e.commitPkt q poison trunc = { e with creel := e.creel.close e.now q poison trunc } := by
  cases hp : (e.creel.q q).openPkt with
  | none => simp only [Engine.commitPkt, Creel.close, hp]
  | some p => exact Engine.commitPkt_noLine hp hline poison trunc

theorem Engine.qEnd_of_noLine {e : Engine} {q : Nat} (hopen : e.qClosed q = false) (hline : e.conf.lineOf q = none) :
    e.qEnd q = { e with creel := e.creel.ended e.conf e.now q } := by
  unfold Engine.qEnd Creel.ended
  simp only [hopen, Bool.false_eq_true, if_false]
  split
  · rfl
  · split
    · rfl
    · exact Engine.commitPkt_of_noLine hline false false

/-! ## The only job that delivers into a queue -/

theorem Job.tally_eq_iff {x y : Job} :
    y.tally = x.tally ↔ y.id = x.id ∧ y.desc = x.desc ∧ y.sent = x.sent ∧ y.bytesOut = x.bytesOut ∧ y.ended = x.ended := by
  simp only [Job.tally, Prod.mk.injEq]

/-- No other job of spindle n that has not ended delivers into the queue. -/
def Engine.Alone (e : Engine) (n : Sp) (id q : Nat) : Prop :=
  ∀ y ∈ (e.sp n).jobs, y.id ≠ id → y.desc.outQ ≠ q ∨ y.ended.isSome = true

section
variable {n : Sp} {id q : Nat} {e e' : Engine}

theorem Engine.Alone.of_sameDelivery (h : e.Alone n id q) (hsame : SameDelivery n e e') : e'.Alone n id q := by
  intro y hy hne
  have hin : y.tally ∈ (e.sp n).jobs.map Job.tally := hsame.tallies ▸ List.mem_map_of_mem hy
  obtain ⟨x, hx, htally⟩ := List.mem_map.mp hin
  obtain ⟨hid, hdesc, -, -, hended⟩ := Job.tally_eq_iff.mp htally
  rw [← hdesc, ← hended]
  exact h x hx (by rwa [hid])

theorem Engine.Alone.of_keeps (h : e.Alone n id q) (hkeeps : e.Keeps e') : e'.Alone n id q := by
  obtain ⟨⟨f, hf, hjobs⟩, -, -⟩ := hkeeps.spindle n
  intro y hy hne
  rw [hjobs] at hy
  obtain ⟨x, hx, rfl⟩ := List.mem_map.mp hy
  rw [(hf x).id] at hne
  rw [(hf x).desc]
  refine (h x hx hne).imp_right fun hended => ?_
  by_contra hnot
  have hnone := ((hf x).banks (by simpa using hnot)).1
  simp [hnone] at hended

theorem Engine.Alone.modJob (h : e.Alone n id q) {f : Job → Job} (hid : ∀ x, (f x).id = x.id) (hdesc : ∀ x, (f x).desc = x.desc)
    (hended : ∀ x, x.ended.isSome = true → (f x).ended.isSome = true) (k : Nat) : (e.modJob n k f).Alone n id q := by
  intro y hy hne
  rw [Engine.modJob, sp_modSp] at hy
  obtain ⟨x, hx, rfl⟩ := List.mem_map.mp hy
  by_cases hk : x.id = k
  · rw [if_pos hk, hid] at hne
    rw [if_pos hk, hdesc]
    exact (h x hx hne).imp_right (hended x)
  · rw [if_neg hk] at hne ⊢
    exact h x hx hne

/-- The job whose turn it is at a queue is one of those that deliver there. -/
theorem Engine.turn_delivers {y : Job} (hq : q ≠ 0xFFFF) (h : e.turn n q = some y) :
    y ∈ (e.sp n).jobs ∧ y.desc.outQ = q ∧ y.ended = none := by
  have hhere (x : Job) (hx : x ∈ (e.sp n).jobs.filter fun x => x.desc.feeds && x.ended.isNone && x.desc.outQ == q && !x.lockWait) :
      x ∈ (e.sp n).jobs ∧ x.desc.outQ = q ∧ x.ended = none := by
    simp only [List.mem_filter, Bool.and_eq_true, Option.isNone_iff_eq_none, beq_iff_eq] at hx
    obtain ⟨hmem, ⟨⟨-, hended⟩, hout⟩, -⟩ := hx
    exact ⟨hmem, hout, hended⟩
  unfold Engine.turn at h
  extract_lets here runs l next at h
  have hnext (x : Job) (hx : next = some x) : x ∈ here := by
    dsimp only [next] at hx
    split at hx
    · next hfound =>
      cases hx
      exact List.mem_of_find?_eq_some hfound
    · exact List.mem_of_find?_eq_some hx
  clear_value next
  cases next with
  | none => cases h
  | some x =>
    simp only [hq, beq_iff_eq, Bool.and_eq_true, and_false, if_false] at h
    split at h
    · cases h
    · split at h
      · cases h
        exact hhere _ (hnext _ rfl)
      · cases h

/-- Alone at its queue, a job leaves the turn to no other. -/
theorem Engine.Alone.turn (h : e.Alone n id q) (hq : q ≠ 0xFFFF) {y : Job} (hy : e.turn n q = some y) : y.id = id := by
  obtain ⟨hmem, hout, hended⟩ := turn_delivers hq hy
  by_contra hne
  rcases h y hmem hne with hother | hsome
  · exact hother hout
  · simp [hended] at hsome

/-! ## What the word's job and its queue come to -/

/-- Job x is found with as many words sent, and alone at its queue; without a fault its bytes, the queues, the knots and the other spindles
are the same too. -/
structure Engine.Delivered (n : Sp) (x : Job) (e e' : Engine) : Prop where
  found : ∃ y, e'.jobId? n x.id = some y ∧ y.sent = x.sent ∧ (y.ended = none ∨ y.ended = some ⟨0, 0, 0, 0⟩ →
    y.bytesOut = x.bytesOut ∧ e'.creel = e.creel ∧ e'.knots = e.knots ∧ ∀ m : Sp, m ≠ n → e'.sp m = e.sp m)
  alone : e'.Alone n x.id x.desc.outQ

/-- A job that ends without a fault (R366). -/
def Job.finished (x : Job) : Job :=
  { x with
    ended := some ⟨0, 0, 0, 0⟩, banks := [], slices := [], scratch := false, spots := []
    hank := x.hank.map fun h => { h with held := false } }

theorem Job.id_finished (x : Job) : x.finished.id = x.id := rfl

theorem Engine.finish_eq {x : Job} (hx : e.jobId? n id = some x) : e.finish n id = (e.endSideWait n x).modJob n id Job.finished := by
  simp only [Engine.finish, hx]
  rfl

section
variable {x : Job} (hx : e.jobId? n x.id = some x) (halone : e.Alone n x.id x.desc.outQ)
include hx halone

theorem Engine.Delivered.of_sameDelivery (h : SameDelivery n e e') : Delivered n x e e' := by
  obtain ⟨y, hy, htally⟩ := h.jobId? hx
  obtain ⟨-, -, hsent, hbytes, -⟩ := Job.tally_eq_iff.mp htally
  exact ⟨⟨y, hy, hsent, fun _ => ⟨hbytes, h.creel, h.knots, h.others⟩⟩, halone.of_sameDelivery h⟩

theorem Engine.Delivered.of_readsAhead (h : ReadsAhead n x.id e e') : Delivered n x e e' := by
  rcases h with hsame | ⟨e1, c, d, w, hbefore, hlive, hafter⟩
  · exact .of_sameDelivery hx halone hsame
  · obtain ⟨x1, hx1, htally1⟩ := hbefore.jobId? hx
    have hnone : x1.ended = none := by simpa [Engine.jobLive, hx1] using hlive
    obtain ⟨y1, hy1, hfault⟩ := Engine.ended_fault hx1 hnone c d w
    obtain ⟨z, hz, hlasting⟩ := Engine.jobId?_of_kept (e1.kept_fault n x.id c d w n) hx1
    obtain rfl := Option.some.inj (hy1.symm.trans hz)
    obtain ⟨y, hy, htally⟩ := hafter.jobId? hy1
    have hsent : y.sent = x.sent :=
      calc y.sent = y1.sent := congrArg (fun v => v.2.2.1) htally
        _ = x1.sent := (congrArg Job.sent hlasting :)
        _ = x.sent := congrArg (fun v => v.2.2.1) htally1
    have hended : y.ended = some ⟨1, c, d, w⟩ := (congrArg (fun v => v.2.2.2.2) htally).trans hfault
    refine ⟨⟨y, hy, hsent, fun hgood => ?_⟩, ((halone.of_sameDelivery hbefore).of_keeps (keeps_fault ..)).of_sameDelivery hafter⟩
    simp [hended] at hgood

/-- The job's end changes nothing of its delivery but that it has ended. -/
theorem Engine.Delivered.finish : Delivered n x e (e.finish n x.id) ∧
    ∃ y, (e.finish n x.id).jobId? n x.id = some y ∧ y.ended = some ⟨0, 0, 0, 0⟩ := by
  have hwait : SameDelivery n e (e.endSideWait n x) := by
    unfold Engine.endSideWait
    split
    · have hdraw : SameDelivery n e e.draw.2 := ⟨rfl, rfl, fun _ _ => rfl, rfl⟩
      refine SameDelivery.trans ?_ (.modJob x.id fun _ => by rfl)
      exact hdraw.trans (.modSp (e := e.draw.2) fun _ => by rfl)
    · exact .refl n e
  obtain ⟨x0, hx0, htally⟩ := hwait.jobId? hx
  obtain ⟨-, -, hsent, hbytes, -⟩ := Job.tally_eq_iff.mp htally
  have hdone := jobId?_modJob_of hx0 Job.id_finished
  rw [Engine.finish_eq hx]
  exact ⟨⟨⟨_, hdone, hsent, fun _ => ⟨hbytes, hwait.creel, hwait.knots, fun m hm => (sp_modSp_ne _ hm _).trans (hwait.others m hm)⟩⟩,
    (halone.of_sameDelivery hwait).modJob Job.id_finished (fun _ => rfl) (fun _ _ => rfl) x.id⟩, _, hdone, rfl⟩

end

end

end Sys2Proof.Machine
end

section
/-! PROOFS. Queue writes of the Flyer and the spindles, and spindle cell reads: O35. -/

namespace Sys2Proof.Machine

/-! ## A stream that the fetch unit does not read (R142) -/

/-- The job has not ended, and its stream, if it has one, comes through the Hank decoder. -/
def Engine.Fetchless (e : Engine) (n : Sp) (id : Nat) : Prop :=
  ∃ y, e.jobId? n id = some y ∧ y.ended = none ∧ ∀ u, y.strm .a = some u → u.wrapped.isSome = true

section
variable {e : Engine} {n : Sp} {id : Nat}

theorem Engine.Fetchless.ended (h : e.Fetchless n id) {y : Job} (hy : e.jobId? n id = some y) : y.ended = none := by
  obtain ⟨z, hz, hended, -⟩ := h
  rw [Option.some.inj (hy.symm.trans hz), hended]

theorem Engine.Fetchless.wrapped (h : e.Fetchless n id) {y : Job} (hy : e.jobId? n id = some y) {u : Strm} (hu : y.strm .a = some u) :
    u.wrapped.isSome = true := by
  obtain ⟨z, hz, -, hwrapped⟩ := h
  obtain rfl := Option.some.inj (hy.symm.trans hz)
  exact hwrapped u hu

theorem Engine.Fetchless.modStrm (h : e.Fetchless n id) {f : Strm → Strm} (hf : ∀ u, (f u).wrapped = u.wrapped) :
    (e.modStrm n id .a f).Fetchless n id := by
  obtain ⟨y, hy, hended, hwrapped⟩ := h
  refine ⟨y.modStrm .a f, jobId?_modJob_of hy fun x => x.id_modStrm .a f, (y.ended_modStrm .a f).trans hended, fun u hu => ?_⟩
  obtain ⟨v, hv, rfl⟩ := Option.map_eq_some_iff.mp (show (y.strm .a).map f = some u from hu)
  rw [hf]
  exact hwrapped v hv

theorem Engine.strmAsk_of_wrapped {x : Job} {u : Strm} (hu : x.strm .a = some u) (hwrapped : u.wrapped.isSome = true) (p : Nat × Nat)
    (off len : Nat) : e.strmAsk n x .a p off len = e := by
  simp only [Engine.strmAsk, hu, hwrapped, if_true]

theorem Engine.Fetchless.askPayload (h : e.Fetchless n id) : (e.askPayload n id .a).Fetchless n id := by
  unfold Engine.askPayload
  split
  · exact h
  · next x hx =>
    split
    · exact h
    · next u hu =>
      split
      · have hpaid := h.modStrm (f := fun s => { s with paid := s.paid + 1 }) fun _ => rfl
        dsimp only
        split
        · exact hpaid
        · rwa [Engine.strmAsk_of_wrapped hu (h.wrapped hx hu)]
      · exact h

theorem Engine.Fetchless.askEntry (h : e.Fetchless n id) : (e.askEntry n id .a).Fetchless n id := by
  unfold Engine.askEntry
  split
  · exact h
  · next x hx =>
    split
    · exact h
    · next u hu =>
      split
      · exact h
      · split
        · split
          · rw [Engine.strmAsk_of_wrapped hu (h.wrapped hx hu)]
            exact h.modStrm (f := fun s => { s with asked := s.asked + 1 }) fun _ => rfl
          · exact h
        · exact h

theorem Engine.Fetchless.readOn (h : e.Fetchless n id) : (e.readOn n id .a).Fetchless n id := by
  unfold Engine.readOn
  split
  · exact h
  · have hpayloads : ((List.range 5).foldl (fun e _ => e.askPayload n id .a) e).Fetchless n id :=
      List.foldlRecOn (motive := fun e : Engine => e.Fetchless n id) _ _ h fun _ he _ _ => he.askPayload
    exact iteInduction (motive := fun e' : Engine => e'.Fetchless n id) (fun _ => h) fun _ =>
      iteInduction (motive := fun e' : Engine => e'.Fetchless n id) (fun _ => h.askEntry) fun _ => hpayloads.askEntry

end

/-! ## What follows a word that was sent (R142, R201) -/

/-- The job goes on reading, or ends its delivery when its last word has left. -/
def Engine.wordNext (e : Engine) (n : Sp) (x : Job) : Engine :=
  if x.words.isEmpty && x.allFormed then (if x.desc.outQ != 0xFFFF && e.qWaits x.desc.outQ then e else e.finish n x.id) else e.resumeReads n x.id

section
variable {e : Engine} {n : Sp} {x : Job} (hx : e.jobId? n x.id = some x)
include hx

theorem Engine.wordNext_delivered (halone : e.Alone n x.id x.desc.outQ) : Delivered n x e (e.wordNext n x) := by
  unfold Engine.wordNext
  split
  · split
    · exact .of_sameDelivery hx halone (.refl n e)
    · exact (Delivered.finish hx halone).1
  · exact .of_readsAhead hx halone .resumeReads

/-- A job that delivers to a queue alone leaves no turn there to another. -/
theorem Engine.afterWord_eq (hended : x.ended = none) (hq : x.desc.outQ ≠ 0xFFFF) (halone : e.Alone n x.id x.desc.outQ) :
    e.afterWord n x.id = e.wordNext n x := by
  have hturn (y : Job) (hy : (e.wordNext n x).turn n x.desc.outQ = some y) : y.id = x.id := (wordNext_delivered hx halone).alone.turn hq hy
  have hafter : e.afterWord n x.id =
      match (e.wordNext n x).turn n x.desc.outQ with
      | some y => if y.id = x.id then e.wordNext n x else (e.wordNext n x).resumeReads n y.id
      | none => e.wordNext n x := by
    simp only [Engine.afterWord, hx, hended, Option.isSome_none, Bool.false_eq_true, if_false]
    rfl
  rw [hafter]
  split
  · next y hy => exact if_pos (hturn y hy)
  · rfl

/-- No read of the job's stream can fault where it stands. -/
def Engine.ReadsFreely (e : Engine) (n : Sp) (x : Job) : Prop :=
  ∀ st, x.strA = some st → st.wrapped.isSome = true ∨ ∀ off len : Nat, e.placeFault n false (st.addr.plus off) len = none

theorem Engine.ended_wordNext (hended : x.ended = none) (h : (x.words = [] ∧ x.allFormed = true) ∨ (x.form = .feed ∧ e.ReadsFreely n x))
    {y : Job} (hy : (e.wordNext n x).jobId? n x.id = some y) : y.ended = none ∨ y.ended = some ⟨0, 0, 0, 0⟩ := by
  unfold Engine.wordNext at hy
  split at hy
  · split at hy
    · obtain rfl := Option.some.inj (hx.symm.trans hy)
      exact .inl hended
    · obtain ⟨z, hz, -, hdone⟩ := Engine.jobId?_finish hx
      obtain rfl := Option.some.inj (hz.symm.trans hy)
      exact .inr hdone
  · next hmore =>
    rcases h with ⟨hwords, hall⟩ | ⟨hform, hfree⟩
    · simp [hwords, hall] at hmore
    · left
      have hreads : e.resumeReads n x.id = e.readOn n x.id .a := by simp only [Engine.resumeReads, hx, hform]
      rw [hreads] at hy
      have hfetchless (hwrapped : ∀ u, x.strm .a = some u → u.wrapped.isSome = true) : y.ended = none :=
        (Engine.Fetchless.readOn ⟨x, hx, hended, hwrapped⟩).ended hy
      cases hst : x.strA with
      | none => exact hfetchless fun u hu => absurd (hst.symm.trans hu) nofun
      | some st =>
        rcases hfree st hst with hwrapped | hplace
        · exact hfetchless fun u hu => Option.some.inj (hst.symm.trans hu) ▸ hwrapped
        · exact (Engine.Reaches.readOn (o := .a) ⟨⟨x, st, hx, hst, hended, rfl⟩, hplace⟩).ended hy

end

/-! ## A word leaves its job for the queue (R201, R517) -/

/-- The job after its next word has left, counted with so many bytes. -/
def Job.pops (x : Job) (bytes : Nat) : Job :=
  { x with
    words := x.words.drop 1, sent := x.sent + 1, sentTiles := x.sentTiles + b2n (x.words.drop 1).isEmpty, bytesOut := x.bytesOut + bytes
    resume := false }

section
variable {e : Engine} {n : Sp} {id q : Nat}

theorem Engine.jobId?_popWord {x : Job} (hx : e.jobId? n id = some x) (bytes : Nat) : (e.popWord n id bytes).jobId? n id = some (x.pops bytes) := by
  have hjob : (e.modJob n id fun x => x.pops bytes).jobId? n id = some (x.pops bytes) := jobId?_modJob_of hx fun _ => rfl
  rw [Engine.popWord, Engine.jobId?, sp_modSp]
  exact hjob

theorem Engine.Alone.popWord (h : e.Alone n id q) (k bytes : Nat) : (e.popWord n k bytes).Alone n id q :=
  .of_sameDelivery (.modJob (f := fun x => x.pops bytes) h (fun _ => rfl) (fun _ => rfl) (fun _ hended => hended) k) (.modSp fun _ => by rfl)

theorem Engine.sp_popWord_ne {m : Sp} (hm : m ≠ n) (k bytes : Nat) : (e.popWord n k bytes).sp m = e.sp m :=
  (sp_modSp_ne _ hm _).trans (sp_modSp_ne _ hm _)

/-- An append opens and closes no queue. -/
theorem Engine.qClosed_append {bs : List Byte} {c' : Creel} (h : e.creel.append e.conf e.now q (e.lineHeld q) bs = (c', .all)) :
    ({ e with creel := c' } : Engine).qClosed q = e.qClosed q := by
  have hkept : c'.closed = e.creel.closed := by simpa only [h] using (Creel.append_kept e.conf e.creel e.now q (e.lineHeld q) bs).closed
  simp only [Engine.qClosed, hkept]

/-- A word has left the job, and the Creel has taken it. -/
def Engine.wordTaken (e : Engine) (n : Sp) (id : Nat) (c : Creel) : Engine := { e.popWord n id 64 with creel := c }

theorem Engine.jobId?_wordTaken {x : Job} (hx : e.jobId? n id = some x) (c : Creel) : (e.wordTaken n id c).jobId? n id = some (x.pops 64) :=
  Engine.jobId?_popWord hx 64

theorem Engine.Alone.wordTaken (h : e.Alone n id q) (k : Nat) (c : Creel) : (e.wordTaken n k c).Alone n id q := h.popWord k 64

/-- A word that finds room, and the end of its packet if it is the last (R305, R306). -/
theorem Engine.jobPut_popWord {bs : List Byte} {c' : Creel} (hopen : e.qClosed q = false)
    (h : e.creel.append e.conf e.now q (e.lineHeld q) bs = (c', .all)) (ends : Bool) (hline : ends = true → e.conf.lineOf q = none) :
    (e.popWord n id 64).jobPut n id q bs ends =
      (e.wordTaken n id (if ends then (({ e with creel := c' } : Engine).qEnd q).creel else c')).afterWord n id := by
  have happ : (e.popWord n id 64).qAppend q bs = (e.wordTaken n id c', .all) := Engine.qAppend_all hopen h
  simp only [Engine.jobPut, happ]
  cases ends with
  | false => rfl
  | true =>
    have hopen' := (Engine.qClosed_append h).trans hopen
    have hcreel : (({ e with creel := c' } : Engine).qEnd q).creel = c'.ended e.conf e.now q :=
      congrArg Engine.creel (Engine.qEnd_of_noLine (e := { e with creel := c' }) hopen' (hline rfl))
    have hend : (e.wordTaken n id c').qEnd q = e.wordTaken n id (c'.ended e.conf e.now q) :=
      Engine.qEnd_of_noLine (e := e.wordTaken n id c') hopen' (hline rfl)
    rw [if_pos rfl, if_pos rfl, hcreel, hend]

end

section
variable {s : State} {n : Sp} {j : Nat} {x : Job} (hlive : s.eng.live = true) (hjob : s.eng.job? n j = some x) (hacts : x.acts = true)
include hlive hjob hacts

theorem exec_spindleQueueWrite {w : FeedWord} {ws : List FeedWord} (hwords : x.words = w :: ws) (hq : x.desc.outQ ≠ 0xFFFF)
    (hwaits : (s.eng.creel.q x.desc.outQ).waits = []) (hturn : s.eng.hasTurn n x x.desc.outQ = true)
    (hmode : (s.eng.conf.queue x.desc.outQ).mode ≠ 0) (hproducer : (s.eng.conf.queue x.desc.outQ).producer = n.val) :
    exec (.spindleQueueWrite n j) s =
      .next { s with eng := (s.eng.popWord n x.id 64).jobPut n x.id x.desc.outQ w.data w.last } := by
  change done (s.onEng _) = _
  simp [done, State.onEng, Engine.withJob, hjob, hlive, hacts, hwords, hq, Engine.qWaits, hwaits, hturn, hmode, hproducer]

end

/-! ## The Flyer's bytes (R305) -/

theorem exec_flyerQueueWrite {s : State} {q : Nat} (hruns : s.eng.flyerRuns = true) (hmode : (s.eng.conf.queue q).mode ≠ 0)
    (hproducer : (s.eng.conf.queue q).producer = 0x21) (hwaits : (s.eng.creel.q q).waits = []) (bs : List Byte) (ends : Bool) :
    exec (.flyerQueueWrite q bs ends) s = .next { s with eng := s.eng.flyerPut q bs ends } := by
  change done (s.onEng _) = _
  simp [done, State.onEng, hruns, hmode, hproducer, Engine.qWaits, hwaits]

/-! ## A drafting job's cell (R313, R314, R353) -/

/-- The job after a cell of its source packet was read: the packet's bytes join its source with the last. -/
def Job.takesCell (x : Job) (c : Cell) (need : Nat) : Job :=
  if c.last then
    { x with inPacket := false, lineBuf := []
             draft := x.draft.map fun d => { d with src := (d.src ++ (x.lineBuf ++ c.data)).take need } }
  else { x with inPacket := true, lineBuf := x.lineBuf ++ c.data }

/-- The cell is taken from the Creel, and joins the job with a number. -/
def Engine.takesCell (e : Engine) (n : Sp) (id : Nat) (c : Cell) (need : Nat) (take : Creel → Creel) : Engine :=
  ((e.onCreel take).modSp n fun p => { p with srcRead := p.srcRead + c.data.length }).modJob n id fun y => y.takesCell c need

theorem Engine.job?_takesCell {e : Engine} {n : Sp} {j : Nat} {x : Job} (hjob : e.job? n j = some x) (c : Cell) (need : Nat)
    (take : Creel → Creel) : (e.takesCell n x.id c need take).job? n j = some (x.takesCell c need) := by
  have hjobs : ((e.takesCell n x.id c need take).sp n).jobs = (e.sp n).jobs.map fun y => if y.id = x.id then y.takesCell c need else y := by
    rw [Engine.takesCell, Engine.modJob, sp_modSp, sp_modSp]
    rfl
  rw [Engine.job?] at hjob ⊢
  rw [hjobs, List.getElem?_map, hjob, Option.map_some, if_pos rfl]

theorem exec_spindleCellRead {s : State} {n : Sp} {j : Nat} {x : Job} {d : Draft} {b : DraftBlk} {c : Cell} {row : CellEcc}
    (hlive : s.eng.live = true) (hjob : s.eng.job? n j = some x) (hacts : x.acts = true) (hd : x.draft = some d) (hb : x.desc.draft = some b)
    (hkind : x.desc.srcKind = 4) (hconsumer : (s.eng.conf.queue x.desc.srcQ).consumer = n.val)
    (hc : (s.eng.creel.q x.desc.srcQ).next? = some c) (hrow : s.eng.cellFound x.desc.srcQ row = .ok) (hpoison : c.poison = false)
    (hneed : d.src.length < d.n * srcBytes x.desc b) :
    exec (.spindleCellRead n j row) s =
      .next { s with eng := s.eng.takesCell n x.id c (d.n * srcBytes x.desc b) fun k => k.take s.eng.now x.desc.srcQ } := by
  have hwants : ¬ d.n * srcBytes x.desc b ≤ d.src.length := by omega
  change done (s.onEng _) = _
  simp only [done, State.onEng, Engine.withJob, hjob, hlive, hacts, Bool.and_self, if_true, hd, hc, hb, hkind, hconsumer, hrow, hpoison,
    hwants, decide_false, Bool.and_false, ne_eq, not_true_eq_false, Bool.false_eq_true, or_self, if_false, reduceCtorEq]
  rfl

/-- Settles O35: the Flyer's write, the word of a job alone at its queue, and the cell of a drafting job. -/
theorem flyerAndSpindlesUseTheirQueues : Obligations.FlyerAndSpindlesUseTheirQueues := by
  unfold Obligations.FlyerAndSpindlesUseTheirQueues
  intro s
  refine ⟨fun q bs c' hruns hmode hproducer hwaits hopen happ => ?flyer,
    fun n j x w ws c' hlive hjob hx hacts hwords hq hwaits hturn hothers hmode hproducer hopen hline happ => ?word,
    fun n j x d b c row hlive hjob hacts hd hb hkind hconsumer hc hrow hpoison hneed => ?cell⟩
  case flyer =>
    have hput (ends : Bool) : s.eng.flyerPut q bs ends =
        if ends then ({ s.eng with creel := c' } : Engine).qEnd q else { s.eng with creel := c' } := by
      simp only [Engine.flyerPut, Engine.qAppend_all hopen happ]
    refine ⟨?_, fun hdrop hmode3 hline hp => ?_⟩
    · rw [exec_flyerQueueWrite hruns hmode hproducer hwaits, hput, if_neg (by decide)]
    · obtain ⟨p, hp⟩ := Option.ne_none_iff_exists'.mp hp
      have hopen' := (Engine.qClosed_append happ).trans hopen
      rw [exec_flyerQueueWrite hruns hmode hproducer hwaits, hput, if_pos rfl, Engine.qEnd_packet hopen' hdrop hmode3,
        Engine.commitPkt_noLine (e := { s.eng with creel := c' }) hp hline]
  case word =>
    have hended : x.ended = none := by
      simp only [Job.acts, Bool.and_eq_true, Option.isNone_iff_eq_none] at hacts
      exact hacts.1.1.2
    have hexec := exec_spindleQueueWrite hlive hjob hacts hwords hq hwaits hturn hmode hproducer
    rw [Engine.jobPut_popWord hopen happ w.last hline] at hexec
    generalize (if w.last then (({ s.eng with creel := c' } : Engine).qEnd x.desc.outQ).creel else c') = c3 at hexec ⊢
    have htaken := Engine.jobId?_wordTaken hx c3
    have halone := Engine.Alone.wordTaken hothers x.id c3
    have hnext : (s.eng.wordTaken n x.id c3).afterWord n x.id = (s.eng.wordTaken n x.id c3).wordNext n (x.pops 64) :=
      Engine.afterWord_eq (x := x.pops 64) htaken hended hq halone
    obtain ⟨⟨y, hy, hsent, hsame⟩, -⟩ := Engine.wordNext_delivered (x := x.pops 64) htaken halone
    rw [hnext] at hexec
    refine ⟨_, y, hexec, rfl, hy, hsent, fun hcase => ?_, fun hgood => ?_⟩
    · refine Engine.ended_wordNext (x := x.pops 64) htaken hended
        (hcase.imp (fun ⟨hws, hall⟩ => ⟨?_, hall⟩) fun ⟨hform, hreads⟩ => ⟨hform, ?_⟩) hy
      · exact (congrArg (List.drop 1) hwords).trans hws
      · exact fun st hst => (hreads st hst).imp_right fun hplace off len => (Engine.placeFault_congr (by rfl) (by rfl) ..).trans (hplace off len)
    · obtain ⟨hbytes, hcreel, hknots, hspindles⟩ := hsame hgood
      exact ⟨hbytes, hcreel, hknots, fun m hm => (hspindles m hm).trans (Engine.sp_popWord_ne hm ..)⟩
  case cell =>
    have hread := Engine.job?_takesCell hjob c (d.n * srcBytes x.desc b) fun k => k.take s.eng.now x.desc.srcQ
    refine ⟨_, exec_spindleCellRead hlive hjob hacts hd hb hkind hconsumer hc hrow hpoison hneed, rfl, rfl, rfl,
      fun m hm => (Engine.sp_modSp_ne _ hm _).trans (Engine.sp_modSp_ne _ hm _), fun hmore => ?_, fun hlast => ?_⟩
    · exact ⟨_, hread, by simp [Job.takesCell, hmore], by simp [Job.takesCell, hmore]⟩
    · exact ⟨_, { d with src := (d.src ++ (x.lineBuf ++ c.data)).take (d.n * srcBytes x.desc b) }, hread, by simp [Job.takesCell, hlast],
        by simp [Job.takesCell, hlast, hd], rfl⟩

end Sys2Proof.Machine
end
